-- ==== Sys2Proof/Word.lean ====
section
/-! DEFINITION. The word types of the DX-9600 (R4, R5, R25) and nothing else. -/

namespace Sys2Proof

/-- A 32-bit register, instruction word or memory word (R25, R143). -/
abbrev Word := BitVec 32
/-- A 64-bit value: a register pair, a k register, a literal, a latch (R26, R42, R151). -/
abbrev DWord := BitVec 64
/-- One byte of any storage. -/
abbrev Byte := BitVec 8
/-- A 57-bit instruction address (R119). -/
abbrev Pc := BitVec 57
/-- A 9-bit cause code (R398). -/
abbrev Cause := BitVec 9
/-- One bit per lane of a warp (R133, R143, R158); lanes at or beyond the width stay 0. -/
abbrev LaneMask := BitVec 64

end Sys2Proof
end

