-- ==== Sys2Proof/Syntax.lean ====
section
/-! DEFINITION. The instructions of the part and its events, one constructor per row of spec/opcode_table.json. Instruction
fields keep the manual's layout (R30, R31, R36, R46); events carry what the outside world or the schedule supplies. -/

namespace Sys2Proof

/-- Fields of an R-form base word (R30). -/
structure RForm where
  lnd : Bool
  d : BitVec 7
  a : BitVec 7
  b : BitVec 7
  h : Bool
  nw : Bool
  deriving DecidableEq, Repr

/-- Fields of an I-form base word (R31), with its literal where LEN is 0b01 (an address field of LDG and STG, R27). -/
structure IForm where
  lnd : Bool
  d : BitVec 7
  a : BitVec 7
  imm : BitVec 8
  h : Bool
  lit : Option (BitVec 64)
  deriving DecidableEq, Repr

/-- The literal MOV (R42, R160): its A is the literal code and the literal follows. -/
structure LForm where
  lnd : Bool
  d : BitVec 7
  h : Bool
  nw : Bool
  lit : BitVec 64
  deriving DecidableEq, Repr

/-- Fields of an extended form (R36), with its literal where LEN is 0b11. -/
structure XForm where
  lnd : Bool
  d : BitVec 8
  h2 : BitVec 2
  nw : Bool
  ty : BitVec 4
  a : BitVec 8
  b : BitVec 8
  c : BitVec 8
  e : BitVec 8
  mod : BitVec 32
  lit : Option (BitVec 64)
  deriving DecidableEq, Repr

/-- Fields of the PFX word (R46). -/
structure PForm where
  mask : BitVec 3
  zm : Bool
  rnd : BitVec 3
  c : BitVec 8
  cv : Bool
  sat : Bool
  deriving DecidableEq, Repr

/-- A grid of a context, by its admission number (R499). -/
structure GridKey where
  ctx : Nat
  grid : Nat
  deriving DecidableEq, Repr

/-- A workgroup of a grid, by its linear logical id (R92). -/
structure WgKey where
  ctx : Nat
  grid : Nat
  wgid : Nat
  deriving DecidableEq, Repr

/-- Errors that a scrub, or the check of what is read, has found (R411, R414): corrected HBM addresses, the blocks of errors
corrected elsewhere (base dies 0 to 7, core n as 8 + n, others from 200 on), uncorrectable HBM granules by address, and L2 granules;
by workgroup bay granules, scratchpad words, tile elements (tile, element) and scale-memory words; by core and warp index registers
(64 n + lane for v, 12288 + n for s), queue storage (queue, group from the oldest, lane) and control state. -/
structure ScrubReport where
  corrected : List Nat
  elsewhere : List Nat
  granules : List Nat
  slices : List Nat
  bays : List (WgKey × Nat)
  scratch : List (WgKey × Nat)
  tiles : List (WgKey × Nat × Nat)
  scale : List (WgKey × Nat)
  regs : List (Nat × Nat × Nat)
  queues : List (Nat × Nat × Nat × Nat × Nat)
  control : List (Nat × Nat)
  deriving DecidableEq, Repr

/-- A link flit of 256 bytes with its framing (R441). -/
structure Flit where
  crc : BitVec 32
  seqno : BitVec 16
  poison : BitVec 8
  vln : BitVec 2
  stop : BitVec 4
  reserved : BitVec 66
  data : List (BitVec 8)
  deriving DecidableEq, Repr

/-- What arrives on a link (R441): a flit, or the other end's request for a resend from a sequence number. -/
inductive LinkInput where
  | flit (f : Flit)
  | resend (seqno : BitVec 16)
  deriving DecidableEq, Repr

/-- A Gallery packet of OP 0 to 6 (R443); poison lists the poisoned 32-byte granules of its data. -/
structure Packet where
  op : Nat
  gen : BitVec 16
  comm : Nat
  srcRank : Nat
  dstRank : Nat
  name : Nat
  bgen : BitVec 16
  seq : Nat
  ofs : Nat
  len : Nat
  sofs : Nat
  sname : Nat
  sv : Bool
  opr : Nat
  kind : Nat
  data : List (BitVec 8)
  poison : List Nat
  deriving DecidableEq, Repr

/-- A membership message, OP 7 (R476). -/
structure MemberMsg where
  sender : Nat
  subj : Nat
  inc : Nat
  evn : Nat
  comm : Nat
  rank : Nat
  conf1 : Nat
  conf2 : Nat
  deriving DecidableEq, Repr

/-- What every admin command carries (R493): the port of its doorbell, CID, RESP, DATA, and whether its reserved bytes are zero. -/
structure AdminHdr where
  port : Nat
  cid : BitVec 16
  resp : Nat
  data : Nat
  reservedZero : Bool
  deriving DecidableEq, Repr

/-- Parameters of QNEW (R494). -/
structure QueueParams where
  queue : Nat
  cls : Nat
  ctx : Nat
  k : Nat
  hostRing : Bool
  ring : Nat
  compl : Nat
  vector : Nat
  deriving DecidableEq, Repr

/-- An image buffer (R422): its key slot and the offset of its range in each of the eight stacks. -/
structure ImageBuffer where
  slot : Nat
  offsets : List Nat
  deriving DecidableEq, Repr

/-- Parameters and data of COMMNEW (R494). -/
structure CommParams where
  comm : Nat
  ctx : Nat
  nranks : Nat
  rank : Nat
  gen : BitVec 16
  evn : Nat
  table : List (BitVec 16)
  deriving DecidableEq, Repr

/-- A named-buffer descriptor (R445). -/
structure BufferDesc where
  reservedZero : Bool
  base : Nat
  length : Nat
  name : Nat
  comm : Nat
  bgen : BitVec 16
  s0 : Nat
  slog : Nat
  snap : Bool
  col : Bool
  raddp : Bool
  wr : Bool
  rd : Bool
  deriving DecidableEq, Repr

/-- One watched device with its other watchers (R470). -/
structure WatchEntry where
  dev : Nat
  others : List Nat
  deriving DecidableEq, Repr

/-- The data of PODCFG (R470, R494): routes holds, for each base die, 4,096 one-byte entries as (index, byte), absent ones not valid. -/
structure PodConfig where
  podnum : Nat
  inc : Nat
  podSize : Nat
  watch : List WatchEntry
  coords : List Nat
  routes : List (List (Nat × BitVec 8))
  deriving DecidableEq, Repr

/-- A firmware image as the boot ROM judges it (R505): both signature results and its security version. -/
structure FwImage where
  ed25519 : Bool
  mldsa : Bool
  secVersion : Nat
  build : Nat
  digest : List (BitVec 8)
  deriving DecidableEq, Repr

/-- Where a checkpoint goes (R508). -/
inductive CkptDest where
  | host (slot : Nat) (addr : Nat)
  | peer (comm : Nat) (name : Nat) (rank : Nat)
  deriving DecidableEq, Repr

/-- The rows of spec/opcode_table.json: instructions, then events (the first four of these stand out of the table's order). -/
inductive Instr where
  /-- NOP (R136): Does nothing, counts towards its flight, and ends the flight when LND is 1. -/
  | nop (lnd : Bool)
  /-- MOV (R160): Copies the 32 bits of A to the destination. -/
  | mov (f : RForm)
  /-- MOV_LITERAL (R42): Writes the 64-bit literal to the register pair D, D+1. -/
  | movLiteral (f : LForm)
  /-- MOVI (R161): Writes the sign-extended 8-bit immediate as a 32-bit value. -/
  | movi (f : IForm)
  /-- IADD (R208): Writes a + b, wrapped to 32 bits. -/
  | iadd (f : RForm)
  /-- IADDI (R210): Writes a plus the sign-extended immediate, wrapped to 32 bits. -/
  | iaddi (f : IForm)
  /-- ISUB (R208): Writes a − b, wrapped to 32 bits. -/
  | isub (f : RForm)
  /-- IMUL (R208): Writes the low 32 bits of a × b. -/
  | imul (f : RForm)
  /-- IMULHS (R208): Writes the high 32 bits of the signed product. -/
  | imulhs (f : RForm)
  /-- IMULHN (R208): Writes the high 32 bits of the unsigned product. -/
  | imulhn (f : RForm)
  /-- IMAD (R208): Writes a × b + D, wrapped to 32 bits. -/
  | imad (f : RForm)
  /-- IAND (R208): Writes a and b. -/
  | iand (f : RForm)
  /-- IOR (R208): Writes a or b. -/
  | ior (f : RForm)
  /-- IXOR (R208): Writes a xor b. -/
  | ixor (f : RForm)
  /-- IANDN (R208): Writes a and not b. -/
  | iandn (f : RForm)
  /-- ISHL (R208): Shifts a left by b; 0 when the count is 32 or more. -/
  | ishl (f : RForm)
  /-- ISHR (R208): Shifts a right logically by b. -/
  | ishr (f : RForm)
  /-- ISAR (R208): Shifts a right arithmetically by b. -/
  | isar (f : RForm)
  /-- ISHI (R211): Shifts or rotates a by an immediate amount of the selected kind. -/
  | ishi (f : IForm)
  /-- IMINS (R208): Writes the signed minimum. -/
  | imins (f : RForm)
  /-- IMAXS (R208): Writes the signed maximum. -/
  | imaxs (f : RForm)
  /-- IMINN (R208): Writes the unsigned minimum. -/
  | iminn (f : RForm)
  /-- IMAXN (R208): Writes the unsigned maximum. -/
  | imaxn (f : RForm)
  /-- ISEL (R209): Selects a or b per lane on a nonzero condition. -/
  | isel (f : RForm)
  /-- FADD (R231): Writes the rounded FP32 sum. -/
  | fadd (f : RForm)
  /-- FSUB (R231): Writes the rounded FP32 difference. -/
  | fsub (f : RForm)
  /-- FMUL (R231): Writes the rounded FP32 product. -/
  | fmul (f : RForm)
  /-- FFMA (R231): Writes a × b + D with one rounding. -/
  | ffma (f : RForm)
  /-- FMIN (R233): Writes the FP32 minimum. -/
  | fmin (f : RForm)
  /-- FMAX (R233): Writes the FP32 maximum. -/
  | fmax (f : RForm)
  /-- LDG (R187): Loads 32 bits from a global address. -/
  | ldg (f : IForm)
  /-- STG (R187): Stores 32 bits to a global address. -/
  | stg (f : IForm)
  /-- LDS (R187): Loads 32 bits from scratchpad. -/
  | lds (f : IForm)
  /-- STS (R187): Stores 32 bits to scratchpad. -/
  | sts (f : IForm)
  /-- BRA (R137): Branches the threads whose mask bit is 1 to a short target. -/
  | bra (lnd : Bool) (m : BitVec 3) (imm : BitVec 8)
  /-- BRA_LONG (R137): Branches the threads whose mask bit is 1 to a literal target. -/
  | braLong (lnd : Bool) (m : BitVec 3) (target : BitVec 55)
  /-- BRN (R137): Branches the threads whose mask bit is 0 to a short target. -/
  | brn (lnd : Bool) (m : BitVec 3) (imm : BitVec 8)
  /-- BRN_LONG (R137): Branches the threads whose mask bit is 0 to a literal target. -/
  | brnLong (lnd : Bool) (m : BitVec 3) (target : BitVec 55)
  /-- CALL (R138): Writes a link and jumps to a short target. -/
  | call (lnd : Bool) (d : BitVec 7) (imm : BitVec 8)
  /-- CALL_LONG (R138): Writes a link and jumps to a literal target. -/
  | callLong (lnd : Bool) (d : BitVec 7) (target : BitVec 55)
  /-- RET (R139): Sends each active thread to its 64-bit link target. -/
  | ret (lnd : Bool) (a : BitVec 7)
  /-- EXIT (R140): Ends the threads of the active set. -/
  | exit (lnd : Bool)
  /-- RDID (R162): Reads a logical identity that IMM8 selects. -/
  | rdid (f : IForm)
  /-- TFENCE (R404): Waits for earlier flags and raises the lowest enabled arithmetic cause. -/
  | tfence (lnd : Bool)
  /-- WSYNC (R141): Waits until the warp has one set at this address. -/
  | wsync (lnd : Bool)
  /-- PFX (R46): Prefixes the next instruction with mask, zeroing, rounding, saturation or a fourth operand. -/
  | pfx (p : PForm)
  /-- IADD64 (R214): Adds two 64-bit values. -/
  | iadd64 (f : XForm)
  /-- ISUB64 (R214): Subtracts two 64-bit values. -/
  | isub64 (f : XForm)
  /-- IMUL64 (R214): Writes the low 64 bits of a 64-bit product. -/
  | imul64 (f : XForm)
  /-- IMADW (R215): Widening multiply of two 32-bit values plus a 64-bit addend. -/
  | imadw (f : XForm)
  /-- IADDC (R216): Adds with carry in and writes the carry out. -/
  | iaddc (f : XForm)
  /-- IDIVS (R217): Signed division rounding toward zero. -/
  | idivs (f : XForm)
  /-- IDIVN (R217): Unsigned division. -/
  | idivn (f : XForm)
  /-- IREMS (R217): Signed remainder. -/
  | irems (f : XForm)
  /-- IREMN (R217): Unsigned remainder. -/
  | iremn (f : XForm)
  /-- IABS (R218): Writes the absolute value. -/
  | iabs (f : XForm)
  /-- INEG (R218): Writes the negation. -/
  | ineg (f : XForm)
  /-- ICLZ (R219): Counts leading zero bits. -/
  | iclz (f : XForm)
  /-- ICTZ (R219): Counts trailing zero bits. -/
  | ictz (f : XForm)
  /-- IPOPC (R219): Counts one bits. -/
  | ipopc (f : XForm)
  /-- IBREV (R219): Reverses the bit order. -/
  | ibrev (f : XForm)
  /-- IBFX (R220): Extracts a bit field. -/
  | ibfx (f : XForm)
  /-- IBFI (R220): Inserts a bit field. -/
  | ibfi (f : XForm)
  /-- IFSHL (R221): Funnel shift of two 32-bit values. -/
  | ifshl (f : XForm)
  /-- IPERM (R222): Builds result bytes from the bytes of two sources. -/
  | iperm (f : XForm)
  /-- IADDSAT (R223): Adds packed elements with saturation. -/
  | iaddsat (f : XForm)
  /-- ISUBSAT (R223): Subtracts packed elements with saturation. -/
  | isubsat (f : XForm)
  /-- IDOT4 (R224): Accumulates a four-way byte dot product. -/
  | idot4 (f : XForm)
  /-- ISHL64 (R225): Shifts a 64-bit value left. -/
  | ishl64 (f : XForm)
  /-- ISHR64 (R225): Shifts a 64-bit value right logically. -/
  | ishr64 (f : XForm)
  /-- ISAR64 (R225): Shifts a 64-bit value right arithmetically. -/
  | isar64 (f : XForm)
  /-- ISEL64 (R225): Selects one of two 64-bit values on a condition. -/
  | isel64 (f : XForm)
  /-- FADD_EXT (R235): Extended float addition, per half for packed types. -/
  | faddExt (f : XForm)
  /-- FSUB_EXT (R235): Extended float subtraction. -/
  | fsubExt (f : XForm)
  /-- FMUL_EXT (R235): Extended float multiplication. -/
  | fmulExt (f : XForm)
  /-- FFMA4 (R235): Fused a × b + c with one rounding. -/
  | ffma4 (f : XForm)
  /-- FMIN_EXT (R233): Extended float minimum. -/
  | fminExt (f : XForm)
  /-- FMAX_EXT (R233): Extended float maximum. -/
  | fmaxExt (f : XForm)
  /-- FMINM (R233): Minimum that propagates NaN. -/
  | fminm (f : XForm)
  /-- FMAXM (R233): Maximum that propagates NaN. -/
  | fmaxm (f : XForm)
  /-- FABS (R236): Clears the sign bit. -/
  | fabs (f : XForm)
  /-- FNEG (R236): Inverts the sign bit. -/
  | fneg (f : XForm)
  /-- FCOPYS (R236): Copies B's sign onto A. -/
  | fcopys (f : XForm)
  /-- FCLASS (R237): Writes a class mask of each element. -/
  | fclass (f : XForm)
  /-- FSCALE (R238): Multiplies by a power of two. -/
  | fscale (f : XForm)
  /-- FRINT (R239): Rounds to an integral value. -/
  | frint (f : XForm)
  /-- FFRAC (R239): Writes the fractional part. -/
  | ffrac (f : XForm)
  /-- FDIV (R240): Correctly rounded division. -/
  | fdiv (f : XForm)
  /-- FSQRT (R240): Correctly rounded square root. -/
  | fsqrt (f : XForm)
  /-- FRCPA (R241): Approximate reciprocal. -/
  | frcpa (f : XForm)
  /-- FRSQA (R241): Approximate reciprocal square root. -/
  | frsqa (f : XForm)
  /-- FEXP2A (R241): Approximate 2^x. -/
  | fexp2a (f : XForm)
  /-- FLOG2A (R241): Approximate log2 x. -/
  | flog2a (f : XForm)
  /-- FSINA (R241): Approximate sine. -/
  | fsina (f : XForm)
  /-- FCOSA (R241): Approximate cosine. -/
  | fcosa (f : XForm)
  /-- FTANHA (R241): Approximate tanh. -/
  | ftanha (f : XForm)
  /-- FSIGMA (R241): Approximate logistic sigmoid. -/
  | fsigma (f : XForm)
  /-- FDOT2 (R242): Two-term packed dot product plus FP32 addend. -/
  | fdot2 (f : XForm)
  /-- EXPR (R243): Evaluates a postfix token program over up to five inputs. -/
  | expr (f : XForm)
  /-- CVT (R246): Converts N elements per lane between formats through slots. -/
  | cvt (f : XForm)
  /-- CVTFI (R247): Converts floats to saturated integers. -/
  | cvtfi (f : XForm)
  /-- CVTIF (R247): Converts integers to floats. -/
  | cvtif (f : XForm)
  /-- PACK (R248): Converts two FP32 values and packs them into D. -/
  | pack (f : XForm)
  /-- UNPACK (R249): Expands one packed element to FP32. -/
  | unpack (f : XForm)
  /-- RAND (R250): Writes rand_arx of a key and counter. -/
  | rand (f : XForm)
  /-- ICMP (R251): Integer compare into a mask register. -/
  | icmp (f : XForm)
  /-- FCMP (R251): Float compare into a mask register. -/
  | fcmp (f : XForm)
  /-- MAND (R252): Mask and. -/
  | mand (f : XForm)
  /-- MOR (R252): Mask or. -/
  | mor (f : XForm)
  /-- MXOR (R252): Mask xor. -/
  | mxor (f : XForm)
  /-- MANDN (R252): Mask and-not. -/
  | mandn (f : XForm)
  /-- MTOR (R158): Copies a mask register into a 64-bit bitmap. -/
  | mtor (f : XForm)
  /-- RTOM (R159): Writes a mask register from a register. -/
  | rtom (f : XForm)
  /-- MPOPC (R252): Counts mask lanes set within the execution mask. -/
  | mpopc (f : XForm)
  /-- SELM (R252): Selects per lane by a mask register. -/
  | selm (f : XForm)
  /-- SHFL (R254): Indexed shuffle within segments. -/
  | shfl (f : XForm)
  /-- SHFLUP (R254): Shuffle up by a distance. -/
  | shflup (f : XForm)
  /-- SHFLDN (R254): Shuffle down by a distance. -/
  | shfldn (f : XForm)
  /-- SHFLX (R254): Butterfly shuffle by xor. -/
  | shflx (f : XForm)
  /-- BCAST (R255): Broadcasts one lane's value. -/
  | bcast (f : XForm)
  /-- VOTE (R256): Writes all, any or uniform of the lane predicates. -/
  | vote (f : XForm)
  /-- BALLOT (R256): Writes a bitmap of lane predicates. -/
  | ballot (f : XForm)
  /-- REDUX (R257): Reduces lane values by a fixed tree. -/
  | redux (f : XForm)
  /-- SCAN (R257): Inclusive prefix over lanes by a fixed tree. -/
  | scan (f : XForm)
  /-- MATCH (R258): Writes the bitmap of lanes holding an equal value. -/
  | matchLanes (f : XForm)
  /-- XSET (R154): Sets or steps an index register's value. -/
  | xset (f : XForm)
  /-- XWIN (R155): Sets an index window and resets the value. -/
  | xwin (f : XForm)
  /-- LDGW (R189): Typed global load with cache hint. -/
  | ldgw (f : XForm)
  /-- STGW (R189): Typed global store with cache hint. -/
  | stgw (f : XForm)
  /-- LDSW (R189): Typed scratchpad load. -/
  | ldsw (f : XForm)
  /-- STSW (R189): Typed scratchpad store. -/
  | stsw (f : XForm)
  /-- LDL (R177): Loads from a gang member's scratchpad through a layer window. -/
  | ldl (f : XForm)
  /-- STL (R177): Stores to a gang member's scratchpad through a layer window. -/
  | stl (f : XForm)
  /-- LDK (R191): Reads a read-only table of the grid. -/
  | ldk (f : XForm)
  /-- ATOMG (R194): Global integer atomic at the home slice. -/
  | atomg (f : XForm)
  /-- CASG (R195): Global compare-and-swap. -/
  | casg (f : XForm)
  /-- FATOMG (R196): Global float atomic. -/
  | fatomg (f : XForm)
  /-- ATOMS (R194): Scratchpad atomic, optionally through a window. -/
  | atoms (f : XForm)
  /-- CASS (R195): Scratchpad compare-and-swap. -/
  | cass (f : XForm)
  /-- NMA (R370): Sends near-memory atomic operations on the NM path. -/
  | nma (f : XForm)
  /-- NMDRAIN (R374): Waits until the warp's earlier NMAs are performed. -/
  | nmdrain (f : XForm)
  /-- QCFG (R199): Binds a queue register to a stream from a descriptor. -/
  | qcfg (f : XForm)
  /-- QDRAIN (R201): Waits for a stream to drain and releases its binding. -/
  | qdrain (f : XForm)
  /-- PREF (R202): Prefetches lines into L1 or L2. -/
  | pref (f : XForm)
  /-- LOCKL (R375): Pins lines in their home slices and writes a status. -/
  | lockl (f : XForm)
  /-- UNLOCKL (R375): Releases line pins and writes a status. -/
  | unlockl (f : XForm)
  /-- FLUSHL (R378): Drops or writes back lines by kind. -/
  | flushl (f : XForm)
  /-- WATCH (R379): Arms or disarms a watch slot on a word. -/
  | watch (f : XForm)
  /-- PARK (R381): Waits until an armed watch slot has fired. -/
  | park (f : XForm)
  /-- KICK (R295): Checks and queues a batch of request records for a copy engine class. -/
  | kick (f : XForm)
  /-- INFLT (R299): Reads the warp's queued and in-flight records or bytes. -/
  | inflt (f : XForm)
  /-- DRAIN (R300): Waits until the warp has no records or store groups outstanding. -/
  | drain (f : XForm)
  /-- BINIT (R305): Initialises a barrier object as live. -/
  | binit (f : XForm)
  /-- BARR (R306): Arrives on a barrier object, optionally with expected bytes. -/
  | barr (f : XForm)
  /-- BARRD (R306): Arrives and lowers the object's expected arrivals. -/
  | barrd (f : XForm)
  /-- BEXP (R307): Adds expected bytes to a barrier phase. -/
  | bexp (f : XForm)
  /-- BWAIT (R308): Waits until the phase of given parity is complete. -/
  | bwait (f : XForm)
  /-- BTEST (R308): Tests a barrier phase without waiting. -/
  | btest (f : XForm)
  /-- BINV (R309): Invalidates a barrier object. -/
  | binv (f : XForm)
  /-- TKTAKE (R313): Waits for a ticket counter to reach a value. -/
  | tktake (f : XForm)
  /-- TKPASS (R314): Passes a held ticket after a release. -/
  | tkpass (f : XForm)
  /-- DEPWAIT (R316): Waits for the needed producers' done bits. -/
  | depwait (f : XForm)
  /-- DEPDONE (R315): Requests the workgroup's done mark. -/
  | depdone (f : XForm)
  /-- MMA (R329): Quarter passes accumulating register A against a bay tile. -/
  | mma (f : XForm)
  /-- MMAZ (R334): Quarter passes from +0 with register A. -/
  | mmaz (f : XForm)
  /-- MMAS (R334): Quarter passes with A from scratchpad. -/
  | mmas (f : XForm)
  /-- MMAT (R339): Team pass with A from the leader's scratchpad. -/
  | mmat (f : XForm)
  /-- SCLD (R343): Copies scratchpad bytes into scale memory. -/
  | scld (f : XForm)
  /-- ACCZ (R344): Zeroes tiles and resets their hallmark state. -/
  | accz (f : XForm)
  /-- ACCLD (R345): Loads tile bands from scratchpad. -/
  | accld (f : XForm)
  /-- ACCST (R346): Converts and stores tile bands to scratchpad. -/
  | accst (f : XForm)
  /-- MCOOP (R338): Joins or leaves a matrix team. -/
  | mcoop (f : XForm)
  /-- MCHK (R352): Checks a tile against its hallmark state. -/
  | mchk (f : XForm)
  /-- TBSET (R355): Sets a tensor bound register. -/
  | tbset (f : XForm)
  /-- TBGET (R356): Reads a field of a tensor bound register. -/
  | tbget (f : XForm)
  /-- MWAIT (R357): Waits for the warp's earlier matrix-queue entries. -/
  | mwait (f : XForm)
  /-- FENCE (R271): Orders the warp's accesses on named paths at a scope. -/
  | fence (f : XForm)
  /-- TRAP (R419): Raises a software cause. -/
  | trap (f : XForm)
  /-- RDSR (R168): Reads a status register. -/
  | rdsr (f : XForm)
  /-- WRSR (R169): Writes, ORs or clears bits of a status register. -/
  | wrsr (f : XForm)
  /-- CROPEN (R409): Opens a containment region. -/
  | cropen (f : XForm)
  /-- CRCLOSE (R410): Closes the innermost containment region. -/
  | crclose (f : XForm)
  /-- LIVE (R429): Replaces the warp's liveness record. -/
  | live (f : XForm)
  /-- TOKWAIT (R281): Waits for the commit-token turn or for a phase. -/
  | tokwait (f : XForm)
  /-- TOKPASS (R281): Ends the workgroup's turn of the commit token. -/
  | tokpass (f : XForm)
  /-- PHASE (R281): Advances the warp's phase count. -/
  | phase (f : XForm)
  /-- PUTS (R463): Starts a one-sided write into a remote named buffer. -/
  | puts (f : XForm)
  /-- GET (R464): Starts a one-sided read from a remote named buffer. -/
  | get (f : XForm)
  /-- RADD (R465): Starts a one-sided remote combine. -/
  | radd (f : XForm)
  /-- COLL (R454): Starts a collective on a named buffer range. -/
  | coll (f : XForm)
  /-- GENRD (R466): Reads a communicator value. -/
  | genrd (f : XForm)
  /-- BRK (R420): Breakpoint that holds the warp when debug is enabled. -/
  | brk (f : XForm)
  /-- GRID_COMPLETION (R500): A grid's completion is written to its queue's completion ring. -/
  | gridCompletion (grid : GridKey)
  /-- LONG_COMMAND_COMPLETE (R495): A long admin command's work ends and its second response is written. -/
  | longCommandComplete (id : Nat)
  /-- COLLECTIVE_COMPLETE (R450): A Gallery operation counts its bytes down on its completion object. -/
  | collectiveComplete (id : Nat)
  /-- UNASSIGNED_INSTRUCTION (R51): A word or word pair that is not an assigned instruction reaches issue and raises one cause. -/
  | unassignedInstruction (cause : BitVec 9)
  /-- FLIGHT_START (R129): A free issue slot gives the next flight to one ready warp. -/
  | flightStart (core : Nat) (slot : Nat)
  /-- WAIT_CONDITION_HOLDS (R120): A blocked set's condition holds and the set becomes eligible. -/
  | waitConditionHolds (core : Nat) (warp : Nat) (pc : BitVec 57)
  /-- RESULT_WRITEBACK (R148): A result arrives in its register after its latency. -/
  | resultWriteback (core : Nat) (warp : Nat)
  /-- LOAD_RETURN (R149): Returning load data is written to its destination. -/
  | loadReturn (id : Nat)
  /-- ACCESS_PERFORMED (R263): A memory access reaches its ordering point and is performed. -/
  | accessPerformed (id : Nat)
  /-- WALK_COMPLETE (R388): A translation walk finishes and checks its entries and permissions. -/
  | walkComplete (id : Nat)
  /-- LAUNCH_ENTRY_TAKEN (R499): The Newel takes the head entry of a launch queue and admits its grid. -/
  | launchEntryTaken (queue : Nat) (hostEntry : List (BitVec 8))
  /-- RETIREMENT (R100): A workgroup retires and returns its resources. -/
  | retirement (wg : WgKey)
  /-- DONE_MARK (R315): The done bit is set once every warp issued DEPDONE and its accesses are performed. -/
  | doneMark (wg : WgKey)
  /-- TICKET_ADVANCE (R314): A ticket counter advances after TKPASS's release. -/
  | ticketAdvance (grid : GridKey) (t : Nat)
  /-- TOKEN_LEAVES (R276): The commit token leaves a workgroup once its turn's operations are performed. -/
  | tokenLeaves (grid : GridKey)
  /-- RECORD_ADMISSION (R296): The request engine admits a queued record when byte limits allow. -/
  | recordAdmission (core : Nat)
  /-- CHUNK_ISSUE (R287): A copy engine takes its turn and moves one chunk. -/
  | chunkIssue (chiplet : Nat) (engine : Nat)
  /-- CHUNK_PERFORMED (R297): A chunk's bytes are performed and counted down on its barrier. -/
  | chunkPerformed (id : Nat)
  /-- QS_TURN (R288): The QS engine serves one group of a bound stream. -/
  | qsTurn (core : Nat) (warp : Nat) (q : Nat)
  /-- GROUP_ARRIVAL (R288): A load-stream group arrives in queue storage. -/
  | groupArrival (core : Nat) (warp : Nat) (q : Nat)
  /-- STORE_GROUP_WRITTEN (R201): A pushed store-stream group is performed at the L2 slices. -/
  | storeGroupWritten (id : Nat)
  /-- MATRIX_PASS_START (R331): A pass starts when its window closes and the entry before completes. -/
  | matrixPassStart (core : Nat)
  /-- MATRIX_PASS_COMPLETE (R331): A pass completes and its tile writes and hallmark updates are done. -/
  | matrixPassComplete (core : Nat)
  /-- MATRIX_ENTRY_START (R331): An SCLD, ACCZ, ACCLD or ACCST entry starts. -/
  | matrixEntryStart (core : Nat)
  /-- MATRIX_ENTRY_COMPLETE (R360): An SCLD, ACCZ, ACCLD or ACCST entry completes. -/
  | matrixEntryComplete (core : Nat)
  /-- NMA_AT_HOME_SLICE (R371): A near-memory atomic reaches its home slice and is forwarded or performed. -/
  | nmaAtHomeSlice (id : Nat)
  /-- NMA_ACKNOWLEDGEMENT (R371): The base die acknowledges an NMA and it is performed. -/
  | nmaAcknowledgement (id : Nat)
  /-- SCRUB (R414): Periodic scrub of HBM, L2 and bay granules. -/
  | scrub (found : ScrubReport)
  /-- CONTAINMENT_COMPARE (R417): The Newel compares both copies of the containment machinery every 100 ms. -/
  | containmentCompare (uncorrectable : Bool)
  /-- WORKGROUP_SAVED (R425): A stopped, drained workgroup is written into the image. -/
  | workgroupSaved (wg : WgKey)
  /-- FLIT_RECEIVE (R441): A port receives a flit and checks its CRC and sequence. -/
  | flitReceive (port : Nat) (input : LinkInput)
  /-- PORT_DOWN (R475): A port fails 16 resends and its fabric engine reroutes and aborts lost operations. -/
  | portDown (port : Nat)
  /-- COLLECTIVE_DATA (R454): A collective data packet is received and reduced or written. -/
  | collectiveData (p : Packet)
  /-- PUTS_PACKET (R463): PUTS data is written at the target and counted down on a signal. -/
  | putsPacket (p : Packet)
  /-- GET_REQUEST (R464): A GET request is served from the target's home slices. -/
  | getRequest (p : Packet)
  /-- GET_DATA (R464): GET data is written locally and counted down. -/
  | getData (p : Packet)
  /-- RADD_PACKET (R465): RADD elements are combined at the target's home slices. -/
  | raddPacket (p : Packet)
  /-- ACKNOWLEDGEMENT (R463): A target's acknowledgement completes a one-sided operation locally. -/
  | acknowledgement (p : Packet)
  /-- REFUSAL (R453): A refusal aborts the operation it names. -/
  | refusal (p : Packet)
  /-- HEARTBEAT (R471): A heartbeat from a watched device resets its miss count. -/
  | heartbeat (msg : MemberMsg)
  /-- SUSPECT (R472): A watcher receives a SUSPECT and answers CONFIRM or DENY. -/
  | suspect (msg : MemberMsg)
  /-- CONFIRM (R472): A suspecting watcher receives a CONFIRM. -/
  | confirm (msg : MemberMsg)
  /-- DENY (R472): A DENY ends a suspicion. -/
  | deny (msg : MemberMsg)
  /-- EXPEL_REQUEST (R473): The coordinator numbers and floods an expel event. -/
  | expelRequest (msg : MemberMsg)
  /-- EVENT_EXPEL (R478): An expel event raises GEN and vacates the device's ranks. -/
  | eventExpel (msg : MemberMsg)
  /-- EVENT_DEPARTURE (R478): A departure event raises GEN and vacates the device's ranks. -/
  | eventDeparture (msg : MemberMsg)
  /-- EVENT_JOIN (R478): A join event fills a vacant rank in the pending table. -/
  | eventJoin (msg : MemberMsg)
  /-- EVENT_RESEND_REQUEST (R473): A device asks a sender for a missing event. -/
  | eventResendRequest (msg : MemberMsg)
  /-- HEARTBEAT_INTERVAL (R471): Every 100 µs the device sends heartbeats to its watchers. -/
  | heartbeatInterval
  /-- HEARTBEAT_MISS (R471): 110 µs without a heartbeat counts a miss; the third starts a suspicion. -/
  | heartbeatMiss (dev : Nat)
  /-- SUSPICION_TIMEOUT (R472): A suspicion without two CONFIRMs in 200 µs ends. -/
  | suspicionTimeout (dev : Nat)
  /-- EXPEL_REQUEST_REPEAT (R472): An expel request unanswered for 500 µs is sent again. -/
  | expelRequestRepeat (dev : Nat)
  /-- COORDINATOR_DELAY (R473): A new coordinator begins numbering 300 µs after its predecessor's expel. -/
  | coordinatorDelay
  /-- HELD_PACKET_TIMEOUT (R480): A packet held for a newer GEN is dropped after 2 ms. -/
  | heldPacketTimeout (index : Nat)
  /-- JOIN_STRIPE (R487): The join engine finishes a stripe copy or retries it from another source. -/
  | joinStripe (id : Nat) (reply : Option (BitVec 16 × List (BitVec 8) × List Nat))
  /-- CTXNEW (R494): Creates a context record. -/
  | ctxnew (h : AdminHdr) (ctx : Nat) (troot : Nat) (podSize : Nat) (dbg : Bool)
  /-- CTXDEL (R494): Deletes an idle context. -/
  | ctxdel (h : AdminHdr) (ctx : Nat)
  /-- PARTBUILD (R494): Builds and numbers a context's partition. -/
  | partbuild (h : AdminHdr) (ctx : Nat) (cores : BitVec 192)
  /-- SHRINK (R438): Removes cores from a partition. -/
  | shrink (h : AdminHdr) (ctx : Nat) (cores : BitVec 192)
  /-- DEBUG (R420): Sets a context's debug enable. -/
  | debugEnable (h : AdminHdr) (ctx : Nat) (enable : Bool)
  /-- KEYXCH (R496): Returns a fresh signed ML-KEM encapsulation key. -/
  | keyxch (h : AdminHdr)
  /-- KEYBIND (R496): Unwraps and binds a key to a slot. -/
  | keybind (h : AdminHdr) (slot : Nat) (owners : BitVec 64) (buffer : List (BitVec 8))
  /-- KEYUNBIND (R396): Unbinds a key slot. -/
  | keyunbind (h : AdminHdr) (slot : Nat)
  /-- SHOOT (R390): Shoots down a context's cached translations for a range. -/
  | shoot (h : AdminHdr) (ctx : Nat) (base : Nat) (bytes : Nat)
  /-- FAULTANS (R391): Resolves or rejects a held fault. -/
  | faultans (h : AdminHdr) (ctx : Nat) (wgid : Nat) (warp : Nat) (reject : Bool) (copy : Bool) (gridno : Nat)
  /-- BRKANS (R420): Resumes a warp held at BRK. -/
  | brkans (h : AdminHdr) (ctx : Nat) (wgid : Nat) (warp : Nat) (gridno : Nat)
  /-- QNEW (R498): Creates a launch queue. -/
  | qnew (h : AdminHdr) (q : QueueParams)
  /-- QDEL (R494): Deletes a launch queue. -/
  | qdel (h : AdminHdr) (queue : Nat)
  /-- SWOUT (R422): Requests a switch-out into an image buffer. -/
  | swout (h : AdminHdr) (ctx : Nat) (buf : ImageBuffer)
  /-- RESTORE (R434): Restores a context from an image. -/
  | restore (h : AdminHdr) (ctx : Nat) (buf : ImageBuffer)
  /-- KILL (R437): Kills a context. -/
  | kill (h : AdminHdr) (ctx : Nat)
  /-- COMMNEW (R444): Creates a communicator record. -/
  | commnew (h : AdminHdr) (c : CommParams)
  /-- COMMDEL (R494): Deregisters a communicator's names and deletes it. -/
  | commdel (h : AdminHdr) (comm : Nat)
  /-- REG (R445): Registers a named buffer. -/
  | reg (h : AdminHdr) (ctx : Nat) (d : BufferDesc)
  /-- DEREG (R446): Deregisters a named buffer. -/
  | dereg (h : AdminHdr) (comm : Nat) (name : Nat)
  /-- VIEWNEW (R483): Creates a snapshot view. -/
  | viewnew (h : AdminHdr) (comm : Nat) (source : Nat) (view : Nat) (poolBase : Nat) (poolBytes : Nat)
  /-- VIEWDEL (R485): Deletes a snapshot view. -/
  | viewdel (h : AdminHdr) (comm : Nat) (view : Nat)
  /-- JOIN (R486): Starts a spare's clone and join at a rank. -/
  | join (h : AdminHdr) (comm : Nat) (rank : Nat) (list : Nat) (entries : Nat)
  /-- PODCFG (R470): Loads pod number, incarnation, watch list, coordinators and routes. -/
  | podcfg (h : AdminHdr) (cfg : PodConfig)
  /-- DISCREAD (R494): Returns a context's scope discovery table. -/
  | discread (h : AdminHdr) (ctx : Nat)
  /-- RESYNC (R504): Writes the re-synchronising summary. -/
  | resync (h : AdminHdr)
  /-- ATTEST (R507): Returns a signed attestation report. -/
  | attest (h : AdminHdr) (nonce : List (BitVec 8))
  /-- FWLOAD (R505): Loads a signed firmware image. -/
  | fwload (h : AdminHdr) (image : FwImage)
  /-- CKPT (R508): Checkpoints a context's pages to host memory or a peer. -/
  | ckpt (h : AdminHdr) (ctx : Nat) (dest : CkptDest)
  /-- SNAPCFG (R503): Sets the snapshot trigger cause or re-arms the latched set. -/
  | snapcfg (h : AdminHdr) (cause : BitVec 9) (rearm : Bool)
  /-- EVRING (R497): Creates the port's event ring. -/
  | evring (h : AdminHdr) (k : Nat) (base : Nat) (vector : Nat)
  /-- ADMIN_RESERVED (R494): A reserved ACMD is answered with ASTAT 0x0001. -/
  | adminReserved (h : AdminHdr) (acmd : BitVec 8)
  /-- QDB (R492): A write of a launch queue's tail index. -/
  | qdb (port : Nat) (queue : Nat) (index : Nat)
  /-- TRIG (R503): A snapshot trigger latches every block's snapshot registers. -/
  | trig (port : Nat)
  /-- EVHEAD (R497): Host software returns event records by writing the ring head. -/
  | evhead (port : Nat) (index : Nat)
  /-- REGISTER_WRITE (R492): A write to a register field without behaviour of its own is ignored. -/
  | registerWrite (port : Nat) (offset : Nat) (value : BitVec 64)
  /-- POWER_GOOD (R509): Power-good starts bring-up, ending with READY. -/
  | powerGood (verified : Option FwImage)
  /-- RESET (R418): Reset ends quarantine and restarts the device. -/
  | resetDevice
  /-- THERMAL_TRIP (R510): The thermal trip stops issue and enters quarantine. -/
  | thermalTrip
  /-- PCIE_PORT_DOWN (R491): A PCI Express port goes down and ends its queues. -/
  | pciePortDown (port : Nat)
  /-- JOIN_REQUEST_AT_COORDINATOR (R489): The active coordinator receives a spare's join request and numbers and floods the join event. -/
  | joinRequestAtCoordinator (msg : MemberMsg)
  /-- DEPARTURE_REQUEST (R479): The coordinator receives a quarantined device's departure request and numbers it without confirmation. -/
  | departureRequest (msg : MemberMsg)
  /-- PCIE_LINK_UP (R491): A PCI Express port completes link training and the OTHER bit of the other port changes. -/
  | pcieLinkUp (port : Nat)
  /-- GALLERY_PORT_TRAINED (R475): A Gallery port that was down is trained again and returns to service. -/
  | galleryPortTrained (port : Nat)
  /-- PRECISION_TIME_MEASUREMENT (R502): A Precision Time Measurement exchange from a host disciplines the Newel's IEEE 1588 time. -/
  | precisionTimeMeasurement (port : Nat) (time : Nat)
  deriving DecidableEq, Repr

end Sys2Proof
end

