-- ==== Sys2Proof/Decode.lean ====
section
/-! DEFINITION. Reading and writing instruction words (R25 to R52): the fields of each shape, what each instruction's fields
mean, the encoding checks in the order of R51, the decoder and the encoder. -/

namespace Sys2Proof

/-! ### Operand codes (R41) -/

/-- ext_code(c): the extended code of a base code (R41). -/
def extCode (c : BitVec 7) : BitVec 8 :=
  let n := c.toNat
  BitVec.ofNat 8 <|
    if n < 64 then n else if n < 115 then n + 128 else if n = 115 then 253
    else if n < 126 then n + 127 else if n = 126 then 254 else 255

/-- The class of an operand code (R41). -/
inductive Cls where
  | v (n : Nat)
  | s (n : Nat)
  | k (n : Nat)
  | l (n : Nat)
  | q (n : Nat)
  | x (n : Nat)
  | zero
  | lid
  | lit
  | bad
  deriving DecidableEq, Repr

/-- The operand that an extended code names (R41). -/
def clsOf (c : BitVec 8) : Cls :=
  let n := c.toNat
  if n < 192 then .v n else if n < 224 then .s (n - 192) else if n < 240 then .k (n - 224)
  else if n < 243 then .l (n - 240) else if n < 247 then .q (n - 243) else if n < 251 then .x (n - 247)
  else if n = 251 then .zero else if n = 252 then .lid else if n = 255 then .lit else .bad

/-! ### What the fields of an instruction mean -/

/-- Destination classes that an instruction takes; the others raise 0x024 (R41, R170 step 1; log 10). -/
inductive DstSet where
  /-- v, v[x], s, q, zero (R41) -/
  | any
  /-- v, v[x], s, zero -/
  | vxsz
  /-- v, s, zero: a description that closes its list (CALL, MTOR, RDSR, literal MOV, 64-bit EXT.INT results, status results) -/
  | vsz
  /-- v, v[x], q, zero: an instruction that executes as a vector and excludes s (SELM) -/
  | vxqz
  /-- v, v[x]: "takes only a v destination" -/
  | vx
  /-- s, zero (CROPEN) -/
  | sz
  deriving DecidableEq, Repr

/-- Source classes that an instruction takes. -/
inductive SrcSet where
  /-- every class of R41, by the execution class (R44) -/
  | any
  /-- s, k, zero or a scalar latch; another class raises 0x020 -/
  | scl
  /-- s, k or zero, and a literal where the role allows it; another class raises 0x020 -/
  | skz
  /-- v, s, k or zero; another class raises 0x024 (RET, R139) -/
  | ret
  /-- v, v[x], s, k, zero or a latch; another class raises 0x024 (RTOM, R159) -/
  | rtom
  /-- read across lanes, any class, R44 not applied (R253); a queue is none that a scalar execution may read (R157; log 59) -/
  | lanes
  deriving DecidableEq, Repr

/-- What one of the fields D, A, B, C, E holds (R36, R40). -/
inductive Role where
  /-- not read: reserved -/
  | none
  /-- a number in the low bits (R40) -/
  | num (bits : Nat)
  /-- a destination of so many bits; rd: also read as a source -/
  | dst (w : Nat) (cl : DstSet) (rd : Bool)
  /-- a source of so many bits; lit: the literal is legal (R27) -/
  | src (w : Nat) (cl : SrcSet) (lit : Bool)
  deriving DecidableEq, Repr

/-- How an instruction executes (R43). -/
inductive ExecClass where
  /-- by the class of its destination (R43) -/
  | byDst
  /-- always as a vector instruction -/
  | vector
  /-- always as a scalar -/
  | scalar
  /-- as its description says: once for the warp or per lane, outside R43 and R44 -/
  | own
  deriving DecidableEq, Repr

/-- The PFX fields an instruction accepts beside MASK and ZM = 0 (R49, R206, R229); maxRnd is the largest RND. -/
structure PfxOk where
  maxRnd : Nat
  sat : Bool
  cv : Bool
  deriving DecidableEq, Repr

/-- The fields of an instruction, resolved for the values that other fields hold. -/
structure Shape where
  d : Role := .none
  a : Role := .none
  b : Role := .none
  c : Role := .none
  e : Role := .none
  /-- the TY value is accepted (order 6 of R51) -/
  tyOk : Bool := true
  /-- reserved TY bits are zero (order 7) -/
  tyZero : Bool := true
  /-- assigned bits of MOD, or of IMM8 -/
  mods : BitVec 32 := 0
  /-- no reserved value in MOD or a number field (order 6) -/
  valOk : Bool := true
  /-- other reserved bits are zero (order 7) -/
  restOk : Bool := true
  /-- the hold bits that name a source it reads (R36) -/
  hold : BitVec 2 := 0
  /-- NW is available -/
  nw : Bool := false
  /-- the literal is its target (R26) -/
  target : Bool := false
  /-- what a PFX may say, where one may bind (R48) -/
  pfx : Option PfxOk := Option.none
  exec : ExecClass := .own
  /-- a field read across lanes is read in one lane only (BCAST, R255) -/
  oneLane : Bool := false
  /-- the destination is excluded for another reason than its class: m0, a per-lane identity with s (0x024, R170 step 1) -/
  dstBad : Bool := false

/-- Hold bits of readable A and B fields. -/
def holdAB (a b : Role) : BitVec 2 :=
  (match a with | .src _ _ _ => 1 | _ => 0) ||| (match b with | .src _ _ _ => 2 | _ => 0)

/-- A 32-bit or other source of any class. -/
def srcR (w : Nat) : Role := .src w .any false
/-- A destination of any class. -/
def dstR (w : Nat) : Role := .dst w .any false

/-- A field of MOD: bits [hi:lo]. -/
def XForm.fld (f : XForm) (hi lo : Nat) : Nat := (f.mod.extractLsb' lo (hi - lo + 1)).toNat
/-- A bit of MOD. -/
def XForm.bit (f : XForm) (n : Nat) : Bool := f.mod.getLsbD n
/-- MOD bits [hi:lo] as a mask of assigned bits. -/
def bitsOf (hi lo : Nat) : BitVec 32 := BitVec.ofNat 32 (2 ^ (hi + 1) - 2 ^ lo)

/-- The accepted PFX fields of the integer group unless the description adds one (R206). -/
def pfxInt : Option PfxOk := some ⟨0, false, false⟩

/-- A register instruction by the class of its destination: H2 by its sources, NW available. -/
def regShape (d a b c : Role) (p : Option PfxOk) : Shape :=
  { d := d, a := a, b := b, c := c, hold := holdAB a b, nw := true, pfx := p, exec := .byDst }

/-! ### The base words (R33) -/

/-- Layout "dab" (R32). -/
def shapeDab (p : PfxOk) : Shape := { regShape (dstR 32) (srcR 32) (srcR 32) .none (some p) with hold := 1 }

/-- The shape of a base word by its opcode (R32, R33). For the literal MOV the destination is a pair (R42). -/
def baseShape (op : Nat) (f : XForm) : Shape :=
  match op with
  | 0x01 =>
    if f.a = 255 then { regShape (.dst 64 .vsz false) (.src 64 .any true) .none .none (some ⟨0, false, false⟩) with hold := 1 }
    else { regShape (dstR 32) (.src 32 .any true) .none .none (some ⟨0, false, false⟩) with hold := 1 }
  | 0x02 => { d := dstR 32, mods := 0xFF, exec := .byDst }
  | 0x09 => { shapeDab ⟨0, false, false⟩ with d := .dst 32 .any true }
  | 0x16 => shapeDab ⟨0, false, true⟩
  | 0x17 | 0x18 | 0x19 => shapeDab ⟨5, false, false⟩
  | 0x1A => { shapeDab ⟨5, false, false⟩ with d := .dst 32 .any true }
  | 0x03 | 0x05 | 0x06 | 0x07 | 0x08 | 0x0A | 0x0B | 0x0C | 0x0D | 0x0E | 0x0F | 0x10 | 0x12 | 0x13 | 0x14 | 0x15
  | 0x1B | 0x1C => shapeDab ⟨0, false, false⟩
  | 0x04 => { d := dstR 32, a := srcR 32, mods := 0xFF, hold := 1, exec := .byDst }
  | 0x11 => { d := dstR 32, a := srcR 32, mods := 0xDF, hold := 1, exec := .byDst }
  | 0x1D => { d := .dst 32 .vxsz false, a := .src 64 .any true, mods := 0xFF, hold := 1, exec := .byDst }
  | 0x1E => { d := srcR 32, a := .src 64 .any true, mods := 0xFF, hold := 1, exec := .byDst }
  | 0x1F => { d := .dst 32 .vxsz false, a := srcR 32, mods := 0xFF, hold := 1, exec := .byDst }
  | 0x20 => { d := srcR 32, a := srcR 32, mods := 0xFF, hold := 1, exec := .byDst }
  | 0x21 | 0x22 => { d := .num 3, mods := if f.lit.isSome then 0 else 0xFF, target := true }
  | 0x23 => { d := .dst 64 .vsz false, mods := if f.lit.isSome then 0 else 0xFF, target := true, exec := .byDst }
  | 0x24 => { a := .src 64 .ret false }
  | 0x26 => { d := dstR 32, mods := 0xFF, valOk := f.fld 7 0 < 35, exec := .byDst,
              dstBad := match clsOf f.d with | .s _ => f.fld 7 0 < 4 | _ => false }
  | _ => {}

/-! ### EXT.INT (R212) -/

/-- Whether TY is one of a list. -/
def XForm.tyIn (f : XForm) (l : List Nat) : Bool := l.contains f.ty.toNat
/-- The operand width of a type in the INT column: 64 for .s64, .n64 and .b64 (R37). -/
def XForm.tyW (f : XForm) : Nat := if f.ty = 2 || f.ty = 3 || f.ty = 9 then 64 else 32

/-- An EXT.INT shape: the literal is legal in every source of a 64-bit type (R27); a 64-bit destination is v, s or zero (R205). -/
def intShape (f : XForm) (d : Nat) (a b c : Option Nat) (tys : List Nat) (p : PfxOk := ⟨0, false, false⟩) : Shape :=
  let r (w : Option Nat) : Role := match w with | some w => .src w .any (f.tyW = 64) | Option.none => .none
  { regShape (if d = 64 then .dst 64 .vsz false else dstR d) (r a) (r b) (r c) (some p) with tyOk := f.tyIn tys }

/-- The shape of an EXT.INT instruction (R212). -/
def shapeInt (xop : Nat) (f : XForm) : Shape :=
  let w := f.tyW
  let is := f.bit 16
  match xop with
  | 0x00 | 0x01 | 0x02 => intShape f 64 (some 64) (some 64) Option.none [2, 3, 9]
  | 0x03 => intShape f 64 (some 32) (some 32) (some 64) [0, 1]
  | 0x04 => intShape f 64 (some 32) (some 32) (some 32) [1]
  | 0x05 | 0x07 => { intShape f w (some w) (some w) Option.none [0, 2] with mods := 1 }
  | 0x06 | 0x08 => { intShape f w (some w) (some w) Option.none [1, 3] with mods := 1 }
  | 0x09 | 0x0A => intShape f w (some w) Option.none Option.none [0, 2] ⟨0, true, false⟩
  | 0x0B | 0x0C | 0x0D => intShape f 32 (some w) Option.none Option.none [8, 9]
  | 0x0E => intShape f w (some w) Option.none Option.none [8, 9]
  | 0x0F => { intShape f w (some w) (if is then Option.none else some 32) Option.none [0, 1, 2, 3] with
      mods := if is then bitsOf 16 0 else bitsOf 16 16 }
  | 0x10 => { intShape f w (some w) (some w) (if is then Option.none else some 32) [8, 9] with
      mods := if is then bitsOf 16 0 else bitsOf 16 16 }
  | 0x11 => intShape f 32 (some 32) (some 32) (some 32) [8]
  | 0x12 => { intShape f 32 (some 32) (some 32) (if is then Option.none else some 32) [8] with
      mods := if is then bitsOf 16 0 else bitsOf 16 16 }
  | 0x13 | 0x14 => intShape f 32 (some 32) (some 32) Option.none [0, 1, 4, 5, 6, 7]
  | 0x15 => { intShape f 32 (some 32) (some 32) (some 32) [6, 7] ⟨0, true, false⟩ with mods := 1 }
  | 0x16 | 0x17 => intShape f 64 (some 64) (some 32) Option.none [9]
  | 0x18 => intShape f 64 (some 64) (some 32) Option.none [2]
  | _ => intShape f 64 (some 64) (some 64) (some 32) [9]

/-! ### EXT.FLOAT (R234) -/

/-- The token T_i of an EXPR program (R243). -/
def exprTok (m : BitVec 32) (i : Nat) : Nat := (m.extractLsb' (4 * i) 4).toNat

/-- Values popped and pushed by a token (R243). -/
def tokEffect (t : Nat) : Nat × Nat :=
  if t ≤ 5 then (0, 1) else if t = 9 then (3, 1) else if t ≤ 11 then (2, 1) else if t ≤ 13 then (1, 1)
  else if t = 14 then (1, 2) else (2, 2)

/-- The tokens that run: those before END (R243). -/
def exprToks (m : BitVec 32) : List Nat := ((List.range 8).map (exprTok m)).takeWhile (· != 0)

/-- The stack depth after a program, none where it pops too much or passes depth 4 (R244). -/
def exprDepth : List Nat → Nat → Option Nat
  | [], n => some n
  | t :: ts, n =>
    let e := tokEffect t
    if n < e.1 || 4 < n - e.1 + e.2 then Option.none else exprDepth ts (n - e.1 + e.2)

/-- EXPR: the fields its program pushes are read (R244); pp tells whether a PFX C operand is there, which is a read operand whether or not
the program pushes it (log 64). -/
def shapeExpr (f : XForm) (pp : Bool) : Shape :=
  let ts := exprToks f.mod
  let r (t : Nat) : Role := if ts.contains t then srcR 32 else .none
  { regShape (dstR 32) (r 1) (r 2) (r 3) (some ⟨5, false, true⟩) with
    e := r 4
    tyOk := f.tyIn [0, 1, 2]
    mods := bitsOf 31 0
    valOk := exprDepth ts 0 == some 1 && (pp || !ts.contains 5)
    restOk := ((List.range 8).drop (ts.length + 1)).all fun i => exprTok f.mod i == 0 }

/-- An EXT.FLOAT shape of 32-bit fields. -/
def fltShape (f : XForm) (a b c : Bool) (maxRnd : Nat) (tys : List Nat := [0, 1, 2]) : Shape :=
  let r (x : Bool) : Role := if x then srcR 32 else .none
  { regShape (dstR 32) (r a) (r b) (r c) (some ⟨maxRnd, false, false⟩) with tyOk := f.tyIn tys }

/-- The shape of an EXT.FLOAT instruction (R234, R229). Widths that a slot decides are checked at step 9 of R170. -/
def shapeFloat (xop : Nat) (f : XForm) (pp : Bool) : Shape :=
  match xop with
  | 0x00 | 0x01 | 0x02 | 0x0F => fltShape f true true false 5
  | 0x03 => fltShape f true true true 5
  | 0x04 | 0x05 | 0x06 | 0x07 | 0x0A => fltShape f true true false 0
  | 0x0C => fltShape f true true false 5
  | 0x0D | 0x10 => fltShape f true false false 5
  | 0x08 | 0x09 | 0x0B | 0x0E | 0x11 | 0x12 | 0x13 | 0x14 | 0x15 | 0x16 | 0x17 | 0x18 => fltShape f true false false 0
  | 0x19 => fltShape f true true true 5 [1, 2]
  | 0x1A => shapeExpr f pp
  | 0x1B => { fltShape f true (f.ty = 3) (f.ty = 3) 6 [3, 4, 5, 6, 7] with
      a := srcR (if (f.ty = 4 || f.ty = 5 || f.ty = 7) && f.fld 7 6 = 3 then 64 else 32)
      mods := if f.ty = 3 then bitsOf 7 0 else bitsOf 7 6 ||| bitsOf 2 0
      pfx := some ⟨6, true, false⟩ }
  | 0x1C => { fltShape f true false false 5 with
      d := dstR (if f.fld 1 0 < 2 then 32 else 64), mods := 3, valOk := f.ty = 0 || f.fld 1 0 < 2 }
  | 0x1D => { fltShape f true false false 5 with
      a := srcR (if f.fld 1 0 < 2 then 32 else 64), mods := 3, valOk := f.ty = 0 || f.fld 1 0 < 2 }
  | 0x1E => { fltShape f true true false 6 [0] with
      d := .dst 32 .any true, mods := bitsOf 5 0, pfx := some ⟨6, true, false⟩ }
  | 0x1F => { fltShape f true true true 5 [0] with mods := bitsOf 5 0 }
  | _ => { regShape (dstR 64) (srcR 64) (srcR 64) .none pfxInt with tyOk := f.ty = 3 }

/-! ### EXT.LANE (R251 to R259, R154 to R159) -/

/-- The segment length of a shuffle at a warp width (R254). -/
def segLen (width seg : Nat) : Nat := if seg = 0 then width else 2 ^ seg

/-- The shape of an EXT.LANE instruction in a warp of a width; IMM is no field where IS is 0 (R259; log 65). -/
def shapeLane (xop : Nat) (f : XForm) (width : Nat) : Shape :=
  let w := f.tyW
  let is := f.bit 16
  let la (w : Nat) : Role := .src w .lanes false
  match xop with
  | 0x00 => { d := .num 3, a := srcR w, b := srcR w, hold := 3, tyOk := f.tyIn [0, 1, 2, 3], mods := 7,
              valOk := f.fld 2 0 < 6, pfx := pfxInt, exec := .vector, dstBad := f.d = 0 }
  | 0x01 => { d := .num 3, a := srcR 32, b := srcR 32, hold := 3, tyOk := f.ty = 0, mods := 7, pfx := pfxInt, exec := .vector,
              dstBad := f.d = 0 }
  | 0x02 | 0x03 | 0x04 | 0x05 =>
    { d := .num 3, a := .num 3, b := .num 3, tyZero := f.ty = 0, pfx := pfxInt, exec := .vector, dstBad := f.d = 0 }
  | 0x06 => { d := .dst 64 .vsz false, a := .num 3, nw := true, tyZero := f.ty = 0, pfx := pfxInt, exec := .byDst }
  | 0x07 => { d := .num 3, a := .src (match clsOf f.a with | .s _ | .k _ | .l _ => 64 | _ => 32) .rtom false, hold := 1,
              tyZero := f.ty = 0, pfx := pfxInt, exec := .vector, dstBad := f.d = 0 }
  | 0x08 => { d := .dst 32 .vxsz false, a := .num 3, nw := true, tyZero := f.ty = 0, pfx := pfxInt, exec := .byDst }
  | 0x09 => { d := .dst w .vxqz false, a := srcR w, b := srcR w, c := .num 3, hold := 3, nw := true,
              tyOk := f.tyIn [8, 9], pfx := pfxInt, exec := .vector }
  | 0x0A | 0x0B | 0x0C | 0x0D =>
    let b : Role := if is then .none else srcR 32
    { d := .dst w .vx false, a := la w, b := b, hold := holdAB (la w) b, nw := true, tyOk := f.tyIn [8, 9],
      mods := bitsOf 16 16 ||| bitsOf 2 0 ||| (if is then bitsOf 15 8 else 0),
      valOk := f.fld 2 0 < 7 && segLen width (f.fld 2 0) ≤ width, pfx := pfxInt, exec := .vector }
  | 0x0E =>
    let b : Role := if is then .none else .src 32 .scl false
    { d := .dst w .vxsz false, a := la w, b := b, hold := holdAB (la w) b, nw := true, tyOk := f.tyIn [8, 9],
      mods := bitsOf 16 16 ||| (if is then bitsOf 15 8 else 0), pfx := pfxInt, exec := .byDst, oneLane := true }
  | 0x0F => { d := .dst 32 .vxsz false, a := la 32, hold := 1, nw := true, tyZero := f.ty = 0, mods := 3,
              valOk := f.fld 1 0 < 3, pfx := pfxInt, exec := .byDst }
  | 0x10 => { d := .dst 64 .vxsz false, a := la 32, hold := 1, nw := true, tyZero := f.ty = 0, pfx := pfxInt, exec := .byDst }
  | 0x11 => { d := .dst w .vxsz false, a := la w, hold := 1, nw := true, tyOk := f.tyIn [0, 8, 9], mods := 0xF,
              valOk := f.fld 3 0 < 11 && (decide (8 ≤ f.fld 3 0) == (f.ty = 0)),
              pfx := some ⟨if 8 ≤ f.fld 3 0 then 5 else 0, false, false⟩, exec := .byDst }
  | 0x12 => { d := .dst w .vx false, a := la w, hold := 1, nw := true, tyOk := f.tyIn [0, 8, 9], mods := 0xF,
              valOk := f.fld 3 0 < 11 && (decide (8 ≤ f.fld 3 0) == (f.ty = 0)), pfx := pfxInt, exec := .vector }
  | 0x13 => { d := .dst 64 .vx false, a := la w, hold := 1, nw := true, tyOk := f.tyIn [8, 9], pfx := pfxInt, exec := .vector }
  | 0x14 =>
    let rd := f.fld 9 8 = 0 || f.fld 9 8 = 2
    { d := .num 2, a := if rd then .src 32 .scl false else .none, hold := if rd then 1 else 0, tyZero := f.ty = 0,
      mods := bitsOf 9 8 ||| (if rd then 0 else bitsOf 7 0), pfx := pfxInt, exec := .scalar }
  | _ => { d := .num 2, tyZero := f.ty = 0, mods := bitsOf 15 0, valOk := f.fld 15 8 ≤ 192 && f.fld 7 0 ≤ f.fld 15 8,
           pfx := pfxInt, exec := .scalar }

/-! ### EXT.MEM (R188, R368) -/

/-- Register width of a MEM type: 128 for .b128, 64 for .b64, else 32 (R37, R184). -/
def memW (ty : Nat) : Nat := if ty = 6 then 128 else if ty = 5 then 64 else 32
/-- Bytes of a MEM type (R37). -/
def memBytes (ty : Nat) : Nat :=
  if ty ≤ 1 then 1 else if ty ≤ 3 then 2 else if ty = 5 then 8 else if ty = 6 then 16 else 4

/-- A MEM shape: NW and PFX are never there (R188). -/
def memShape (f : XForm) (d a b c e : Role) (tys : List Nat) (mods : BitVec 32) : Shape :=
  { d := d, a := a, b := b, c := c, e := e, tyOk := f.tyIn tys, mods := mods, hold := holdAB a b, exec := .byDst }

/-- A 64-bit global address field, where the literal is legal (R27, R179). -/
def addrR : Role := .src 64 .any true
/-- A load's destination: not q (R184). -/
def loadD (w : Nat) : Role := .dst w .vxsz false
/-- A destination that a description's table lists as v, s or zero (R304, R332, R368). -/
def vszD (w : Nat) : Role := .dst w .vsz false
/-- A scalar source (s, k, zero or a scalar latch). -/
def sclR (w : Nat) : Role := .src w .scl false

/-- The shape of an EXT.MEM instruction (R188, R368). -/
def shapeMem (xop : Nat) (f : XForm) : Shape :=
  let w := memW f.ty.toNat
  let hintOk := f.fld 9 8 < 3
  let at8 := bitsOf 8 6 ||| bitsOf 5 4
  let win := f.bit 9
  let mem : Role := if win then srcR 32 else .none
  match xop with
  | 0x00 => { memShape f (loadD w) addrR .none .none .none [0, 1, 2, 3, 4, 5, 6] (bitsOf 9 0) with valOk := hintOk }
  | 0x01 => { memShape f .none addrR (srcR w) .none .none [0, 1, 2, 3, 4, 5, 6] (bitsOf 9 0) with valOk := hintOk }
  | 0x02 => memShape f (loadD w) (srcR 32) .none .none .none [0, 1, 2, 3, 4, 5, 6] (bitsOf 7 0)
  | 0x03 => memShape f .none (srcR 32) (srcR w) .none .none [0, 1, 2, 3, 4, 5, 6] (bitsOf 7 0)
  | 0x04 => memShape f (loadD w) (srcR 32) (srcR 32) .none .none [0, 1, 2, 3, 4, 5, 6] (bitsOf 7 0)
  | 0x05 => memShape f .none (srcR 32) (srcR 32) (srcR w) .none [0, 1, 2, 3, 4, 5, 6] (bitsOf 7 0)
  | 0x06 => { memShape f (loadD w) (srcR 32) .none .none .none [0, 1, 2, 3, 4, 5] (bitsOf 9 0) with valOk := hintOk }
  | 0x07 => { memShape f (loadD w) addrR (srcR w) .none .none [4, 5] (at8 ||| bitsOf 3 0) with valOk := f.fld 3 0 < 11 }
  | 0x08 => memShape f (loadD w) addrR (srcR w) (srcR w) .none [4, 5] at8
  | 0x09 => { memShape f (loadD 32) addrR (srcR 32) .none .none [4] (at8 ||| bitsOf 3 0) with valOk := f.fld 3 0 < 5 }
  | 0x0A => { memShape f (loadD w) (srcR 32) (srcR w) .none mem [4, 5] (bitsOf 9 9 ||| at8 ||| bitsOf 3 0) with
      valOk := f.fld 3 0 < 11 }
  | 0x0B => memShape f (loadD w) (srcR 32) (srcR w) (srcR w) mem [4, 5] (bitsOf 9 9 ||| at8)
  | 0x0C => { memShape f .none addrR (srcR w) .none .none [4, 5] (bitsOf 11 0) with
      valOk := f.fld 11 8 < 8 || (f.fld 11 8 < 13 && f.ty = 4) }
  | 0x0D => { memShape f .none .none .none .none .none [0] (bitsOf 8 6) with exec := .own }
  | 0x0E => { d := .num 2, a := sclR 32, hold := 1, tyZero := f.ty = 0, exec := .scalar }
  | 0x0F => { d := .num 2, tyZero := f.ty = 0 }
  | 0x10 => { a := addrR, hold := 1, tyZero := f.ty = 0, mods := 3, valOk := f.fld 1 0 < 2, exec := .byDst }
  | 0x11 | 0x12 => memShape f (vszD 32) addrR .none .none .none [0] 0
  | 0x13 => { memShape f .none addrR .none .none .none [0] 3 with valOk := f.fld 1 0 < 3 }
  | 0x14 =>
    if f.bit 3 then { tyZero := f.ty = 0, mods := bitsOf 9 8 ||| bitsOf 3 3 }
    else
      { a := if f.bit 4 then .src 64 .scl true else sclR 32, b := sclR w, hold := 3, tyOk := f.tyIn [4, 5],
        mods := bitsOf 9 8 ||| bitsOf 4 3 ||| bitsOf 1 0 }
  | _ => { tyOk := f.ty = 0 }

/-! ### EXT.ASYNC (R304) -/

/-- The object field: a scratchpad offset, or with G = 1 a global address that may be the literal (R304). -/
def objR (f : XForm) : Role := if f.bit 0 then .src 64 .scl true else sclR 32

/-- The shape of an EXT.ASYNC instruction; IMM is reserved where IS is 0 (R36, R304; log 65). -/
def shapeAsync (xop : Nat) (f : XForm) : Shape :=
  let is := f.bit 4
  let cnt : Role := if is then .none else sclR 32
  let imm := if is then bitsOf 15 8 else 0
  match xop with
  | 0x00 => { a := sclR 32, b := cnt, hold := holdAB (sclR 32) cnt, tyOk := f.ty = 0,
              mods := bitsOf 4 4 ||| bitsOf 1 0 ||| imm, valOk := f.fld 1 0 < 3 }
  | 0x01 => { d := vszD 32, nw := true, tyOk := f.ty = 0, mods := 1 }
  | 0x03 =>
    let sc := f.fld 3 1
    { a := objR f, b := cnt, hold := holdAB (objR f) cnt, tyOk := f.ty = 0, mods := bitsOf 4 0 ||| imm,
      valOk := if f.bit 0 then 1 ≤ sc else sc ≤ 1 }
  | 0x04 | 0x05 =>
    let b : Role := if f.fld 2 1 = 2 then sclR 32 else .none
    { a := objR f, b := b, c := if f.bit 3 then sclR 32 else .none, hold := holdAB (objR f) b, tyOk := f.ty = 0,
      mods := bitsOf 3 0, valOk := f.fld 2 1 < 3 }
  | 0x06 | 0x07 => { a := objR f, b := sclR 32, hold := 3, tyOk := f.ty = 0, mods := 1 }
  | 0x08 => { d := vszD 32, a := objR f, b := sclR 32, hold := 3, nw := true, tyOk := f.ty = 0, mods := 1 }
  | 0x09 => { a := objR f, hold := 1, tyOk := f.ty = 0, mods := 1 }
  | 0x0A => { a := sclR 32, hold := 1, tyOk := f.ty = 0, mods := bitsOf 5 0 }
  | 0x0B => { tyOk := f.ty = 0, mods := bitsOf 5 0 }
  | _ => { tyOk := f.ty = 0 }

/-! ### EXT.MATRIX (R332, R333) -/

/-- Fields of a pass instruction (R334). -/
def passMods : BitVec 32 := bitsOf 31 16 ||| bitsOf 11 9 ||| bitsOf 5 0

/-- The shape of an EXT.MATRIX instruction (R332, R333). -/
def shapeMatrix (xop : Nat) (f : XForm) : Shape :=
  let s := sclR 32
  let ok := f.ty = 0
  match xop with
  | 0x00 | 0x01 => { d := .num 3, a := srcR 32, b := s, c := s, hold := 2, tyOk := ok, mods := passMods,
                     valOk := match clsOf f.a with | .v _ => true | _ => false }
  | 0x02 | 0x03 => { d := .num 3, a := s, b := s, c := s, e := s, hold := 3, tyOk := ok, mods := passMods ||| bitsOf 8 8 }
  | 0x04 => { a := s, hold := 1, tyOk := ok, mods := bitsOf 15 0 }
  | 0x05 => { tyOk := ok, mods := bitsOf 7 0, valOk := f.fld 7 0 != 0 }
  | 0x06 => { d := .num 3, a := s, b := s, hold := 3, tyOk := ok, mods := bitsOf 3 0, valOk := f.fld 1 0 + f.fld 3 2 ≤ 3 }
  | 0x07 => { d := .num 3, a := s, b := s, hold := 3, tyOk := ok,
              mods := bitsOf 7 0 ||| (if f.bit 7 then bitsOf 11 8 else 0), valOk := f.fld 1 0 + f.fld 3 2 ≤ 3 }
  | 0x08 => { tyOk := ok, mods := bitsOf 5 0, valOk := f.fld 5 4 != 0 || f.fld 3 0 == 0 }
  | 0x09 => { d := vszD 32, nw := true, tyOk := ok, mods := bitsOf 3 0 }
  | 0x0A => { d := .num 4, a := s, b := s, hold := 3, tyOk := ok, mods := 3, valOk := f.fld 1 0 < 3 }
  | 0x0B => { d := vszD 32, a := .num 4, nw := true, tyOk := ok, mods := 3, valOk := f.fld 1 0 < 3 }
  | _ => { tyOk := ok, mods := bitsOf 7 0 }

/-! ### EXT.SYS (R270, R280, R168, R169, R409, R410, R419, R420, R429, R451) -/

/-- The shape of an EXT.SYS instruction. -/
def shapeSys (xop : Nat) (f : XForm) : Shape :=
  let z := f.ty = 0
  match xop with
  | 0x00 => { tyZero := z, mods := bitsOf 12 8 ||| bitsOf 4 0, valOk := f.fld 12 11 != 0 && f.fld 4 0 != 0 }
  | 0x01 => { tyZero := z, mods := bitsOf 4 0 }
  | 0x02 => { d := .dst 32 .vsz false, a := .num 8, nw := true, tyZero := z, valOk := f.a.toNat < 6, exec := .byDst }
  | 0x03 => { d := .num 8, a := sclR 32, hold := 1, tyZero := z, mods := 3, valOk := f.d.toNat < 6 && f.fld 1 0 < 3,
              exec := .scalar }
  | 0x04 => { d := .dst 32 .sz false, a := .src 64 .skz true, hold := 1, tyZero := z, mods := bitsOf 11 11 ||| bitsOf 9 0 }
  | 0x05 => { tyZero := z }
  | 0x06 =>
    if f.ty.getLsbD 0 then { tyZero := f.ty = 1 }
    else { a := sclR 64, b := sclR 64, c := sclR 32, hold := 3, tyZero := z, mods := bitsOf 31 0 }
  | 0x07 => { tyZero := z, mods := 1 }
  | 0x08 | 0x09 => { tyZero := z }
  | 0x0A | 0x0B => { a := objR f, b := sclR 32, hold := 3, tyOk := z, mods := 1 }
  | 0x0C => { a := objR f, b := sclR 32, hold := 3, tyOk := z, mods := bitsOf 3 0, valOk := f.fld 3 1 < 6 }
  | 0x0D =>
    { a := objR f, b := sclR 32, c := sclR 32, e := sclR 32, hold := 3, tyOk := z,
      mods := bitsOf 10 8 ||| bitsOf 6 4 ||| bitsOf 0 0,
      valOk := f.fld 9 8 < 3 && f.fld 6 4 < 7 && (f.fld 9 8 != 1 || f.fld 6 4 == 0) && (!f.bit 10 || f.fld 9 8 == 1) }
  | 0x0E => { d := vszD 32, a := sclR 32, hold := 1, nw := true, tyOk := z, mods := 3 }
  | _ => { tyZero := z, mods := bitsOf 7 0 }

/-! ### Instructions as words -/

/-- An instruction by its encoding: a base word's opcode or a group and XOP, with its fields. -/
inductive Form where
  | r (op : Nat) (f : RForm) (lit : Option (BitVec 64))
  | i (op : Nat) (f : IForm)
  | l (f : LForm)
  | x (grp xop : Nat) (f : XForm)
  deriving DecidableEq, Repr

/-- Whether an opcode's base word is I-form (R33). -/
def isIForm (op : Nat) : Bool := [0x02, 0x04, 0x11, 0x1D, 0x1E, 0x1F, 0x20, 0x21, 0x22, 0x23, 0x26].contains op

/-- R-form fields in the extended layout. -/
def RForm.toX (f : RForm) (lit : Option (BitVec 64) := none) : XForm :=
  ⟨f.lnd, extCode f.d, if f.h then 1 else 0, f.nw, 0, extCode f.a, extCode f.b, 0, 0, 0, lit⟩

/-- I-form fields in the extended layout, IMM8 in MOD [7:0]. -/
def IForm.toX (f : IForm) : XForm :=
  ⟨f.lnd, extCode f.d, if f.h then 1 else 0, false, 0, extCode f.a, 0, 0, 0, f.imm.setWidth 32, f.lit⟩

/-- The literal MOV in the extended layout: A is the literal code (R42). -/
def LForm.toX (f : LForm) : XForm :=
  ⟨f.lnd, extCode f.d, if f.h then 1 else 0, f.nw, 0, 255, 0, 0, 0, 0, some f.lit⟩

/-- The fields of an instruction in the extended layout. -/
def Form.toX : Form → XForm
  | .r _ f lit => f.toX lit
  | .i _ f => f.toX
  | .l f => f.toX
  | .x _ _ f => f

/-- What decoding depends on beside the words: the warp's width, and which latches were not produced by a vector execution (R43,
R254). -/
structure DecEnv where
  width : Nat
  latches : BitVec 3
  deriving DecidableEq, Repr

/-- Outside a warp. -/
def DecEnv.default : DecEnv := ⟨64, 0⟩

/-- Shape of an extended instruction; pp tells whether a PFX C operand is valid. -/
def extShape (env : DecEnv) (pp : Bool) (grp xop : Nat) (f : XForm) : Shape :=
  match grp with
  | 0x38 => shapeInt xop f
  | 0x39 => shapeFloat xop f pp
  | 0x3A => shapeLane xop f env.width
  | 0x3B => shapeMem xop f
  | 0x3C => shapeAsync xop f
  | 0x3D => shapeMatrix xop f
  | _ => shapeSys xop f

/-- The shape of an instruction. -/
def Form.shape (env : DecEnv) (pp : Bool) : Form → Shape
  | .r op f lit => baseShape op (f.toX lit)
  | .i op f => baseShape op f.toX
  | .l f => baseShape 0x01 f.toX
  | .x grp xop f => extShape env pp grp xop f

/-! ### Execution class (R43) -/

/-- Whether a source of a class makes an instruction vector: l by its producer (R43). -/
def vecCls (latches : BitVec 3) : Cls → Bool
  | .v _ | .x _ | .q _ | .lid => true
  | .l n => !latches.getLsbD n
  | _ => false

/-- The source codes an instruction reads, in the order D, A, B, C, E, PFX C. -/
def sourceCodes (sh : Shape) (f : XForm) (pc : Option (BitVec 8)) : List (BitVec 8) :=
  let g (r : Role) (c : BitVec 8) : List (BitVec 8) := match r with | .src _ _ _ => [c] | _ => []
  g sh.d f.d ++ g sh.a f.a ++ g sh.b f.b ++ g sh.c f.c ++ g sh.e f.e ++ pc.toList

/-- Whether an instruction executes as a scalar (R43, R183). -/
def isScalar (sh : Shape) (f : XForm) (pc : Option (BitVec 8)) (latches : BitVec 3) : Bool :=
  match sh.exec with
  | .scalar => true
  | .vector | .own => false
  | .byDst =>
    let byZero := !((sourceCodes sh f pc).any fun c => vecCls latches (clsOf c))
    match sh.d with
    | .dst _ _ _ => (match clsOf f.d with | .s _ => true | .zero => byZero | _ => false)
    | _ => byZero

/-- Step 1 for a destination: the classes it takes (R41). -/
def DstSet.takes (cl : DstSet) (c : Cls) : Bool :=
  match cl, c with
  | .any, .v _ | .any, .x _ | .any, .s _ | .any, .q _ | .any, .zero => true
  | .vxsz, .v _ | .vxsz, .x _ | .vxsz, .s _ | .vxsz, .zero => true
  | .vsz, .v _ | .vsz, .s _ | .vsz, .zero => true
  | .vxqz, .v _ | .vxqz, .x _ | .vxqz, .q _ | .vxqz, .zero => true
  | .vx, .v _ | .vx, .x _ => true
  | .sz, .s _ | .sz, .zero => true
  | _, _ => false

/-- Width in bits of a field that holds an operand code. -/
def Role.width : Role → Nat
  | .dst w _ _ => w
  | .src w _ _ => w
  | _ => 0

/-- Length of an instruction in bytes. -/
def XForm.len (f : XForm) : Nat := if f.lit.isSome then 20 else 12

/-! ### The checks of R51 -/

/-- Whether a field is an operand code. -/
def Role.isCode : Role → Bool
  | .dst _ _ _ | .src _ _ _ => true
  | _ => false

/-- Whether some operand field of the instruction itself holds the literal code; the C of a PFX before it does not count (R26, R27; log
11). -/
def usesLit (sh : Shape) (f : XForm) : Bool :=
  (sh.d.isCode && f.d == 255) || (sh.a.isCode && f.a == 255) || (sh.b.isCode && f.b == 255) ||
  (sh.c.isCode && f.c == 255) || (sh.e.isCode && f.e == 255)

/-- Order 6 for one field: reserved code, literal where R27 does not allow it, odd pair, 128-bit classes (R41, R42, R184). -/
def codeOk (w : Nat) (lit : Bool) (c : BitVec 8) : Bool :=
  match clsOf c with
  | .bad => false
  | .lit => lit && w != 128
  | .v n | .s n => if w = 64 then n % 2 == 0 else if w = 128 then n % 4 == 0 else true
  | .x _ | .k _ | .l _ | .q _ => w != 128
  | _ => true

def Role.codeOk (r : Role) (c : BitVec 8) : Bool :=
  match r with
  | .dst w _ _ => Sys2Proof.codeOk w false c
  | .src w _ lit => Sys2Proof.codeOk w lit c
  | _ => true

/-- Order 7 for one field (R32, R40). -/
def Role.restOk (r : Role) (c : BitVec 8) : Bool :=
  match r with
  | .none => c == 0
  | .num bits => c.toNat < 2 ^ bits
  | _ => true

/-- Order 5 (R27): a literal code with no literal words. -/
def order5 (sh : Shape) (f : XForm) : Bool := f.lit.isSome || !usesLit sh f

/-- The unused-literal part of order 2 (R27). -/
def order2 (sh : Shape) (f : XForm) : Bool := f.lit.isNone || sh.target || usesLit sh f

/-- Order 6 for the instruction. -/
def order6 (sh : Shape) (f : XForm) : Bool :=
  sh.d.codeOk f.d && sh.a.codeOk f.a && sh.b.codeOk f.b && sh.c.codeOk f.c && sh.e.codeOk f.e && sh.tyOk && sh.valOk

/-- Order 7 for the instruction. -/
def order7 (sh : Shape) (f : XForm) : Bool :=
  sh.d.restOk f.d && sh.a.restOk f.a && sh.b.restOk f.b && sh.c.restOk f.c && sh.e.restOk f.e &&
  f.h2 &&& ~~~sh.hold == 0 && (sh.nw || !f.nw) && f.mod &&& ~~~sh.mods == 0 && sh.tyZero && sh.restOk &&
  (!sh.target || (match f.lit with | some l => l.extractLsb' 57 7 == 0 && l.extractLsb' 0 2 == 0 | none => true))

/-- Order 6 for a PFX before an instruction (R49, R134, R229); C = 255 is an encoding fault whatever CV (R59). -/
def pfxOrder6 (env : DecEnv) (p : PForm) (sh : Shape) (f : XForm) : Bool :=
  match sh.pfx with
  | none => true
  | some ok =>
    p.rnd.toNat ≤ ok.maxRnd && (!p.sat || ok.sat) && (!p.cv || ok.cv) && p.c != 255 &&
    (!p.cv || clsOf p.c != .bad) &&
    (!p.zm || (!isScalar sh f (if p.cv then some p.c else none) env.latches &&
      (match sh.d with
       | .dst _ _ _ => (match clsOf f.d with | .q _ => false | _ => true)
       | _ => true)))

/-- Order 7 for a PFX (R46, R49). -/
def pfxOrder7 (p : PForm) : Bool := p.cv || p.c == 0

/-- The first failing check of an assigned instruction, alone or after a PFX (rest: the PFX's reserved bits are zero), in the
order of R51; each check is applied to the PFX and then to the instruction. -/
def Form.check (env : DecEnv) (p : Option PForm) (rest : Bool) (fm : Form) : Option (BitVec 9) :=
  let f := fm.toX
  let sh := fm.shape env (match p with | some q => q.cv | none => false)
  if !order2 sh f then some 0x005
  else if p.isSome && sh.pfx.isNone then some 0x003
  else if !order5 sh f then some 0x004
  else if !((match p with | some q => pfxOrder6 env q sh f | none => true) && order6 sh f) then some 0x002
  else if !((match p with | some q => rest && pfxOrder7 q | none => true) && order7 sh f) then some 0x006
  else none

/-! ### From words to fields -/

/-- LEN (R25), LND (R28) and OP (R29) of a word. -/
def lenOf (w : Word) : BitVec 2 := w.extractLsb' 30 2
def lndOf (w : Word) : Bool := w.getLsbD 29
def opOf (w : Word) : Nat := (w.extractLsb' 23 6).toNat

/-- R-form fields (R30). -/
def rFields (w : Word) : RForm :=
  ⟨lndOf w, w.extractLsb' 16 7, w.extractLsb' 9 7, w.extractLsb' 2 7, w.getLsbD 1, w.getLsbD 0⟩
/-- I-form fields (R31). -/
def iFields (w : Word) (lit : Option (BitVec 64)) : IForm :=
  ⟨lndOf w, w.extractLsb' 16 7, w.extractLsb' 9 7, w.extractLsb' 1 8, w.getLsbD 0, lit⟩
/-- Fields of an extended form (R36). -/
def xFields (w0 w1 w2 : Word) (lit : Option (BitVec 64)) : XForm :=
  ⟨lndOf w0, w0.extractLsb' 7 8, w0.extractLsb' 5 2, w0.getLsbD 4, w0.extractLsb' 0 4,
   w1.extractLsb' 24 8, w1.extractLsb' 16 8, w1.extractLsb' 8 8, w1.extractLsb' 0 8, w2, lit⟩
/-- The extended opcode (R36). -/
def xopOf (w : Word) : Nat := (w.extractLsb' 15 8).toNat
/-- PFX fields (R46). -/
def pFields (w : Word) : PForm :=
  ⟨w.extractLsb' 20 3, w.getLsbD 19, w.extractLsb' 16 3, w.extractLsb' 8 8, w.getLsbD 7, w.getLsbD 6⟩
/-- The reserved bits of a PFX word are zero (R46). -/
def pRest (w : Word) : Bool := !w.getLsbD 29 && w.extractLsb' 0 6 == 0

/-- The last assigned XOP of a group (R38). -/
def lastXop : Nat → Nat
  | 0x38 => 0x19
  | 0x39 => 0x20
  | 0x3A => 0x15
  | 0x3B => 0x15
  | 0x3C => 0x0D
  | 0x3D => 0x0C
  | _ => 0x0F

/-- Whether LEN agrees with the shape of the opcode (R25, R51 order 2). -/
def lenOk (w : Word) : Bool :=
  let op := opOf w
  if op = 0x3F then lenOf w == 0 else if op < 0x38 then lenOf w == 0 || lenOf w == 1 else lenOf w == 2 || lenOf w == 3

/-- The words an instruction has, its first word alone where it is not one (R25, R52; log 57). -/
def wordCount (w : Word) : Nat :=
  let op := opOf w
  if (0x29 ≤ op && op ≤ 0x37) || !lenOk w then 1
  else match lenOf w with
    | 0 => 1
    | 1 => 3
    | 2 => 3
    | _ => 5

/-- Two literal words (R26). -/
def litOf (lo hi : Word) : BitVec 64 := hi ++ lo

/-- The fields of an assigned instruction whose LEN agrees; words beyond the list read as zero. -/
def formOf (w : Word) (rest : List Word) : Form :=
  let op := opOf w
  let g (n : Nat) : Word := rest.getD n 0
  if op < 0x38 then
    let lit := if lenOf w = 1 then some (litOf (g 0) (g 1)) else none
    if op = 0x01 && lenOf w == 1 && (rFields w).a == 127 && (rFields w).b == 0 then
      .l ⟨lndOf w, (rFields w).d, (rFields w).h, (rFields w).nw, litOf (g 0) (g 1)⟩
    else if isIForm op then .i op (iFields w lit)
    else .r op (rFields w) lit
  else .x op (xopOf w) (xFields w (g 0) (g 1) (if lenOf w = 3 then some (litOf (g 2) (g 3)) else none))

/-! ### Instructions and their forms -/

/-- A reserved-field R-form word with its landing bit: NOP, EXIT, TFENCE, WSYNC (R32 layout none). -/
def bareForm (op : Nat) (lnd : Bool) : Form := .r op ⟨lnd, 0, 0, 0, false, false⟩ none

/-- A long branch's literal (R34). -/
def targetLit (t : BitVec 55) : BitVec 64 := (0 : BitVec 7) ++ t ++ (0 : BitVec 2)

/-- The mask field of BRA and BRN (R137). -/
def maskField (m : BitVec 3) : BitVec 7 := (0 : BitVec 4) ++ m

/-- The form of an instruction; events have none. -/
def Instr.form : Instr → Option Form
  | .nop lnd => some (bareForm 0x00 lnd)
  | .exit lnd => some (bareForm 0x25 lnd)
  | .tfence lnd => some (bareForm 0x27 lnd)
  | .wsync lnd => some (bareForm 0x28 lnd)
  | .ret lnd a => some (.r 0x24 ⟨lnd, 0, a, 0, false, false⟩ none)
  | .bra lnd m imm => some (.i 0x21 ⟨lnd, maskField m, 0, imm, false, none⟩)
  | .brn lnd m imm => some (.i 0x22 ⟨lnd, maskField m, 0, imm, false, none⟩)
  | .braLong lnd m t => some (.i 0x21 ⟨lnd, maskField m, 0, 0, false, some (targetLit t)⟩)
  | .brnLong lnd m t => some (.i 0x22 ⟨lnd, maskField m, 0, 0, false, some (targetLit t)⟩)
  | .call lnd d imm => some (.i 0x23 ⟨lnd, d, 0, imm, false, none⟩)
  | .callLong lnd d t => some (.i 0x23 ⟨lnd, d, 0, 0, false, some (targetLit t)⟩)
  | .movLiteral f => some (.l f)
  | .mov f => some (.r 0x01 f none)
  | .iadd f => some (.r 0x03 f none)
  | .isub f => some (.r 0x05 f none)
  | .imul f => some (.r 0x06 f none)
  | .imulhs f => some (.r 0x07 f none)
  | .imulhn f => some (.r 0x08 f none)
  | .imad f => some (.r 0x09 f none)
  | .iand f => some (.r 0x0A f none)
  | .ior f => some (.r 0x0B f none)
  | .ixor f => some (.r 0x0C f none)
  | .iandn f => some (.r 0x0D f none)
  | .ishl f => some (.r 0x0E f none)
  | .ishr f => some (.r 0x0F f none)
  | .isar f => some (.r 0x10 f none)
  | .imins f => some (.r 0x12 f none)
  | .imaxs f => some (.r 0x13 f none)
  | .iminn f => some (.r 0x14 f none)
  | .imaxn f => some (.r 0x15 f none)
  | .isel f => some (.r 0x16 f none)
  | .fadd f => some (.r 0x17 f none)
  | .fsub f => some (.r 0x18 f none)
  | .fmul f => some (.r 0x19 f none)
  | .ffma f => some (.r 0x1A f none)
  | .fmin f => some (.r 0x1B f none)
  | .fmax f => some (.r 0x1C f none)
  | .movi f => some (.i 0x02 f)
  | .iaddi f => some (.i 0x04 f)
  | .ishi f => some (.i 0x11 f)
  | .ldg f => some (.i 0x1D f)
  | .stg f => some (.i 0x1E f)
  | .lds f => some (.i 0x1F f)
  | .sts f => some (.i 0x20 f)
  | .rdid f => some (.i 0x26 f)
  | .iadd64 f => some (.x 0x38 0x00 f)
  | .isub64 f => some (.x 0x38 0x01 f)
  | .imul64 f => some (.x 0x38 0x02 f)
  | .imadw f => some (.x 0x38 0x03 f)
  | .iaddc f => some (.x 0x38 0x04 f)
  | .idivs f => some (.x 0x38 0x05 f)
  | .idivn f => some (.x 0x38 0x06 f)
  | .irems f => some (.x 0x38 0x07 f)
  | .iremn f => some (.x 0x38 0x08 f)
  | .iabs f => some (.x 0x38 0x09 f)
  | .ineg f => some (.x 0x38 0x0A f)
  | .iclz f => some (.x 0x38 0x0B f)
  | .ictz f => some (.x 0x38 0x0C f)
  | .ipopc f => some (.x 0x38 0x0D f)
  | .ibrev f => some (.x 0x38 0x0E f)
  | .ibfx f => some (.x 0x38 0x0F f)
  | .ibfi f => some (.x 0x38 0x10 f)
  | .ifshl f => some (.x 0x38 0x11 f)
  | .iperm f => some (.x 0x38 0x12 f)
  | .iaddsat f => some (.x 0x38 0x13 f)
  | .isubsat f => some (.x 0x38 0x14 f)
  | .idot4 f => some (.x 0x38 0x15 f)
  | .ishl64 f => some (.x 0x38 0x16 f)
  | .ishr64 f => some (.x 0x38 0x17 f)
  | .isar64 f => some (.x 0x38 0x18 f)
  | .isel64 f => some (.x 0x38 0x19 f)
  | .faddExt f => some (.x 0x39 0x00 f)
  | .fsubExt f => some (.x 0x39 0x01 f)
  | .fmulExt f => some (.x 0x39 0x02 f)
  | .ffma4 f => some (.x 0x39 0x03 f)
  | .fminExt f => some (.x 0x39 0x04 f)
  | .fmaxExt f => some (.x 0x39 0x05 f)
  | .fminm f => some (.x 0x39 0x06 f)
  | .fmaxm f => some (.x 0x39 0x07 f)
  | .fabs f => some (.x 0x39 0x08 f)
  | .fneg f => some (.x 0x39 0x09 f)
  | .fcopys f => some (.x 0x39 0x0A f)
  | .fclass f => some (.x 0x39 0x0B f)
  | .fscale f => some (.x 0x39 0x0C f)
  | .frint f => some (.x 0x39 0x0D f)
  | .ffrac f => some (.x 0x39 0x0E f)
  | .fdiv f => some (.x 0x39 0x0F f)
  | .fsqrt f => some (.x 0x39 0x10 f)
  | .frcpa f => some (.x 0x39 0x11 f)
  | .frsqa f => some (.x 0x39 0x12 f)
  | .fexp2a f => some (.x 0x39 0x13 f)
  | .flog2a f => some (.x 0x39 0x14 f)
  | .fsina f => some (.x 0x39 0x15 f)
  | .fcosa f => some (.x 0x39 0x16 f)
  | .ftanha f => some (.x 0x39 0x17 f)
  | .fsigma f => some (.x 0x39 0x18 f)
  | .fdot2 f => some (.x 0x39 0x19 f)
  | .expr f => some (.x 0x39 0x1A f)
  | .cvt f => some (.x 0x39 0x1B f)
  | .cvtfi f => some (.x 0x39 0x1C f)
  | .cvtif f => some (.x 0x39 0x1D f)
  | .pack f => some (.x 0x39 0x1E f)
  | .unpack f => some (.x 0x39 0x1F f)
  | .rand f => some (.x 0x39 0x20 f)
  | .icmp f => some (.x 0x3A 0x00 f)
  | .fcmp f => some (.x 0x3A 0x01 f)
  | .mand f => some (.x 0x3A 0x02 f)
  | .mor f => some (.x 0x3A 0x03 f)
  | .mxor f => some (.x 0x3A 0x04 f)
  | .mandn f => some (.x 0x3A 0x05 f)
  | .mtor f => some (.x 0x3A 0x06 f)
  | .rtom f => some (.x 0x3A 0x07 f)
  | .mpopc f => some (.x 0x3A 0x08 f)
  | .selm f => some (.x 0x3A 0x09 f)
  | .shfl f => some (.x 0x3A 0x0A f)
  | .shflup f => some (.x 0x3A 0x0B f)
  | .shfldn f => some (.x 0x3A 0x0C f)
  | .shflx f => some (.x 0x3A 0x0D f)
  | .bcast f => some (.x 0x3A 0x0E f)
  | .vote f => some (.x 0x3A 0x0F f)
  | .ballot f => some (.x 0x3A 0x10 f)
  | .redux f => some (.x 0x3A 0x11 f)
  | .scan f => some (.x 0x3A 0x12 f)
  | .matchLanes f => some (.x 0x3A 0x13 f)
  | .xset f => some (.x 0x3A 0x14 f)
  | .xwin f => some (.x 0x3A 0x15 f)
  | .ldgw f => some (.x 0x3B 0x00 f)
  | .stgw f => some (.x 0x3B 0x01 f)
  | .ldsw f => some (.x 0x3B 0x02 f)
  | .stsw f => some (.x 0x3B 0x03 f)
  | .ldl f => some (.x 0x3B 0x04 f)
  | .stl f => some (.x 0x3B 0x05 f)
  | .ldk f => some (.x 0x3B 0x06 f)
  | .atomg f => some (.x 0x3B 0x07 f)
  | .casg f => some (.x 0x3B 0x08 f)
  | .fatomg f => some (.x 0x3B 0x09 f)
  | .atoms f => some (.x 0x3B 0x0A f)
  | .cass f => some (.x 0x3B 0x0B f)
  | .nma f => some (.x 0x3B 0x0C f)
  | .nmdrain f => some (.x 0x3B 0x0D f)
  | .qcfg f => some (.x 0x3B 0x0E f)
  | .qdrain f => some (.x 0x3B 0x0F f)
  | .pref f => some (.x 0x3B 0x10 f)
  | .lockl f => some (.x 0x3B 0x11 f)
  | .unlockl f => some (.x 0x3B 0x12 f)
  | .flushl f => some (.x 0x3B 0x13 f)
  | .watch f => some (.x 0x3B 0x14 f)
  | .park f => some (.x 0x3B 0x15 f)
  | .kick f => some (.x 0x3C 0x00 f)
  | .inflt f => some (.x 0x3C 0x01 f)
  | .drain f => some (.x 0x3C 0x02 f)
  | .binit f => some (.x 0x3C 0x03 f)
  | .barr f => some (.x 0x3C 0x04 f)
  | .barrd f => some (.x 0x3C 0x05 f)
  | .bexp f => some (.x 0x3C 0x06 f)
  | .bwait f => some (.x 0x3C 0x07 f)
  | .btest f => some (.x 0x3C 0x08 f)
  | .binv f => some (.x 0x3C 0x09 f)
  | .tktake f => some (.x 0x3C 0x0A f)
  | .tkpass f => some (.x 0x3C 0x0B f)
  | .depwait f => some (.x 0x3C 0x0C f)
  | .depdone f => some (.x 0x3C 0x0D f)
  | .mma f => some (.x 0x3D 0x00 f)
  | .mmaz f => some (.x 0x3D 0x01 f)
  | .mmas f => some (.x 0x3D 0x02 f)
  | .mmat f => some (.x 0x3D 0x03 f)
  | .scld f => some (.x 0x3D 0x04 f)
  | .accz f => some (.x 0x3D 0x05 f)
  | .accld f => some (.x 0x3D 0x06 f)
  | .accst f => some (.x 0x3D 0x07 f)
  | .mcoop f => some (.x 0x3D 0x08 f)
  | .mchk f => some (.x 0x3D 0x09 f)
  | .tbset f => some (.x 0x3D 0x0A f)
  | .tbget f => some (.x 0x3D 0x0B f)
  | .mwait f => some (.x 0x3D 0x0C f)
  | .fence f => some (.x 0x3E 0x00 f)
  | .trap f => some (.x 0x3E 0x01 f)
  | .rdsr f => some (.x 0x3E 0x02 f)
  | .wrsr f => some (.x 0x3E 0x03 f)
  | .cropen f => some (.x 0x3E 0x04 f)
  | .crclose f => some (.x 0x3E 0x05 f)
  | .live f => some (.x 0x3E 0x06 f)
  | .tokwait f => some (.x 0x3E 0x07 f)
  | .tokpass f => some (.x 0x3E 0x08 f)
  | .phase f => some (.x 0x3E 0x09 f)
  | .puts f => some (.x 0x3E 0x0A f)
  | .get f => some (.x 0x3E 0x0B f)
  | .radd f => some (.x 0x3E 0x0C f)
  | .coll f => some (.x 0x3E 0x0D f)
  | .genrd f => some (.x 0x3E 0x0E f)
  | .brk f => some (.x 0x3E 0x0F f)
  | _ => none

/-- The instruction of an R-form opcode (R33). -/
def rInstr (op : Nat) (f : RForm) : Option Instr :=
  match op with
  | 0x00 => some (.nop f.lnd)
  | 0x25 => some (.exit f.lnd)
  | 0x27 => some (.tfence f.lnd)
  | 0x28 => some (.wsync f.lnd)
  | 0x24 => some (.ret f.lnd f.a)
  | 0x01 => some (.mov f)
  | 0x03 => some (.iadd f)
  | 0x05 => some (.isub f)
  | 0x06 => some (.imul f)
  | 0x07 => some (.imulhs f)
  | 0x08 => some (.imulhn f)
  | 0x09 => some (.imad f)
  | 0x0A => some (.iand f)
  | 0x0B => some (.ior f)
  | 0x0C => some (.ixor f)
  | 0x0D => some (.iandn f)
  | 0x0E => some (.ishl f)
  | 0x0F => some (.ishr f)
  | 0x10 => some (.isar f)
  | 0x12 => some (.imins f)
  | 0x13 => some (.imaxs f)
  | 0x14 => some (.iminn f)
  | 0x15 => some (.imaxn f)
  | 0x16 => some (.isel f)
  | 0x17 => some (.fadd f)
  | 0x18 => some (.fsub f)
  | 0x19 => some (.fmul f)
  | 0x1A => some (.ffma f)
  | 0x1B => some (.fmin f)
  | 0x1C => some (.fmax f)
  | _ => none

/-- The instruction of an I-form opcode; branches and calls by their target's length (R33, R34). -/
def iInstr (op : Nat) (f : IForm) : Option Instr :=
  let m := f.d.extractLsb' 0 3
  match op with
  | 0x21 => some (match f.lit with | none => .bra f.lnd m f.imm | some l => .braLong f.lnd m (l.extractLsb' 2 55))
  | 0x22 => some (match f.lit with | none => .brn f.lnd m f.imm | some l => .brnLong f.lnd m (l.extractLsb' 2 55))
  | 0x23 => some (match f.lit with | none => .call f.lnd f.d f.imm | some l => .callLong f.lnd f.d (l.extractLsb' 2 55))
  | 0x02 => some (.movi f)
  | 0x04 => some (.iaddi f)
  | 0x11 => some (.ishi f)
  | 0x1D => some (.ldg f)
  | 0x1E => some (.stg f)
  | 0x1F => some (.lds f)
  | 0x20 => some (.sts f)
  | 0x26 => some (.rdid f)
  | _ => none

/-- The instructions of group 0x38 by XOP (R39). -/
def intInstr (xop : Nat) (f : XForm) : Option Instr :=
  match xop with
  | 0x00 => some (.iadd64 f)
  | 0x01 => some (.isub64 f)
  | 0x02 => some (.imul64 f)
  | 0x03 => some (.imadw f)
  | 0x04 => some (.iaddc f)
  | 0x05 => some (.idivs f)
  | 0x06 => some (.idivn f)
  | 0x07 => some (.irems f)
  | 0x08 => some (.iremn f)
  | 0x09 => some (.iabs f)
  | 0x0A => some (.ineg f)
  | 0x0B => some (.iclz f)
  | 0x0C => some (.ictz f)
  | 0x0D => some (.ipopc f)
  | 0x0E => some (.ibrev f)
  | 0x0F => some (.ibfx f)
  | 0x10 => some (.ibfi f)
  | 0x11 => some (.ifshl f)
  | 0x12 => some (.iperm f)
  | 0x13 => some (.iaddsat f)
  | 0x14 => some (.isubsat f)
  | 0x15 => some (.idot4 f)
  | 0x16 => some (.ishl64 f)
  | 0x17 => some (.ishr64 f)
  | 0x18 => some (.isar64 f)
  | 0x19 => some (.isel64 f)
  | _ => none

/-- The instructions of group 0x39 by XOP (R39). -/
def floatInstr (xop : Nat) (f : XForm) : Option Instr :=
  match xop with
  | 0x00 => some (.faddExt f)
  | 0x01 => some (.fsubExt f)
  | 0x02 => some (.fmulExt f)
  | 0x03 => some (.ffma4 f)
  | 0x04 => some (.fminExt f)
  | 0x05 => some (.fmaxExt f)
  | 0x06 => some (.fminm f)
  | 0x07 => some (.fmaxm f)
  | 0x08 => some (.fabs f)
  | 0x09 => some (.fneg f)
  | 0x0A => some (.fcopys f)
  | 0x0B => some (.fclass f)
  | 0x0C => some (.fscale f)
  | 0x0D => some (.frint f)
  | 0x0E => some (.ffrac f)
  | 0x0F => some (.fdiv f)
  | 0x10 => some (.fsqrt f)
  | 0x11 => some (.frcpa f)
  | 0x12 => some (.frsqa f)
  | 0x13 => some (.fexp2a f)
  | 0x14 => some (.flog2a f)
  | 0x15 => some (.fsina f)
  | 0x16 => some (.fcosa f)
  | 0x17 => some (.ftanha f)
  | 0x18 => some (.fsigma f)
  | 0x19 => some (.fdot2 f)
  | 0x1A => some (.expr f)
  | 0x1B => some (.cvt f)
  | 0x1C => some (.cvtfi f)
  | 0x1D => some (.cvtif f)
  | 0x1E => some (.pack f)
  | 0x1F => some (.unpack f)
  | 0x20 => some (.rand f)
  | _ => none

/-- The instructions of group 0x3A by XOP (R39). -/
def laneInstr (xop : Nat) (f : XForm) : Option Instr :=
  match xop with
  | 0x00 => some (.icmp f)
  | 0x01 => some (.fcmp f)
  | 0x02 => some (.mand f)
  | 0x03 => some (.mor f)
  | 0x04 => some (.mxor f)
  | 0x05 => some (.mandn f)
  | 0x06 => some (.mtor f)
  | 0x07 => some (.rtom f)
  | 0x08 => some (.mpopc f)
  | 0x09 => some (.selm f)
  | 0x0A => some (.shfl f)
  | 0x0B => some (.shflup f)
  | 0x0C => some (.shfldn f)
  | 0x0D => some (.shflx f)
  | 0x0E => some (.bcast f)
  | 0x0F => some (.vote f)
  | 0x10 => some (.ballot f)
  | 0x11 => some (.redux f)
  | 0x12 => some (.scan f)
  | 0x13 => some (.matchLanes f)
  | 0x14 => some (.xset f)
  | 0x15 => some (.xwin f)
  | _ => none

/-- The instructions of group 0x3B by XOP (R39). -/
def memInstr (xop : Nat) (f : XForm) : Option Instr :=
  match xop with
  | 0x00 => some (.ldgw f)
  | 0x01 => some (.stgw f)
  | 0x02 => some (.ldsw f)
  | 0x03 => some (.stsw f)
  | 0x04 => some (.ldl f)
  | 0x05 => some (.stl f)
  | 0x06 => some (.ldk f)
  | 0x07 => some (.atomg f)
  | 0x08 => some (.casg f)
  | 0x09 => some (.fatomg f)
  | 0x0A => some (.atoms f)
  | 0x0B => some (.cass f)
  | 0x0C => some (.nma f)
  | 0x0D => some (.nmdrain f)
  | 0x0E => some (.qcfg f)
  | 0x0F => some (.qdrain f)
  | 0x10 => some (.pref f)
  | 0x11 => some (.lockl f)
  | 0x12 => some (.unlockl f)
  | 0x13 => some (.flushl f)
  | 0x14 => some (.watch f)
  | 0x15 => some (.park f)
  | _ => none

/-- The instructions of group 0x3C by XOP (R39). -/
def asyncInstr (xop : Nat) (f : XForm) : Option Instr :=
  match xop with
  | 0x00 => some (.kick f)
  | 0x01 => some (.inflt f)
  | 0x02 => some (.drain f)
  | 0x03 => some (.binit f)
  | 0x04 => some (.barr f)
  | 0x05 => some (.barrd f)
  | 0x06 => some (.bexp f)
  | 0x07 => some (.bwait f)
  | 0x08 => some (.btest f)
  | 0x09 => some (.binv f)
  | 0x0A => some (.tktake f)
  | 0x0B => some (.tkpass f)
  | 0x0C => some (.depwait f)
  | 0x0D => some (.depdone f)
  | _ => none

/-- The instructions of group 0x3D by XOP (R39). -/
def matrixInstr (xop : Nat) (f : XForm) : Option Instr :=
  match xop with
  | 0x00 => some (.mma f)
  | 0x01 => some (.mmaz f)
  | 0x02 => some (.mmas f)
  | 0x03 => some (.mmat f)
  | 0x04 => some (.scld f)
  | 0x05 => some (.accz f)
  | 0x06 => some (.accld f)
  | 0x07 => some (.accst f)
  | 0x08 => some (.mcoop f)
  | 0x09 => some (.mchk f)
  | 0x0A => some (.tbset f)
  | 0x0B => some (.tbget f)
  | 0x0C => some (.mwait f)
  | _ => none

/-- The instructions of group 0x3E by XOP (R39). -/
def sysInstr (xop : Nat) (f : XForm) : Option Instr :=
  match xop with
  | 0x00 => some (.fence f)
  | 0x01 => some (.trap f)
  | 0x02 => some (.rdsr f)
  | 0x03 => some (.wrsr f)
  | 0x04 => some (.cropen f)
  | 0x05 => some (.crclose f)
  | 0x06 => some (.live f)
  | 0x07 => some (.tokwait f)
  | 0x08 => some (.tokpass f)
  | 0x09 => some (.phase f)
  | 0x0A => some (.puts f)
  | 0x0B => some (.get f)
  | 0x0C => some (.radd f)
  | 0x0D => some (.coll f)
  | 0x0E => some (.genrd f)
  | 0x0F => some (.brk f)
  | _ => none

/-- The instruction of an extended opcode (R39). -/
def xInstr (grp xop : Nat) (f : XForm) : Option Instr :=
  match grp with
  | 0x38 => intInstr xop f
  | 0x39 => floatInstr xop f
  | 0x3A => laneInstr xop f
  | 0x3B => memInstr xop f
  | 0x3C => asyncInstr xop f
  | 0x3D => matrixInstr xop f
  | 0x3E => sysInstr xop f
  | _ => none

/-- The instruction of a form; none where no opcode is assigned. -/
def Form.instr : Form → Option Instr
  | .r op f _ => rInstr op f
  | .i op f => iInstr op f
  | .l f => some (.movLiteral f)
  | .x grp xop f => xInstr grp xop f

/-! ### The decoder -/

/-- What decoding gives: an instruction with its length in bytes, or the one cause of R51. -/
inductive Dec where
  | ok (i : Instr) (len : Nat)
  | bad (cause : BitVec 9)
  deriving DecidableEq, Repr

/-- Decodes the words of an instruction that a PFX may precede; p is that PFX with its reserved bits' check and LEN (R46, R51). -/
def decodeUnder (env : DecEnv) (p : Option (PForm × Bool × Bool)) : List Word → Dec
  | [] => .bad 0x000
  | w :: rest =>
    let op := opOf w
    if 0x29 ≤ op && op ≤ 0x37 then .bad 0x000
    else if (match p with | some (_, _, lenBad) => lenBad | none => false) || !lenOk w then .bad 0x005
    else if 0x38 ≤ op && op < 0x3F && lastXop op < xopOf w then .bad 0x001
    else if op = 0x3F then .bad 0x003
    else
      let fm := formOf w rest
      match fm.check env (p.map (·.1)) (match p with | some (_, r, _) => r | none => true) with
      | some c => .bad c
      | none => match fm.instr with
        | some i => .ok i (4 * wordCount w)
        | none => .bad 0x000

/-- Decodes the words at a program counter. A PFX word is judged with the instruction it binds to (R47, R48, R51); a legal pair
gives the PFX, whose instruction is decoded when its turn comes. -/
def decode (env : DecEnv) : List Word → Dec
  | [] => .bad 0x000
  | w :: rest =>
    if opOf w = 0x3F then
      match decodeUnder env (some (pFields w, pRest w, !lenOk w)) rest with
      | .ok _ _ => .ok (.pfx (pFields w)) 4
      | .bad c => .bad c
    else decodeUnder env none (w :: rest)

/-- A PFX word on its own, for the words a table gives without the instruction it prefixes (R46, R49). -/
def decodePfxWord (w : Word) : Option Instr :=
  if lenOk w && pRest w && pfxOrder7 (pFields w) && (pFields w).rnd != 7 && (pFields w).c != 255 then some (.pfx (pFields w))
  else none

/-- n 32-bit words of a number, the lowest first. -/
def wordsOfNat (w : Nat) : Nat → List Word
  | 0 => []
  | n + 1 => BitVec.ofNat 32 w :: wordsOfNat (w / 2 ^ 32) n

/-- The decoder on the bits of an opcode-table row: bit 0 is the least significant bit of the first word; bits above nbits are
zero. A PFX is read on its own, since its row is one word. -/
def decodeTableWord (nbits w : Nat) : Option Instr :=
  match wordsOfNat (w % 2 ^ nbits) 5 with
  | [] => none
  | w0 :: rest =>
    if opOf w0 = 0x3F then decodePfxWord w0
    else match decode DecEnv.default (w0 :: rest) with
      | .ok i _ => some i
      | .bad _ => none

/-! ### The encoder -/

/-- An R-form word (R29, R30). -/
def rWord (len : BitVec 2) (op : Nat) (f : RForm) : Word :=
  len ++ BitVec.ofBool f.lnd ++ BitVec.ofNat 6 op ++ f.d ++ f.a ++ f.b ++ BitVec.ofBool f.h ++ BitVec.ofBool f.nw

/-- An I-form word (R29, R31). -/
def iWord (len : BitVec 2) (op : Nat) (f : IForm) : Word :=
  len ++ BitVec.ofBool f.lnd ++ BitVec.ofNat 6 op ++ f.d ++ f.a ++ f.imm ++ BitVec.ofBool f.h

/-- Word 0 of an extended form (R36). -/
def xWord0 (len : BitVec 2) (grp xop : Nat) (f : XForm) : Word :=
  len ++ BitVec.ofBool f.lnd ++ BitVec.ofNat 6 grp ++ BitVec.ofNat 8 xop ++ f.d ++ f.h2 ++ BitVec.ofBool f.nw ++ f.ty

/-- Word 1 of an extended form (R36). -/
def xWord1 (f : XForm) : Word := f.a ++ f.b ++ f.c ++ f.e

/-- The two words of a literal (R26). -/
def litWords : Option (BitVec 64) → List Word
  | none => []
  | some l => [l.extractLsb' 0 32, l.extractLsb' 32 32]

/-- The PFX word (R46). -/
def pWord (p : PForm) : Word :=
  (0 : BitVec 2) ++ (0 : BitVec 1) ++ (0x3F : BitVec 6) ++ p.mask ++ BitVec.ofBool p.zm ++ p.rnd ++ p.c ++ BitVec.ofBool p.cv ++
    BitVec.ofBool p.sat ++ (0 : BitVec 6)

/-- The words of a form. -/
def Form.encode : Form → List Word
  | .r op f lit => rWord (if lit.isSome then 1 else 0) op f :: litWords lit
  | .i op f => iWord (if f.lit.isSome then 1 else 0) op f :: litWords f.lit
  | .l f => rWord 1 0x01 ⟨f.lnd, f.d, 127, 0, f.h, f.nw⟩ :: litWords (some f.lit)
  | .x grp xop f => xWord0 (if f.lit.isSome then 3 else 2) grp xop f :: xWord1 f :: f.mod :: litWords f.lit

/-- The words of an instruction; an event has none. -/
def encode (i : Instr) : List Word :=
  match i with
  | .pfx p => [pWord p]
  | i => match i.form with
    | some fm => fm.encode
    | none => []

/-- The first failing encoding check of an instruction under a PFX or alone; an event has none to fail. -/
def Instr.check (env : DecEnv) (p : Option PForm) (i : Instr) : Option (BitVec 9) :=
  match i.form with
  | some fm => fm.check env p true
  | none => none

end Sys2Proof
end

