-- ==== Sys2Proof/Machine/Num.lean ====
section
/-! DEFINITION. Number formats, exact values and rounding (R63 to R91). A finite value is ±m × 2^e; sticky says that the real
value lies strictly between ±m × 2^e and ±(m + 1) × 2^e (quotients, roots, special functions), where m carries far more bits
than any format. -/

namespace Sys2Proof.Machine

/-- The five exception flags in the layout of FLAGS (R165): NV, DZ, OF, UF, NX from bit 0. -/
abbrev Flags5 := BitVec 5

def flNV : Flags5 := 1
def flDZ : Flags5 := 2
def flOF : Flags5 := 4
def flUF : Flags5 := 8
def flNX : Flags5 := 16

/-- A flag, if it is to be raised. -/
def flagIf (b : Bool) (f : Flags5) : Flags5 := if b then f else 0

/-- A floating-point element format (R63): width, fraction width, bias, whether it has infinities, the magnitude code of its
largest finite value, and the code a NaN result takes (R64; +0 in E2M1). -/
structure Fmt where
  bits : Nat
  frac : Nat
  bias : Nat
  hasInf : Bool
  maxFin : Nat
  nan : Nat
  deriving DecidableEq, Repr

def fp32 : Fmt := ⟨32, 23, 127, true, 0x7F7FFFFF, 0x7FC00000⟩
def fp16 : Fmt := ⟨16, 10, 15, true, 0x7BFF, 0x7E00⟩
def bf16 : Fmt := ⟨16, 7, 127, true, 0x7F7F, 0x7FC0⟩
def e5m2 : Fmt := ⟨8, 2, 15, true, 0x7B, 0x7E⟩
def e4m3 : Fmt := ⟨8, 3, 7, false, 0x7E, 0x7F⟩
def e2m1 : Fmt := ⟨4, 1, 1, false, 7, 0⟩

/-- An exact value (R90 decode): a NaN and whether it signals, an infinity, or ±m × 2^e with its sticky tail. -/
inductive FVal where
  | nan (signalling : Bool)
  | inf (neg : Bool)
  | fin (neg : Bool) (m : Nat) (e : Int) (sticky : Bool)
  deriving DecidableEq, Repr

/-- The sign bit as −1 or 1 times a magnitude. -/
def signed (neg : Bool) (m : Nat) : Int := if neg then -(m : Int) else (m : Int)

/-- An exact integer as a value. -/
def FVal.ofInt (i : Int) : FVal := .fin (i < 0) i.natAbs 0 false

/-- A zero of a sign. -/
def FVal.zero (neg : Bool) : FVal := .fin neg 0 0 false

/-- decode(c, f) (R63, R90). -/
def decodeFmt (f : Fmt) (c : Nat) : FVal :=
  let neg := c.testBit (f.bits - 1)
  let mag := c % 2 ^ (f.bits - 1)
  if f.hasInf && mag == f.maxFin + 1 then .inf neg
  else if f.maxFin < mag then .nan (f.hasInf && !mag.testBit (f.frac - 1))
  else
    let ef := mag / 2 ^ f.frac
    let fr := mag % 2 ^ f.frac
    if ef = 0 then .fin neg fr (1 - (f.bias : Int) - f.frac) false
    else .fin neg (2 ^ f.frac + fr) ((ef : Int) - f.bias - f.frac) false

/-- A code and the flags of the rounding that made it. -/
structure Rounded where
  code : Nat
  flags : Flags5
  deriving DecidableEq, Repr

/-- The sign bit of a format, if negative. -/
def Fmt.sign (f : Fmt) (neg : Bool) : Nat := if neg then 2 ^ (f.bits - 1) else 0

/-- overflow_result and the results under SAT (R75). -/
def overflowResult (f : Fmt) (neg : Bool) (mode : Nat) (sat : Bool) : Nat :=
  let big := f.sign neg + f.maxFin
  let ovf := if f.hasInf then f.sign neg + f.maxFin + 1 else f.nan
  if sat || f == e2m1 then big
  else match mode with
    | 2 => big
    | 3 => if neg then ovf else big
    | 4 => if neg then big else ovf
    | _ => ovf

/-- Whether round_to rounds up: t + fr is the magnitude in ulps, rem / 2^k the fraction fr, with a sticky tail (R74). -/
def roundUp (mode : Nat) (neg : Bool) (t rem k : Nat) (sticky : Bool) (u b : Nat) : Bool :=
  let half := 2 ^ k
  let gt := half < 2 * rem || (2 * rem == half && sticky)
  let eq := 2 * rem == half && !sticky
  let nz := rem != 0 || sticky
  match mode with
  | 2 => false
  | 3 => neg && nz
  | 4 => !neg && nz
  | 5 => gt || eq
  | 6 => u < rem * 2 ^ b / 2 ^ k
  | _ => gt || (eq && t % 2 == 1)

/-- round_to(x, f, mode, u, b) with SAT and the flags of R76 (R74, R75). Mode 0 is RNE (R73). A NaN's invalid flag for a
signalling input is the caller's; here it is raised where the format has no NaN or only one, and inexact where it has none, since +0 is
another value (R76). -/
def roundTo (f : Fmt) (mode : Nat) (sat : Bool) (u b : Nat) : FVal → Rounded
  | .nan _ => ⟨f.nan, flagIf (!f.hasInf) flNV ||| flagIf (f.nan = 0) flNX⟩
  | .inf neg =>
    if f.hasInf then
      if sat then ⟨f.sign neg + f.maxFin, flNX⟩ else ⟨f.sign neg + f.maxFin + 1, 0⟩
    else ⟨overflowResult f neg mode sat, flNV ||| flNX⟩
  | .fin neg m e sticky =>
    if m = 0 && !sticky then ⟨f.sign neg, 0⟩
    else
      let emin : Int := 1 - (f.bias : Int)
      let ex := max (e + (Nat.log2 m : Int)) emin
      let sh := e - (ex - (f.frac : Int))
      let k := (-sh).toNat
      let t := if 0 ≤ sh then m * 2 ^ sh.toNat else m / 2 ^ k
      let rem := if 0 ≤ sh then 0 else m % 2 ^ k
      let t' := if roundUp mode neg t rem k sticky u b then t + 1 else t
      let mag := (ex - emin).toNat * 2 ^ f.frac + t'
      let inexact := rem != 0 || sticky
      if f.maxFin < mag then ⟨overflowResult f neg mode sat, flOF ||| flNX⟩
      else
        let tiny := mag < 2 ^ f.frac
        ⟨f.sign neg + mag, flagIf (inexact && tiny) flUF ||| flagIf inexact flNX⟩

/-- round_to to FP32 with the subnormal mode on the result (R77). -/
def round32 (ftz : Bool) (mode : Nat) (x : FVal) : Rounded :=
  let r := roundTo fp32 mode false 0 32 x
  let mag := r.code % 2 ^ 31
  if ftz && mag != 0 && mag < 0x800000 then ⟨r.code - mag, r.flags ||| flUF ||| flNX⟩ else r

/-- An FP32 operand under the subnormal mode (R77). -/
def decode32 (ftz : Bool) (c : Nat) : FVal :=
  match decodeFmt fp32 c with
  | .fin neg m e st => if ftz && m < 2 ^ 23 then .zero neg else .fin neg m e st
  | v => v

/-- The element formats of the types .f32, .f16x2 and .bf16x2 (R227). -/
def typeFmt (ty : Nat) : Fmt := if ty = 1 then fp16 else if ty = 2 then bf16 else fp32

/-- decode of an element of a format, FTZ applied on the FP32 side only (R77). -/
def decodeElem (ftz : Bool) (f : Fmt) (c : Nat) : FVal :=
  if f == fp32 then decode32 ftz c else decodeFmt f c

/-- round_to an element format, FTZ applied on the FP32 side only (R77). -/
def roundElem (ftz : Bool) (f : Fmt) (mode : Nat) (x : FVal) : Rounded :=
  if f == fp32 then round32 ftz mode x else roundTo f mode false 0 32 x

/-! ### Exact operations (R232): the value and the invalid or divide-by-zero flag -/

def FVal.isNan : FVal → Bool
  | .nan _ => true
  | _ => false

/-- The invalid flag of a signalling NaN input (R64, R76). -/
def FVal.sigFlag : FVal → Flags5
  | .nan true => flNV
  | _ => 0

def FVal.isInf : FVal → Bool
  | .inf _ => true
  | _ => false

def FVal.isZero : FVal → Bool
  | .fin _ m _ st => m == 0 && !st
  | _ => false

def FVal.sign : FVal → Bool
  | .nan _ => false
  | .inf n => n
  | .fin n _ _ _ => n

def FVal.neg : FVal → FVal
  | .nan s => .nan s
  | .inf n => .inf !n
  | .fin n m e st => .fin (!n) m e st

/-- The exact sum of two finite values as an integer multiple of 2^e. -/
def addFin (n₁ : Bool) (m₁ : Nat) (e₁ : Int) (n₂ : Bool) (m₂ : Nat) (e₂ : Int) : Int × Int :=
  let e := min e₁ e₂
  (signed n₁ (m₁ * 2 ^ (e₁ - e).toNat) + signed n₂ (m₂ * 2 ^ (e₂ - e).toNat), e)

/-- The exact sum; rdn decides the sign of a zero sum of opposite signs (R232). -/
def FVal.add (rdn : Bool) : FVal → FVal → FVal × Flags5
  | .nan a, .nan b => (.nan false, flagIf (a || b) flNV)
  | .nan a, _ => (.nan false, flagIf a flNV)
  | _, .nan b => (.nan false, flagIf b flNV)
  | .inf a, .inf b => if a = b then (.inf a, 0) else (.nan false, flNV)
  | .inf a, _ => (.inf a, 0)
  | _, .inf b => (.inf b, 0)
  | .fin n₁ m₁ e₁ s₁, .fin n₂ m₂ e₂ s₂ =>
    let r := addFin n₁ m₁ e₁ n₂ m₂ e₂
    if r.1 = 0 then (.zero (if n₁ = n₂ then n₁ else rdn), 0)
    else (.fin (r.1 < 0) r.1.natAbs r.2 (s₁ || s₂), 0)

/-- The exact product (R232). -/
def FVal.mul : FVal → FVal → FVal × Flags5
  | .nan a, .nan b => (.nan false, flagIf (a || b) flNV)
  | .nan a, _ => (.nan false, flagIf a flNV)
  | _, .nan b => (.nan false, flagIf b flNV)
  | .inf a, .inf b => (.inf (a != b), 0)
  | .inf a, .fin n m _ _ => if m = 0 then (.nan false, flNV) else (.inf (a != n), 0)
  | .fin n m _ _, .inf b => if m = 0 then (.nan false, flNV) else (.inf (n != b), 0)
  | .fin n₁ m₁ e₁ _, .fin n₂ m₂ e₂ _ => (.fin (n₁ != n₂) (m₁ * m₂) (e₁ + e₂) false, 0)

/-- a × b + c, exact (R231, R232). -/
def FVal.fma (rdn : Bool) (a b c : FVal) : FVal × Flags5 :=
  let p := a.mul b
  let s := p.1.add rdn c
  (s.1, p.2 ||| s.2)

/-- a ÷ b to at least 128 bits with a sticky tail (R240). -/
def FVal.div : FVal → FVal → FVal × Flags5
  | .nan a, .nan b => (.nan false, flagIf (a || b) flNV)
  | .nan a, _ => (.nan false, flagIf a flNV)
  | _, .nan b => (.nan false, flagIf b flNV)
  | .inf _, .inf _ => (.nan false, flNV)
  | .inf a, .fin n _ _ _ => (.inf (a != n), 0)
  | .fin n _ _ _, .inf b => (.zero (n != b), 0)
  | .fin n₁ m₁ e₁ _, .fin n₂ m₂ e₂ _ =>
    if m₂ = 0 then
      if m₁ = 0 then (.nan false, flNV) else (.inf (n₁ != n₂), flDZ)
    else (.fin (n₁ != n₂) (m₁ * 2 ^ 160 / m₂) (e₁ - e₂ - 160) (m₁ * 2 ^ 160 % m₂ != 0), 0)

/-- Integer square root by binary digits, from 2^k down. -/
def isqrtFrom (n : Nat) : Nat → Nat → Nat
  | 0, r => if (r + 1) * (r + 1) ≤ n then r + 1 else r
  | k + 1, r =>
    let c := r + 2 ^ (k + 1)
    isqrtFrom n k (if c * c ≤ n then c else r)

/-- floor(√n). -/
def isqrt (n : Nat) : Nat := isqrtFrom n (Nat.log2 n / 2 + 1) 0

/-- √a to at least 64 bits with a sticky tail (R240). -/
def FVal.sqrt : FVal → FVal × Flags5
  | .nan a => (.nan false, flagIf a flNV)
  | .inf neg => if neg then (.nan false, flNV) else (.inf false, 0)
  | .fin neg m e _ =>
    if m = 0 then (.zero neg, 0)
    else if neg then (.nan false, flNV)
    else
      let odd := e % 2 = 1
      let m' := (if odd then 2 * m else m) * 2 ^ 160
      let e' := ((if odd then e - 1 else e) - 160) / 2
      let r := isqrt m'
      (.fin false r e' (r * r != m'), 0)

/-- Less-than on non-NaN values, −0 below +0 if strict is asked (R233), by exact comparison. -/
def FVal.cmp : FVal → FVal → Ordering
  | .inf a, .inf b => if a = b then .eq else if a then .lt else .gt
  | .inf a, _ => if a then .lt else .gt
  | _, .inf b => if b then .gt else .lt
  | .fin n₁ m₁ e₁ _, .fin n₂ m₂ e₂ _ =>
    let r := addFin n₁ m₁ e₁ (!n₂) m₂ e₂
    if r.1 < 0 then .lt else if r.1 = 0 then .eq else .gt
  | _, _ => .eq

/-- The sign and zero rule of R233: whether a orders strictly below b, −0 below +0. -/
def FVal.below (a b : FVal) : Bool :=
  match a.cmp b with
  | .lt => true
  | .gt => false
  | .eq => a.sign && !b.sign

/-- FMIN, FMAX (prop false) and FMINM, FMAXM (prop true): an operand, never rounded (R233). -/
def FVal.minmax (isMax prop : Bool) (a b : FVal) : FVal × Flags5 :=
  let fl := a.sigFlag ||| b.sigFlag
  if a.isNan && b.isNan then (.nan false, fl)
  else if a.isNan then (if prop then .nan false else b, fl)
  else if b.isNan then (if prop then .nan false else a, fl)
  else (if (if isMax then b.below a else a.below b) then a else b, fl)

/-! ### The approximate functions (R82, R83), by fixed-point series of 900 fraction bits -/

/-- Fraction bits of the series. -/
def serP : Nat := 900
/-- π × 2^900. -/
def piFix : Nat :=
  0x3243f6a8885a308d313198a2e03707344a4093822299f31d0082efa98ec4e6c89452821e638d01377be5466cf34e90c6cc0ac29b7c97c50dd3f84d5b5b54709179216d5d98979fb1bd1310ba698dfb5ac2ffd72dbd01adfb7b8e1afed6a267e96ba7c9045f12c7f9924a19947b3916cf70
/-- ln 2 × 2^900. -/
def ln2Fix : Nat :=
  0xb17217f7d1cf79abc9e3b39803f2f6af40f343267298b62d8a0d175b8baafa2be7b876206debac98559552fb4afa1b10ed2eae35c138214427573b291169b8253e96ca16224ae8c51acbda11317c387eb9ea9bc3b136603b256fa0ec7657f74b72ce87b19d6548caf5dfa6bd383032486

/-- Σ x^n/n! from term number n on (x in fixed point). -/
def expSer (x : Nat) : Nat → Nat → Nat → Nat
  | 0, _, _ => 0
  | k + 1, n, t => t + expSer x k (n + 1) (t * x / 2 ^ serP / (n + 1))

/-- e^x for a fixed-point x in [0, 1). -/
def expFix (x : Nat) : Nat := expSer x 260 0 (2 ^ serP)

/-- Alternating Σ (−1)^j x^(2j+o)/(2j+o)! (o = 1 sine, o = 0 cosine). -/
def trigSer (x2 : Nat) : Nat → Nat → Nat → Bool → Int
  | 0, _, _, _ => 0
  | k + 1, n, t, neg => signed neg t + trigSer x2 k (n + 2) (t * x2 / 2 ^ serP / ((n + 1) * (n + 2))) (!neg)

def sinFix (x : Nat) : Int := trigSer (x * x / 2 ^ serP) 140 1 x false
def cosFix (x : Nat) : Int := trigSer (x * x / 2 ^ serP) 140 0 (2 ^ serP) false

/-- 2 Σ z^(2j+1)/(2j+1), the logarithm of (1 + z)/(1 − z). -/
def atanhSer (z2 : Nat) : Nat → Nat → Nat → Nat
  | 0, _, _ => 0
  | k + 1, n, t => t / n + atanhSer z2 k (n + 2) (t * z2 / 2 ^ serP)

/-- log₂ y for a fixed-point y in [1, 2). -/
def log2Fix (y : Nat) : Nat :=
  let z := (y - 2 ^ serP) * 2 ^ serP / (y + 2 ^ serP)
  2 * atanhSer (z * z / 2 ^ serP) 300 1 z * 2 ^ serP / ln2Fix

/-- m × 2^e in fixed point, exact where it has no more than 900 fraction bits. -/
def toFix (m : Nat) (e : Int) : Nat :=
  let s := e + serP
  if 0 ≤ s then m * 2 ^ s.toNat else m / 2 ^ (-s).toNat

/-- A fixed-point magnitude as a value with a sticky tail. -/
def ofFix (neg : Bool) (x : Nat) : FVal := .fin neg x (-(serP : Int)) true

/-- e^x for x = m × 2^e below 2^9: mantissa in fixed point and a power of two. -/
def expParts (m : Nat) (e : Int) : Nat × Nat :=
  let x := toFix m e
  (expFix (x % ln2Fix), x / ln2Fix)

/-- 1/x. -/
def recipVal (neg : Bool) (m : Nat) (e : Int) : FVal :=
  let k := Nat.log2 m + 64
  .fin neg (2 ^ k / m) (-e - k) (2 ^ k % m != 0)

/-- 1/√x. -/
def rsqrtVal (m : Nat) (e : Int) : FVal :=
  let odd := e % 2 = 1
  let m' := if odd then 2 * m else m
  let e' := if odd then e - 1 else e
  let r := isqrt (2 ^ 200 / m')
  .fin false r (-(e' / 2) - 100) (r * r * m' != 2 ^ 200)

/-- 2^x. -/
def exp2Val (neg : Bool) (m : Nat) (e : Int) : FVal :=
  let x := signed neg (toFix m e)
  let n := x / 2 ^ serP
  let f := (x % 2 ^ serP).toNat
  if f = 0 then .fin false 1 n false
  else .fin false (expFix (f * ln2Fix / 2 ^ serP)) (n - serP) true

/-- log₂ x. -/
def log2Val (m : Nat) (e : Int) : FVal :=
  let k : Int := e + Nat.log2 m
  let y := toFix m (-(Nat.log2 m : Int))
  if y = 2 ^ serP then .ofInt k
  else
    let v := k * 2 ^ serP + (log2Fix y : Int)
    ofFix (v < 0) v.natAbs

/-- sin x and cos x for a magnitude: the quarter turn and the angle within it. -/
def turnParts (m : Nat) (e : Int) : Nat × Nat :=
  let x := toFix m e
  let q := piFix / 2
  (x / q % 4, x % q)

def sinVal (neg : Bool) (m : Nat) (e : Int) : FVal :=
  let t := turnParts m e
  let v := match t.1 with
    | 0 => sinFix t.2
    | 1 => cosFix t.2
    | 2 => -(sinFix t.2)
    | _ => -(cosFix t.2)
  ofFix ((v < 0) != neg) v.natAbs

def cosVal (m : Nat) (e : Int) : FVal :=
  if m = 0 then .fin false 1 0 false
  else
    let t := turnParts m e
    let v := match t.1 with
      | 0 => cosFix t.2
      | 1 => -(sinFix t.2)
      | 2 => -(cosFix t.2)
      | _ => sinFix t.2
    ofFix (v < 0) v.natAbs

/-- 1 − 2^−13 with a tail: what a value just below 1 truncates to. -/
def justBelowOne (neg : Bool) : FVal := .fin neg (2 ^ 100 - 1) (-100) true

def tanhVal (neg : Bool) (m : Nat) (e : Int) : FVal :=
  if 64 * 2 ^ serP ≤ toFix m e then justBelowOne neg
  else
    let p := expParts m (e + 1)
    let a := p.1 * 2 ^ p.2
    ofFix neg ((a - 2 ^ serP) * 2 ^ serP / (a + 2 ^ serP))

def sigmaVal (neg : Bool) (m : Nat) (e : Int) : FVal :=
  if m = 0 then .fin false 1 (-1) false
  else if 200 * 2 ^ serP ≤ toFix m e then
    if neg then .fin false 1 (-280) true else justBelowOne false
  else
    let p := expParts m e
    let a := p.1 * 2 ^ p.2
    ofFix false ((if neg then 2 ^ serP else a) * 2 ^ serP / (a + 2 ^ serP))

/-- trunc_sig(v, f) with the overflow row of R83 and the flags of R76 (R82). -/
def truncSig (f : Fmt) : FVal → Rounded
  | .nan _ => ⟨f.nan, 0⟩
  | .inf neg => ⟨f.sign neg + f.maxFin + 1, 0⟩
  | .fin neg m e sticky =>
    if m = 0 then ⟨f.sign neg, flagIf sticky (flUF ||| flNX)⟩
    else
      let ex := e + (Nat.log2 m : Int)
      if (f.bias : Int) < ex then ⟨f.sign neg + f.maxFin + 1, flOF ||| flNX⟩
      else
        let q := max (ex - (min 13 (f.frac + 1) : Nat) + 1) (1 - (f.bias : Int) - f.frac)
        let k := (q - e).toNat
        let t := m / 2 ^ k
        let lost := m % 2 ^ k != 0 || sticky
        let r := roundTo f 2 false 0 32 (.fin neg t (e + k) false)
        let tiny := r.code % 2 ^ (f.bits - 1) < 2 ^ f.frac
        ⟨r.code, flagIf (lost && tiny) flUF ||| flagIf lost flNX⟩

/-- The eight approximate functions. -/
inductive Approx where
  | rcp | rsq | exp2 | log2 | sin | cos | tanh | sigma
  deriving DecidableEq, Repr

/-- The exact value of an approximate function with its special cases (R83): value and NV or DZ flag. -/
def Approx.value : Approx → FVal → FVal × Flags5
  | _, .nan s => (.nan false, flagIf s flNV)
  | .rcp, .inf n => (.zero n, 0)
  | .rcp, .fin n m e _ => if m = 0 then (.inf n, flDZ) else (recipVal n m e, 0)
  | .rsq, .inf n => if n then (.nan false, flNV) else (.zero false, 0)
  | .rsq, .fin n m e _ =>
    if m = 0 then (.inf n, flDZ) else if n then (.nan false, flNV) else (rsqrtVal m e, 0)
  | .exp2, .inf n => (if n then .zero false else .inf false, 0)
  | .exp2, .fin n m e _ => (exp2Val n m e, 0)
  | .log2, .inf n => if n then (.nan false, flNV) else (.inf false, 0)
  | .log2, .fin n m e _ =>
    if m = 0 then (.inf true, flDZ) else if n then (.nan false, flNV) else (log2Val m e, 0)
  | .sin, .inf _ => (.nan false, flNV)
  | .sin, .fin n m e _ => if m = 0 then (.zero n, 0) else (sinVal n m e, 0)
  | .cos, .inf _ => (.nan false, flNV)
  | .cos, .fin _ m e _ => (cosVal m e, 0)
  | .tanh, .inf n => (.fin n 1 0 false, 0)
  | .tanh, .fin n m e _ => if m = 0 then (.zero n, 0) else (tanhVal n m e, 0)
  | .sigma, .inf n => (if n then .zero false else .fin false 1 0 false, 0)
  | .sigma, .fin n m e _ => (sigmaVal n m e, 0)

/-- An approximate function on one element of a format, with FTZ on the FP32 side (R77, R82, R83). -/
def Approx.eval (g : Approx) (ftz : Bool) (f : Fmt) (c : Nat) : Rounded :=
  let v := g.value (decodeElem ftz f c)
  let r := truncSig f v.1
  let mag := r.code % 2 ^ (f.bits - 1)
  let r := if f == fp32 && ftz && mag != 0 && mag < 0x800000 then ⟨r.code - mag, r.flags ||| flUF ||| flNX⟩ else r
  ⟨r.code, r.flags ||| v.2⟩

/-! ### Integral rounding (R239, R246, R247) -/

/-- x rounded to an integer by a mode, and whether it changed; for finite x. -/
def roundInt (mode : Nat) (neg : Bool) (m : Nat) (e : Int) : Int × Bool :=
  if 0 ≤ e then (signed neg (m * 2 ^ e.toNat), false)
  else
    let k := (-e).toNat
    let t := m / 2 ^ k
    let rem := m % 2 ^ k
    (signed neg (if roundUp (if mode = 6 then 1 else mode) neg t rem k false 0 0 then t + 1 else t), rem != 0)

/-- FRINT on one element (R239). -/
def frintElem (ftz : Bool) (f : Fmt) (mode c : Nat) : Rounded :=
  match decodeElem ftz f c with
  | .nan s => ⟨f.nan, flagIf s flNV⟩
  | .inf n => ⟨f.sign n + f.maxFin + 1, 0⟩
  | .fin n m e _ =>
    let r := roundInt mode n m e
    ⟨(roundTo f 1 false 0 32 (.fin n r.1.natAbs 0 false)).code, flagIf r.2 flNX⟩

/-- FFRAC on one element (R239). -/
def ffracElem (ftz : Bool) (f : Fmt) (c : Nat) : Rounded :=
  match decodeElem ftz f c with
  | .nan s => ⟨f.nan, flagIf s flNV⟩
  | .inf _ => ⟨f.nan, flNV⟩
  | .fin n m e _ =>
    if 0 ≤ e then ⟨f.sign n, 0⟩
    else roundElem ftz f 1 (.fin n (m % 2 ^ (-e).toNat) e false)

/-- FCLASS of one element (R237): the bit number. -/
def fclassBit (f : Fmt) (c : Nat) : Nat :=
  match decodeFmt f c with
  | .nan s => if s then 0 else 1
  | .inf n => if n then 2 else 9
  | .fin n m _ _ =>
    if m = 0 then (if n then 5 else 6)
    else if m < 2 ^ f.frac then (if n then 4 else 7) else (if n then 3 else 8)

/-! ### Random words (R81) -/

def rotl32 (v n : Nat) : Nat := v * 2 ^ n % 2 ^ 32 + v / 2 ^ (32 - n)

def randRot : List Nat := [13, 17, 5, 24, 9, 28, 11, 19, 7, 22]

/-- The rounds of rand_arx from round i on. -/
def randRounds (key : Nat) : List Nat → Nat → Nat → Nat → Nat
  | [], _, x, y => y * 2 ^ 32 + x
  | r :: rs, i, x, y =>
    let kw := if i % 2 = 0 then key % 2 ^ 32 else key / 2 ^ 32
    let x' := (x + y + kw + i * 0x9E3779B9) % 2 ^ 32
    randRounds key rs (i + 1) x' (rotl32 y r ^^^ x')

/-- rand_arx(key, ctr) (R81). -/
def randArx (key ctr : Nat) : Nat := randRounds (key % 2 ^ 64) randRot 0 (ctr % 2 ^ 32) (ctr / 2 ^ 32 % 2 ^ 32)

/-- The stochastic word u_j and its width b for result j of n (R79). -/
def srWord (r j n : Nat) : Nat × Nat := (r / 2 ^ (j * (64 / n)) % 2 ^ (64 / n), 64 / n)

/-! ### Format slots and elements (R65 to R72) -/

/-- Fields of a format slot word (R70). -/
def slotFmt (w : Word) : Nat := (w.extractLsb' 0 4).toNat
def slotBlock (w : Word) : Nat := (w.extractLsb' 9 2).toNat
def slotBscale (w : Word) : Nat := (w.extractLsb' 11 2).toNat
def slotZp (w : Word) : Bool := w.getLsbD 13
def slotTscale (w : Word) : Option Nat := if w.getLsbD 18 then some (w.extractLsb' 14 4).toNat else none
def slotKey (w : Word) : Option Nat := if w.getLsbD 23 then some (w.extractLsb' 19 4).toNat else none

/-- Whether a slot word uses a reserved bit or a reserved value (R70). -/
def slotReserved (w : Word) : Bool :=
  w.extractLsb' 24 8 != 0 || w.extractLsb' 4 5 != 0 || 13 ≤ slotFmt w || slotBlock w == 3 || slotBscale w == 3

/-- Whether a slot word is a valid combination; a key without its valid bit, and a tensor scale without its, is none (R70, R71; log 60). -/
def slotValid (w : Word) : Bool :=
  let f := slotFmt w
  let b := slotBlock w
  let s := slotBscale w
  let z := slotZp w
  w.extractLsb' 24 8 == 0 && w.extractLsb' 4 5 == 0 &&
  (w.getLsbD 23 || w.extractLsb' 19 4 == 0) && (w.getLsbD 18 || w.extractLsb' 14 4 == 0) &&
  (match f with
   | 0 => b == 0 && s == 0 && !z && !w.getLsbD 23 && !w.getLsbD 18
   | 1 | 2 | 3 | 4 | 5 | 6 => b == 0 && s == 0 && !z
   | 7 | 8 | 9 => b == 2 && s == 1 && !z
   | 10 => b == 1 && s == 2 && !z
   | 12 => !z && (if b == 0 then s == 0 else b != 3 && (s == 1 || s == 2))
   | 11 => z && (b == 1 || b == 2) && s != 3
   | _ => false)

/-- Element width of a slot format (R69, R70). -/
def fmtBits : Nat → Nat
  | 1 => 32
  | 2 | 3 => 16
  | 6 | 7 | 10 => 4
  | _ => 8

/-- Element format of a floating slot format. -/
def fmtOf : Nat → Fmt
  | 1 => fp32
  | 2 => fp16
  | 3 => bf16
  | 4 | 8 => e4m3
  | 5 | 9 => e5m2
  | _ => e2m1

/-- decode(c, f) of an element code of a slot format with a zero point (R63, R68). -/
def elemVal (fmt : Nat) (zp code : Nat) : FVal :=
  if fmt = 12 then .ofInt (BitVec.ofNat 8 code).toInt
  else if fmt = 11 then .ofInt ((code : Int) - zp)
  else decodeFmt (fmtOf fmt) code

/-- A block-scale byte: none 1, E8M0 or E4M3 (R65). -/
def scaleVal (bscale code : Nat) : FVal :=
  if bscale = 1 then (if code = 255 then .nan false else .fin false 1 ((code : Int) - 127) false)
  else if bscale = 2 then decodeFmt e4m3 code
  else .fin false 1 0 false

/-- block_value: x × S × T, exact (R67, R90). -/
def blockVal (x s t : FVal) : FVal := ((x.mul s).1.mul t).1

/-- dequant_bf16 (R89). -/
def dequantBf16 (x s t : FVal) : Nat := (roundTo bf16 1 false 0 32 (blockVal x s t)).code

end Sys2Proof.Machine
end

