-- ==== Sys2Proof/Config.lean ====
section
/-! DEFINITION. What an implementation fixes, and the free values of the model. A free value is an opaque constant without a
body: no proof can know it, so a claim holds whatever it is. -/

namespace Sys2Proof.Config

/-- Every value the manual calls unpredictable (R2): the n-th such value the machine delivers (log 2). -/
opaque free : Nat → BitVec 64
/-- The pod devices that watch a device, which only their own watch lists name (R470, R471; log 5). -/
opaque watchers : Nat → List Nat
/-- Whether an L1 copy of a line is still present when a load meets it for the n-th time (R174, R365; log 3). -/
opaque l1Keeps : Nat → Bool
/-- Which of the four slices of its reticle is home to a line (R363); used modulo 4 (log 4). -/
opaque homeSlice : Nat → Nat
/-- The set of its home slice that a line falls in (R362); used modulo 16,384 (log 4). -/
opaque l2Set : Nat → Nat
/-- The set of a second-level table that an entry of a context for an address range falls in (R389); used modulo 512 (log 4). -/
opaque tableSet : Nat → Nat → Nat → Nat
/-- The part's serial number, in the attestation report (R507; log 5). -/
opaque deviceSerial : Nat
/-- The silicon stepping of the register block (R492; log 5). -/
opaque stepping : BitVec 16
/-- The n-th ML-KEM-768 encapsulation key (R496; log 5). -/
opaque encapKey : Nat → List (BitVec 8)
/-- The shared secret that the n-th ML-KEM-768 key pair decapsulates from a ciphertext of 1,088 bytes; none where it does not (R496; log
5). -/
opaque decapsulate : Nat → List (BitVec 8) → Option (List (BitVec 8))
/-- The device's Ed25519 signature over a message (R496, R507; log 5). -/
opaque signEd25519 : List (BitVec 8) → List (BitVec 8)
/-- The device's ML-DSA-65 signature over a message (R496, R507; log 5). -/
opaque signMldsa65 : List (BitVec 8) → List (BitVec 8)
/-- What the boot ROM finds in the bytes of a firmware image: whether each signature verifies, security version, build, digest (R505;
log 5). -/
opaque readImage : List (BitVec 8) → Bool × Bool × Nat × Nat × List (BitVec 8)
/-- The fused minimum security version (R505; log 5). -/
opaque fusedMinimum : Nat
/-- The n-th device table key, generated at boot (R395, R509; log 5). -/
opaque tableKey : Nat → List (BitVec 8)
/-- What a key slot that is unbound, or not bound to the context that reaches it, deciphers with (R396; log 34). -/
opaque noKey : Nat → List (BitVec 8)
/-- What the ciphertext of a line gives under a key that it was not written under (key, line, ciphertext), unpredictable (R396; log 34). -/
opaque misread : List (BitVec 8) → Nat → List (BitVec 8) → List (BitVec 8)

/-- The DRAM row of an HBM address (R414; log 5). -/
opaque hbmRow : Nat → Nat

/-- The gang patience that firmware sets, if it sets one (R501; log 53). -/
opaque patiencePolicy : Option Nat
/-- The PATIENCE that the Newel writes at admission: 96 unless firmware sets another, from 1 to 65,535 (R113, R501). -/
def patience : Nat := match patiencePolicy with | none => 96 | some n => 1 + n % 65535
/-- The HBM row-remap threshold that firmware sets, less one, if it sets one (R501; log 53). -/
opaque remapPolicy : Option Nat
/-- HBM row-remap threshold, corrected errors of one row in 24 hours: 8 unless firmware sets another (R414, R501). -/
def remapThreshold : Nat := match remapPolicy with | none => 8 | some n => 1 + n

/-- FENCE_TYP, FENCE_WORST, ATOM_TYP and ATOM_WORST of a scope code (R24). The Newel may lower
one for a partition within one reticle; the model never does (log 42). -/
def scopeCost : Nat → Nat × Nat × Nat × Nat
  | 0 => (1, 4, 20, 90)
  | 1 => (6, 40, 20, 90)
  | 2 => (24, 160, 48, 240)
  | 3 => (90, 520, 180, 800)
  | 4 => (240, 1400, 420, 2000)
  | 5 => (420, 2800, 700, 3600)
  | 6 => (9000, 0xFFFFFFFF, 7200, 0xFFFFFFFF)
  | _ => (5400, 0xFFFFFFFF, 7200, 0xFFFFFFFF)

end Sys2Proof.Config
end

