-- ==== Sys2Proof/Machine/State.lean ====
section
/-! DEFINITION. The state of one DX-9600 as plain data: every register, table, queue and record the manual names, and the
schedule that says which step comes next. Sparse maps list only what differs from their default. -/

namespace Sys2Proof.Machine

/-- A sparse map in one canonical form: keys strictly rising, no entry equal to the map's default. -/
abbrev SMap (α : Type) := List (Nat × α)

/-- A warp by its core (physical number, R20) and its index on the core (R129). -/
structure WarpKey where
  core : Nat
  idx : Nat
  deriving DecidableEq, Repr

/-- A key slot that bytes of global memory are reached under, by its number (R387, R395); 0 for a scratchpad. -/
structure KeyNo where
  slot : Nat
  /-- the context whose leaf named it; 64 for the Newel's own accesses -/
  ctx : Nat
  deriving DecidableEq, Repr

/-! ### Issue: flights, latches, PC sets -/

/-- A latch's contents (R150, R151): one value of a scalar execution, or one per lane; a lane outside lanes has joined later (R122). -/
structure Latch where
  /-- produced by a scalar execution (R151) -/
  scalar : Bool
  /-- 64-bit contents; entry 0 for a scalar latch, entry l for lane l otherwise (R151) -/
  vals : SMap DWord
  /-- lanes whose contents are defined (R122, R135) -/
  lanes : LaneMask
  /-- base number of the free values that the other lanes read (R122, R135; log 2) -/
  seed : Nat
  /-- the load or atomic that is still to deliver it (R148, R150) -/
  due : Option Nat
  deriving DecidableEq, Repr

/-- A flight in progress (R121, R123). -/
structure Flight where
  /-- the core it runs on -/
  core : Nat
  /-- its issue slot (R127) -/
  slot : Nat
  /-- the index of its warp on the core (R129) -/
  warp : Nat
  /-- the active set (R121, R122) -/
  active : LaneMask
  /-- instructions issued so far (R124) -/
  count : Nat
  /-- latch l0 (R150); empty at the start of a flight -/
  l0 : Option Latch
  /-- latch l1 (R150); empty at the start of a flight -/
  l1 : Option Latch
  /-- latch l2 (R150); empty at the start of a flight -/
  l2 : Option Latch
  /-- a PFX whose pair is issuing (R47) -/
  pfx : Option PForm
  /-- a cause was recorded against its warp when it started, which it takes before its first instruction (R128) -/
  takes : Bool
  deriving DecidableEq, Repr

/-- Why a set is blocked: the condition of the waiting or not-issued instruction (R120). -/
inductive Wait where
  /-- BWAIT on an object of the scratchpad (glob false) or global memory, for a parity (R308) -/
  | barrier (glob : Bool) (addr : Nat) (parity : Bool)
  /-- PARK (R381) -/
  | park
  /-- TOKWAIT.tok (R281) -/
  | token
  /-- TOKWAIT.phase (R281) -/
  | tokenPhase
  /-- DRAIN (R300) -/
  | drain
  /-- DEPWAIT (R316) -/
  | depwait
  /-- MWAIT on queue entries of the warp up to an entry id that name a tile of the mask (R357) -/
  | matrix (tmask : BitVec 8) (upto : Nat)
  /-- WSYNC (R141) -/
  | wsync
  /-- QDRAIN of a queue register (R201) -/
  | queueDrain (q : Nat)
  /-- NMDRAIN (R374) -/
  | nearMemory
  /-- a 65th held memory instruction (R273) -/
  | fenceHold
  /-- a commit operation of so many bytes that does not fit the buffer (R277) -/
  | commitRoom (bytes : Nat)
  /-- KICK of so many records (R295) -/
  | requestRoom (n : Nat)
  /-- TKTAKE of a ticket at a value (R313) -/
  | ticket (t : Nat) (v : Nat)
  /-- no room for so many entries in the matrix queue (R328) -/
  | matrixRoom (n : Nat)
  /-- MMAT waiting for its team (R339) -/
  | team (f : XForm)
  /-- MCHK or trap-mode ACCST waiting for entries on a tile up to an entry id (R352, R354) -/
  | tileBusy (tile : Nat) (upto : Nat)
  /-- NMA beyond 256 lane operations, or in a context being switched out (R372, R423) -/
  | nmaRoom (n : Nat)
  /-- a 17th Gallery operation (R452) -/
  | galleryRoom
  deriving DecidableEq, Repr

/-- One PC set of a warp (R119, R120). -/
structure PcSet where
  /-- 57-bit address (R119); ENTRY at launch -/
  pc : Pc
  /-- its threads, by lane (R119) -/
  lanes : LaneMask
  /-- the unsatisfied wait it is blocked at (R120) -/
  blocked : Option Wait
  deriving DecidableEq, Repr

/-- A flight whose first instruction, an MMAT that waited for its team, issued in the cycle in which the team pass formed, and which has no
issue slot yet (R120, R339; log 69). -/
structure Begun where
  /-- the PC of its set, after the MMAT -/
  pc : Pc
  /-- what the MMAT holds for the next instruction (R150) -/
  l1 : Option Latch
  l2 : Option Latch
  deriving DecidableEq, Repr

/-! ### Registers of a warp -/

/-- An index register x (R153); value 0, window [0, 0) at launch. -/
structure XReg where
  /-- 8-bit value -/
  val : Nat
  /-- 8-bit low bound of the window -/
  lo : Nat
  /-- 8-bit high bound of the window -/
  hi : Nat
  deriving DecidableEq, Repr

/-- One group of a queue stream in queue storage (R157, R197). -/
structure QGroup where
  /-- the model's number of a pushed group, for fences (R271) -/
  id : Nat
  /-- group number in the stream (R198) -/
  index : Nat
  /-- element of each lane -/
  vals : SMap DWord
  /-- lanes whose element is poisoned (R412, R413) -/
  poison : LaneMask
  /-- a translation or protection fault on an element: its cause and address (R200) -/
  fault : Option (Cause × Nat)
  deriving DecidableEq, Repr

/-- A bound stream (R197 to R201). -/
structure Stream where
  /-- DIR: true for a store stream -/
  store : Bool
  /-- ESZ: true for 8-byte elements -/
  wide : Bool
  /-- BASE, 57-bit virtual address -/
  base : Nat
  /-- GROUPS, 32 bits -/
  groups : Nat
  /-- GSTR, signed 32 bits -/
  gstr : Int
  /-- LSTR, signed 32 bits -/
  lstr : Int
  /-- groups popped or pushed so far -/
  used : Nat
  /-- next group the QS engine takes (R288) -/
  next : Nat
  /-- groups whose element reads are under way (R288) -/
  reading : List QGroup
  /-- groups in queue storage: arrived, or pushed and not yet taken -/
  buf : List QGroup
  /-- element reads of a load stream that QCFG and pops have issued and the engine has not made, one for each group from next on: the
  number of the instruction (R261, R271) -/
  asks : List Nat
  deriving DecidableEq, Repr

/-- A warp's liveness record (R429). -/
inductive LiveRecord where
  | everything
  | parts (sa sb : BitVec 64) (bays : Word) (regs : BitVec 24) (acc : BitVec 8)
  deriving DecidableEq, Repr

/-- An armed watch slot with its monitor (R379, R380). -/
structure Watch where
  /-- object in global memory (true) or scratchpad -/
  glob : Bool
  /-- virtual address or scratchpad offset -/
  addr : Nat
  /-- physical address of a global object -/
  pa : Nat
  /-- the key slot of its page -/
  key : KeyNo
  /-- 8-byte word -/
  wide : Bool
  /-- predicate code, 2 bits -/
  pred : Nat
  /-- compared value -/
  value : DWord
  /-- sticky fired bit -/
  fired : Bool
  /-- its arming read, while that is not performed (R261, R380) -/
  arming : Option Nat
  deriving DecidableEq, Repr

/-- A warp's team membership (R338). -/
structure Team where
  lead : Nat
  size : Nat
  /-- MMATs since the warp's MCOOP -/
  ordinal : Nat
  /-- broken by R342 -/
  broken : Bool
  deriving DecidableEq, Repr

/-- What holds a warp (R391, R200, R420). -/
inductive HoldKind where
  /-- a translation or protection fault awaiting FAULTANS (R391) -/
  | fault
  /-- a queue-element fault awaiting FAULTANS with bit 9 (R200) -/
  | element
  /-- a BRK hold awaiting BRKANS (R420) -/
  | brk
  deriving DecidableEq, Repr

/-- A held warp: what is reported again at restore (R391, R431). -/
structure Hold where
  kind : HoldKind
  cause : Cause
  /-- virtual address of the fault -/
  addr : Nat
  /-- access kind of R497 -/
  acc : Nat
  /-- BRK immediate -/
  aux : Nat
  /-- reported program counter -/
  pc : Pc
  deriving DecidableEq, Repr

/-- A resident warp (R93, R119, R143, R163). -/
structure Warp where
  /-- physical core it is resident on -/
  core : Nat
  /-- index on the core, 0 to 23 (R129) -/
  idx : Nat
  /-- its workgroup -/
  wg : WgKey
  /-- index within the workgroup (R93) -/
  num : Nat
  /-- width 16, 32 or 64 -/
  width : Nat
  /-- lane position (R98) -/
  pos : Nat
  /-- lanes that hold a thread, tail lanes out (R93) -/
  threads : LaneMask
  /-- v registers, key 64 n + lane, 32 bits each; 0 at launch (R143) -/
  v : SMap Word
  /-- s0 to s31, 32 bits; 0 at launch (R143) -/
  s : SMap Word
  /-- m1 to m7, one bit a lane; 0 at launch (R143, R144) -/
  m : SMap LaneMask
  /-- x0 to x3; value 0, window [0, 0) at launch (R143) -/
  x : SMap XReg
  /-- q0 to q3 bindings; unbound at launch (R143, R157) -/
  q : SMap Stream
  /-- status 0, MODE, 32 bits; 0 at launch (R163, R164) -/
  mode : Word
  /-- status 1, FLAGS, 32 bits; 0 at launch (R163, R165) -/
  flags : Word
  /-- status 2, SRSEQ, 32 bits; 0 at launch (R80, R163) -/
  srseq : Word
  /-- PC table as PC sets, ascending (R119); one set at ENTRY at launch -/
  pcs : List PcSet
  /-- flights issued on its slot by other warps since it last issued (R129) -/
  age : Nat
  /-- consecutive flights of the lowest set while another was eligible (R131) -/
  lowRuns : Nat
  /-- sets still to be served by the sweep, by PC and threads (R131) -/
  sweep : List (Pc × LaneMask)
  /-- flights that began with an MMAT at its team's formation and go on when the warp next has its slot (R339); none at launch -/
  begun : List Begun
  /-- fault, element or BRK hold (R391, R200, R420) -/
  hold : Option Hold
  /-- recorded cause it takes at its next flight (R298, R453) -/
  recorded : Option Cause
  /-- PHASE instructions issued (R275) -/
  phase : Nat
  /-- it has issued DEPDONE (R315) -/
  depDone : Bool
  /-- threads that have issued a releasing FENCE: their later atomics are releases (R266) -/
  relLanes : LaneMask
  /-- liveness record (R429); none at launch -/
  live : Option LiveRecord
  /-- watch slots 0 to 3 (R379); none armed at launch -/
  watch : SMap Watch
  /-- team membership (R338); none at launch -/
  team : Option Team
  /-- poisoned register entries: 64 n + lane for v, 12288 + n for s (R411) -/
  regPoison : List Nat
  deriving DecidableEq, Repr

/-! ### Workgroups -/

/-- An open containment region (R405). -/
structure Region where
  handler : Pc
  /-- class mask, 12 bits -/
  cls : BitVec 12
  /-- cause register, if any -/
  reg : Option Nat
  deriving DecidableEq, Repr

/-- How a workgroup ended (R100, R317). -/
inductive EndKind where
  | exit
  | kill
  | fault
  deriving DecidableEq, Repr

/-- An exact dyadic number m × 2^e (R8, R348). -/
structure Dyadic where
  m : Int
  e : Int
  deriving DecidableEq, Repr

/-- An accumulator tile with its hallmark state (R320, R348). -/
structure Tile where
  /-- elements, key 128 row + column, FP32 -/
  data : SMap Word
  /-- what an unlisted element reads as: zero after ACCZ, else one of pool or zero, by the free values of seed (R100, R344) -/
  zeroed : Bool
  /-- base number of its free values -/
  seed : Nat
  /-- what the context had left in tiles of the core when the tile was given (R100) -/
  pool : List Word
  /-- poisoned elements (R411) -/
  poison : List Nat
  /-- COLV of the four bands -/
  colv : BitVec 4
  /-- ROWV of the 32 rows -/
  rowv : BitVec 32
  /-- RUNS by band -/
  runs : SMap Nat
  /-- CC by 128 band + column -/
  cc : SMap Dyadic
  /-- AC by 128 band + column -/
  ac : SMap Dyadic
  /-- NFC: 128 band + column of set bits -/
  nfc : List Nat
  /-- RRUNS by row -/
  rruns : SMap Nat
  /-- CR by row -/
  cr : SMap Dyadic
  /-- AR by row -/
  ar : SMap Dyadic
  /-- NFR: rows of set bits -/
  nfr : List Nat
  deriving DecidableEq, Repr

/-- The check column of one B tile in a bay (R322): sums and absolute sums by k; nonfinite lists the k that are marked. -/
structure CheckColumn where
  tile : Nat
  slot : Nat
  sums : SMap Dyadic
  abss : SMap Dyadic
  nonfinite : List Nat
  deriving DecidableEq, Repr

/-- A resident workgroup and all it holds on its core (R97, R100). -/
structure Workgroup where
  key : WgKey
  /-- physical core -/
  core : Nat
  /-- scratchpad bytes; zero when given (R100, R175) -/
  scratch : List Host.Cell
  /-- poisoned scratchpad words (R411) -/
  scratchPoison : List Nat
  /-- mezzanine bytes; unlisted ones are zero or of bayPool, by the free values of baySeed (R100, R321) -/
  bay : List Host.Cell
  baySeed : Nat
  /-- bytes and tile elements that the context had left on the core when the workgroup was placed (R100) -/
  bayPool : List Byte
  tilePool : List Word
  /-- 64 KiB bay granules whose unlisted bytes are free values of a later base: not saved at a switch-out (R430) -/
  bayAlt : SMap Nat
  /-- poisoned bay granules of 32 bytes (R411) -/
  bayPoison : List Nat
  /-- check columns recorded by the bay (R322) -/
  checks : List CheckColumn
  /-- accumulator tiles a0 to a(ACC-1) (R320) -/
  tiles : SMap Tile
  /-- scale memory bytes; unlisted ones are free values of scaleSeed (R325) -/
  scale : SMap Byte
  scaleSeed : Nat
  /-- poisoned scale-memory words of 4 bytes (R411) -/
  scalePoison : List Nat
  /-- region stack, innermost first; its length is status 3, CRDEPTH (R166, R405); empty at launch -/
  regions : List Region
  /-- status 4, INFLT-LIMIT; 256 at launch (R163) -/
  infltLimit : Word
  /-- owed list: virtual addresses of global objects (R310) -/
  owed : List Nat
  /-- once its done mark is due: accesses numbered below this are awaited (R315) -/
  doneAt : Option Nat
  /-- its done bit is set, or could not be (R117, R315) -/
  doneMade : Bool
  /-- lines it has pinned (R375): physical line, and a virtual address in it for the image (R377) -/
  locks : List (Nat × Nat)
  /-- phases whose turn TOKPASS or PHASE has ended, each with the next id at that point (R276) -/
  ends : SMap Nat
  /-- those of them whose turn had begun when TOKPASS ended it (R276, R283) -/
  endedIn : List Nat
  /-- phase of its last commit operation performed (R266, R274) -/
  lastCommit : Option Nat
  /-- how it ended, once its last warp has ended (R100) -/
  ended : Option EndKind
  /-- written into the image of a context that is being switched out (R425) -/
  saved : Bool
  deriving DecidableEq, Repr

/-! ### Cores, matrix queue, copy records, accesses -/

/-- A 128-byte L1 line copy (R174). -/
structure L1Line where
  line : Nat
  /-- the key slot it was read under (R395) -/
  key : KeyNo
  /-- its 128 bytes -/
  bytes : List Byte
  deriving DecidableEq, Repr

/-- An assay register (R354); LO −∞, HI +∞, MODE 0, HIT 0 when a core takes its first workgroup. -/
structure BoundReg where
  lo : Word
  hi : Word
  mode : Nat
  hit : Nat
  deriving DecidableEq, Repr

/-- Where a pass takes its A rows from (R323, R324). -/
inductive ASource where
  /-- bytes read from registers at issue: 64 row + byte -/
  | regs (bytes : SMap Byte)
  /-- scratchpad offset and row stride -/
  | scratch (aofs stride : Nat)
  deriving DecidableEq, Repr

/-- A quarter pass (R329). -/
structure Quarter where
  warp : Nat
  tile : Nat
  band : Nat
  /-- first row of the quarter within the A source -/
  row0 : Nat
  zero : Bool
  src : ASource
  asci : Nat
  /-- FP32 scale of the C field, if named (R327) -/
  ts : Option Word
  /-- rows whose lane is in the execution mask, 8 bits -/
  rows : BitVec 8
  deriving DecidableEq, Repr

/-- The work of a matrix-queue entry (R328, R343 to R346, R340). -/
inductive MWork where
  /-- quarter passes fused into one pass (R330) -/
  | pass (bofs aslot bslot bsci : Nat) (quarters : List Quarter)
  /-- this member's part of a team pass (R340) -/
  | team (tile aslot bslot bofs bsci rowt : Nat) (zero : Bool) (leader : WgKey) (aofs stride asci : Nat) (ts : Option Word) (mates : List Nat)
  | scld (aofs sidx units : Nat)
  | accz (tmask : BitVec 8)
  | accld (tile aofs stride bf nb : Nat)
  /-- ACCST with the bound setting, MODE and SRSEQ read at issue (R346) -/
  | accst (tile aofs stride dslot bf nb : Nat) (bound : Option (Nat × BoundReg)) (mode srseq : Word)
  deriving DecidableEq, Repr

/-- A matrix-queue entry (R328). -/
structure MEntry where
  id : Nat
  warp : Nat
  wg : WgKey
  /-- program counter of its instruction, for the report of poison it reads (R413) -/
  pc : Pc
  work : MWork
  started : Bool
  /-- pending fences naming mx at its issue (R271) -/
  fences : List Nat
  deriving DecidableEq, Repr

/-- A copy record from KICK to its completion (R289, R296). -/
structure CopyRec where
  id : Nat
  warp : WarpKey
  wg : WgKey
  op : Nat
  src : Nat
  dst : Nat
  rows : Nat
  rowb : Nat
  sstr : Int
  dstr : Int
  /-- barrier object offset, when BV = 1 -/
  bar : Option Nat
  slot : Nat
  aux : Nat
  /-- SRC and SSTR of the ARG record (R294) -/
  arg : Option (Nat × Int)
  /-- admitted by the request engine (R296) -/
  admitted : Bool
  /-- row and byte of the next chunk to issue (R287) -/
  row : Nat
  ofs : Nat
  /-- chunks issued and not yet performed -/
  open_ : Nat
  /-- suspended at a fault: cause, address, access kind (R298) -/
  suspended : Option (Cause × Nat × Nat)
  /-- bay tiles written so far by a fill (R322) -/
  bayTiles : List Nat
  /-- pending fences naming cp at its KICK (R271) -/
  fences : List Nat
  deriving DecidableEq, Repr

/-- A chunk that a copy engine has issued (R287, R297). -/
structure Chunk where
  id : Nat
  rec_ : Nat
  /-- source address: physical, or an offset -/
  src : Nat
  /-- destination address: physical, or an offset -/
  dst : Nat
  /-- source bytes -/
  bytes : Nat
  /-- first element of the row it carries (dequantise) -/
  elem : Nat
  /-- virtual addresses of the destination's bytes, for a global side -/
  dstVa : Nat
  /-- physical addresses of the scale bytes of its blocks in order, with the key slots of their pages (dequantise) -/
  scales : List (Nat × KeyNo)
  /-- the key slots of the pages of its source and of its destination (R387) -/
  srcKey : KeyNo
  dstKey : KeyNo
  deriving DecidableEq, Repr

/-- A pushed store-stream group the QS engine is writing (R201, R288). -/
structure StoreGroup where
  id : Nat
  /-- the queue register whose binding pushed it, while that binding stands -/
  queue : Option Nat
  warp : WarpKey
  wg : WgKey
  wide : Bool
  /-- lane, physical address, value and key slot of each element -/
  elems : List (Nat × Nat × DWord × KeyNo)
  /-- their virtual addresses -/
  vas : List Nat
  poison : LaneMask
  fences : List Nat
  deriving DecidableEq, Repr

/-- An update of a barrier object (R298, R305 to R307, R309). -/
inductive BarOp where
  | init (n scope : Nat)
  | arrive (drop : Bool) (n bytes : Nat)
  | expect (bytes : Nat)
  | invalidate
  /-- abandonment of a global object on a pending line (R298, R453) -/
  | abandon
  deriving DecidableEq, Repr

/-- What an LSU or NM access does at its ordering point (R184, R194 to R196, R369, R380); an update of a barrier object that waits for
what it releases, which is on no path (R261, R302, R306). -/
inductive AccKind where
  | load
  | store
  /-- the arming read of a watch slot -/
  | watch (slot : Nat)
  | bar (op : BarOp)
  /-- integer atomic, OPC of R194 -/
  | atom (opc : Nat)
  | cas
  /-- float atomic, OPC of R196 -/
  | fatom (opc : Nat)
  /-- near-memory atomic, OPC of R369 -/
  | nma (opc : Nat)
  deriving DecidableEq, Repr

/-- One lane's part of an access. -/
structure LaneAcc where
  lane : Nat
  /-- virtual address or scratchpad offset -/
  va : Nat
  /-- physical address, or the scratchpad offset -/
  pa : Nat
  /-- target workgroup of a scratchpad access -/
  target : Nat
  /-- data, operand or compare value -/
  data : BitVec 128
  /-- new value of a compare and swap -/
  data2 : DWord
  /-- the key slot of a global address's page (R387) -/
  key : KeyNo
  deriving DecidableEq, Repr

/-- An access that has issued and is not yet performed (R260, R263). -/
structure Access where
  id : Nat
  warp : WarpKey
  wg : WgKey
  /-- program counter of its instruction, for the report of poison it delivers (R413) -/
  pc : Pc
  /-- the threads it belongs to (R261) -/
  threads : LaneMask
  /-- phase count of its warp at issue (R275) -/
  phase : Nat
  kind : AccKind
  /-- global memory (true) or a scratchpad -/
  glob : Bool
  /-- bytes per lane -/
  size : Nat
  /-- sign-extend a narrow load (R184) -/
  signed : Bool
  /-- destination operand code of a loading access; none where there is none or it is zero -/
  dst : Option (BitVec 8)
  /-- executes as a scalar (R183) -/
  scalar : Bool
  lanes : List LaneAcc
  /-- ORD: 1 acquire, 2 release, 3 both (R193) -/
  ord : Nat
  /-- SCOPE (R193) -/
  scope : Nat
  /-- cache hint (R188) -/
  hint : Nat
  /-- phase of a commit operation (R274) -/
  commit : Option Nat
  /-- a commit operation that was issued without the token (R277) -/
  buffered : Bool
  /-- near-memory: sent to the base die, awaiting acknowledgement; a number in the order of arrival at the home slices (R371) -/
  sent : Option Nat
  /-- threads of each later FENCE of its warp that names LSU accesses alone (R271) -/
  fenced : List LaneMask
  /-- it was issued behind a releasing FENCE of one of its threads: as an atomic, it is a release of R266 -/
  fencedRel : Bool
  deriving DecidableEq, Repr

/-- A FENCE whose earlier accesses are not all performed (R271). -/
structure FenceMark where
  id : Nat
  warp : WarpKey
  lanes : LaneMask
  ord : Nat
  scope : Nat
  paths : BitVec 5
  /-- ids of earlier LSU and NM accesses, copy records, store groups, matrix entries and Gallery operations it waits for -/
  waits : List Nat
  deriving DecidableEq, Repr

/-- Bytes of global memory that a warp's access has reached ahead of others of its warp, where only operations of a scope order it behind
them (R18; log 54). -/
structure Pass where
  warp : WarpKey
  /-- ids of the accesses that it has overtaken -/
  waits : List Nat
  scope : Nat
  pa : Nat
  size : Nat
  deriving DecidableEq, Repr

/-- What accesses global memory or a scratchpad indivisibly on its own path only, or writes it plainly on another path than the LSU's
(R192, R269). -/
inductive Rival where
  /-- an atomic of the LSU path -/
  | lsu
  /-- a near-memory atomic, or an element of a RADD -/
  | near
  /-- an inline reduce -/
  | reduce
  /-- a copy, a store-stream group or a plain Gallery write -/
  | plain
  deriving DecidableEq, Repr

/-- Where bytes lie: in global memory, or in a workgroup's scratchpad. -/
abbrev Space := Option WgKey

/-- What a performed operation has left that no fence or release of its warp orders yet: an operation of another path on the same bytes
makes them unpredictable (R192, R267, R269). -/
structure Spent where
  kind : Rival
  warp : WarpKey
  wg : WgKey
  threads : LaneMask
  /-- number of the access, record or group -/
  id : Nat
  space : Space
  pa : Nat
  size : Nat
  deriving DecidableEq, Repr

/-- The memory instructions of all warps in issue order (R262, R271). -/
inductive Pending where
  | access (a : Access)
  | fence (f : FenceMark)
  deriving DecidableEq, Repr

/-- Load data on its way back to its destination (R149). -/
structure LoadRet where
  id : Nat
  warp : WarpKey
  wg : WgKey
  /-- program counter of its instruction -/
  pc : Pc
  dst : BitVec 8
  scalar : Bool
  /-- 4-byte registers written: 1, 2 or 4 -/
  regs : Nat
  /-- the threads it is for -/
  threads : LaneMask
  vals : SMap (BitVec 128)
  /-- lanes that read a poisoned byte, lowest first, each with its address (R401, R413) -/
  poisoned : List (Nat × Nat)
  /-- of an atomic, which is no load: an exit does not discard it (R140) -/
  atomic : Bool
  deriving DecidableEq, Repr

/-- A translation walk in progress (R388, R389). -/
structure Walk where
  id : Nat
  ctx : Nat
  va : Nat
  /-- the warp whose instruction fetch waits for it; none for a prefetch (R202) -/
  waiter : Option WarpKey
  /-- core and level of the prefetch that asked for it (R202) -/
  bring : Option (Nat × Nat)
  deriving DecidableEq, Repr

/-- The core that a walk is for. -/
def Walk.core (x : Walk) : Nat :=
  match x.waiter, x.bring with
  | some k, _ => k.core
  | none, some b => b.1
  | none, none => 0

/-- A cached translation, or a cached L2 or L1 entry of a walk (R389). -/
structure TlbEntry where
  /-- the table that holds it: the micro-table of core n below 192, else the second-level table of chiplet n - 192 -/
  tab : Nat
  ctx : Nat
  /-- first virtual address that it covers -/
  base : Nat
  /-- bytes that it covers -/
  size : Nat
  /-- the leaf entry (R387), or the L2 or L1 entry (R386) -/
  leaf : BitVec 64
  deriving DecidableEq, Repr

/-- A core (R13, R99). Unlisted cores are idle and owned by no partition. -/
structure Core where
  /-- physical number (R20) -/
  phys : Nat
  /-- warp width of its last workgroup (R99) -/
  width : Nat
  /-- carve in units of 32 KiB (R99) -/
  carve : Nat
  /-- L1 line copies (R174) -/
  l1 : List L1Line
  /-- matrix queue, head first, at most 8 (R328) -/
  mq : List MEntry
  /-- assay registers b0 to b15 (R354) -/
  bounds : SMap BoundReg
  /-- distinct bytes and tile elements that retired workgroups of the context have left in its bay and tiles; none once cleared
  (R100) -/
  leftBay : List Byte
  leftTiles : List Word
  deriving DecidableEq, Repr

/-! ### Grids and contexts -/

/-- A launch record as the Newel reads it (R95); reserved is true where a reserved field or value is used. -/
structure LaunchRecord where
  entry : Pc
  width : Nat
  vregs : Nat
  acc : Nat
  carve : Nat
  gang : Nat
  prio : Nat
  det : Bool
  ctx : Nat
  scratch : Nat
  bays : Nat
  wgx : Nat
  wgy : Nat
  wgz : Nat
  patience : Nat
  gx : Nat
  gy : Nat
  gz : Nat
  compl : Nat
  pred : Nat
  depfn : Nat
  deph : Nat
  depw : Nat
  pgx : Nat
  pgy : Nat
  pgz : Nat
  slots : List Word
  consts : List DWord
  reserved : Bool
  deriving DecidableEq, Repr

/-- A gang's wait for a layer (R111, R114). -/
structure GangWait where
  /-- order in which waits began -/
  since : Nat
  /-- retirements counted -/
  count : Nat
  deriving DecidableEq, Repr

/-- A TKPASS that still waits for the LSU accesses its warp issued before it, those numbered below upto (R314). -/
structure TicketPass where
  t : Nat
  wgid : Nat
  warp : WarpKey
  upto : Nat
  deriving DecidableEq, Repr

/-- An admitted grid (R103, R312, R275). -/
structure Grid where
  key : GridKey
  rec_ : LaunchRecord
  /-- order of admission on the device (R103) -/
  order : Nat
  /-- its launch queue; 256 where that has ended with its port (R491) -/
  queue : Nat
  tag : Word
  /-- lowest unplaced linear id (R103) -/
  next : Nat
  /-- logical core of its last placement (R104) -/
  lastCore : Option Nat
  /-- logical layer of its last gang (R108) -/
  lastLayer : Option Nat
  /-- waiting gang (R111) -/
  waiting : Option GangWait
  /-- ticket counters t0 to t63, 32 bits; 0 at admission (R312) -/
  tickets : SMap Nat
  /-- abandoned tickets (R312) -/
  abandoned : List Nat
  /-- passes of tickets under way, oldest first (R314) -/
  passes : List TicketPass
  /-- phase of the commit token (R275) -/
  phase : Nat
  /-- workgroup whose turn it is, or the next to be visited (R275) -/
  turn : Nat
  /-- logical core of each placed workgroup (R162) -/
  placed : SMap Nat
  /-- retired workgroups and how they ended (R100, R314) -/
  retired : List (Nat × EndKind)
  /-- the turns that retired workgroups had ended, with the next id at that point (R276) -/
  gone : List (Nat × SMap Nat)
  /-- killed with its context (R437) -/
  killed : Bool
  deriving DecidableEq, Repr

/-- A core of a partition with its logical identities (R19). -/
structure LCore where
  logical : Nat
  layer : Nat
  chip : Nat
  reti : Nat
  /-- physical number (R20) -/
  phys : Nat
  /-- removed by a shrink, or due to be (R438) -/
  removed : Bool
  deriving DecidableEq, Repr

/-- States of a context (R421); a number without a record is in none. -/
inductive CtxState where
  | created
  | resident
  | switching
  | saved
  | restoring
  | killing
  deriving DecidableEq, Repr

/-- A context transition held until the one in progress ends (R421). -/
inductive Transition where
  | swout (h : AdminHdr) (buf : ImageBuffer)
  | restore (h : AdminHdr) (buf : ImageBuffer)
  | kill (h : AdminHdr)
  deriving DecidableEq, Repr

/-- A mailbox entry (R433). -/
structure MailEntry where
  wgid : Nat
  grid : Nat
  obj : Nat
  value : Nat
  /-- KIND 1, an arrival; otherwise a count-down of bytes -/
  arrival : Bool
  seq : Nat
  deriving DecidableEq, Repr

/-- A context record of the Newel (R392, R421). -/
structure Context where
  num : Nat
  st : CtxState
  /-- TROOT, 46 bits (R385) -/
  troot : Nat
  /-- pod size given by CTXNEW (R22) -/
  podSize : Nat
  /-- its mask of bound key slots (R392, R396) -/
  slots : List Nat
  /-- debug enable (R420) -/
  dbg : Bool
  /-- the partition with its logical numbering (R19, R392); empty before PARTBUILD -/
  part : List LCore
  /-- GRIDNO of the next admitted grid (R499) -/
  nextGrid : Nat
  /-- layer held for a gang: logical layer, grid (R112, R114) -/
  hold : Option (Nat × Nat)
  /-- transitions held by R421 -/
  held : List Transition
  /-- the buffer that it is saved to, where its mailbox lies (R422, R433) -/
  buf : Option ImageBuffer
  /-- mailbox entries not yet replayed (R433) -/
  mailbox : List MailEntry
  /-- entries received so far: SEQ of the next (R433) -/
  mailSeq : Nat
  /-- workgroups that stand in its image, while it is saved or restored (R432) -/
  away : List WgKey
  /-- grids of its image in the image's order: GRIDNO, queue, TAG (R428, R433, R500) -/
  awayGrids : List (Nat × Nat × Word)
  /-- numbers of the accesses and fences that stand in its image (R431, R448; log 17) -/
  awayIds : List Nat
  /-- causes kept for absent workgroups: workgroup, warp index within it, cause, object to abandon, global or not (R298, R453) -/
  kept : List (WgKey × Nat × Cause × Option (Bool × Nat))
  deriving DecidableEq, Repr

/-- What a context image holds (R427, R428); its bytes stand in its buffer's memory (Image.bytes). -/
structure Image where
  buf : ImageBuffer
  /-- the model's numbers in it lie below this -/
  ids : Nat
  /-- it has been restored before: its numbers are given anew -/
  used : Bool
  podRanks : Nat
  /-- partition shape as built: layer, chiplet, reticle of each logical core (R393) -/
  shape : List (Nat × Nat × Nat)
  grids : List Grid
  wgs : List Workgroup
  warps : List Warp
  /-- assay registers by logical core (R359) -/
  bounds : List (Nat × SMap BoundReg)
  /-- queued records and remainders, in queue order (R431) -/
  records : List CopyRec
  /-- buffered commit operations, and accesses behind fences that wait for queued records, with those fences (R431; log 17) -/
  pend : List Pending
  /-- matrix-queue entries behind such fences, by logical core (log 17) -/
  mqs : List (Nat × List MEntry)
  /-- store-stream groups of released bindings behind such fences (log 17) -/
  storeGroups : List StoreGroup
  hold : Option (Nat × Nat)
  nextGrid : Nat
  deriving DecidableEq, Repr

/-! ### The Newel and the hosts -/

/-- A launch queue (R498). -/
structure LQueue where
  p : QueueParams
  port : Nat
  /-- entries taken -/
  head : Nat
  /-- tail index written by QDB (R492) -/
  tail : Nat
  /-- QDEL has been accepted (R494) -/
  closing : Bool
  /-- completions written -/
  done : Nat
  /-- entries below this index are answered with 0x22 as they are taken (R494, R500) -/
  drain : Nat
  /-- when the head entry came to the head, among all queues; the model's own (R501) -/
  headAt : Nat
  deriving DecidableEq, Repr

/-- A named key slot (R395, R396). -/
structure KeySlot where
  slot : Nat
  owners : BitVec 64
  key : List Byte
  deriving DecidableEq, Repr

/-- An event record (R497). -/
structure EventRec where
  evt : Nat
  cause : Cause
  ctx : Nat
  wgid : Nat
  acc : Nat
  warp : Nat
  pc : Nat
  addr : Nat
  aux : Nat
  gridno : Nat
  time : Nat
  seq : Nat
  deriving DecidableEq, Repr

/-- A port's event ring (R497). -/
structure EvRing where
  k : Nat
  base : Nat
  vector : Nat
  /-- records written -/
  tail : Nat
  /-- EVHEAD (R492) -/
  head : Nat
  /-- records held while the ring is full, at most 4,096 -/
  held : List EventRec
  /-- records dropped (R497) -/
  dropped : Nat
  deriving DecidableEq, Repr

/-- A PCI Express port (R491, R492). -/
structure HostPort where
  /-- link trained -/
  up : Bool
  ring : Option EvRing
  /-- last address written to ADMDB (R492) -/
  admdb : Nat
  deriving DecidableEq, Repr

/-! ### The Gallery and membership -/

/-- A communicator record (R444, R477). -/
structure Comm where
  comm : Nat
  ctx : Nat
  nranks : Nat
  rank : Nat
  gen : BitVec 16
  t0 : List (BitVec 16)
  t1 : List (BitVec 16)
  /-- ACT: T1 is the active table -/
  act : Bool
  pend : Bool
  /-- COLL count (R457) -/
  colls : Nat
  /-- EVN at which the table held (R494) -/
  evn : Nat
  /-- frozen by the device's own expulsion (R479) -/
  frozen : Bool
  deriving DecidableEq, Repr

/-- The summary of R504; the manual gives its parts and no layout. -/
structure Summary where
  /-- firmware security version and build, if any is loaded -/
  firmware : Option (Nat × Nat)
  quar : Bool
  recov : Bool
  /-- PCI Express ports trained -/
  ports : List Bool
  time : Nat
  /-- last event number applied -/
  evn : Nat
  /-- number, state, physical cores, key-slot mask, debug enable -/
  ctxs : List (Nat × CtxState × List Nat × List Nat × Bool)
  /-- queue, context, class, port, head and tail indices -/
  queues : List (Nat × Nat × Nat × Nat × Nat × Nat)
  comms : List Comm
  /-- name, communicator, BGEN; SNAP, COL, RADDP, WR, RD -/
  regs : List (Nat × Nat × BitVec 16 × List Bool)
  /-- event records not delivered, by port -/
  undelivered : List (List EventRec)
  retired : List Nat
  poison : Nat
  deriving DecidableEq, Repr

/-- A checkpoint in progress (R508); its pages, and the key of one to host memory, are those of the moment it was accepted. A page is
translated as its copy begins (R390). -/
structure CkptJob where
  dest : CkptDest
  key : List Byte
  ctx : Nat
  /-- virtual addresses of the pages not yet copied -/
  pages : List Nat
  /-- number of the next page in the checkpoint -/
  index : Nat
  /-- the frame and key slot of the page whose copy is under way, and its bytes when it began -/
  copying : Option (Nat × KeyNo × List Byte)
  deriving DecidableEq, Repr

/-- The work of a long command (R494, R495). -/
inductive LongWork where
  /-- with the cores that the command removes -/
  | shrink (ctx : Nat) (cores : List Nat)
  /-- with the ranges of the cached leaves that it has removed (R390) -/
  | shoot (ctx base bytes : Nat) (spans : List (Nat × Nat))
  | qdel (queue : Nat)
  | swout (ctx : Nat)
  | restore (ctx : Nat) (buf : ImageBuffer)
  | kill (ctx : Nat)
  | commdel (comm : Nat)
  | dereg (comm name : Nat)
  | viewdel (comm name : Nat)
  | join (comm rank : Nat)
  /-- with what the summary says, taken when the command was accepted (R504) -/
  | resync (told : Summary)
  | fwload (image : FwImage)
  | ckpt (job : CkptJob)
  deriving DecidableEq, Repr

/-- A long command accepted and not complete (R495). -/
structure LongCmd where
  id : Nat
  h : AdminHdr
  work : LongWork
  /-- accesses numbered below this that it waits for, for a shootdown (R390) -/
  upto : Nat
  /-- ASTAT, RCAUSE and RES of the second response, once they are fixed -/
  result : Option (Nat × Cause × Nat)
  deriving DecidableEq, Repr

/-- An attestation report (R507). -/
structure Attestation where
  nonce : List (BitVec 8)
  serial : Nat
  digest : List (BitVec 8)
  secVersion : Nat
  fusedMin : Nat
  quar : Bool
  deriving DecidableEq, Repr

/-- What one block's snapshot registers hold (R503). -/
structure BlockRegs where
  /-- IEEE 1588 time of the trigger -/
  time : Nat
  corrected : Nat
  poison : Nat
  /-- of a base die's Gallery ports: in service, resends, times down -/
  ports : List (Bool × Nat × Nat)
  /-- of the Newel: event records dropped, by PCI Express port -/
  dropped : List Nat
  /-- of the Newel: missed triggers -/
  missed : Nat
  deriving DecidableEq, Repr

/-- What the Newel writes to host memory (R495 to R497, R500, R508), answers to reads, and interrupts; of the summary, the report and the
snapshot registers the manual gives the content and no layout. -/
inductive HostMsg where
  /-- bytes at a bus address, by way of a port -/
  | write (port addr : Nat) (bytes : List Byte)
  /-- the summary of a re-synchronising command (R504) -/
  | summary (port addr : Nat) (x : Summary)
  /-- an attestation report with its two signatures (R507) -/
  | report (port addr : Nat) (x : Attestation) (signatures : List (BitVec 8))
  /-- what a read of MW0 gives (R492) -/
  | mw0 (port offset : Nat) (value : BitVec 64)
  /-- what a read of a block's registers in MW1 gives (R503) -/
  | mw1 (port block : Nat) (x : BlockRegs)
  /-- an MSI-X vector of a port -/
  | msix (port : Nat) (vector : Nat)
  deriving DecidableEq, Repr

/-- A registration (R445, R447). -/
structure NamedBuffer where
  ctx : Nat
  d : BufferDesc
  /-- a deregistration is waiting for its operations (R446) -/
  closing : Bool
  deriving DecidableEq, Repr

/-- A snapshot view (R483 to R485). -/
structure View where
  comm : Nat
  source : Nat
  name : Nat
  /-- the first POD release fence naming GL that a warp of the context issued after VIEWNEW (R483) -/
  fence : Option Nat
  /-- that fence has acted -/
  frozen : Bool
  /-- physical frames left in the shadow pool -/
  pool : List Nat
  /-- page index by source frame, from the freeze on -/
  frames : SMap Nat
  /-- page of the source (64 KiB index) to the frame that keeps its frozen bytes -/
  pages : SMap Nat
  deriving DecidableEq, Repr

/-- The kind of a Gallery operation (R454, R463 to R465). -/
inductive GalKind where
  | coll (kind opr ofs len : Nat) (gchk : Option (BitVec 16)) (seq : Nat)
  | puts (laddr rofs len rank sofs sname : Nat) (sv : Bool)
  | get (laddr rofs len rank : Nat)
  | radd (opr laddr rofs len rank sofs sname : Nat) (sv : Bool)
  deriving DecidableEq, Repr

/-- A Gallery operation that is not complete (R452). -/
structure GalOp where
  id : Nat
  warp : WarpKey
  wg : WgKey
  /-- index of the warp within its workgroup, for an absent one (R453) -/
  warpNum : Nat
  comm : Nat
  name : Nat
  /-- stamp (R467) -/
  gen : BitVec 16
  /-- completion object: global, address or offset -/
  objG : Bool
  obj : Nat
  kind : GalKind
  /-- it has started (R481) -/
  started : Bool
  /-- a number in the order in which operations have started (R449) -/
  sentAt : Nat
  /-- ends of the range that other ranks have said a collective has: rank and coded offset (R457; log 20) -/
  heads : List (Nat × Nat)
  /-- data received, and pieces acknowledged (without bytes): rank, offset in the buffer, bytes -/
  got : List (Nat × Nat × List Byte)
  /-- poisoned 16-byte units received, counted from the operation's offset -/
  poison : List Nat
  /-- buffer generations received by rank (R458) -/
  bgens : List (Nat × BitVec 16)
  /-- suspended at a fault on local memory: cause, address, access kind (R453) -/
  suspended : Option (Cause × Nat × Nat)
  fences : List Nat
  deriving DecidableEq, Repr

/-- What the device sends on the Gallery (R443, R476). -/
inductive NetMsg where
  /-- a flit with its framing on a port (R441) -/
  | flit (port : Nat) (f : Flit)
  /-- a resend request from a sequence number on a port (R441) -/
  | resend (port : Nat) (seqno : BitVec 16)
  deriving DecidableEq, Repr

/-- What a device sends to another on a virtual lane: a packet of OP 0 to 6 with the operation of this device it belongs to, or a
membership message (R442, R443, R476). -/
inductive Outgoing where
  | packet (op : Option Nat) (p : Packet)
  /-- a membership message of a KIND and EVK (R476) -/
  | member (kind evk : Nat) (m : MemberMsg)
  deriving DecidableEq, Repr

/-- A virtual lane of a port (R442): flits received and not yet taken, and the STOP bit it sends. -/
structure VLane where
  buffered : List Flit
  stop : Bool
  deriving DecidableEq, Repr

/-- A Gallery port (R440, R441). -/
structure GalPort where
  up : Bool
  /-- next sequence number expected -/
  rxSeq : BitVec 16
  /-- discarding until the resend arrives (R441) -/
  discarding : Bool
  lanes : List VLane
  /-- stop bits last received, for the opposite direction -/
  peerStop : BitVec 4
  /-- sequence number of the next flit sent -/
  txSeq : BitVec 16
  /-- what has a flit among the last 1,024 sent, oldest first, with the sequence number of its header flit (R441, R475) -/
  held : List (BitVec 16 × Outgoing)
  /-- sent to a device on a lane that its receiver has stopped, oldest first (R442) -/
  waiting : List (Nat × Outgoing)
  /-- consecutive resends asked of the other end that failed (R441) -/
  failed : Nat
  /-- the sequence number last asked of this end, and how often in a row (R441) -/
  asked : Option (BitVec 16 × Nat)
  /-- resends asked, a snapshot count (R503) -/
  resends : Nat
  /-- times it went down, a snapshot count (R475, R503) -/
  downs : Nat
  deriving DecidableEq, Repr

/-- A suspicion this device has raised or answers (R472). -/
structure Suspicion where
  dev : Nat
  /-- who sent SUSPECT, for a suspicion this device answers; itself for its own -/
  from_ : Nat
  confirms : List Nat
  /-- expel request sent and unanswered -/
  requested : Bool
  deriving DecidableEq, Repr

/-- A membership event (R473). -/
inductive EventKind where
  | expel
  | departure
  | join
  deriving DecidableEq, Repr

/-- One stripe of a join (R487). -/
structure JoinStripeRec where
  id : Nat
  entry : Nat
  ofs : Nat
  len : Nat
  /-- sources tried -/
  tried : Nat
  /-- its reads are under way -/
  sent : Bool
  written : Bool
  /-- buffer generation that its data came with (R489) -/
  bgen : BitVec 16
  deriving DecidableEq, Repr

/-- A join-list entry (R486). -/
structure JoinEntry where
  daddr : Nat
  sofs : Nat
  len : Nat
  sname : Nat
  srank : Nat
  kind : Nat
  alt1 : Option Nat
  alt2 : Option Nat
  deriving DecidableEq, Repr

/-- A join in progress on the spare (R486 to R489). -/
structure JoinRec where
  cmd : Nat
  comm : Nat
  rank : Nat
  entries : List JoinEntry
  stripes : List JoinStripeRec
  /-- join request sent (R489) -/
  requested : Bool
  deriving DecidableEq, Repr

/-- The membership state of the fabric engines (R470 to R473, R479). -/
structure Membership where
  cfg : PodConfig
  /-- miss counts by device (R471) -/
  miss : SMap Nat
  /-- incarnation of each watched device's last heartbeat (R471) -/
  incs : SMap Nat
  suspicions : List Suspicion
  /-- last event number applied (R473) -/
  evn : Nat
  /-- events received ahead of their turn -/
  early : List (EventKind × MemberMsg)
  /-- events applied, for resends and floods -/
  log : List (EventKind × MemberMsg)
  /-- expelled (device, incarnation) pairs (R479) -/
  expelled : List (Nat × Nat)
  /-- this device is expelled (R479) -/
  selfExpelled : Bool
  /-- a new coordinator's 300 µs wait (R473) -/
  delaying : Bool
  /-- requests received and not yet numbered -/
  requests : List (EventKind × MemberMsg)
  /-- packets held for a newer generation, each with the port that received it (R480) -/
  heldPackets : List (Nat × Packet)
  deriving DecidableEq, Repr

/-! ### Device management -/

/-- One copy of the containment machinery (R417). -/
structure Containment where
  /-- poison record: granule address and the Newel's count -/
  poison : List (Nat × Nat)
  /-- remapped rows (R414) -/
  remap : List Nat
  /-- retired frames (R414) -/
  retired : List Nat
  deriving DecidableEq, Repr

/-- One latched set of snapshot registers (R503). -/
structure SnapSet where
  /-- IEEE 1588 time of the trigger -/
  time : Nat
  /-- corrected errors by block: base dies 0 to 7, core n as 8 + n, any other block from 200 on -/
  corrected : SMap Nat
  /-- granules and entries found poisoned, by block in the same way -/
  poison : SMap Nat
  /-- of each Gallery port: in service, resends, times down -/
  ports : List (Bool × Nat × Nat)
  /-- event records dropped, by PCI Express port -/
  dropped : List Nat
  deriving DecidableEq, Repr

/-- Snapshot registers (R503). -/
structure Snapshot where
  /-- trigger cause, if named -/
  cause : Option Cause
  latched : Option SnapSet
  /-- corrected errors counted, by block as in SnapSet (R411) -/
  corrected : SMap Nat
  /-- granules and entries found poisoned, by block (R411, R412) -/
  poison : SMap Nat
  /-- missed triggers -/
  missed : Word
  deriving DecidableEq, Repr

/-- A line of an L2 slice (R362, R365). -/
structure L2Line where
  line : Nat
  dirty : Bool
  /-- last used with .ef (R188) -/
  ef : Bool
  deriving DecidableEq, Repr

/-- What comes next, where the schedule says so (log 1). -/
inductive Choice where
  /-- the flight in progress on a core's slot issues its next instruction -/
  | issue (core slot : Nat)
  /-- an event of the part or of the outside world -/
  | event (e : Instr)
  /-- a write by a host to a register of MW0, with what stands in host memory where it writes ADMDB: the command and its data buffer
  (R492, R493) -/
  | hostWrite (port offset : Nat) (value : BitVec 64) (command buffer : List (BitVec 8))
  /-- a read by a host of MW0 at an offset (R492) -/
  | readMw0 (port offset : Nat)
  /-- a read by a host of a block's snapshot registers in MW1 (R503) -/
  | readMw1 (port block : Nat)
  /-- the part goes on with the work of a long command (R495, R508) -/
  | work (id : Nat)
  /-- an LSU access is performed before earlier ones of its warp that only operations of a scope order before it (R18, R263; log 54) -/
  | overtake (id : Nat)
  /-- the 16 bytes of one granule that an LSU store, a chunk or a store group writes to global memory part from its others, which are
  performed at another time (R483; log 56) -/
  | portion (id granule : Nat)
  deriving DecidableEq, Repr

/-- The whole device. -/
structure State where
  /-- the schedule's next choices; the model's own; empty at reset (log 1) -/
  agenda : List Choice
  /-- number of free values used; the model's own; 0 at reset (log 2) -/
  freeCtr : Nat
  /-- next id for accesses, records, chunks, entries, operations and commands; the model's own; 0 at reset -/
  nextId : Nat
  /-- global memory by physical address; unlisted bytes read zero (R384, R509) -/
  mem : List Host.Cell
  /-- poisoned 32-byte granules of global memory, by address ÷ 32 (R411) -/
  memPoison : List Nat
  /-- the key that each line's bytes were written under, for lines that a context or the Newel has written (R367, R395, R396) -/
  lineKeys : SMap (List Byte)
  /-- L2 lines present (R362); none at reset -/
  l2 : List L2Line
  /-- cached translations (R389); none at reset -/
  tlb : List TlbEntry
  /-- walks in progress (R389); none at reset -/
  walks : List Walk
  /-- flights in progress, the issuing one first (R121); none at reset -/
  flights : List Flight
  /-- cores that have held a workgroup (R99); none at reset -/
  cores : List Core
  /-- resident warps; none at reset -/
  warps : List Warp
  /-- resident workgroups; none at reset -/
  wgs : List Workgroup
  /-- admitted grids; none at reset -/
  grids : List Grid
  /-- context records 0 to 63 (R392); none at reset -/
  ctxs : List Context
  /-- memory instructions issued and not performed, in issue order (R262); none at reset -/
  pending : List Pending
  /-- load data returning (R149); none at reset -/
  returns : List LoadRet
  /-- results not yet readable: warp and register keys, n for v_n and 256 + n for s_n (R148); none at reset -/
  scoreboard : List (WarpKey × List Nat)
  /-- copy records queued or in flight, in queue order (R296); none at reset -/
  records : List CopyRec
  /-- chunks issued and not performed (R287); none at reset -/
  chunks : List Chunk
  /-- operations under way, by their numbers, that one of another path has met on bytes from an address, without order: those bytes
  become unpredictable when they are performed too (R192, R269); none at reset -/
  spoilt : List (Nat × Space × Nat × Nat)
  /-- operations performed that nothing orders yet before one of another path (R192, R269); none at reset -/
  spent : List Spent
  /-- bytes reached ahead of accesses that only operations of a narrow scope order before them (R18, log 54); none at reset -/
  passes : List Pass
  /-- round-robin position of each engine by 3 chiplet + engine (R287); none at reset -/
  turns : SMap Nat
  /-- store-stream groups being written (R201); none at reset -/
  storeGroups : List StoreGroup
  /-- saved images (R427); none at reset -/
  images : List Image
  /-- key slots 1 to 2,047 that are bound (R395); none at reset -/
  keys : List KeySlot
  /-- the device table key, slot 0 (R395); empty before bring-up -/
  tableKey : List Byte
  /-- launch queues (R498); none at reset -/
  queues : List LQueue
  /-- long commands in progress (R495); none at reset -/
  longs : List LongCmd
  /-- all that the Newel has written to the hosts, oldest first -/
  hostOut : List HostMsg
  /-- the two PCI Express ports (R491); down, without rings, at reset -/
  ports : List HostPort
  /-- next event record number SEQ (R497); 0 at reset -/
  evSeq : Nat
  /-- IEEE 1588 time in ns (R502); 0 at reset, log 6 -/
  time : Nat
  /-- READY (R492, R509); 0 at reset -/
  ready : Bool
  /-- RECOV (R492, R506); 0 at reset -/
  recov : Bool
  /-- QUAR (R492, R418); 0 at reset -/
  quar : Bool
  /-- firmware loaded (R505); none at reset -/
  firmware : Option FwImage
  /-- the key pair of the latest KEYXCH, by the free value it was made from (R496); none at reset -/
  kemKey : Option Nat
  /-- grids admitted so far on the device: order of admission (R103); 0 at reset -/
  admitted : Nat
  /-- gang waits begun so far (R114); 0 at reset -/
  gangWaits : Nat
  /-- communicator records (R444); none at reset -/
  comms : List Comm
  /-- registrations (R445); none at reset -/
  buffers : List NamedBuffer
  /-- snapshot views (R483); none at reset -/
  views : List View
  /-- Gallery operations not complete (R452); none at reset -/
  galOps : List GalOp
  /-- collective data received before this device has issued its part (R457); none at reset -/
  ahead : List Packet
  /-- aborted one-sided operations that answers are still to come for (R443, R463 to R465, R469); none at reset -/
  strays : List GalOp
  /-- all that the device has sent on the Gallery, oldest first -/
  netOut : List NetMsg
  /-- the 32 Gallery ports (R440); untrained at reset -/
  galPorts : List GalPort
  /-- membership (R470); unconfigured at reset -/
  member : Membership
  /-- joins in progress on this device (R486); none at reset -/
  joins : List JoinRec
  /-- the copy of the containment machinery in stack 0 (R417); empty at reset -/
  contA : Containment
  /-- the copy in stack 4 (R417); empty at reset -/
  contB : Containment
  /-- times of the corrected errors of each HBM row in the last 24 hours, by row address (R414, R501); none at reset -/
  rowErrors : SMap (List Nat)
  /-- snapshot registers (R503); zero, nothing latched, at reset -/
  snap : Snapshot
  deriving DecidableEq, Repr

/-- The machine stops. Only accesses that no rule gives a place to end here. -/
inductive Fault where
  /-- a table walk reads a physical address that names no memory (R384): TROOT or a table outside every stack. Safe: the
  manual gives such a read no value. Raised by Machine/Translate.lean. -/
  | noSuchMemory (pa : Nat)
  deriving DecidableEq, Repr

/-- The step is not one the part takes in this state. -/
inductive Refusal where
  /-- no meaning given yet -/
  | notModelled (mnemonic : String)
  /-- an instruction without a flight to issue it in (R121): no warp is issuing. Safe. Raised by every instruction's meaning. -/
  | noFlight
  /-- an event of the schedule whose condition does not hold in this state (the row's name). Safe: the part does not take it. -/
  | notEnabled (row : String)
  deriving DecidableEq, Repr

/-- A step's outcome. -/
abbrev Out := Host.Outcome State Fault Refusal

/-- An unconfigured fabric engine (R470). -/
def Membership.empty : Membership where
  cfg := ⟨0, 0, 1, [], [], []⟩
  miss := []
  incs := []
  suspicions := []
  evn := 0
  early := []
  log := []
  expelled := []
  selfExpelled := false
  delaying := false
  requests := []
  heldPackets := []

/-- A Gallery port that has not been trained. -/
def GalPort.empty : GalPort where
  up := false
  rxSeq := 0
  discarding := false
  lanes := [⟨[], false⟩, ⟨[], false⟩, ⟨[], false⟩, ⟨[], false⟩]
  peerStop := 0
  txSeq := 0
  held := []
  waiting := []
  failed := 0
  asked := none
  resends := 0
  downs := 0

/-- The device at reset, before POWER_GOOD runs the bring-up of R509: nothing resident, no table filled, READY 0. -/
def State.reset : State where
  agenda := []
  freeCtr := 0
  nextId := 0
  mem := []
  memPoison := []
  lineKeys := []
  l2 := []
  tlb := []
  walks := []
  flights := []
  cores := []
  warps := []
  wgs := []
  grids := []
  ctxs := []
  pending := []
  returns := []
  scoreboard := []
  records := []
  chunks := []
  spoilt := []
  spent := []
  passes := []
  turns := []
  storeGroups := []
  images := []
  keys := []
  tableKey := []
  queues := []
  longs := []
  hostOut := []
  ports := [⟨false, none, 0⟩, ⟨false, none, 0⟩]
  evSeq := 0
  time := 0
  ready := false
  recov := false
  quar := false
  firmware := none
  kemKey := none
  admitted := 0
  gangWaits := 0
  comms := []
  buffers := []
  views := []
  galOps := []
  ahead := []
  strays := []
  netOut := []
  galPorts := List.replicate 32 GalPort.empty
  member := Membership.empty
  joins := []
  contA := ⟨[], [], []⟩
  contB := ⟨[], [], []⟩
  rowErrors := []
  snap := ⟨none, none, [], [], 0⟩

end Sys2Proof.Machine
end

