-- ==== Sys2Proof/Machine/Ops.lean ====
section
/-! DEFINITION. The named operations over State: sparse maps and bytes, free values, lookups and updates, records to the
hosts, PC sets and flights, ending an instruction, taking a cause (R400 to R408) and ending a workgroup. -/

namespace Sys2Proof.Machine

/-! ### Sparse maps -/

/-- The value at a key, d where it is unlisted. -/
def SMap.get {α : Type} (d : α) : SMap α → Nat → α
  | [], _ => d
  | (k, v) :: m, n => if k = n then v else SMap.get d m n

/-- The entry at a key, if listed. -/
def SMap.find {α : Type} : SMap α → Nat → Option α
  | [], _ => none
  | (k, v) :: m, n => if k = n then some v else SMap.find m n

/-- Lists a value at a key, keys rising. -/
def SMap.put {α : Type} : SMap α → Nat → α → SMap α
  | [], n, v => [(n, v)]
  | (k, w) :: m, n, v =>
    if n < k then (n, v) :: (k, w) :: m
    else if k = n then (n, v) :: m
    else (k, w) :: SMap.put m n v

/-- Unlists a key. -/
def SMap.del {α : Type} : SMap α → Nat → SMap α
  | [], _ => []
  | (k, w) :: m, n => if k = n then SMap.del m n else (k, w) :: SMap.del m n

/-- Sets the value at a key in a map whose unlisted entries read d: a value equal to d is unlisted. -/
def SMap.set {α : Type} [DecidableEq α] (d : α) (m : SMap α) (n : Nat) (v : α) : SMap α :=
  if v = d then m.del n else m.put n v

/-- The canonical form: keys strictly rising, nothing listed at the value d. -/
def SMap.wf {α : Type} [DecidableEq α] (d : α) : SMap α → Bool
  | [] => true
  | (k, v) :: m => v ≠ d && (match m with | [] => true | (j, _) :: _ => k < j) && SMap.wf d m

/-- Canonical global memory: unlisted bytes read zero (R384, R509, log 7). -/
def Memory.wf (m : List Host.Cell) : Bool := SMap.wf (0 : Byte) m

/-! ### Bytes -/

/-- One byte of a zero-default storage. -/
def byteAt (m : List Host.Cell) (a : Nat) : Byte := SMap.get 0 m a

/-- Writes one byte of a zero-default storage. -/
def setByte (m : List Host.Cell) (a : Nat) (b : Byte) : List Host.Cell := SMap.set 0 m a b

/-- n bytes from an address, little-endian (R5). -/
def readLE (m : List Host.Cell) (a : Nat) : Nat → Nat
  | 0 => 0
  | n + 1 => (byteAt m a).toNat + 256 * readLE m (a + 1) n

/-- The low n bytes of a number, little-endian (R5). -/
def toBytes (v : Nat) : Nat → List Byte
  | 0 => []
  | n + 1 => BitVec.ofNat 8 v :: toBytes (v / 256) n

/-- A little-endian number of bytes (R5). -/
def ofBytes : List Byte → Nat
  | [] => 0
  | b :: bs => b.toNat + 256 * ofBytes bs

/-- Writes bytes from an address. -/
def writeBytes (m : List Host.Cell) (a : Nat) : List Byte → List Host.Cell
  | [] => m
  | b :: bs => writeBytes (setByte m a b) (a + 1) bs

/-- Writes the low n bytes of a number, little-endian. -/
def writeLE (m : List Host.Cell) (a v n : Nat) : List Host.Cell := writeBytes m a (toBytes v n)

/-- n bytes from an address. -/
def readBytes (m : List Host.Cell) (a : Nat) : Nat → List Byte
  | 0 => []
  | n + 1 => byteAt m a :: readBytes m (a + 1) n

/-- Numbers from a up, n of them. -/
def natRange (a : Nat) : Nat → List Nat
  | 0 => []
  | n + 1 => a :: natRange (a + 1) n

/-- n rounded up to a multiple of g. -/
def roundUpTo (n g : Nat) : Nat := (n + g - 1) / g * g

/-- Marks granules or words as poisoned, each once. -/
def addPoison (l : List Nat) (xs : List Nat) : List Nat := l ++ (xs.filter fun x => !l.contains x)

/-- Bits of a lane mask as lane numbers, in ascending order. -/
def lanesOf (m : LaneMask) : List Nat := (List.range 64).filter fun l => m.getLsbD l

/-- The mask of one lane. -/
def laneBit (l : Nat) : LaneMask := BitVec.ofNat 64 (2 ^ l)

/-- A mask of a list of lanes. -/
def maskOf (ls : List Nat) : LaneMask := ls.foldl (fun m l => m ||| laneBit l) 0

/-- The lowest lane of a mask, 0 if none. -/
def lowLane (m : LaneMask) : Nat := (lanesOf m).headD 0

/-- A signed reading of the low 32 bits of a number. -/
def sext32 (n : Nat) : Int := (BitVec.ofNat 32 n).toInt

/-! ### Free values (R2; log 2) -/

/-- The n-th free value after those already used. -/
def State.freeVal (s : State) (n : Nat) : BitVec 64 := Config.free (s.freeCtr + n)

/-- Uses up n free values. -/
def State.useFree (s : State) (n : Nat) : State := { s with freeCtr := s.freeCtr + n }

/-- A fresh id. -/
def State.fresh (s : State) : State := { s with nextId := s.nextId + 1 }

/-! ### Lookups and updates -/

def State.warpAt (s : State) (k : WarpKey) : Option Warp := s.warps.find? fun w => w.core = k.core && w.idx = k.idx

def State.wgAt (s : State) (k : WgKey) : Option Workgroup := s.wgs.find? fun g => g.key = k

def State.gridAt (s : State) (k : GridKey) : Option Grid := s.grids.find? fun g => g.key = k

def State.ctxAt (s : State) (c : Nat) : Option Context := s.ctxs.find? fun x => x.num = c

def State.coreAt (s : State) (c : Nat) : Option Core := s.cores.find? fun x => x.phys = c

def Warp.key (w : Warp) : WarpKey := ⟨w.core, w.idx⟩

/-- The grid of a workgroup. -/
def gridOfWg (k : WgKey) : GridKey := ⟨k.ctx, k.grid⟩

def State.updWarp (s : State) (k : WarpKey) (f : Warp → Warp) : State :=
  { s with warps := s.warps.map fun w => if w.core = k.core ∧ w.idx = k.idx then f w else w }

def State.updWg (s : State) (k : WgKey) (f : Workgroup → Workgroup) : State :=
  { s with wgs := s.wgs.map fun g => if g.key = k then f g else g }

def State.updWarpsOf (s : State) (k : WgKey) (f : Warp → Warp) : State :=
  { s with warps := s.warps.map fun w => if w.wg = k then f w else w }

def State.updGrid (s : State) (k : GridKey) (f : Grid → Grid) : State :=
  { s with grids := s.grids.map fun g => if g.key = k then f g else g }

def State.updCtx (s : State) (c : Nat) (f : Context → Context) : State :=
  { s with ctxs := s.ctxs.map fun x => if x.num = c then f x else x }

def State.updCore (s : State) (c : Nat) (f : Core → Core) : State :=
  { s with cores := s.cores.map fun x => if x.phys = c then f x else x }

/-- A context that is being switched out or killed: nothing of it is placed, admitted or sent (R423, R437). -/
def State.stopping (s : State) (ctx : Nat) : Bool :=
  match s.ctxAt ctx with
  | some c => c.st == .switching || c.st == .killing
  | none => false

/-- A workgroup whose save has begun (R425). -/
def State.isSaved (s : State) (k : WgKey) : Bool := match s.wgAt k with | some g => g.saved | none => false

/-- A warp has threads left (R123, R140). -/
def Warp.alive (w : Warp) : Bool := !w.pcs.isEmpty

/-- The warps of a workgroup, lowest index first. -/
def State.warpsOf (s : State) (k : WgKey) : List Warp := s.warps.filter fun w => w.wg = k

/-- Bits [2:0] and so on of a lane mask of a warp of width W: all lanes. -/
def fullMask (width : Nat) : LaneMask := BitVec.ofNat 64 (2 ^ width - 1)

/-- The mask bits of m_n; m0 is all ones (R144). -/
def Warp.maskReg (w : Warp) (n : Nat) : LaneMask := if n = 0 then fullMask w.width else SMap.get 0 w.m n

def Warp.setMask (w : Warp) (n : Nat) (v : LaneMask) : Warp := { w with m := SMap.set 0 w.m n v }

def Warp.vReg (w : Warp) (n l : Nat) : Word := SMap.get 0 w.v (64 * n + l)

/-- Writes a v entry; a write of a whole entry clears its poison (R412). -/
def Warp.setV (w : Warp) (n l : Nat) (x : Word) : Warp :=
  { w with v := SMap.set 0 w.v (64 * n + l) x, regPoison := w.regPoison.filter fun k => k ≠ 64 * n + l }

def Warp.sReg (w : Warp) (n : Nat) : Word := SMap.get 0 w.s n

/-- Writes an s entry; a write of a whole entry clears its poison (R412). -/
def Warp.setS (w : Warp) (n : Nat) (x : Word) : Warp :=
  { w with s := SMap.set 0 w.s n x, regPoison := w.regPoison.filter fun k => k ≠ 12288 + n }

/-- An index register; value 0 and window [0, 0) where never written (R143). -/
def Warp.xReg (w : Warp) (n : Nat) : XReg := SMap.get ⟨0, 0, 0⟩ w.x n

def Warp.setX (w : Warp) (n : Nat) (x : XReg) : Warp := { w with x := SMap.set ⟨0, 0, 0⟩ w.x n x }

/-- The subnormal mode, MODE[3] (R164). -/
def Warp.ftz (w : Warp) : Bool := w.mode.getLsbD 3

/-- MODE's rounding field, 0 read as RNE (R73, R164). -/
def Warp.modeRnd (w : Warp) : Nat :=
  let r := (w.mode.extractLsb' 0 3).toNat
  if r = 0 then 1 else r

/-- Sets sticky flags (R165). -/
def Warp.addFlags (w : Warp) (f : Flags5) : Warp := { w with flags := w.flags ||| f.setWidth 32 }

/-! ### Snapshots (R503) -/

/-- A snapshot trigger: every block's registers are latched, or the trigger is missed while a set is held (R503). -/
def State.trigger (s : State) : State :=
  match s.snap.latched with
  | some _ => { s with snap := { s.snap with missed := s.snap.missed + 1 } }
  | none =>
    let x : SnapSet := ⟨s.time, s.snap.corrected, s.snap.poison, s.galPorts.map fun p => (p.up, p.resends, p.downs),
      s.ports.map fun p => match p.ring with | some r => r.dropped | none => 0⟩
    { s with snap := { s.snap with latched := some x } }

/-- Granules or entries of a block found poisoned are counted (R503). -/
def State.countPoison (s : State) (block n : Nat) : State :=
  { s with snap := { s.snap with poison := s.snap.poison.put block (SMap.get 0 s.snap.poison block + n) } }

/-- A cause that has come up triggers, where host software has named it (R503). -/
def State.triggerOn (s : State) (c : Cause) : State := if s.snap.cause = some c then s.trigger else s

/-! ### Records to the hosts (R497) -/

/-- An event record with no fields in use. -/
def EventRec.blank : EventRec := ⟨0, 0, 0, 0, 0, 0, 0, 0, 0, 0, 0, 0⟩

/-- The 64 bytes of an event record (R497). -/
def EventRec.bytes (e : EventRec) : List Byte :=
  toBytes (e.evt * 2 ^ 24 + e.cause.toNat) 4 ++ toBytes (e.ctx % 2 ^ 6) 4 ++ toBytes e.wgid 4 ++ toBytes (e.acc % 2 ^ 8 * 2 ^ 8 + e.warp % 2 ^ 5) 4 ++
  toBytes e.pc 8 ++ toBytes e.addr 8 ++ toBytes e.aux 4 ++ toBytes e.gridno 4 ++ toBytes e.time 8 ++ toBytes e.seq 8 ++ toBytes 0 8

/-- A record written at a ring's tail (R497). -/
def EvRing.message (port : Nat) (r : EvRing) (e : EventRec) : HostMsg := .write port (r.base + 64 * (r.tail % 2 ^ r.k)) e.bytes

/-- Writes a record at the tail of a port's ring, or holds it while the ring is full (R497). -/
def EvRing.push (port : Nat) (e : EventRec) (r : EvRing) : EvRing × List HostMsg :=
  if r.tail - r.head < 2 ^ r.k then
    ({ r with tail := r.tail + 1 }, [r.message port e, .msix port r.vector])
  else if r.held.length < 4096 then ({ r with held := r.held ++ [e] }, [])
  else ({ r with held := r.held.drop 1 ++ [e], dropped := r.dropped + 1 }, [])

/-- Writes a record to the ring of every port that has one; ports numbered from n. -/
def pushPorts (e : EventRec) : Nat → List HostPort → List HostPort × List HostMsg
  | _, [] => ([], [])
  | n, p :: ps =>
    let rest := pushPorts e (n + 1) ps
    match p.ring with
    | none => (p :: rest.1, rest.2)
    | some r =>
      let x := r.push n e
      ({ p with ring := some x.1 } :: rest.1, x.2 ++ rest.2)

/-- Sends an event record; the causes that no warp takes trigger here (R497, R503). -/
def State.postEvent (s : State) (e : EventRec) : State :=
  let x := pushPorts { e with time := s.time, seq := s.evSeq } 0 s.ports
  let t : State := { s with ports := x.1, hostOut := s.hostOut ++ x.2, evSeq := s.evSeq + 1 }
  if e.evt = 5 || e.evt = 7 || e.evt = 10 then t.triggerOn e.cause else t

/-! ### PC sets (R119, R122) -/

/-- Adds threads at a PC: they join the set there, which is then not blocked, or form one, in ascending order (R119, R122). -/
def addSet (pc : Pc) (lanes : LaneMask) (blocked : Option Wait) : List PcSet → List PcSet
  | [] => [⟨pc, lanes, blocked⟩]
  | p :: ps =>
    if pc.toNat < p.pc.toNat then ⟨pc, lanes, blocked⟩ :: p :: ps
    else if pc = p.pc then ⟨pc, p.lanes ||| lanes, none⟩ :: ps
    else p :: addSet pc lanes blocked ps

/-- Takes threads out of every set; empty sets vanish (R140). -/
def dropLanes (lanes : LaneMask) (ps : List PcSet) : List PcSet :=
  (ps.map fun p => { p with lanes := p.lanes &&& ~~~lanes }).filter fun p => p.lanes != 0

/-- Sends threads to a PC. -/
def moveLanes (pc : Pc) (lanes : LaneMask) (ps : List PcSet) : List PcSet :=
  if lanes = 0 then ps else addSet pc lanes none (dropLanes lanes ps)

/-- The set a flight issues for: the one that holds its active threads. -/
def Warp.setOf (w : Warp) (active : LaneMask) : Option PcSet := w.pcs.find? fun p => p.lanes &&& active != 0

/-! ### The issuing instruction -/

/-- What an instruction sees when it issues: the head flight with its warp, workgroup and grid. -/
structure Iss where
  fl : Flight
  w : Warp
  wg : Workgroup
  gr : Grid
  /-- the reported program counter: of the instruction, or of its PFX (R47, R52) -/
  pc : Pc
  deriving DecidableEq, Repr

/-- The issuing instruction's view of a state: its head flight (R121). -/
def State.issuing (s : State) : Option Iss :=
  match s.flights with
  | [] => none
  | fl :: _ =>
    match s.warpAt ⟨fl.core, fl.warp⟩ with
    | none => none
    | some w =>
      match s.wgAt w.wg, s.gridAt (gridOfWg w.wg), w.setOf fl.active with
      | some g, some gr, some p => some ⟨fl, w, g, gr, p.pc⟩
      | _, _, _ => none

/-- Runs an instruction's meaning for the head flight; without one there is nothing to issue it in. -/
def issue (s : State) (k : Iss → Out) : Out :=
  match s.issuing with
  | none => .refused .noFlight
  | some i => k i

/-- The prefix in force (R47). -/
def Iss.pfx (i : Iss) : Option PForm := i.fl.pfx

/-- Address of the instruction word itself, after its PFX (R47). -/
def Iss.ipc (i : Iss) : Pc := if i.fl.pfx.isSome then i.pc + 4 else i.pc

/-- exec_mask() (R50). -/
def Iss.mask (i : Iss) : LaneMask :=
  match i.fl.pfx with
  | none => i.fl.active
  | some p => if p.mask = 0 then i.fl.active else i.fl.active &&& i.w.maskReg p.mask.toNat

/-- eff_rnd() (R50, R73), mode 0 read as RNE. -/
def Iss.rnd (i : Iss) : Nat :=
  match i.fl.pfx with
  | none => i.w.modeRnd
  | some p => if p.rnd = 0 then i.w.modeRnd else p.rnd.toNat

/-- eff_rnd() where stochastic rounding does not apply: 6 is read as RNE (R78, R228). -/
def Iss.rndNoSr (i : Iss) : Nat := if i.rnd = 6 then 1 else i.rnd

def Iss.sat (i : Iss) : Bool := match i.fl.pfx with | none => false | some p => p.sat

def Iss.zm (i : Iss) : Bool := match i.fl.pfx with | none => false | some p => p.zm

/-- pfx_c() (R50). -/
def Iss.pfxC (i : Iss) : Option (BitVec 8) :=
  match i.fl.pfx with
  | none => none
  | some p => if p.cv then some p.c else none

/-- The declared vector-register count (R145). -/
def Iss.vregs (i : Iss) : Nat := i.gr.rec_.vregs * 8

/-- A constant register (R143). -/
def Iss.kReg (i : Iss) (n : Nat) : DWord := i.gr.rec_.consts.getD n 0

/-- A format slot word (R70). -/
def Iss.slot (i : Iss) (n : Nat) : Word := i.gr.rec_.slots.getD n 0

/-- The cause of poison consumed by the workgroup (R413). -/
def Workgroup.serCause (g : Workgroup) : Cause := if g.regions.isEmpty then 0x121 else 0x120

/-! ### Flights -/

/-- Ends the head flight: its latches are lost and the slot is free (R123, R125). -/
def State.endFlight (s : State) : State := { s with flights := s.flights.drop 1 }

/-- Replaces the head flight. -/
def State.setFlight (s : State) (fl : Flight) : State := { s with flights := fl :: s.flights.drop 1 }

/-- What an instruction leaves for the next one of its flight: l0 and its held values (R150). -/
structure Left where
  l0 : Option Latch
  h1 : Option Latch
  h2 : Option Latch
  deriving DecidableEq, Repr

/-- An instruction with no register result and nothing held. -/
def Left.none : Left := ⟨.none, .none, .none⟩

/-- Ends the issue of an instruction whose threads already have their next PCs: counts it, moves the latches on (R150) and
ends the flight after LND, at 24 instructions or where the instruction says so (R123, R124). -/
def State.retireAt (s : State) (i : Iss) (lnd ends : Bool) (lv : Left) : State :=
  if lnd || ends || 24 ≤ i.fl.count + 1 then s.endFlight
  else
    s.setFlight { i.fl with
      count := i.fl.count + 1
      l0 := lv.l0
      l1 := lv.h1
      l2 := match lv.h2 with | some h => some h | none => i.fl.l1
      pfx := none }

/-- The address after an instruction of len bytes. -/
def Iss.nxt (i : Iss) (len : Nat) : Pc := i.ipc + BitVec.ofNat 57 len

/-- Completes an instruction of len bytes: every active thread goes on to the next word (R123, R124). -/
def State.retire (s : State) (i : Iss) (len : Nat) (lnd : Bool) (lv : Left) : State :=
  (s.updWarp i.w.key fun w => { w with pcs := moveLanes (i.nxt len) i.fl.active w.pcs }).retireAt i lnd false lv

/-- An unsatisfied waiting instruction: its set is blocked at its PC and the flight ends (R120, R123). -/
def State.block (s : State) (i : Iss) (c : Wait) : State :=
  (s.updWarp i.w.key fun w =>
    { w with pcs := w.pcs.map fun p => if p.lanes &&& i.fl.active != 0 then { p with blocked := some c } else p }).endFlight

/-! ### Taking a cause (R400 to R408) -/

/-- Index of a cause's class (R398). -/
def causeClass (c : Cause) : Nat := c.toNat / 32

/-- Whether a region catches a cause (R402). -/
def Region.catches (r : Region) (c : Cause) : Bool :=
  (r.cls.getLsbD (causeClass c) || c == 0x120) && c != 0x121 && c != 0x122 && causeClass c != 10

/-- The regions from the innermost one that catches a cause on (R401). -/
def catching (c : Cause) : List Region → Option (Region × List Region)
  | [] => none
  | r :: rs => if r.catches c then some (r, rs) else catching c rs

/-- The cause word of R407. -/
def causeWord (self : Bool) (warp : Nat) (c : Cause) : Word :=
  BitVec.ofNat 32 ((if self then 0x8000 else 0) + warp % 32 * 1024 + c.toNat)

/-- Stops the issue of a workgroup: its flights end (R406). -/
def State.stopFlights (s : State) (k : WgKey) : State :=
  { s with flights := s.flights.filter fun f =>
      match s.warpAt ⟨f.core, f.warp⟩ with
      | none => false
      | some w => w.wg ≠ k }

/-- The register keys a loading access was to write: 64 n + lane for v, 12288 + n for s, with its lanes. -/
def loadKeys (dst : BitVec 8) (regs : Nat) (lanes : List Nat) : List Nat :=
  let c := dst.toNat
  if c < 192 then (List.range regs).flatMap fun r => lanes.map fun l => 64 * (c + r) + l
  else if c < 224 then (List.range regs).map fun r => 12288 + (c - 192 + r)
  else []

/-- Writes free values to registers named by keys (R406: destinations of discarded loads become unpredictable). -/
def Warp.scramble (seed : Nat) (w : Warp) : List Nat → Warp
  | [] => w
  | k :: ks =>
    let x : Word := (Config.free seed).setWidth 32
    Warp.scramble (seed + 1) (if k < 12288 then { w with v := SMap.set 0 w.v k x } else w.setS (k - 12288) x) ks

/-- Registers written per lane by an access size in bytes. -/
def sizeRegs (bytes : Nat) : Nat := if bytes = 16 then 4 else if bytes = 8 then 2 else 1

/-- The registers that loads and atomics in flight were to write for a workgroup. -/
def State.flightDests (s : State) (k : WgKey) : List (WarpKey × List Nat) :=
  (s.pending.filterMap fun p => match p with
    | .access a => match a.dst with
      | some d => if a.wg = k then some (a.warp, loadKeys d (sizeRegs a.size) (a.lanes.map (·.lane))) else none
      | none => none
    | .fence _ => none) ++
  s.returns.filterMap fun r =>
    if r.wg = k then
      some (r.warp, loadKeys r.dst r.regs (if !r.poisoned.isEmpty then lanesOf r.threads else r.vals.map (·.1)))
    else none

/-- Discards the loads in flight to a workgroup's registers; what other operations were to return is discarded with them
(R406). -/
def State.discardLoads (s : State) (k : WgKey) : State :=
  { s with
    pending := s.pending.filterMap fun p => match p with
      | .access a =>
        if a.wg = k then (if a.kind == .load then none else some (.access { a with dst := none })) else some p
      | .fence f => some (.fence f)
    returns := s.returns.filter fun r => r.wg ≠ k
    scoreboard := s.scoreboard.filter fun x => !((s.warpAt x.1).any fun w => w.wg = k) }

/-- Gives the destinations of discarded loads free values (R406). -/
def State.scrambleDests (s : State) : List (WarpKey × List Nat) → State
  | [] => s
  | (k, ks) :: rest => ((s.updWarp k fun w => w.scramble s.freeCtr ks).useFree ks.length).scrambleDests rest

/-- Whether two workgroups are members of one gang (R94). -/
def State.sameGang (s : State) (a b : WgKey) : Bool :=
  match s.gridAt (gridOfWg a) with
  | some g => a.ctx = b.ctx && a.grid = b.grid && a.wgid / max 1 g.rec_.gang = b.wgid / max 1 g.rec_.gang
  | none => false

/-- A workgroup's index in its gang (R94). -/
def State.gangIndex (s : State) (k : WgKey) : Nat :=
  match s.gridAt (gridOfWg k) with
  | some g => k.wgid % max 1 g.rec_.gang
  | none => 0

/-- The warps that hold membership of a team with a warp, itself among them (R338, R339). -/
def State.teamMates (s : State) (w : Warp) (t : Team) : List Warp :=
  s.warps.filter fun v => s.sameGang w.wg v.wg && (match v.team with | some u => u.lead = t.lead && u.size = t.size | none => false)

/-- A team exists while every gang index of its range holds membership (R339). -/
def State.teamWhole (s : State) (w : Warp) (t : Team) : Bool :=
  (natRange t.lead t.size).all fun j => (s.teamMates w t).any fun v => s.gangIndex v.wg = j

/-- A member leaves: the team, if it exists, breaks for its other members (R342). -/
def State.breakTeam (s : State) (w : Warp) : State :=
  match w.team with
  | none => s
  | some t =>
    if s.teamWhole w t then
      { s with warps := s.warps.map fun (v : Warp) =>
          if v.wg ≠ w.wg && (s.teamMates w t).any fun u => u.core = v.core && u.idx = v.idx then
            { v with team := v.team.map fun u => { u with broken := true } }
          else v }
    else s

/-- The teams of a workgroup's warps break (R342, R406). -/
def State.breakTeams (s : State) (k : WgKey) : State := (s.warpsOf k).foldl (fun t w => t.breakTeam w) s

/-- The handler state of one warp (R406 steps 3, 5 and 6). -/
def Warp.unwindTo (r : Region) (c : Cause) (self : Nat) (w : Warp) : Warp :=
  let w := match r.reg with
    | none => w
    | some n => w.setS n (causeWord (w.num = self) self c)
  { w with
    pcs := if w.alive then [⟨r.handler, (w.pcs.map (·.lanes)).foldl (· ||| ·) 0, none⟩] else []
    begun := []
    hold := none
    team := none }

/-- The instruction fetches of a workgroup's warps no longer wait for their walks (R389, R406). -/
def State.dropFetches (s : State) (k : WgKey) : State :=
  { s with walks := s.walks.filter fun x => match x.waiter with
    | some w => !((s.warpAt w).any fun v => v.wg = k)
    | none => true }

/-- Unwinds a workgroup to a region's handler as one change (R406). -/
def State.unwind (s : State) (k : WgKey) (r : Region) (outer : List Region) (c : Cause) (self : Nat) : State :=
  let dests := s.flightDests k
  let s := (((s.stopFlights k).breakTeams k).dropFetches k).discardLoads k
  let s := s.scrambleDests dests
  let s := { s with cores := s.cores.map fun (x : Core) => { x with mq := x.mq.filter fun m => m.wg ≠ k || m.started } }
  let s := { s with records := s.records.map fun (x : CopyRec) => if x.wg = k then { x with suspended := none } else x }
  let s := { s with galOps := s.galOps.map fun (x : GalOp) => if x.wg = k then { x with suspended := none } else x }
  (s.updWg k fun g => { g with regions := outer }).updWarpsOf k fun w => w.unwindTo r c self

/-- The mark becomes due once every warp of the workgroup has issued DEPDONE or ended, one at least having issued it (R315). -/
def State.checkDone (s : State) (k : WgKey) : State :=
  let ws := s.warpsOf k
  if (ws.any fun w => w.depDone) && ws.all fun w => w.depDone || !w.alive then
    s.updWg k fun g => { g with doneAt := some (g.doneAt.getD s.nextId) }
  else s

/-- The least PHASE count of a workgroup's live warps, if any is live (R275). -/
def State.minPhase (s : State) (k : WgKey) : Option Nat := (((s.warpsOf k).filter Warp.alive).map (·.phase)).min?

/-- The phases that every live warp of a workgroup has left end their turns here (R276, R281, R282). -/
def State.notePhases (s : State) (k : WgKey) : State :=
  match s.gridAt (gridOfWg k), s.minPhase k with
  | some g, some m =>
    if g.rec_.det then
      let add (e : SMap Nat) (p : Nat) : SMap Nat := if (e.find p).isSome then e else e.put p s.nextId
      s.updWg k fun wg => { wg with ends := (natRange g.phase (m - g.phase)).foldl add wg.ends }
    else s
  | _, _ => s

/-- Discards the buffered commit operations that a workgroup has not performed; what it has sent is performed (R282, R372). -/
def State.dropCommits (s : State) (k : WgKey) : State :=
  { s with pending := s.pending.filter fun p => match p with
    | .access a => !(a.wg = k && a.buffered && a.sent.isNone)
    | .fence _ => true }

/-- How a workgroup that ends by a fault or a kill ends: as the first such end had it, whatever exits came before (R298, R317, R401). -/
def Workgroup.endsAs (g : Workgroup) (how : EndKind) : EndKind :=
  match g.ended with
  | some .kill => .kill
  | some .fault => .fault
  | _ => how

/-- A workgroup has ended by a fault or a kill. -/
def Workgroup.broken (g : Workgroup) : Bool := g.ended = some .kill || g.ended = some .fault

/-- Ends every warp of a workgroup, by an unhandled cause or a kill; it is absent from an image (R140, R401, R423). -/
def State.endWorkgroup (s : State) (k : WgKey) (how : EndKind) : State :=
  let s := ((((s.stopFlights k).breakTeams k).dropFetches k).discardLoads k).dropCommits k
  (s.updWg k fun g => { g with regions := [], ended := some (g.endsAs how), saved := false }).updWarpsOf k fun w =>
    { w with pcs := [], begun := [], hold := none, recorded := none, team := none, watch := [] }

/-- A record about a warp's event. -/
def EventRec.ofWarp (evt : Nat) (c : Cause) (w : Warp) (pc : Nat) : EventRec :=
  { EventRec.blank with evt := evt, cause := c, ctx := w.wg.ctx, wgid := w.wg.wgid, warp := w.num, pc := pc, gridno := w.wg.grid }

/-- TAKING A CAUSE: delivers a cause raised by a warp at a program counter, for an access with its virtual address (R401). The
innermost region that catches it takes it; otherwise the workgroup ends and the hosts are told. -/
def State.deliver (s : State) (w : Warp) (pc : Pc) (c : Cause) (addr : Nat) : State :=
  match s.wgAt w.wg with
  | none => s
  | some g =>
    let s := s.triggerOn c
    match catching c g.regions with
    | some (r, outer) => s.unwind w.wg r outer c w.num
    | none => (s.endWorkgroup w.wg .fault).postEvent { EventRec.ofWarp 3 c w pc.toNat with addr := addr }

/-- raise(c): the issuing instruction has no effect, its flight ends and the cause is delivered (R52, R123, R400). -/
def raise (s : State) (i : Iss) (c : Cause) : Out := .next (s.endFlight.deliver i.w i.pc c 0)

/-- raise(c) of an access, with the virtual address it reports (R401). -/
def raiseAt (s : State) (i : Iss) (c : Cause) (addr : Nat) : Out := .next (s.endFlight.deliver i.w i.pc c addr)

/-- RETURN from a handler is ordinary control flow: the region is already closed (R406), so no state is restored (R408). A
translation or protection fault, a queue-element fault or BRK instead holds the warp and tells the hosts (R391, R200, R420). -/
def State.hold (s : State) (i : Iss) (evt : Nat) (h : Hold) : State :=
  (s.endFlight.updWarp i.w.key fun w => { w with hold := some h }).postEvent
    { EventRec.ofWarp evt h.cause i.w h.pc.toNat with acc := h.acc, addr := h.addr, aux := h.aux }

end Sys2Proof.Machine
end

