-- ==== Sys2Proof/Machine/Cipher.lean ====
section
/-! DEFINITION. The ciphers that the device is said to use: AES-256 in XTS mode for the lines of memory and for checkpoints, the key wrap
of RFC 3394 and SHA-512 for keys that a host sends (R367, R395, R496, R508; log 5). -/

namespace Sys2Proof.Machine

/-! ### AES-256 (FIPS 197) -/

/-- Doubles an element of AES's field of 256 elements. -/
def aesTwice (b : Byte) : Byte := (b <<< 1) ^^^ (if b.getLsbD 7 then 0x1B else 0)

/-- The product of two elements, b by its bits from the lowest. -/
def aesMul (a b : Byte) : Byte :=
  ((List.range 8).foldl (fun (x : Byte × Byte) i => (if b.getLsbD i then x.1 ^^^ x.2 else x.1, aesTwice x.2)) (0, a)).1

/-- The multiplicative inverse, 0 for 0: the 254th power. -/
def aesInv (b : Byte) : Byte :=
  ((List.range 7).foldl (fun (x : Byte × Byte) _ => (aesMul x.1 (aesMul x.2 x.2), aesMul x.2 x.2)) (1, b)).1

def rotl8 (b : Byte) (n : Nat) : Byte := (b <<< n) ||| (b >>> (8 - n))

/-- The S-box. -/
def aesSub (b : Byte) : Byte :=
  let x := aesInv b
  x ^^^ rotl8 x 1 ^^^ rotl8 x 2 ^^^ rotl8 x 3 ^^^ rotl8 x 4 ^^^ 0x63

/-- The inverse S-box. -/
def aesUnsub (b : Byte) : Byte := aesInv (rotl8 b 1 ^^^ rotl8 b 3 ^^^ rotl8 b 6 ^^^ 0x05)

/-- XOR of two byte strings, place by place. -/
def xorBytes (a b : List Byte) : List Byte := a.zipWith (· ^^^ ·) b

/-- Byte r of column c of a block of 16 bytes. -/
def aesAt (x : List Byte) (c r : Nat) : Byte := x.getD (4 * (c % 4) + r) 0

/-- A block by its columns and rows. -/
def aesBlock (f : Nat → Nat → Byte) : List Byte := (List.range 16).map fun n => f (n / 4) (n % 4)

def shiftRows (x : List Byte) : List Byte := aesBlock fun c r => aesAt x (c + r) r
def unshiftRows (x : List Byte) : List Byte := aesBlock fun c r => aesAt x (c + 4 - r) r

/-- Each column times a polynomial over the field. -/
def mixBy (k : List Byte) (x : List Byte) : List Byte :=
  aesBlock fun c r => (List.range 4).foldl (fun y j => y ^^^ aesMul (aesAt x c j) (k.getD ((j + 4 - r) % 4) 0)) 0

/-- The next word of a key expansion for eight key words. -/
def keyWord (ws : List (List Byte)) (i : Nat) : List Byte :=
  let last := ws.getD (i - 1) []
  let t := if i % 8 = 0 then
      xorBytes ((last.drop 1 ++ last.take 1).map aesSub) [(List.range (i / 8 - 1)).foldl (fun b _ => aesTwice b) 1, 0, 0, 0]
    else if i % 8 = 4 then last.map aesSub
    else last
  xorBytes (ws.getD (i - 8) []) t

/-- The fifteen round keys of a key of 32 bytes. -/
def roundKeys (key : List Byte) : List (List Byte) :=
  let first := (List.range 8).map fun i => (List.range 4).map fun j => key.getD (4 * i + j) 0
  let ws := (natRange 8 52).foldl (fun l i => l ++ [keyWord l i]) first
  (List.range 15).map fun n => ((ws.drop (4 * n)).take 4).flatten

def aesEncrypt (keys : List (List Byte)) (x : List Byte) : List Byte :=
  let key (n : Nat) : List Byte := keys.getD n []
  let y := (natRange 1 13).foldl (fun b n => xorBytes (mixBy [2, 3, 1, 1] (shiftRows (b.map aesSub))) (key n)) (xorBytes x (key 0))
  xorBytes (shiftRows (y.map aesSub)) (key 14)

def aesDecrypt (keys : List (List Byte)) (x : List Byte) : List Byte :=
  let key (n : Nat) : List Byte := keys.getD n []
  let y := (natRange 1 13).foldl (fun b n => mixBy [14, 11, 13, 9] (xorBytes ((unshiftRows b).map aesUnsub) (key (14 - n))))
    (xorBytes x (key 14))
  xorBytes ((unshiftRows y).map aesUnsub) (key 0)

/-! ### XTS (IEEE 1619, R395) -/

/-- The mask of block j of a data unit. -/
def xtsMask (start : List Byte) (j : Nat) : List Byte :=
  toBytes ((List.range j).foldl (fun n _ => if 2 ^ 127 ≤ n then (2 * n % 2 ^ 128) ^^^ 0x87 else 2 * n) (ofBytes start)) 16

/-- The ciphertext of a data unit of whole blocks under a key pair of 64 bytes, the tweak a 128-bit little-endian integer (R395, R508). -/
def xtsEncrypt (key : List Byte) (tweak : Nat) (bs : List Byte) : List Byte :=
  let keys := roundKeys (key.take 32)
  let start := aesEncrypt (roundKeys (key.drop 32)) (toBytes tweak 16)
  (List.range (bs.length / 16)).flatMap fun j =>
    let m := xtsMask start j
    xorBytes (aesEncrypt keys (xorBytes ((bs.drop (16 * j)).take 16) m)) m

/-! ### SHA-512 (FIPS 180-4) and the AES key wrap (RFC 3394) -/

/-- The first n primes. -/
def primes (n : Nat) : List Nat :=
  ((natRange 2 410).filter fun p => (natRange 2 (p - 2)).all fun d => p % d != 0).take n

/-- 64 bits of the fraction of a prime's k-th root. -/
def rootBits (k p : Nat) : BitVec 64 :=
  BitVec.ofNat 64 ((List.range 70).foldl (fun x j => if (x + 2 ^ (69 - j)) ^ k ≤ p * 2 ^ (64 * k) then x + 2 ^ (69 - j) else x) 0)

def shaRound (s : List (BitVec 64)) (kw : BitVec 64 × BitVec 64) : List (BitVec 64) :=
  let v (n : Nat) : BitVec 64 := s.getD n 0
  let rot (x : BitVec 64) (n : Nat) : BitVec 64 := x.rotateRight n
  let t1 := v 7 + (rot (v 4) 14 ^^^ rot (v 4) 18 ^^^ rot (v 4) 41) + ((v 4 &&& v 5) ^^^ (~~~(v 4) &&& v 6)) + kw.1 + kw.2
  let t2 := (rot (v 0) 28 ^^^ rot (v 0) 34 ^^^ rot (v 0) 39) + ((v 0 &&& v 1) ^^^ (v 0 &&& v 2) ^^^ (v 1 &&& v 2))
  [t1 + t2, v 0, v 1, v 2, v 3 + t1, v 4, v 5, v 6]

/-- Word i of a block's schedule. -/
def shaWord (ws : List (BitVec 64)) (i : Nat) : BitVec 64 :=
  let w (n : Nat) : BitVec 64 := ws.getD (i - n) 0
  let rot (x : BitVec 64) (n : Nat) : BitVec 64 := x.rotateRight n
  (rot (w 2) 19 ^^^ rot (w 2) 61 ^^^ (w 2 >>> 6)) + w 7 + (rot (w 15) 1 ^^^ rot (w 15) 8 ^^^ (w 15 >>> 7)) + w 16

/-- One block of 128 bytes. -/
def shaBlock (h : List (BitVec 64)) (b : List Byte) : List (BitVec 64) :=
  let first := (List.range 16).map fun i => BitVec.ofNat 64 (ofBytes ((b.drop (8 * i)).take 8).reverse)
  let ws := (natRange 16 64).foldl (fun l i => l ++ [shaWord l i]) first
  h.zipWith (· + ·) ((((primes 80).map (rootBits 3)).zip ws).foldl shaRound h)

/-- The SHA-512 digest of some bytes. -/
def sha512 (m : List Byte) : List Byte :=
  let p := m ++ 0x80 :: List.replicate ((239 - m.length % 128) % 128) 0 ++ (toBytes (8 * m.length) 16).reverse
  let h := (List.range (p.length / 128)).foldl (fun h n => shaBlock h ((p.drop (128 * n)).take 128)) ((primes 8).map (rootBits 2))
  h.flatMap fun x => (toBytes x.toNat 8).reverse

/-- The key that a wrap of 8 bytes more holds; none where the integrity check fails (R496). -/
def keyUnwrap (kek wrapped : List Byte) : Option (List Byte) :=
  let keys := roundKeys kek
  let n := wrapped.length / 8 - 1
  let part (i : Nat) : List Byte := (wrapped.drop (8 * i)).take 8
  let r := (List.range (6 * n)).foldl (fun (x : List Byte × List (List Byte)) k =>
    let t := 6 * n - k
    let i := (t - 1) % n
    let b := aesDecrypt keys (xorBytes x.1 (toBytes t 8).reverse ++ x.2.getD i [])
    (b.take 8, x.2.set i (b.drop 8))) (part 0, (List.range n).map fun i => part (i + 1))
  if r.1 = List.replicate 8 0xA6 then some r.2.flatten else none

end Sys2Proof.Machine
end

