-- ==== Sys2Proof/Machine/Translate.lean ====
section
/-! DEFINITION. Translation of virtual addresses: the walk with its checks in order, the cached translations, key slots and
permissions (R384 to R391). -/

namespace Sys2Proof.Machine

/-- Bytes of one stack (R384). -/
def stackBytes : Nat := 64000000000
/-- First offset of a stack's reserved region (R384). -/
def reservedBase : Nat := 0xEC0000000

/-- A physical address that names memory (R384). -/
def paExists (pa : Nat) : Bool := pa < 2 ^ 39 && pa % 2 ^ 36 < stackBytes

/-- A physical address in the reserved region of its stack (R384). -/
def paReserved (pa : Nat) : Bool := pa < 2 ^ 39 && reservedBase ≤ pa % 2 ^ 36 && pa % 2 ^ 36 < stackBytes

/-! ### Lines at their home slices (R362 to R365) -/

/-- The 128-byte line of a physical address. -/
def lineOf (pa : Nat) : Nat := pa / 128

/-- The set of the home slice that a line falls in, slices numbered over the device (R14, R362, R363; log 4). -/
def l2SetOf (line : Nat) : Nat :=
  (line * 128 / 2 ^ 38 * 4 + Config.homeSlice line % 4) * 16384 + Config.l2Set line % 16384

/-- Some workgroup has pinned a line; at a switch-out pins are released (R375 to R377). -/
def State.pinned (s : State) (line : Nat) : Bool := s.wgs.any fun g => !g.saved && g.locks.any fun x => x.1 = line

/-- The line that a full set gives up: an unpinned one last used with .ef, else the least recently used unpinned one (R365). -/
def State.victim (s : State) (line : Nat) : Option Nat :=
  let inSet := s.l2.filter fun x => l2SetOf x.line = l2SetOf line && !s.pinned x.line
  match inSet.find? (·.ef) with
  | some x => some x.line
  | none => (inSet.head?).map (·.line)

/-- A line is used at its home slice: brought in, made the most recently used, dirty if written (R365). -/
def State.touchL2 (s : State) (line : Nat) (write ef : Bool) : State :=
  match s.l2.find? fun x => x.line = line with
  | some x => { s with l2 := (s.l2.filter fun y => y.line ≠ line) ++ [⟨line, x.dirty || write, ef⟩] }
  | none =>
    let full := 24 ≤ s.l2.length && 24 ≤ (s.l2.filter fun x => l2SetOf x.line = l2SetOf line).length
    let l2 := if full then (match s.victim line with | some v => s.l2.filter fun y => y.line ≠ v | none => s.l2) else s.l2
    { s with l2 := l2 ++ [⟨line, write, ef⟩] }

/-! ### The key of a line (R367, R387, R395, R396) -/

/-- The key slot of a leaf (R387). -/
def leafKey (e : BitVec 64) : Nat := (e.extractLsb' 52 11).toNat

/-- The key that a slot gives an access: slot 0 is the device table key, and a slot gives its key only to contexts of its owner mask, or to
the Newel where it has no owner. What another gets is no key that a line was written under (R2, R395, R396; log 34). -/
def State.keyIn (s : State) (k : KeyNo) : List Byte :=
  if k.slot = 0 then s.tableKey
  else match s.keys.find? fun x => x.slot = k.slot with
    | some x => if x.owners.getLsbD k.ctx || (k.ctx = 64 && x.owners = 0) then x.key else Config.noKey k.slot
    | none => Config.noKey k.slot

/-- The key slot under which a context reaches a leaf's page (R367, R387). -/
def keyOf (ctx : Nat) (leaf : BitVec 64) : KeyNo := ⟨leafKey leaf, ctx⟩

/-- A key slot as the Newel reaches its own pages under it (R396). -/
def newelKey (slot : Nat) : KeyNo := ⟨slot, 64⟩

/-- Lines that bytes lie in. -/
def linesOf (pa n : Nat) : List Nat := natRange (pa / 128) ((pa + n - 1) / 128 - pa / 128 + 1)

/-- A line as an access under a key finds it: written under another, its bytes are what that other's ciphertext decrypts to; a write
leaves it under this key (R395, R396; log 34). -/
def State.openLine (s : State) (key : List Byte) (write : Bool) (line : Nat) : State :=
  match s.lineKeys.find line with
  | some k =>
    if k = key then s
    else
      let bs := Config.misread key line (xtsEncrypt k line (readBytes s.mem (128 * line) 128))
      { s with mem := writeBytes s.mem (128 * line) ((List.range 128).map fun j => bs.getD j 0), lineKeys := s.lineKeys.put line key }
  | none => if write then { s with lineKeys := s.lineKeys.put line key } else s

/-- The lines of n bytes as an access under a key finds or leaves them. -/
def State.openUnder (s : State) (key : List Byte) (write : Bool) (pa n : Nat) : State :=
  if n = 0 then s else (linesOf pa n).foldl (fun t l => t.openLine key write l) s

/-- The lines of n bytes as an access through a page of a key slot finds or leaves them. -/
def State.openBytes (s : State) (key : KeyNo) (write : Bool) (pa n : Nat) : State := s.openUnder (s.keyIn key) write pa n

/-- Memory as a read of n bytes through a page of a key slot sees it. -/
def State.seen (s : State) (key : KeyNo) (pa n : Nat) : List Host.Cell := (s.openBytes key false pa n).mem

/-- Every line of n bytes that has been written was written under the key in a slot. -/
def State.keysAgree (s : State) (key : KeyNo) (pa n : Nat) : Bool :=
  (linesOf pa n).all fun l => match s.lineKeys.find l with
    | some x => x == s.keyIn key
    | none => true

/-- An entry of a table, as the walker reads it under the device table key (R387, R395). -/
def State.tableWord (s : State) (pa : Nat) : BitVec 64 := BitVec.ofNat 64 (readLE (s.seen (newelKey 0) pa 8) pa 8)

/-! ### The walk (R385 to R388) -/

/-- A walk's end: a leaf with the page it maps, a failing check, or a read where there is no memory. -/
inductive WalkRes where
  | leaf (base size : Nat) (entry : BitVec 64)
  | fail (c : Cause)
  | noMem (pa : Nat)
  deriving DecidableEq, Repr

/-- Lowest VA bit that a level indexes (R385). -/
def levelShift : Nat → Nat
  | 3 => 39
  | 2 => 30
  | 1 => 21
  | _ => 16

/-- Index bits of a level (R385). -/
def levelBits : Nat → Nat
  | 3 => 18
  | 0 => 5
  | _ => 9

/-- Table size of a level, its alignment too (R385). -/
def tableBytes (level : Nat) : Nat := 8 * 2 ^ levelBits level

/-- Reserved bits of an entry: of a leaf (R387), else of a non-leaf (R386). -/
def entryReserved (e : BitVec 64) : Bool :=
  if e.getLsbD 1 then e.getLsbD 63 || e.extractLsb' 46 6 != 0 || e.extractLsb' 6 10 != 0
  else e.extractLsb' 46 18 != 0 || e.extractLsb' 2 6 != 0

/-- The frame of a leaf (R387). -/
def leafFrame (e : BitVec 64) : Nat := (e.extractLsb' 16 30).toNat * 65536

/-- The table a non-leaf names (R386). -/
def entryTable (e : BitVec 64) : Nat := (e.extractLsb' 8 38).toNat * 256

/-- The first check that an entry of a level fails, if one does (R388). -/
def entryFault (level : Nat) (e : BitVec 64) : Option Cause :=
  let isLeaf := e.getLsbD 1
  let page := 2 ^ levelShift level
  let t := entryTable e
  let below := tableBytes (level - 1)
  if !e.getLsbD 0 then some 0x060
  else if entryReserved e then some 0x061
  else if (level == 3 && isLeaf) || (level == 0 && !isLeaf) then some 0x062
  else if isLeaf then
    if leafFrame e % page != 0 then some 0x063
    else if 2 ^ 39 ≤ leafFrame e || reservedBase < leafFrame e % 2 ^ 36 + page then some 0x064
    else none
  else if !paReserved t || !paReserved (t + below - 1) || t % below != 0 then some 0x065
  else none

/-- A walk from a table at a level downwards, each entry checked as it is read (R388). -/
def walkFrom (word : Nat → BitVec 64) (va : Nat) : Nat → Nat → WalkRes
  | level, table =>
    let pa := table + 8 * (va / 2 ^ levelShift level % 2 ^ levelBits level)
    let page := 2 ^ levelShift level
    if !paExists pa then .noMem pa
    else
      let e := word pa
      match entryFault level e with
      | some c => .fail c
      | none =>
        if e.getLsbD 1 then .leaf (va / page * page) page e
        else match level with
          | 0 => .fail 0x062
          | n + 1 => walkFrom word va n (entryTable e)

/-- A walk goes on from an entry of a level to the table it names (R386, R388). -/
def entryFollows (level : Nat) (e : BitVec 64) : Bool := (entryFault level e).isNone && !e.getLsbD 1

/-- The entries that a walk from a table at a level reads, to its leaf or the check that fails: the level, the physical address and the
entry of each. -/
def walkTrail (word : Nat → BitVec 64) (va : Nat) : Nat → Nat → List (Nat × Nat × BitVec 64)
  | level, table =>
    let pa := table + 8 * (va / 2 ^ levelShift level % 2 ^ levelBits level)
    if !paExists pa then []
    else
      let e := word pa
      (level, pa, e) :: (if !entryFollows level e then [] else match level with
        | 0 => []
        | n + 1 => walkTrail word va n (entryTable e))

/-- The access kinds that permissions distinguish (R388). -/
inductive Perm where
  | read
  | write
  | both
  | fetch
  /-- LOCKL, UNLOCKL, FLUSHL: R or W -/
  | either
  deriving DecidableEq, Repr

/-- The permission cause of a leaf, if it lacks one (R388). -/
def permFail (p : Perm) (e : BitVec 64) : Option Cause :=
  let r := e.getLsbD 2
  let w := e.getLsbD 3
  match p with
  | .read => if r then none else some 0x080
  | .write => if w then none else some 0x081
  | .both => if !r then some 0x080 else if !w then some 0x081 else none
  | .fetch => if e.getLsbD 4 then none else some 0x082
  | .either => if r || w then none else some 0x080

/-- Whether a key slot is bound to a context (R392, R395, R396). -/
def State.keyBound (s : State) (slot ctx : Nat) : Bool :=
  slot != 0 && (s.keys.any fun k => k.slot == slot && k.owners.getLsbD ctx) &&
  (match s.ctxAt ctx with | some c => c.slots.contains slot | none => false)

/-- The second-level table that a part of the device translates by: below 192 the part is a core, 192 + n a unit of chiplet n (R389). -/
def secondLevel (site : Nat) : Nat := if site < 192 then 192 + site / 24 else site

/-- The copy and stream engines of a core's chiplet, which have no micro-table (R389). -/
def engineSite (core : Nat) : Nat := 192 + core / 24

/-- The second-level table that the Newel and the base dies translate by: chiplet 0's (log 4). -/
def newelSite : Nat := 192

def TlbEntry.isLeaf (t : TlbEntry) : Bool := t.leaf.getLsbD 1

def TlbEntry.covers (t : TlbEntry) (ctx va : Nat) : Bool := t.ctx = ctx && t.base ≤ va && va < t.base + t.size

/-- The leaf that one table holds for an address. -/
def State.tableHit (s : State) (tab ctx va : Nat) : Option TlbEntry := s.tlb.find? fun t => t.tab = tab && t.isLeaf && t.covers ctx va

/-- A cached translation that covers an address, as a part of the device finds it: in its core's micro-table, else in its chiplet's
second-level table (R389). -/
def State.cached (s : State) (site ctx va : Nat) : Option TlbEntry :=
  match s.tableHit site ctx va with
  | some t => some t
  | none => s.tableHit (secondLevel site) ctx va

/-- A cached L2 or L1 entry for an address, by the bytes that an entry of its level covers (R389). -/
def State.tablePointer (s : State) (site ctx va size : Nat) : Option TlbEntry :=
  s.tlb.find? fun t => t.tab = secondLevel site && !t.isLeaf && t.size = size && t.covers ctx va

/-- Where a walk begins, its level and table: below a cached L1 entry, else below a cached L2 entry, else at the context's root
(R385, R389). -/
def State.walkStart (s : State) (site ctx va troot : Nat) : Nat × Nat :=
  match s.tablePointer site ctx va (2 ^ levelShift 1), s.tablePointer site ctx va (2 ^ levelShift 2) with
  | some t, _ => (0, entryTable t.leaf)
  | none, some t => (1, entryTable t.leaf)
  | none, none => (3, troot)

/-- A walk from a start, with the key check that follows it (R388). -/
def State.walkAt (s : State) (ctx va : Nat) (start : Nat × Nat) : WalkRes :=
  match walkFrom s.tableWord va start.1 start.2 with
  | .leaf b n e => if s.keyBound (leafKey e) ctx then .leaf b n e else .fail 0x083
  | r => r

/-- A walk of a context's tables (R388). -/
def State.walk (s : State) (site ctx va : Nat) : WalkRes :=
  match s.ctxAt ctx with
  | none => .fail 0x060
  | some c => s.walkAt ctx va (s.walkStart site ctx va c.troot)

/-- A walk from the root, whatever is cached. -/
def State.rootWalk (s : State) (ctx va : Nat) : WalkRes :=
  match s.ctxAt ctx with
  | none => .fail 0x060
  | some c => s.walkAt ctx va (3, c.troot)

/-- A translation: physical address and leaf, a cause, or a walk into no memory. -/
inductive Trans where
  | ok (pa : Nat) (leaf : BitVec 64)
  | fail (c : Cause)
  | noMem (pa : Nat)
  deriving DecidableEq, Repr

/-- The leaf for an address as a part of the device finds it, cached or by a walk (R388, R389). -/
def State.leafFor (s : State) (site ctx va : Nat) : WalkRes :=
  match s.cached site ctx va with
  | some t => .leaf t.base t.size t.leaf
  | none => s.walk site ctx va

/-- The physical address that a leaf of n bytes from a base gives. -/
def leafPa (e : BitVec 64) (base n va : Nat) : Nat := leafFrame e / n * n + (va - base)

/-- Translates one address for an access of a part of the device, by a cached translation or a walk (R388, R389). -/
def State.translate (s : State) (site ctx va : Nat) (p : Perm) : Trans :=
  match s.leafFor site ctx va with
  | .leaf b n e =>
    match permFail p e with
    | some c => .fail c
    | none => .ok (leafPa e b n va) e
  | .fail c => .fail c
  | .noMem a => .noMem a

/-- Entries that compete with another for its place: all of a micro-table of 64, those of its set in a second-level table of 512 sets
of 8 ways (R389). -/
def TlbEntry.rivals (e : TlbEntry) (l : List TlbEntry) : List TlbEntry :=
  l.filter fun t => t.tab = e.tab &&
    (e.tab < 192 || Config.tableSet t.ctx t.base t.size % 512 = Config.tableSet e.ctx e.base e.size % 512)

/-- Keeps an entry in its table; where there is no room, some entry gives up its place (R389; log 4). -/
def State.keepEntry (s : State) (e : TlbEntry) : State :=
  let room := if e.tab < 192 then 64 else 8
  if s.tlb.contains e then s
  else if s.tlb.length < room || (e.rivals s.tlb).length < room then { s with tlb := s.tlb ++ [e] }
  else
    let gone := (e.rivals s.tlb)[(s.freeVal 0).toNat % (e.rivals s.tlb).length]?
    { (s.useFree 1) with tlb := (s.tlb.filter fun t => some t ≠ gone) ++ [e] }

/-- Keeps a leaf in a second-level table, and in the micro-table of a core (R389). -/
def State.keepLeaf (s : State) (site ctx b n : Nat) (e : BitVec 64) : State :=
  let t := s.keepEntry ⟨secondLevel site, ctx, b, n, e⟩
  if site < 192 then t.keepEntry ⟨site, ctx, b, n, e⟩ else t

/-- Keeps what a walk of an address finds: the L2 and L1 entries, and the leaf unless it fails; the walk has used the lines of its entries
at their home slices. A hit in the second-level table is kept in the micro-table (R363, R389). -/
def State.fill (s : State) (site ctx va : Nat) : State :=
  match s.tableHit site ctx va with
  | some _ => s
  | none => match s.tableHit (secondLevel site) ctx va with
    | some t => s.keepEntry { t with tab := site }
    | none => match s.ctxAt ctx with
      | some c =>
        let start := s.walkStart site ctx va c.troot
        let t := (walkTrail s.tableWord va start.1 start.2).foldl (fun (t : State) (x : Nat × Nat × BitVec 64) =>
          let u := t.touchL2 (lineOf x.2.1) false false
          if x.1 = 3 || !entryFollows x.1 x.2.2 then u
          else u.keepEntry ⟨secondLevel site, ctx, va / 2 ^ levelShift x.1 * 2 ^ levelShift x.1, 2 ^ levelShift x.1, x.2.2⟩) s
        (match s.walk site ctx va with
         | .leaf b n e => t.keepLeaf site ctx b n e
         | _ => t)
      | none => s

/-- The page of 64 KiB that a walk is for. -/
def Walk.page (x : Walk) : Nat × Nat := (x.ctx, x.va / 65536)

/-- The reticle whose walkers a part of the device uses (R12, R389). -/
def reticleOf (site : Nat) : Nat := if site < 192 then site / 96 else (site - 192) / 4

/-- The pages that a reticle's walks in progress are for, in the order of their requests. -/
def State.walkPages (s : State) (reticle : Nat) : List (Nat × Nat) :=
  ((s.walks.filter fun y => reticleOf y.core = reticle).map Walk.page).eraseDups

/-- An access has to walk and all 16 walkers of its reticle are busy with other pages: it waits for one (R389). -/
def State.walkersBusy (s : State) (site ctx va : Nat) : Bool :=
  !s.walks.isEmpty && (s.cached site ctx va).isNone && 16 ≤ (s.walkPages (reticleOf site)).length &&
    !((s.walkPages (reticleOf site)).contains (ctx, va / 65536))

/-! ### Several addresses -/

def State.fillAll (s : State) (site ctx : Nat) : List Nat → State
  | [] => s
  | va :: vs => (s.fill site ctx va).fillAll site ctx vs

/-- Place of a cause in the order of R388: walk checks, key, permissions. -/
def causeRank (c : Cause) : Nat := if c = 0x083 then 0x066 else c.toNat

/-- Several addresses translated in lane order: all physical addresses with their leaves; or the cause of the earliest check
that any fails, with the address of the lowest lane failing it (R181, R388). -/
inductive TransAll where
  | ok (l : List (Nat × BitVec 64))
  | fail (c : Cause) (va : Nat)
  | noMem (pa : Nat)
  deriving DecidableEq, Repr

def State.translateAll (s : State) (site ctx : Nat) (p : Perm) : List Nat → TransAll
  | [] => .ok []
  | va :: vs =>
    match s.translate site ctx va p, s.translateAll site ctx p vs with
    | .noMem a, _ => .noMem a
    | _, .noMem a => .noMem a
    | .fail c, .fail c' va' => if causeRank c ≤ causeRank c' then .fail c va else .fail c' va'
    | .fail c, .ok _ => .fail c va
    | .ok _ _, .fail c' va' => .fail c' va'
    | .ok pa e, .ok l => .ok ((pa, e) :: l)

/-- Access kinds of an event record (R497). -/
inductive Acc where
  | load | store | atomic | fetch | copySrc | copyDst | nma | watch | element
  deriving DecidableEq, Repr

def Acc.code : Acc → Nat
  | .load => 0
  | .store => 1
  | .atomic => 2
  | .fetch => 3
  | .copySrc => 4
  | .copyDst => 5
  | .nma => 6
  | .watch => 7
  | .element => 8

/-- A translation or protection fault of the issuing instruction: its warp is held and the hosts are told (R391). -/
def holdFault (s : State) (i : Iss) (c : Cause) (va : Nat) (a : Acc) : Out :=
  .next (s.hold i 1 ⟨.fault, c, va, a.code, 0, i.pc⟩)

/-- A fault on a queue element, taken by the instruction that pops or pushes its group (R200). -/
def holdElement (s : State) (i : Iss) (c : Cause) (va : Nat) : Out :=
  .next (s.hold i 2 ⟨.element, c, va, Acc.element.code, 0, i.pc⟩)

end Sys2Proof.Machine
end

