-- ==== Sys2Proof/Machine/Operands.lean ====
section
/-! DEFINITION. Operand delivery: what each operand code reads and writes, the operand checks in the order of R170, queue pops
and pushes, the interlock, held values and results (R41 to R44, R143 to R157, R170). -/

namespace Sys2Proof.Machine

/-! ### The instruction's operands -/

/-- An issuing instruction with its fields and what they mean. -/
structure Opnd where
  i : Iss
  f : XForm
  sh : Shape

/-- A latch of the flight (R150). -/
def Flight.latch (fl : Flight) (n : Nat) : Option Latch := if n = 0 then fl.l0 else if n = 1 then fl.l1 else fl.l2

/-- Which latches were not produced by a vector execution (R43, R151). -/
def Flight.scalarLatches (fl : Flight) : BitVec 3 :=
  let b (n : Nat) : Bool := match fl.latch n with | some l => l.scalar | none => true
  BitVec.ofBool (b 2) ++ BitVec.ofBool (b 1) ++ BitVec.ofBool (b 0)

/-- What decoding in a flight depends on. -/
def Iss.env (i : Iss) : DecEnv := ⟨i.w.width, i.fl.scalarLatches⟩

/-- Whether the instruction executes as a scalar (R43, R183). -/
def Opnd.scalar (o : Opnd) : Bool := isScalar o.sh o.f o.i.pfxC o.i.fl.scalarLatches

/-- The fields in the order of R170: D, A, B, C, E, then PFX C. -/
def Opnd.fields (o : Opnd) : List (Role × BitVec 8) :=
  [(o.sh.d, o.f.d), (o.sh.a, o.f.a), (o.sh.b, o.f.b), (o.sh.c, o.f.c), (o.sh.e, o.f.e)] ++
  (match o.i.pfxC with | some c => [(srcR 32, c)] | none => [])

/-- The register that a code names: a direct v register or the one its index register resolves to (R153). -/
def Opnd.vNum (o : Opnd) (c : BitVec 8) : Option Nat :=
  match clsOf c with
  | .v n => some n
  | .x n => some (o.i.w.xReg n).val
  | _ => none

/-! ### Checks (R170) -/

def step1Dst (r : Role × BitVec 8) : Bool :=
  match r.1 with
  | .dst _ cl _ => cl.takes (clsOf r.2)
  | _ => true

def step1Src (r : Role × BitVec 8) : Bool :=
  match r.1 with
  | .src _ .ret _ => (match clsOf r.2 with | .v _ | .s _ | .k _ | .zero => true | _ => false)
  | .src _ .rtom _ => (match clsOf r.2 with | .v _ | .x _ | .s _ | .k _ | .zero | .l _ => true | _ => false)
  | _ => true

/-- Whether a class may be read in a scalar execution: of the latches those that a scalar execution produced (R44). -/
def scalarSrc (fl : Flight) : Cls → Bool
  | .s _ | .k _ | .zero | .lit => true
  | .l n => (match fl.latch n with | some l => l.scalar | none => false)
  | _ => false

/-- Step 2: a source not allowed in a scalar execution (R44, R157). -/
def Opnd.step2 (o : Opnd) (r : Role × BitVec 8) : Bool :=
  match r.1 with
  | .src _ .any _ => !o.scalar || scalarSrc o.i.fl (clsOf r.2)
  | .src _ .scl _ => scalarSrc o.i.fl (clsOf r.2)
  | .src _ .lanes _ => !o.scalar || (match clsOf r.2 with | .q _ => false | _ => true)
  | .src _ .skz _ => (match clsOf r.2 with | .s _ | .k _ | .zero | .lit => true | _ => false)
  | _ => true

/-- Step 3: a latch with no producer (R150). -/
def Opnd.step3 (o : Opnd) (r : Role × BitVec 8) : Bool :=
  match r.1, clsOf r.2 with
  | .src _ _ _, .l n => (o.i.fl.latch n).isSome
  | _, _ => true

/-- Step 4: a direct v register at or beyond the declared count (R145). -/
def Opnd.step4 (o : Opnd) (r : Role × BitVec 8) : Bool :=
  match clsOf r.2 with
  | .v n => r.1.width == 0 || n + (r.1.width / 32 - 1) < o.i.vregs
  | _ => true

/-- Step 5: an index access (R153). -/
def Opnd.step5 (o : Opnd) (r : Role × BitVec 8) : Option Cause :=
  match clsOf r.2 with
  | .x n =>
    if r.1.width = 0 then none
    else
      let x := o.i.w.xReg n
      if x.val < x.lo || x.hi ≤ x.val then some 0x022
      else if o.i.vregs ≤ x.val then some 0x021
      else if r.1.width = 64 then
        if x.val % 2 = 1 then some 0x028
        else if x.hi ≤ x.val + 1 then some 0x022
        else if o.i.vregs ≤ x.val + 1 then some 0x021
        else none
      else none
  | _ => none

/-- A queue's binding (R157). -/
def Opnd.stream (o : Opnd) (n : Nat) : Option Stream := o.i.w.q.find n

/-- Step 6: an unbound queue. -/
def Opnd.step6 (o : Opnd) (r : Role × BitVec 8) : Bool :=
  match clsOf r.2 with
  | .q n => r.1.width == 0 || (o.stream n).isSome
  | _ => true

/-- Step 7, first part: a queue bound in the other direction (R157). -/
def Opnd.step7Dir (o : Opnd) (r : Role × BitVec 8) : Bool :=
  match clsOf r.2, r.1 with
  | .q n, .dst _ _ rd => (match o.stream n with | some s => s.store && !rd | none => true)
  | .q n, .src _ _ _ => (match o.stream n with | some s => !s.store | none => true)
  | _, _ => true

/-- Step 7, second part: a field of another width than the stream's elements (R157). -/
def Opnd.step7Wide (o : Opnd) (r : Role × BitVec 8) : Bool :=
  match clsOf r.2 with
  | .q n => (match o.stream n with | some s => r.1.width == 0 || r.1.width == (if s.wide then 64 else 32) | none => true)
  | _ => true

/-- The first index fault of the fields. -/
def Opnd.firstIndex (o : Opnd) : List (Role × BitVec 8) → Option Cause
  | [] => none
  | r :: rs => match o.step5 r with
    | some c => some c
    | none => o.firstIndex rs

/-- Queues that a field list pops (R157): each once. -/
def Opnd.pops (o : Opnd) : List Nat :=
  (o.fields.filterMap fun r => match r.1, clsOf r.2 with
    | .src _ _ _, .q n => some n
    | _, _ => none).eraseDups

/-- The queue that the destination pushes, unless NW suppresses the write (R36, R157). -/
def Opnd.pushes (o : Opnd) : Option Nat :=
  match o.sh.d, clsOf o.f.d with
  | .dst _ _ _, .q n => if o.f.nw then none else some n
  | _, _ => none

/-- Steps 1 to 7 of R170. -/
def Opnd.check1to7 (o : Opnd) : Option Cause :=
  let fs := o.fields
  if o.sh.dstBad || !fs.all step1Dst || !fs.all step1Src then some 0x024
  else if !fs.all o.step2 then some 0x020
  else if !fs.all o.step3 then some 0x023
  else if !fs.all o.step4 then some 0x021
  else match o.firstIndex fs with
    | some c => some c
    | none =>
      if !fs.all o.step6 then some 0x025
      else if !fs.all o.step7Dir then some 0x029
      else if !fs.all o.step7Wide then some 0x02C
      else none

/-- Step 10: a stream exhausted, where a pop or push takes place. -/
def Opnd.step10 (o : Opnd) : Option Cause :=
  if o.i.mask = 0 then none
  else
    let out (n : Nat) : Bool := match o.stream n with | some s => decide (s.groups ≤ s.used) | none => false
    if o.pops.any out || o.pushes.any out then some 0x02A else none

/-- The operand checks of R170; extra gives the instruction's own steps 8 and 9. -/
def Opnd.check (o : Opnd) (extra : Option Cause) : Option Cause :=
  match o.check1to7 with
  | some c => some c
  | none => match extra with
    | some c => some c
    | none => o.step10

/-! ### The interlock (R148, R149, R157) -/

/-- Registers a field names, as keys: v n is n, s n is 256 + n. -/
def Opnd.regKeys (o : Opnd) (r : Role × BitVec 8) : List Nat :=
  let n := r.1.width / 32
  match r.1, clsOf r.2 with
  | .none, _ | .num _, _ => []
  | _, .s m => natRange (256 + m) n
  | _, _ => match o.vNum r.2 with
    | some m => natRange m n
    | none => []

/-- Register keys of a pending result: a destination code with its number of registers. -/
def dstKeys (dst : BitVec 8) (regs : Nat) : List Nat :=
  match clsOf dst with
  | .v n => natRange n regs
  | .s n => natRange (256 + n) regs
  | _ => []

/-- Registers of a warp with a write still to arrive: results in flight, loads on their way (R148, R149). -/
def State.busyKeys (s : State) (k : WarpKey) : List Nat :=
  (s.pending.flatMap fun p => match p with
    | .access a => if a.warp = k then (match a.dst with | some d => dstKeys d (sizeRegs a.size) | none => []) else []
    | .fence _ => []) ++
  (s.returns.flatMap fun r => if r.warp = k then dstKeys r.dst r.regs else []) ++
  s.scoreboard.flatMap fun x => if x.1 = k then x.2 else []

/-- Groups that queue storage holds of a stream (R197). -/
def streamRoom (width : Nat) (wide : Bool) : Nat := 1024 / (width * if wide then 8 else 4)

/-- The head group of a load stream, if it has arrived (R157). -/
def Stream.head? (t : Stream) : Option QGroup :=
  match t.buf with
  | g :: _ => if g.index = t.used then some g else none
  | [] => none

/-- A destination that the instruction neither writes nor reads: with NW or under an empty mask it waits for nothing (R149). -/
def Opnd.unwritten (o : Opnd) : Role → Bool
  | .dst _ _ rd => !rd && (o.f.nw || o.i.mask = 0)
  | _ => false

/-- Whether the instruction stalls at issue: a latch it reads or a register it names is still to be written, or a queue has no
group to pop or no room for its push (R148, R149, R157). -/
def Opnd.stalls (o : Opnd) (s : State) : Bool :=
  let busy := s.busyKeys o.i.w.key
  (o.fields.any fun r => match r.1, clsOf r.2 with
    | .src _ _ _, .l n => (match o.i.fl.latch n with | some t => t.due.isSome | none => false)
    | _, _ => false) ||
  (o.fields.any fun r => !o.unwritten r.1 && (o.regKeys r).any fun k => busy.contains k) ||
  (o.i.mask != 0 &&
    ((o.pops.any fun n => match o.stream n with | some t => t.head?.isNone | none => false) ||
     (o.pushes.any fun n => match o.stream n with
        | some t => decide (streamRoom o.i.w.width t.wide ≤ t.buf.length)
        | none => false)))

/-- A fault on the group of a queue that the instruction pops (R200). -/
def Opnd.popFault (o : Opnd) : Option (Cause × Nat) :=
  if o.i.mask = 0 then none
  else o.pops.findSome? fun n => match o.stream n with
    | some t => t.head?.bind (·.fault)
    | none => none

/-! ### Reading (R41, R42, R151) -/

/-- The lane number of a read made once for the warp. -/
def warpLane : Nat := 64

/-- The 64 bits of a latch for a lane; lanes that joined later, had no result or stand outside the flight read a free value (R122, R135,
R151; log 59). -/
def Latch.read (l : Latch) (lane : Nat) : DWord :=
  if l.scalar then
    (if l.lanes = 0 then Config.free l.seed
     else if warpLane ≤ lane || l.lanes.getLsbD lane then SMap.get 0 l.vals 0 else Config.free (l.seed + lane))
  else if l.lanes.getLsbD lane then SMap.get 0 l.vals lane
  else Config.free (l.seed + lane)

/-- The 128-bit value that code c supplies to lane l in a field of w bits: rd(c, l, w) (R41, R50). -/
def Opnd.rd128 (o : Opnd) (c : BitVec 8) (lane w : Nat) : BitVec 128 :=
  let pack (reg : Nat → Word) : BitVec 128 :=
    if w = 128 then reg 3 ++ reg 2 ++ reg 1 ++ reg 0
    else if w = 64 then (reg 1 ++ reg 0).setWidth 128
    else (reg 0).setWidth 128
  let cut (x : DWord) : BitVec 128 := if w = 32 then (x.setWidth 32).setWidth 128 else x.setWidth 128
  match clsOf c with
  | .v n => pack fun j => o.i.w.vReg (n + j) lane
  | .x n => pack fun j => o.i.w.vReg ((o.i.w.xReg n).val + j) lane
  | .s n => pack fun j => o.i.w.sReg (n + j)
  | .k n => cut (o.i.kReg n)
  | .l n => (match o.i.fl.latch n with | some l => cut (l.read lane) | none => 0)
  | .q n => (match (o.stream n).bind (·.head?) with | some g => cut (SMap.get 0 g.vals lane) | none => 0)
  | .lid => BitVec.ofNat 128 lane
  | .lit => cut (o.f.lit.getD 0)
  | .zero | .bad => 0

/-- rd(c, l, 32). -/
def Opnd.rd (o : Opnd) (c : BitVec 8) (lane : Nat) : Word := (o.rd128 c lane 32).setWidth 32
/-- rd(c, l, 64). -/
def Opnd.rd64 (o : Opnd) (c : BitVec 8) (lane : Nat) : DWord := (o.rd128 c lane 64).setWidth 64
/-- rd(c, l, w) as a number, w 32 or 64. -/
def Opnd.rdN (o : Opnd) (c : BitVec 8) (lane w : Nat) : Nat := (o.rd128 c lane w).toNat

/-- Register entries that a field reads for the lanes of a mask, as keys of the poison list (R411, R413); a field read across
lanes is judged by its instruction. -/
def Opnd.poisonKeys (o : Opnd) (lanes : List Nat) (r : Role × BitVec 8) : List Nat :=
  let reads := match r.1 with | .src _ .lanes _ => false | .src _ _ _ => true | .dst _ _ rd => rd | _ => false
  if !reads then []
  else
    let n := r.1.width / 32
    match clsOf r.2 with
    | .s m => natRange (12288 + m) n
    | _ => match o.vNum r.2 with
      | some m => (natRange m n).flatMap fun j => lanes.map fun l => 64 * j + l
      | none => []

/-- Whether the instruction reads a poisoned register entry or queue element for a lane of its mask (R413). -/
def Opnd.poisoned (o : Opnd) : Bool :=
  if o.i.mask = 0 then false
  else
    let ls := lanesOf o.i.mask
    (!o.i.w.regPoison.isEmpty && o.fields.any fun r => (o.poisonKeys ls r).any fun k => o.i.w.regPoison.contains k) ||
    o.pops.any fun n => match (o.stream n).bind (·.head?) with
      | some g => g.poison &&& o.i.mask != 0
      | none => false

/-! ### Results, holds and pushes (R134, R149, R150, R157) -/

/-- The lanes that an instruction computes a value for: those of its mask, or once for the warp. -/
def Opnd.lanes (o : Opnd) : List Nat := if o.scalar then [warpLane] else lanesOf o.i.mask

/-- Whether the instruction executes once for the warp, so that what it leaves in a latch is one value (R43, R151, R304, R333). -/
def Opnd.once (o : Opnd) : Bool := o.scalar || o.sh.exec == .own

/-- Pops the head group of every queue that the instruction reads; the pop issues the read of the next group that there is room for
(R157, R261, R288). -/
def Opnd.popAll (o : Opnd) (id : Nat) (w : Warp) : Warp :=
  if o.i.mask = 0 then w
  else o.pops.foldl (fun w n => match w.q.find n with
    | some t => { w with q := w.q.put n { t with
        used := t.used + 1
        buf := t.buf.drop 1
        asks := if t.next + t.asks.length < t.groups then t.asks ++ [id] else t.asks } }
    | none => w) w

/-- Writes one lane's value of w bits to registers from v_n (R42, R184). -/
def writeV (n lane : Nat) (x : BitVec 128) (w : Nat) (wp : Warp) : Warp :=
  let wp := wp.setV n lane (x.setWidth 32)
  let wp := if 64 ≤ w then wp.setV (n + 1) lane (x.extractLsb' 32 32) else wp
  if w = 128 then (wp.setV (n + 2) lane (x.extractLsb' 64 32)).setV (n + 3) lane (x.extractLsb' 96 32) else wp

/-- Writes a value of w bits to registers from s_n (R42). -/
def writeS (n : Nat) (x : BitVec 128) (w : Nat) (wp : Warp) : Warp :=
  let wp := wp.setS n (x.setWidth 32)
  let wp := if 64 ≤ w then wp.setS (n + 1) (x.extractLsb' 32 32) else wp
  if w = 128 then (wp.setS (n + 2) (x.extractLsb' 64 32)).setS (n + 3) (x.extractLsb' 96 32) else wp

/-- wr(c, l, x) for lanes with their values; zero discards (R50). Queue pushes are made apart. -/
def writeLanes (dst : BitVec 8) (w : Nat) (vals : List (Nat × BitVec 128)) (wp : Warp) : Warp :=
  match clsOf dst with
  | .v n => vals.foldl (fun a p => writeV n p.1 p.2 w a) wp
  | .x i => let n := (wp.xReg i).val; vals.foldl (fun a p => writeV n p.1 p.2 w a) wp
  | .s n => (match vals with | p :: _ => writeS n p.2 w wp | [] => wp)
  | _ => wp

/-- Pushes one group; lanes without a value push 0 (R157). -/
def pushGroup (id n : Nat) (vals : List (Nat × BitVec 128)) (wp : Warp) : Warp :=
  match wp.q.find n with
  | some t =>
    let g : QGroup := ⟨id, t.used, vals.foldl (fun m p => SMap.set 0 m p.1 (p.2.setWidth 64)) [], 0, none⟩
    { wp with q := wp.q.put n { t with used := t.used + 1, buf := t.buf ++ [g] } }
  | none => wp

/-- A latch of one value per lane, or of one scalar value (R150, R151). -/
def mkLatch (scalar : Bool) (lanes : LaneMask) (seed : Nat) (vals : List (Nat × BitVec 128)) : Latch :=
  ⟨scalar, vals.foldl (fun m p => SMap.set 0 m (if scalar then 0 else p.1) (p.2.setWidth 64)) [], lanes, seed, none⟩

/-- The lanes in which what an instruction leaves in a latch is defined: its mask, or for one value of the warp the active set
(R122, R135, R151). -/
def Opnd.latchLanes (o : Opnd) : LaneMask := if o.once && o.i.mask != 0 then o.i.fl.active else o.i.mask

/-- Bits of a field that its latch keeps: RTOM takes 32 of a latch that a vector execution produced (R159). -/
def Opnd.heldWidth (o : Opnd) (r : Role) (c : BitVec 8) : Nat :=
  match r, clsOf c with
  | .src _ .rtom _, .l n => (match o.i.fl.latch n with | some l => if l.scalar then r.width else 32 | none => r.width)
  | _, _ => r.width

/-- The index or distance k of an instruction that reads across lanes, in a lane (R254, R255). -/
def Opnd.shufK (o : Opnd) (l : Nat) : Nat := if o.f.bit 16 then o.f.fld 15 8 else o.rdN o.f.b l 32

/-- The one lane whose A a BCAST reads (R255). -/
def Opnd.oneLane (o : Opnd) : Nat := o.shufK warpLane % o.i.w.width

/-- The lane whose value a field delivers to lane l: its own, but for the field that BCAST reads in one lane (R150, R255). -/
def Opnd.fromLane (o : Opnd) (r : Role) (l : Nat) : Nat :=
  match r with
  | .src _ .lanes _ => if o.sh.oneLane then o.oneLane else l
  | _ => l

/-- A field that a scalar execution reads in many lanes, with a value of its own in each (R253). -/
def Opnd.spread (o : Opnd) (r : Role) (c : BitVec 8) : Bool :=
  match r with
  | .src _ .lanes _ => o.once && !o.sh.oneLane && !scalarSrc o.i.fl (clsOf c)
  | _ => false

/-- The values that a field delivers, as a held value (R150), of BCAST that of the lane it reads (R255); what a 128-bit field leaves in a
64-bit latch, and what a field read in many lanes leaves in the one value of a scalar execution, is not stated and is a free value. A
field that a vector execution reads in many lanes leaves each lane's own value (R151; logs 2 and 44). -/
def Opnd.holdOf (o : Opnd) (r : Role) (c : BitVec 8) (seed : Nat) : Latch :=
  if r.width = 128 || o.spread r c then mkLatch o.once 0 seed []
  else mkLatch o.once o.latchLanes seed (o.lanes.map fun l => (l, o.rd128 c (o.fromLane r l) (o.heldWidth r c)))

/-- The held values of an instruction by its hold bits (R150); each latch has 64 free values for its other lanes. -/
def Opnd.holds (o : Opnd) (seed : Nat) : Option Latch × Option Latch :=
  let a := o.holdOf o.sh.a o.f.a seed
  let b := o.holdOf o.sh.b o.f.b (seed + 64)
  match o.f.h2.toNat with
  | 0 => (none, none)
  | 1 => (some a, none)
  | 2 => (some b, none)
  | _ => (some a, some b)

end Sys2Proof.Machine
end

