-- ==== Sys2Proof/Machine/Flags.lean ====
section
/-! DEFINITION. Flags, modes and the other status registers: what sets a flag, when TFENCE traps, reads and writes of status
registers and their reserved bits, the stochastic sequence (R76 to R80, R163 to R169, R404). -/

namespace Sys2Proof.Machine

/-- The flags of several lanes or elements together (R227, R246). -/
def orFlags (l : List Flags5) : Flags5 := l.foldl (· ||| ·) 0

/-- The cause TFENCE raises: the lowest of FLAGS [4:0] and MODE [8:4] (R404). -/
def tfenceCause (flags mode : Word) : Option Cause :=
  let en := flags.extractLsb' 0 5 &&& mode.extractLsb' 4 5
  if en.getLsbD 0 then some 0x0A0
  else if en.getLsbD 1 then some 0x0A1
  else if en.getLsbD 2 then some 0x0A2
  else if en.getLsbD 3 then some 0x0A3
  else if en.getLsbD 4 then some 0x0A4
  else none

/-- The stochastic counter of a lane: SRSEQ and gtid (R79). -/
def srCounter (i : Iss) (lane : Nat) : Nat :=
  let r := i.gr.rec_
  let tid := i.w.num * i.w.width + lane
  let gtid := (i.w.wg.wgid * (r.wgx * r.wgy * r.wgz) + tid) % 2 ^ 32
  i.w.srseq.toNat * 2 ^ 32 + gtid

/-- SRSEQ after a stochastic conversion with a non-empty mask (R80). -/
def Warp.bumpSr (w : Warp) : Warp := { w with srseq := w.srseq + 1 }

/-- Whether an earlier instruction of a warp has flags still to set: an ACCST in the matrix queue (R347, R404). -/
def State.flagsDue (s : State) (w : Warp) : Bool :=
  s.cores.any fun c => c.phys = w.core && c.mq.any fun e =>
    e.warp = w.idx && (match e.work with | .accst .. => true | _ => false)

/-- DETSTATE of a warp's workgroup (R166); PHASE counts what its warps have issued in step (R275). -/
def detState (s : State) (i : Iss) : Word :=
  let phase := (s.warpsOf i.w.wg).foldl (fun m w => if w.alive then min m w.phase else m) i.w.phase
  BitVec.ofNat 32 ((if i.gr.rec_.det then 2 ^ 31 else 0) + phase % 65536)

/-- The value of a status register (R163, R166). -/
def statusReg (s : State) (i : Iss) : Nat → Word
  | 0 => i.w.mode
  | 1 => i.w.flags
  | 2 => i.w.srseq
  | 3 => BitVec.ofNat 32 i.wg.regions.length
  | 4 => i.wg.infltLimit
  | _ => detState s i

/-- Whether a value may be written to a status register (R164 to R166, R169). -/
def statusValueOk (n : Nat) (v : Word) : Bool :=
  match n with
  | 0 => v.extractLsb' 9 23 == 0 && v.extractLsb' 0 3 != 7
  | 1 => v.extractLsb' 5 27 == 0
  | 2 => true
  | 4 => v.extractLsb' 9 23 == 0 && v != 0 && v.toNat ≤ 256
  | _ => false

/-- The value WRSR writes: write, OR, AND-NOT (R169). -/
def wrsrValue (opr : Nat) (old v : Word) : Word :=
  if opr = 0 then v else if opr = 1 then old ||| v else old &&& ~~~v

/-- Writes a status register of the issuing warp or its workgroup (R163, R167). -/
def writeStatus (s : State) (i : Iss) (n : Nat) (v : Word) : State :=
  match n with
  | 0 => s.updWarp i.w.key fun w => { w with mode := v }
  | 1 => s.updWarp i.w.key fun w => { w with flags := v }
  | 2 => s.updWarp i.w.key fun w => { w with srseq := v }
  | 4 => s.updWg i.w.wg fun g => { g with infltLimit := v }
  | _ => s

end Sys2Proof.Machine
end

