-- ==== Sys2Proof/Machine/Alu.lean ====
section
/-! DEFINITION. The shared course of an instruction that works on registers: its checks, the interlock, what it consumes, its
results, holds, pushes and zeroing (R51, R52, R133 to R135, R148 to R151, R157, R170, R413). -/

namespace Sys2Proof.Machine

/-- Virtual address of element l of group g of a stream (R198). -/
def Stream.elemAddr (t : Stream) (g l : Nat) : Nat := ((t.base : Int) + (g : Int) * t.gstr + (l : Int) * t.lstr).toNat

/-- Whether the group that the instruction pushes can be written: every lane's element is translated (R157, R200). -/
def Opnd.pushTrans (o : Opnd) (s : State) : TransAll :=
  if o.i.mask = 0 then .ok []
  else match o.pushes.bind fun n => o.stream n with
    | some t => s.translateAll (engineSite o.i.w.core) o.i.w.wg.ctx .write ((List.range o.i.w.width).map fun l => t.elemAddr t.used l)
    | none => .ok []

/-- The course of an instruction with operands: the checks of R170 with the instruction's own (extra), a stall until operands
are there, a queue element's fault, poison, and then what it does. Every source is read in the instruction's own step, so a later write
never changes a value that it reads (R147). -/
def operate (s : State) (sh : Shape) (f : XForm) (extra : Opnd → Option Cause) (k : Opnd → Out) : Out :=
  issue s fun i =>
    let o : Opnd := ⟨i, f, sh⟩
    match o.check (extra o) with
    | some c => raise s i c
    | none =>
      if o.stalls s then .next s
      else match o.popFault with
        | some (c, va) => holdElement s i c va
        | none =>
          if o.poisoned then raise s i i.wg.serCause
          else match o.pushTrans s with
            | .fail c va => holdElement s i c va
            | .noMem pa => .fault (.noSuchMemory pa)
            | .ok _ => k o

/-- No step 8 or 9 of its own. -/
def noExtra (_ : Opnd) : Option Cause := none

/-- The result's low w bits, zero-extended (R151). -/
def cutW (w : Nat) (x : DWord) : BitVec 128 := if w = 32 then (x.setWidth 32).setWidth 128 else x.setWidth 128

/-- A destination with v[x] resolved (R153). -/
def Opnd.dstCode (o : Opnd) : BitVec 8 :=
  match clsOf o.f.d with
  | .x n => BitVec.ofNat 8 (o.i.w.xReg n).val
  | _ => o.f.d

/-- What an instruction writes to its warp's registers and streams: results of the mask's lanes unless NW, zeros by ZM. -/
def Opnd.writeBack (o : Opnd) (id : Nat) (vals : List (Nat × BitVec 128)) (wp : Warp) : Warp :=
  if o.f.nw then wp
  else
    let w := o.sh.d.width
    let wp := writeLanes o.f.d w vals wp
    let wp := match o.pushes with | some n => pushGroup id n vals wp | none => wp
    if o.i.zm && !o.scalar then
      writeLanes o.f.d w ((lanesOf (o.i.fl.active &&& ~~~o.i.mask)).map fun l => (l, 0)) wp
    else wp

/-- What an instruction leaves behind but for its threads' next PCs: pops, the warp's change upd, the register result res of
each lane (one value where the execution is scalar; none for an instruction with no register result) and held values.
Under an empty mask nothing is written (R135). Lanes outside the mask have free values in l0 (R150; log 45). -/
def Opnd.commit (o : Opnd) (s : State) (res : Option (List (Nat × DWord))) (upd : Warp → Warp) : State × Left :=
  let vals := if o.i.mask = 0 then [] else (res.getD []).map fun p => (p.1, cutW o.sh.d.width p.2)
  let s1 := s.updWarp o.i.w.key fun wp =>
    if o.i.mask = 0 then wp
    else
      let wp := upd (o.popAll s.nextId wp)
      if res.isSome then o.writeBack s.nextId vals wp else wp
  let keys := if res.isSome && !o.f.nw && o.i.mask != 0 then dstKeys o.dstCode (o.sh.d.width / 32) else []
  let s2 : State := { s1 with scoreboard := if keys.isEmpty then s1.scoreboard else s1.scoreboard ++ [(o.i.w.key, keys)] }
  let h := o.holds s.freeCtr
  let l0 := if res.isSome then some (mkLatch o.once o.latchLanes (s.freeCtr + 128) vals) else none
  ((s2.useFree 192).fresh, ⟨l0, h.1, h.2⟩)

/-- Completes an instruction of len bytes: its threads go on to the next word. -/
def Opnd.complete (o : Opnd) (s : State) (len : Nat) (res : Option (List (Nat × DWord))) (upd : Warp → Warp) : Out :=
  let r := o.commit s res upd
  .next (r.1.retire o.i len o.f.lnd r.2)

/-- An instruction that computes each lane's value and flags from its operands (R43, R50). -/
def aluOp (s : State) (len : Nat) (sh : Shape) (f : XForm) (fn : Opnd → Nat → DWord × Flags5) : Out :=
  operate s sh f noExtra fun o =>
    let rs := o.lanes.map fun l => (l, fn o l)
    o.complete s len (some (rs.map fun r => (r.1, r.2.1))) fun w => w.addFlags (orFlags (rs.map fun r => r.2.2))

/-- An integer instruction: no flags (R204). -/
def intOp (s : State) (len : Nat) (sh : Shape) (f : XForm) (fn : Opnd → Nat → DWord) : Out :=
  aluOp s len sh f fun o l => (fn o l, 0)

/-- An instruction that writes one value for the warp, to every lane of the mask or once (R252, R255, R256). -/
def warpVal (s : State) (len : Nat) (sh : Shape) (f : XForm) (extra : Opnd → Option Cause) (fn : Opnd → DWord × Flags5) : Out :=
  operate s sh f extra fun o =>
    let r := fn o
    o.complete s len (some (o.lanes.map fun l => (l, r.1))) fun w => w.addFlags r.2

/-- An instruction that writes a bit of a mask register per lane, ZM by R251 and R252. -/
def maskOp (s : State) (f : XForm) (sh : Shape) (fn : Opnd → Nat → Bool × Flags5) : Out :=
  operate s sh f noExtra fun o =>
    let rs := (lanesOf o.i.mask).map fun l => (l, fn o l)
    o.complete s f.len none fun w =>
      let n := f.d.toNat
      let keep := if o.i.zm then ~~~o.i.fl.active else ~~~o.i.mask
      let set := maskOf ((rs.filter fun r => r.2.1).map (·.1))
      (w.setMask n ((w.maskReg n &&& keep) ||| set)).addFlags (orFlags (rs.map fun r => r.2.2))

end Sys2Proof.Machine
end

