-- ==== Sys2Proof/Machine/Float.lean ====
section
/-! DEFINITION. The float instructions: base words, EXT.FLOAT, fused expressions and conversions (R227 to R250). -/

namespace Sys2Proof.Machine

/-! ### Elements of a value (R227) -/

/-- An operation on element codes of a type: once for .f32, on both halves of the packed types (R227). -/
def perElem (ty : Nat) (g : Fmt → (Nat → Nat) → Rounded) (x : Nat → Nat) : DWord × Flags5 :=
  let f := typeFmt ty
  if ty = 0 then
    let r := g f x
    (BitVec.ofNat 64 r.code, r.flags)
  else
    let lo := g f fun j => x j % 65536
    let hi := g f fun j => x j / 65536
    (BitVec.ofNat 64 (lo.code + 65536 * hi.code), lo.flags ||| hi.flags)

/-- A value and its operation's flags, rounded once into an element format (R227). -/
def roundWith (ftz : Bool) (f : Fmt) (mode : Nat) (v : FVal × Flags5) : Rounded :=
  let r := roundElem ftz f mode v.1
  ⟨r.code, r.flags ||| v.2⟩

/-- The arithmetic operations on decoded operands. -/
inductive FOp where
  | add | sub | mul | div | min | max | minm | maxm
  deriving DecidableEq, Repr

/-- The exact result of an operation of two operands (R231 to R233, R240). -/
def FOp.value (op : FOp) (rdn : Bool) (a b : FVal) : FVal × Flags5 :=
  match op with
  | .add => a.add rdn b
  | .sub => a.add rdn b.neg
  | .mul => a.mul b
  | .div => a.div b
  | .min => FVal.minmax false false a b
  | .max => FVal.minmax true false a b
  | .minm => FVal.minmax false true a b
  | .maxm => FVal.minmax true true a b

/-- An operation of two element codes, with FTZ on the FP32 side and one rounding. -/
def FOp.elem (op : FOp) (ftz : Bool) (mode : Nat) (f : Fmt) (a b : Nat) : Rounded :=
  roundWith ftz f mode (op.value (mode == 3) (decodeElem ftz f a) (decodeElem ftz f b))

/-- a × b + c on element codes (R231, R235). -/
def fmaElem (ftz : Bool) (mode : Nat) (f : Fmt) (a b c : Nat) : Rounded :=
  roundWith ftz f mode ((decodeElem ftz f a).fma (mode == 3) (decodeElem ftz f b) (decodeElem ftz f c))

/-! ### Base words (R231) -/

/-- A base float operation of two operands. -/
def baseF2 (s : State) (op : Nat) (f : RForm) (g : FOp) : Out :=
  aluOp s 4 (baseShape op f.toX) f.toX fun o l =>
    let r := g.elem o.i.w.ftz o.i.rndNoSr fp32 (o.rdN o.f.a l 32) (o.rdN o.f.b l 32)
    (BitVec.ofNat 64 r.code, r.flags)

def execFadd (f : RForm) (s : State) : Out := baseF2 s 0x17 f .add
def execFsub (f : RForm) (s : State) : Out := baseF2 s 0x18 f .sub
def execFmul (f : RForm) (s : State) : Out := baseF2 s 0x19 f .mul
/-- FFMA reads D before it is written (R231). -/
def execFfma (f : RForm) (s : State) : Out :=
  aluOp s 4 (baseShape 0x1A f.toX) f.toX fun o l =>
    let r := fmaElem o.i.w.ftz o.i.rndNoSr fp32 (o.rdN o.f.a l 32) (o.rdN o.f.b l 32) (o.rdN o.f.d l 32)
    (BitVec.ofNat 64 r.code, r.flags)
def execFmin (f : RForm) (s : State) : Out := baseF2 s 0x1B f .min
def execFmax (f : RForm) (s : State) : Out := baseF2 s 0x1C f .max

/-! ### EXT.FLOAT arithmetic (R235 to R242) -/

/-- An EXT.FLOAT instruction by elements: x 0, 1, 2 are the codes of A, B and C. -/
def extF (s : State) (xop : Nat) (f : XForm) (g : Opnd → Fmt → (Nat → Nat) → Rounded) : Out :=
  aluOp s f.len (shapeFloat xop f false) f fun o l =>
    perElem f.ty.toNat (g o) fun j => if j = 0 then o.rdN f.a l 32 else if j = 1 then o.rdN f.b l 32 else o.rdN f.c l 32

/-- An operation of two operands in EXT.FLOAT. -/
def extF2 (s : State) (xop : Nat) (f : XForm) (op : FOp) : Out :=
  extF s xop f fun o fm x => op.elem o.i.w.ftz o.i.rndNoSr fm (x 0) (x 1)

def execFaddExt (f : XForm) (s : State) : Out := extF2 s 0x00 f .add
def execFsubExt (f : XForm) (s : State) : Out := extF2 s 0x01 f .sub
def execFmulExt (f : XForm) (s : State) : Out := extF2 s 0x02 f .mul
def execFfma4 (f : XForm) (s : State) : Out :=
  extF s 0x03 f fun o fm x => fmaElem o.i.w.ftz o.i.rndNoSr fm (x 0) (x 1) (x 2)
def execFminExt (f : XForm) (s : State) : Out := extF2 s 0x04 f .min
def execFmaxExt (f : XForm) (s : State) : Out := extF2 s 0x05 f .max
def execFminm (f : XForm) (s : State) : Out := extF2 s 0x06 f .minm
def execFmaxm (f : XForm) (s : State) : Out := extF2 s 0x07 f .maxm

/-- The sign bit of an element code cleared, inverted or taken from another (R236). -/
def absCode (f : Fmt) (c : Nat) : Nat := c % 2 ^ (f.bits - 1)
def negCode (f : Fmt) (c : Nat) : Nat := if c.testBit (f.bits - 1) then absCode f c else c % 2 ^ f.bits + 2 ^ (f.bits - 1)
def copySign (f : Fmt) (a b : Nat) : Nat := absCode f a + (if b.testBit (f.bits - 1) then 2 ^ (f.bits - 1) else 0)

def execFabs (f : XForm) (s : State) : Out := extF s 0x08 f fun _ fm x => ⟨absCode fm (x 0), 0⟩
def execFneg (f : XForm) (s : State) : Out := extF s 0x09 f fun _ fm x => ⟨negCode fm (x 0), 0⟩
def execFcopys (f : XForm) (s : State) : Out := extF s 0x0A f fun _ fm x => ⟨copySign fm (x 0) (x 1), 0⟩
/-- FCLASS (R237). -/
def execFclass (f : XForm) (s : State) : Out := extF s 0x0B f fun _ fm x => ⟨2 ^ fclassBit fm (x 0), 0⟩

/-- An element times 2^n (R238). -/
def scaleElem (ftz : Bool) (mode : Nat) (f : Fmt) (c : Nat) (n : Int) : Rounded :=
  match decodeElem ftz f c with
  | .nan sg => ⟨f.nan, flagIf sg flNV⟩
  | .fin neg m e st => roundElem ftz f mode (.fin neg m (if m = 0 then e else e + n) st)
  | v => roundElem ftz f mode v
def execFscale (f : XForm) (s : State) : Out :=
  extF s 0x0C f fun o fm x =>
    scaleElem o.i.w.ftz o.i.rndNoSr fm (x 0) (BitVec.ofNat fm.bits (x 1)).toInt
def execFrint (f : XForm) (s : State) : Out := extF s 0x0D f fun o fm x => frintElem o.i.w.ftz fm o.i.rndNoSr (x 0)
def execFfrac (f : XForm) (s : State) : Out := extF s 0x0E f fun o fm x => ffracElem o.i.w.ftz fm (x 0)
def execFdiv (f : XForm) (s : State) : Out := extF2 s 0x0F f .div
def execFsqrt (f : XForm) (s : State) : Out :=
  extF s 0x10 f fun o fm x => roundWith o.i.w.ftz fm o.i.rndNoSr (decodeElem o.i.w.ftz fm (x 0)).sqrt

/-- An approximate function by elements (R241). -/
def approx (s : State) (xop : Nat) (f : XForm) (g : Approx) : Out :=
  extF s xop f fun o fm x => g.eval o.i.w.ftz fm (x 0)
def execFrcpa (f : XForm) (s : State) : Out := approx s 0x11 f .rcp
def execFrsqa (f : XForm) (s : State) : Out := approx s 0x12 f .rsq
def execFexp2a (f : XForm) (s : State) : Out := approx s 0x13 f .exp2
def execFlog2a (f : XForm) (s : State) : Out := approx s 0x14 f .log2
def execFsina (f : XForm) (s : State) : Out := approx s 0x15 f .sin
def execFcosa (f : XForm) (s : State) : Out := approx s 0x16 f .cos
def execFtanha (f : XForm) (s : State) : Out := approx s 0x17 f .tanh
def execFsigma (f : XForm) (s : State) : Out := approx s 0x18 f .sigma

/-- The exact sum of three values of which NaNs and opposite infinities give NaN, the first two
added first (R232, R242; log 71). -/
def sum3 (rdn : Bool) (x y z : FVal × Flags5) : FVal × Flags5 :=
  let s := x.1.add rdn y.1
  let t := s.1.add rdn z.1
  (t.1, x.2 ||| y.2 ||| z.2 ||| s.2 ||| t.2)

/-- The sign of an exact zero sum of three terms: −0 where every term is −0, or under RDN where signs differ (R232). -/
def fixZero (rdn : Bool) (x y z : FVal) (r : FVal) : FVal :=
  if r.isZero then
    .zero (if x.sign && y.sign && z.sign then true else if !x.sign && !y.sign && !z.sign then false else rdn)
  else r

/-- FDOT2 (R242). -/
def dot2 (ftz : Bool) (mode : Nat) (f : Fmt) (a b c : Nat) : Rounded :=
  let rdn := mode == 3
  let p := (decodeFmt f (a % 65536)).mul (decodeFmt f (b % 65536))
  let q := (decodeFmt f (a / 65536)).mul (decodeFmt f (b / 65536))
  let c := decode32 ftz c
  let r := sum3 rdn p q (c, c.sigFlag)
  roundWith ftz fp32 mode (fixZero rdn p.1 q.1 c r.1, r.2)
def execFdot2 (f : XForm) (s : State) : Out :=
  aluOp s f.len (shapeFloat 0x19 f false) f fun o l =>
    let r := dot2 o.i.w.ftz o.i.rndNoSr (typeFmt f.ty.toNat) (o.rdN f.a l 32) (o.rdN f.b l 32) (o.rdN f.c l 32)
    (BitVec.ofNat 64 r.code, r.flags)

/-! ### Fused expressions (R243, R244) -/

/-- An FP32 input under MODE.FTZ: a subnormal reads as a zero of its sign (R77). -/
def flushIn (ftz : Bool) (a : Nat) : Nat := if ftz && a % 2 ^ 31 < 0x800000 then a / 2 ^ 31 * 2 ^ 31 else a

/-- One token on a stack of element codes with the flags so far; a pushed FP32 input is flushed under FTZ, and a NaN that no
arithmetic token meets keeps its bits (R77, R243; log 49). -/
def exprStep (ftz : Bool) (mode : Nat) (f : Fmt) (x : Nat → Nat) (st : List Nat × Flags5) (t : Nat) : List Nat × Flags5 :=
  let put (r : Rounded) (rest : List Nat) : List Nat × Flags5 := (r.code :: rest, st.2 ||| r.flags)
  match t, st.1 with
  | 6, b :: a :: r => put (FOp.add.elem ftz mode f a b) r
  | 7, b :: a :: r => put (FOp.sub.elem ftz mode f a b) r
  | 8, b :: a :: r => put (FOp.mul.elem ftz mode f a b) r
  | 9, c :: b :: a :: r => put (fmaElem ftz mode f a b c) r
  | 10, b :: a :: r => put (FOp.min.elem ftz mode f a b) r
  | 11, b :: a :: r => put (FOp.max.elem ftz mode f a b) r
  | 12, a :: r => (negCode f a :: r, st.2)
  | 13, a :: r => (absCode f a :: r, st.2)
  | 14, a :: r => (a :: a :: r, st.2)
  | 15, b :: a :: r => (a :: b :: r, st.2)
  | t, l => if 1 ≤ t && t ≤ 5 then (flushIn (ftz && f == fp32) (x (t - 1)) :: l, st.2) else (l, st.2)

/-- A program's result on element codes: x 0 to x 4 are A, B, C, E and PFX C (R243). -/
def exprRun (ftz : Bool) (mode : Nat) (f : Fmt) (ts : List Nat) (x : Nat → Nat) : Rounded :=
  let r := ts.foldl (exprStep ftz mode f x) ([], 0)
  ⟨r.1.headD 0, r.2⟩

def execExpr (f : XForm) (s : State) : Out :=
  aluOp s f.len (shapeExpr f true) f fun o l =>
    perElem f.ty.toNat (fun fm x => exprRun o.i.w.ftz o.i.rndNoSr fm (exprToks f.mod) x) fun j =>
      match j with
      | 0 => o.rdN f.a l 32
      | 1 => o.rdN f.b l 32
      | 2 => o.rdN f.c l 32
      | 3 => o.rdN f.e l 32
      | _ => (match o.i.pfxC with | some c => o.rdN c l 32 | none => 0)

/-! ### Conversions (R245 to R249) -/

/-- An FP6 code with f fraction bits and a bias, no specials (R245). -/
def fp6Val (frac bias : Nat) (c : Nat) : FVal :=
  let m := c % 32
  let ef := m / 2 ^ frac
  let fr := m % 2 ^ frac
  if ef = 0 then .fin (c.testBit 5) fr (1 - (bias : Int) - frac) false
  else .fin (c.testBit 5) (2 ^ frac + fr) ((ef : Int) - bias - frac) false

/-- Value of a source element of TY 4 to 7 (R245). -/
def tyElem (ty code : Nat) : FVal :=
  match ty with
  | 4 => fp6Val 3 1 code
  | 5 => fp6Val 2 3 code
  | 6 => .ofInt (BitVec.ofNat 4 code).toInt
  | _ =>
    let i := (BitVec.ofNat 8 code).toInt
    .fin (i < 0) i.natAbs (-6) false

/-- The tensor scale of a source slot, 1 where it names none (R72). -/
def slotT (o : Opnd) (w : Word) : FVal :=
  match slotTscale w with
  | some k => decodeFmt fp32 ((o.i.kReg k).toNat % 2 ^ 32)
  | none => .fin false 1 0 false

/-- A source element of a slot's format as a value times its scales (R246); FTZ on an FP32 source (R77). An integer zero times a
negative scale is -0 (log 58). -/
def slotElem (o : Opnd) (w : Word) (code scale zp : Nat) : FVal × Flags5 :=
  let fmt := slotFmt w
  let x := if fmt = 1 then decode32 o.i.w.ftz code else elemVal fmt zp code
  let p := x.mul (scaleVal (slotBscale w) scale)
  let q := p.1.mul (slotT o w)
  (q.1, x.sigFlag ||| p.2 ||| q.2)

/-- One result of a conversion to a slot's format: S8 saturates to integers, others by round_to (R246). mode may be SR. -/
def toSlot (ftz : Bool) (fmt mode : Nat) (sat : Bool) (u b : Nat) (v : FVal × Flags5) : Rounded :=
  if fmt = 12 then
    match v.1 with
    | .nan _ => ⟨0, flNV⟩
    | .inf neg => ⟨if neg then 0x80 else 0x7F, flNV⟩
    | .fin neg m e _ =>
      let r := roundInt mode neg m e
      let y := clampI r.1
      ⟨(BitVec.ofInt 8 y).toNat, if y != r.1 then flNV else flagIf r.2 flNX⟩
  else if fmt = 1 then
    let r := roundTo fp32 (if mode = 6 then 1 else mode) sat 0 32 v.1
    let mag := r.code % 2 ^ 31
    let r : Rounded := if ftz && mag != 0 && mag < 0x800000 then ⟨r.code - mag, r.flags ||| flUF ||| flNX⟩ else r
    ⟨r.code, r.flags ||| v.2⟩
  else
    let r := roundTo (fmtOf fmt) mode sat u b v.1
    ⟨r.code, r.flags ||| v.2⟩
where
  /-- the S8 range -/
  clampI (y : Int) : Int := if y < -128 then -128 else if 127 < y then 127 else y

/-- Whether a conversion rounds stochastically: SR in force and a narrow float destination (R78, R228). -/
def isStochastic (o : Opnd) (fmt : Nat) : Bool := o.i.rnd = 6 && fmt != 1 && fmt != 12

/-- The random word of a lane (R79); a scalar takes the lowest lane of its mask. -/
def srRandom (o : Opnd) (dst : Word) (lane : Nat) : Nat :=
  let key := match slotKey dst with | some k => (o.i.kReg k).toNat | none => 0
  randArx key (srCounter o.i (if o.scalar then lowLane o.i.mask else lane))

/-- A slot that may be a conversion destination (R69, R71). -/
def dstSlotOk (w : Word) : Bool := slotBlock w == 0 && [1, 2, 3, 4, 5, 6, 12].contains (slotFmt w)

/-- Bits of a CVT source element (R245). -/
def cvtSrcBits (o : Opnd) (f : XForm) : Nat :=
  if f.ty = 3 then fmtBits (slotFmt (o.i.slot (f.fld 5 3))) else if f.ty = 6 then 4 else 8

/-- CVT's destination slot and size are accepted (R245). -/
def cvtDstOk (f : XForm) (o : Opnd) : Bool :=
  let dst := o.i.slot (f.fld 2 0)
  dstSlotOk dst && (f.ty = 3 || [3, 4, 5].contains (slotFmt dst)) && 2 ^ f.fld 7 6 * fmtBits (slotFmt dst) ≤ 64

/-- CVT's source slot and size are accepted (R245). -/
def cvtSrcOk (f : XForm) (o : Opnd) : Bool :=
  !(f.ty = 3 && slotFmt (o.i.slot (f.fld 5 3)) == 0) && 2 ^ f.fld 7 6 * cvtSrcBits o f ≤ 64

/-- The first part of CVT's step 9: its slots and sizes are accepted (R170, R245). -/
def cvtSlotsOk (f : XForm) (o : Opnd) : Bool := cvtDstOk f o && cvtSrcOk f o

/-- CVT's fields once the slots have settled its widths (R245). -/
def cvtShape (o : Opnd) (f : XForm) : Shape :=
  let n := 2 ^ f.fld 7 6
  let wide (b : Nat) : Nat := if 32 < n * b then 64 else 32
  let src := o.i.slot (f.fld 5 3)
  let sh := shapeFloat 0x1B f false
  { sh with
    d := dstR (wide (fmtBits (slotFmt (o.i.slot (f.fld 2 0)))))
    a := srcR (wide (cvtSrcBits o f))
    b := if f.ty = 3 && slotBscale src != 0 then srcR 32 else .none
    c := if f.ty = 3 && slotZp src then srcR 32 else .none }

/-- CVT's fields as steps 1 to 8 take them: each as wide as its N elements make it, whether or not step 9 will accept its slot; 32 bits
where the slot is empty or the elements exceed 64 bits, so that R245 gives it no place (R170, R245; log 11). -/
def cvtPre (o : Opnd) (f : XForm) : Shape :=
  let n := 2 ^ f.fld 7 6
  let dst := slotFmt (o.i.slot (f.fld 2 0))
  let sh := cvtShape o f
  let own := shapeFloat 0x1B f false
  { sh with
    d := if dst != 0 && n * fmtBits dst ≤ 64 then sh.d else own.d
    a := if cvtSrcOk f o then sh.a else own.a }

/-- The slot-dependent form of a conversion: the same instruction with the fields its slots give it. -/
def Opnd.withShape (o : Opnd) (sh : Shape) : Opnd := { o with sh := sh }

/-- ZM = 1 before a conversion that the fields its slots leave it make a scalar execution (R49, R229). -/
def Opnd.zmScalar (o : Opnd) (sh : Shape) : Bool := o.i.zm && (o.withShape sh).scalar

/-- The end of step 9: a source field, or a hold of one, that the source slot leaves unread (R170, R234). -/
def slotUnread (f : XForm) (src : Word) : Bool :=
  (slotBscale src == 0 && (f.b != 0 || f.h2.getLsbD 1)) || (!slotZp src && f.c != 0)

/-- Step 9 of CVT: slots, sizes, pairs and unread fields (R170, R245). -/
def cvtCheck (f : XForm) (o : Opnd) : Option Cause :=
  let n := 2 ^ f.fld 7 6
  let odd (c : BitVec 8) : Bool := match clsOf c with | .v m | .s m => m % 2 == 1 | _ => false
  if !cvtSlotsOk f o then some 0x002
  else if (32 < n * fmtBits (slotFmt (o.i.slot (f.fld 2 0))) && odd f.d) || (32 < n * cvtSrcBits o f && odd f.a) then some 0x002
  else if o.zmScalar (cvtShape o f) then some 0x002
  else if f.ty = 3 && slotUnread f (o.i.slot (f.fld 5 3)) then some 0x006
  else none

/-- One lane's packed result of CVT with its flags (R246). -/
def cvtLane (f : XForm) (o : Opnd) (l : Nat) : DWord × Flags5 :=
  let n := 2 ^ f.fld 7 6
  let src := o.i.slot (f.fld 5 3)
  let dst := o.i.slot (f.fld 2 0)
  let sb := cvtSrcBits o f
  let db := fmtBits (slotFmt dst)
  let a := o.rdN f.a l o.sh.a.width
  let rnd := if isStochastic o (slotFmt dst) then srRandom o dst l else 0
  let rs := (List.range n).map fun j =>
    let code := a / 2 ^ (j * sb) % 2 ^ sb
    let v := if f.ty = 3 then slotElem o src code ((o.rdN f.b l 32) % 256) ((o.rdN f.c l 32) % 256) else (tyElem f.ty.toNat code, 0)
    let u := srWord rnd j n
    (j, toSlot o.i.w.ftz (slotFmt dst) o.i.rnd o.i.sat u.1 u.2 v)
  (BitVec.ofNat 64 (rs.foldl (fun x r => x + r.2.code * 2 ^ (r.1 * db)) 0), orFlags (rs.map fun r => r.2.flags))

/-- A conversion through slots: the operand checks before step 9, step 9, and then the course of an instruction whose fields are as
the slots make them (R170). -/
def slotOp (s : State) (f : XForm) (sh : Shape) (pre : Opnd → Shape) (chk : Opnd → Option Cause) (fin : Opnd → Shape)
    (fn : Opnd → Nat → DWord × Flags5) (dst : Opnd → Nat) : Out :=
  issue s fun i =>
    let o : Opnd := ⟨i, f, sh⟩
    match (o.withShape (pre o)).check1to7 with
    | some c => raise s i c
    | none => match chk o with
      | some c => raise s i c
      | none => operate s (fin o) f noExtra fun o =>
          let rs := o.lanes.map fun l => (l, fn o l)
          o.complete s f.len (some (rs.map fun r => (r.1, r.2.1))) fun w =>
            let w := w.addFlags (orFlags (rs.map fun r => r.2.2))
            if isStochastic o (dst o) then w.bumpSr else w

def execCvt (f : XForm) (s : State) : Out :=
  slotOp s f (shapeFloat 0x1B f false) (fun o => cvtPre o f) (cvtCheck f) (fun o => cvtShape o f) (cvtLane f) fun o => slotFmt (o.i.slot (f.fld 2 0))

/-- Bits and sign of an integer type of CVTFI and CVTIF (R247). -/
def intTy (ty ity : Nat) : Nat × Bool := (if ty != 0 then 16 else if ity < 2 then 32 else 64, ity % 2 == 0)

/-- A float element to a saturated integer of k bits (R247). -/
def toIntElem (ftz : Bool) (mode : Nat) (f : Fmt) (k : Nat) (sg : Bool) (c : Nat) : Rounded :=
  let lo : Int := if sg then -(2 ^ (k - 1)) else 0
  let hi : Int := if sg then 2 ^ (k - 1) - 1 else 2 ^ k - 1
  match decodeElem ftz f c with
  | .nan _ => ⟨0, flNV⟩
  | .inf neg => ⟨(BitVec.ofInt k (if neg then lo else hi)).toNat, flNV⟩
  | .fin neg m e _ =>
    let r := roundInt mode neg m e
    if r.1 < lo then ⟨(BitVec.ofInt k lo).toNat, flNV⟩
    else if hi < r.1 then ⟨(BitVec.ofInt k hi).toNat, flNV⟩
    else ⟨(BitVec.ofInt k r.1).toNat, flagIf r.2 flNX⟩

/-- An integer of k bits to a float element (R247). -/
def ofIntElem (ftz : Bool) (mode : Nat) (f : Fmt) (k : Nat) (sg : Bool) (c : Nat) : Rounded :=
  roundElem ftz f mode (.ofInt (if sg then (BitVec.ofNat k c).toInt else (c : Int)))

def execCvtfi (f : XForm) (s : State) : Out :=
  extF s 0x1C f fun o fm x =>
    let t := intTy f.ty.toNat (f.fld 1 0)
    toIntElem o.i.w.ftz o.i.rndNoSr fm t.1 t.2 (x 0)
def execCvtif (f : XForm) (s : State) : Out :=
  aluOp s f.len (shapeFloat 0x1D f false) f fun o l =>
    let t := intTy f.ty.toNat (f.fld 1 0)
    perElem f.ty.toNat (fun fm x => ofIntElem o.i.w.ftz o.i.rndNoSr fm t.1 t.2 (x 0)) fun _ =>
      o.rdN f.a l (if t.1 = 64 then 64 else 32)

/-- Step 9 of PACK (R248). -/
def packCheck (f : XForm) (o : Opnd) : Option Cause :=
  let dst := o.i.slot (f.fld 2 0)
  let db := fmtBits (slotFmt dst)
  if !dstSlotOk dst || slotFmt dst == 1 then some 0x002
  else if 32 / db ≤ 2 * f.fld 5 3 + 1 then some 0x002
  else none

/-- One lane of PACK (R248). -/
def packLane (f : XForm) (o : Opnd) (l : Nat) : DWord × Flags5 :=
  let dst := o.i.slot (f.fld 2 0)
  let db := fmtBits (slotFmt dst)
  let rnd := if isStochastic o (slotFmt dst) then srRandom o dst l else 0
  let e (j : Nat) (c : BitVec 8) : Rounded :=
    let x := decode32 o.i.w.ftz (o.rdN c l 32)
    let u := srWord rnd j 2
    toSlot o.i.w.ftz (slotFmt dst) o.i.rnd o.i.sat u.1 u.2 (x, x.sigFlag)
  let e0 := e 0 f.a
  let e1 := e 1 f.b
  let pos := 2 * f.fld 5 3 * db
  let old := o.rdN f.d l 32
  let new := old - old / 2 ^ pos % 2 ^ (2 * db) * 2 ^ pos + (e0.code + e1.code * 2 ^ db) * 2 ^ pos
  (BitVec.ofNat 64 new, e0.flags ||| e1.flags)

def execPack (f : XForm) (s : State) : Out :=
  slotOp s f (shapeFloat 0x1E f false) (fun _ => shapeFloat 0x1E f false) (packCheck f) (fun _ => shapeFloat 0x1E f false) (packLane f) fun o =>
    slotFmt (o.i.slot (f.fld 2 0))

/-- UNPACK's fields once its slot has settled them (R249). -/
def unpackShape (o : Opnd) (f : XForm) : Shape :=
  let src := o.i.slot (f.fld 2 0)
  { shapeFloat 0x1F f false with
    b := if slotBscale src != 0 then srcR 32 else .none
    c := if slotZp src then srcR 32 else .none }

/-- Step 9 of UNPACK (R249). -/
def unpackCheck (f : XForm) (o : Opnd) : Option Cause :=
  let src := o.i.slot (f.fld 2 0)
  let sb := fmtBits (slotFmt src)
  if slotFmt src == 0 || slotFmt src == 1 then some 0x002
  else if 32 / sb ≤ f.fld 5 3 then some 0x002
  else if o.zmScalar (unpackShape o f) then some 0x002
  else if slotUnread f src then some 0x006
  else none

/-- One lane of UNPACK (R249). -/
def unpackLane (f : XForm) (o : Opnd) (l : Nat) : DWord × Flags5 :=
  let src := o.i.slot (f.fld 2 0)
  let sb := fmtBits (slotFmt src)
  let code := o.rdN f.a l 32 / 2 ^ (f.fld 5 3 * sb) % 2 ^ sb
  let v := slotElem o src code (o.rdN f.b l 32 % 256) (o.rdN f.c l 32 % 256)
  let r := roundWith o.i.w.ftz fp32 o.i.rndNoSr v
  (BitVec.ofNat 64 r.code, r.flags)

def execUnpack (f : XForm) (s : State) : Out :=
  slotOp s f (shapeFloat 0x1F f false) (fun o => unpackShape o f) (unpackCheck f) (fun o => unpackShape o f) (unpackLane f) fun _ => 1

/-- RAND (R250). -/
def execRand (f : XForm) (s : State) : Out :=
  aluOp s f.len (shapeFloat 0x20 f false) f fun o l =>
    (BitVec.ofNat 64 (randArx (o.rdN f.a l 64) (o.rdN f.b l 64)), 0)

end Sys2Proof.Machine
end

