-- ==== Sys2Proof/Machine/Mem.lean ====
section
/-! DEFINITION. Memory as accesses meet it: L2 lines, L1 copies, watches on what is written, poison, the scratchpads, and what one
access does at its ordering point (R172 to R196, R263 to R276, R362 to R372, R379 to R381, R411 to R413). -/

namespace Sys2Proof.Machine

/-! ### L2 and L1 (R174, R362 to R365) -/

/-- Drops the copy of a line from a core's L1. -/
def State.dropL1Line (s : State) (core line : Nat) : State :=
  s.updCore core fun c => { c with l1 := c.l1.filter fun x => x.line ≠ line }

/-- Drops every line of a core's L1 (R264). -/
def State.dropL1 (s : State) (core : Nat) : State := s.updCore core fun c => { c with l1 := [] }

/-- The copy of a line in a core's L1 that was read under a key slot; one read under another is none (R395). -/
def State.l1Copy (s : State) (core : Nat) (key : KeyNo) (line : Nat) : Option L1Line :=
  (s.coreAt core).bind fun c => c.l1.find? fun x => x.line = line && x.key = key

/-- Granules of 32 bytes that bytes lie in. -/
def granulesOf (pa n : Nat) : List Nat := natRange (pa / 32) ((pa + n - 1) / 32 - pa / 32 + 1)

/-- Some byte lies in a poisoned granule (R411). -/
def State.poisonedAt (s : State) (pa n : Nat) : Bool := !s.memPoison.isEmpty && (granulesOf pa n).any fun g => s.memPoison.contains g

/-- Lines that a core's L1 holds: what its carve leaves of 512 KiB (R15, R172). -/
def Core.l1Lines (c : Core) : Nat := 4096 - 256 * c.carve

/-- Keeps a copy of a line of clean data in a core's L1; a full one gives up its oldest copy (R172, R174, R411). -/
def State.fillL1 (s : State) (core : Nat) (key : KeyNo) (line : Nat) : State :=
  if s.poisonedAt (128 * line) 128 then s
  else s.updCore core fun c =>
    let kept := c.l1.filter fun x => x.line ≠ line
    { c with l1 := kept.drop (kept.length + 1 - c.l1Lines) ++ [⟨line, key, readBytes (s.seen key (128 * line) 128) (128 * line) 128⟩] }

/-- A load's n bytes under a key slot by a cache hint: from the core's L1 copy where one is still there, else from the home slice (R174, R188,
R268; log 3). -/
def State.loadG (s : State) (core : Nat) (key : KeyNo) (hint pa n : Nat) : State × List Byte :=
  let line := lineOf pa
  match (if hint = 2 then none else s.l1Copy core key line) with
  | some x =>
    if Config.l1Keeps s.freeCtr then (s.useFree 1, (x.bytes.drop (pa % 128)).take n)
    else (((s.useFree 1).touchL2 line false (hint = 1)).fillL1 core key line, readBytes (s.seen key pa n) pa n)
  | none =>
    let s1 := s.touchL2 line false (hint = 1)
    (if hint = 2 then s1 else s1.fillL1 core key line, readBytes (s.seen key pa n) pa n)

/-- Brings a line into L2, and into L1 at level 0 (R202). -/
def State.bringLine (s : State) (core : Nat) (key : KeyNo) (lvl line : Nat) : State :=
  let s1 := s.touchL2 line false false
  if lvl = 0 then s1.fillL1 core key line else s1

/-! ### Watches (R379 to R381) -/

/-- Whether a watched value meets a slot's predicate (R379). -/
def Watch.test (w : Watch) (x : Nat) : Bool :=
  let n := if w.wide then 64 else 32
  match w.pred with
  | 0 => x % 2 ^ n = w.value.toNat % 2 ^ n
  | 1 => x % 2 ^ n ≠ w.value.toNat % 2 ^ n
  | 2 => w.value.toNat % 2 ^ n ≤ x % 2 ^ n
  | _ => (BitVec.ofNat n w.value.toNat).toInt ≤ (BitVec.ofNat n x).toInt

/-- Bytes of a watched word. -/
def Watch.bytes (w : Watch) : Nat := if w.wide then 8 else 4

/-- Whether two byte ranges overlap. -/
def meets (a n b m : Nat) : Bool := a < b + m && b < a + n

/-- The monitors of global words after a write of n bytes at a physical address; one whose arming read is still to come takes no
part (R380). -/
def State.notifyG (s : State) (pa n : Nat) : State :=
  { s with warps := s.warps.map fun (w : Warp) =>
      if w.watch.isEmpty then w
      else { w with watch := w.watch.map fun e =>
        (e.1, if e.2.glob && e.2.arming.isNone && meets pa n e.2.pa e.2.bytes then
          { e.2 with fired := e.2.fired || e.2.test (readLE (s.seen e.2.key e.2.pa e.2.bytes) e.2.pa e.2.bytes) } else e.2) } }

/-- The monitors of scratchpad words after a write of n bytes to a workgroup's scratchpad (R380). -/
def State.notifyS (s : State) (k : WgKey) (off n : Nat) : State :=
  match s.wgAt k with
  | none => s
  | some g =>
    { s with warps := s.warps.map fun (w : Warp) =>
        if w.watch.isEmpty || w.wg ≠ k then w
        else { w with watch := w.watch.map fun e =>
          (e.1, if !e.2.glob && e.2.arming.isNone && meets off n e.2.addr e.2.bytes then
            { e.2 with fired := e.2.fired || e.2.test (readLE g.scratch e.2.addr e.2.bytes) } else e.2) } }

/-- The arming read of a slot finds a value (R380); the slot may have been armed anew, or its warp ended. -/
def State.armed (s : State) (k : WarpKey) (slot id now : Nat) : State :=
  s.updWarp k fun w => { w with watch := w.watch.map fun e =>
    if e.1 = slot ∧ e.2.arming = some id then (e.1, { e.2 with fired := e.2.test now, arming := none }) else e }

/-! ### Writes -/

/-- Poisoned units of a size left after a write of n bytes: those covered whole are clean (R412). -/
def clearPoison (unit : Nat) (l : List Nat) (a n : Nat) : List Nat := l.filter fun g => !(a ≤ unit * g && unit * g + unit ≤ a + n)

/-- Granules newly poisoned, each of a block: both copies of the poison record and of the retired-frame list take them, and the hosts are told (R411,
R414, R417). -/
def State.poisonAt (s : State) (block : Nat → Nat) (gs : List Nat) : State :=
  let news := gs.eraseDups.filter fun g => !s.memPoison.contains g
  let frames := (news.map fun g => g / 2048).eraseDups.filter fun f => !s.contA.retired.contains f
  let enter (c : Containment) : Containment :=
    { c with poison := c.poison ++ news.map fun g => (32 * g, s.time), retired := c.retired ++ frames }
  let s0 : State := { s with memPoison := s.memPoison ++ news, contA := enter s.contA, contB := enter s.contB }
  let s1 := news.foldl (fun t g => t.countPoison (block g) 1) s0
  ((news.map (32 * ·)) ++ frames.map (65536 * ·)).foldl
    (fun t a => t.postEvent { EventRec.blank with evt := 6, addr := a }) s1

/-- Granules of HBM newly poisoned, counted by their base die (R503). -/
def State.poisonMem (s : State) (gs : List Nat) : State := s.poisonAt (fun g => 32 * g / 2 ^ 36) gs

/-- Granules found poisoned in L2, counted by their home slice: slices are the blocks from 200 on (R411, R503). -/
def State.poisonL2 (s : State) (gs : List Nat) : State := s.poisonAt (fun g => 200 + l2SetOf (g / 4) / 16384) gs

/-- Granules of a workgroup's bay poisoned; those newly so are recorded and told, at addresses beyond every stack (R412, R414; log 36). -/
def State.poisonBay (s : State) (k : WgKey) (gs : List Nat) : State :=
  match s.wgAt k with
  | none => s
  | some g =>
    let news := gs.eraseDups.filter fun x => !g.bayPoison.contains x
    let at_ (x : Nat) : Nat := 2 ^ 46 + 2 ^ 21 * g.core + 32 * x
    let enter (c : Containment) : Containment := { c with poison := c.poison ++ news.map fun x => (at_ x, s.time) }
    let s1 : State := { s.updWg k fun g => { g with bayPoison := addPoison g.bayPoison news } with contA := enter s.contA, contB := enter s.contB }
    (news.map at_).foldl (fun t a => t.postEvent { EventRec.blank with evt := 6, addr := a }) (s1.countPoison (8 + g.core) news.length)

/-- The lines of n bytes are used at their home slices, for a read or a write and with or without .ef (R188, R365). -/
def State.touchLines (s : State) (pa n : Nat) (write ef : Bool) : State :=
  (natRange (lineOf pa) (lineOf (pa + n - 1) - lineOf pa + 1)).foldl (fun t l => t.touchL2 l write ef) s

/-- The lines that bytes are read from on a path without L1 are used (R365). -/
def State.useLines (s : State) (pa n : Nat) : State := if n = 0 then s else s.touchLines pa n false false

/-- A page has been copied at the home slices of its lines (R363, R365). -/
def State.copiedLines (s : State) (src dst : Nat) : State := (s.useLines src 65536).touchLines dst 65536 true false

/-- The first write to a page of a frozen view's source keeps its bytes in a frame of the pool, a write that monitors see too; without one
the view is broken (R380, R484, R485). -/
def State.keepPage (s : State) (pa : Nat) (v : View) : State :=
  match v.frames.find (pa / 65536) with
  | none => s
  | some i =>
    if (v.pages.find i).isSome then s
    else
      let same (x : View) : Bool := x.comm = v.comm && x.name = v.name
      match v.pool with
      | [] => { s with
          views := s.views.filter fun x => !same x
          buffers := s.buffers.filter fun b => !(b.d.comm = v.comm && b.d.name = v.name) }
      | f :: fs =>
        let src := pa / 65536 * 65536
        let bad := (s.memPoison.filter fun g => g / 2048 = pa / 65536).map fun g => g - src / 32 + 2048 * f
        ((({ s with
          mem := writeBytes s.mem (65536 * f) (readBytes s.mem src 65536)
          lineKeys := (List.range 512).foldl (fun m l => match s.lineKeys.find (src / 128 + l) with
            | some k => m.put (512 * f + l) k
            | none => m) (s.lineKeys.filter fun x => x.1 / 512 ≠ f)
          memPoison := s.memPoison.filter fun g => g / 2048 ≠ f
          views := s.views.map fun (x : View) => if same x then { x with pool := fs, pages := x.pages.put i f } else x } : State).poisonMem bad).copiedLines src (65536 * f)).notifyG (65536 * f) 65536

/-- Frozen views keep the page of an address before it is written (R484). -/
def State.keepPages (s : State) (pa : Nat) : State :=
  if s.views.isEmpty then s else (s.views.filter fun v => v.frozen).foldl (fun t v => t.keepPage pa v) s

/-- Bytes of one range of an image buffer (R422). -/
def imageRange : Nat := 72 * 2 ^ 20

/-- A physical address lies in an image buffer (R422). -/
def inBuffer (b : ImageBuffer) (pa : Nat) : Bool :=
  match b.offsets[pa / 2 ^ 36]? with
  | some o => o ≤ pa % 2 ^ 36 && pa % 2 ^ 36 < o + imageRange
  | none => false

/-- Bytes written through a page of a key slot: memory, its key and poison, views keeping what they replace (R367, R412, R484). -/
def State.putBytes (s0 : State) (key : KeyNo) (pa : Nat) (bs : List Byte) : State :=
  let s := (s0.keepPages pa).openBytes key true pa bs.length
  { s with mem := writeBytes s.mem pa bs, memPoison := clearPoison 32 s.memPoison pa bs.length }

/-- Bytes that are written at the home slice, with or without .ef, and seen by monitors (R188, R365, R380). -/
def State.storeHint (s : State) (key : KeyNo) (ef : Bool) (pa : Nat) (bs : List Byte) : State :=
  ((s.putBytes key pa bs).touchLines pa bs.length true ef).notifyG pa bs.length

/-- Bytes written at the home slice, on any path. -/
def State.storeG (s : State) (key : KeyNo) (pa : Nat) (bs : List Byte) : State := s.storeHint key false pa bs

/-- Bytes written to a workgroup's scratchpad, on any path. -/
def State.storeS (s : State) (k : WgKey) (off : Nat) (bs : List Byte) : State :=
  (s.updWg k fun g => { g with
    scratch := writeBytes g.scratch off bs
    scratchPoison := clearPoison 4 g.scratchPoison off bs.length }).notifyS k off bs.length

/-- An LSU store's effect on its own core's L1 by its hint; a copy read under another key slot goes (R174, R188, R395). -/
def State.storeL1 (s : State) (core : Nat) (key : KeyNo) (hint pa : Nat) (bs : List Byte) : State :=
  let line := lineOf pa
  if hint = 2 then s.dropL1Line core line
  else s.updCore core fun c => { c with l1 := (c.l1.filter fun x => x.line ≠ line || x.key = key).map fun x =>
    if x.line = line then { x with bytes := x.bytes.take (pa % 128) ++ bs ++ x.bytes.drop (pa % 128 + bs.length) } else x }

/-- Some byte of a scratchpad lies in a poisoned word (R411). -/
def Workgroup.scratchBad (g : Workgroup) (off n : Nat) : Bool :=
  !g.scratchPoison.isEmpty && (natRange (off / 4) ((off + n - 1) / 4 - off / 4 + 1)).any fun x => g.scratchPoison.contains x

/-! ### Atomic operations (R194 to R196, R369) -/

/-- The new value of an integer atomic of w bits (R194). -/
def atomNew (opc w o v : Nat) : Nat :=
  let x := BitVec.ofNat w o
  let y := BitVec.ofNat w v
  match opc with
  | 0 => (x + y).toNat
  | 1 => (if x.toInt ≤ y.toInt then x else y).toNat
  | 2 => (if x.toInt ≤ y.toInt then y else x).toNat
  | 3 => min x.toNat y.toNat
  | 4 => max x.toNat y.toNat
  | 5 => (x &&& y).toNat
  | 6 => (x ||| y).toNat
  | 7 => (x ^^^ y).toNat
  | 8 => y.toNat
  | 9 => if y.toNat ≤ x.toNat then 0 else x.toNat + 1
  | _ => if x.toNat = 0 ∨ y.toNat < x.toNat then y.toNat else x.toNat - 1

/-- Two 16-bit sums, subnormals kept, RNE (R196). -/
def add2 (f : Fmt) (o v : Nat) : Nat :=
  (FOp.add.elem false 1 f (o % 65536) (v % 65536)).code + 65536 * (FOp.add.elem false 1 f (o / 65536) (v / 65536)).code

/-- The new value of a float atomic (R196). -/
def fatomNew (opc o v : Nat) : Nat :=
  match opc with
  | 0 => (FOp.add.elem false 1 fp32 o v).code
  | 1 => (FOp.min.elem false 1 fp32 o v).code
  | 2 => (FOp.max.elem false 1 fp32 o v).code
  | 3 => add2 bf16 o v
  | _ => add2 fp16 o v

/-- The new value of a near-memory atomic of w bits (R369). -/
def nmaNew (opc w o v : Nat) : Nat := if opc < 8 then atomNew opc w o v else fatomNew (opc - 8) o v

/-- The bytes that one lane of an access leaves at its address, none where it writes nothing (R184, R194 to R196, R369). -/
def Access.newVal (a : Access) (x : LaneAcc) (old : Nat) : Option Nat :=
  let d := x.data.toNat
  match a.kind with
  | .load | .watch _ | .bar _ => none
  | .store => some d
  | .atom opc => some (atomNew opc (8 * a.size) old d)
  | .cas => if old = d % 2 ^ (8 * a.size) then some x.data2.toNat else none
  | .fatom opc => some (fatomNew opc old d)
  | .nma opc => some (nmaNew opc (8 * a.size) old (d % 2 ^ (8 * a.size)))

/-- The workgroup whose scratchpad a lane's access names. -/
def Access.targetOf (a : Access) (x : LaneAcc) : WgKey := { a.wg with wgid := x.target }

/-- Whether an access reads without writing: loads and arming reads (R261). -/
def AccKind.reads : AccKind → Bool
  | .load | .watch _ => true
  | _ => false

/-- Whether an access is on the NM path (R261). -/
def AccKind.near : AccKind → Bool
  | .nma _ => true
  | _ => false

/-- Whether it is an arrival at a barrier object (R306). -/
def AccKind.arrives : AccKind → Bool
  | .bar (.arrive ..) => true
  | _ => false

/-- Whether it is an update of a barrier object, which is on no path (R261). -/
def AccKind.onBar : AccKind → Bool
  | .bar _ => true
  | _ => false

/-- Whether it is an atomic on an object's bytes: an LSU atomic or a near-memory one. -/
def AccKind.atomic : AccKind → Bool
  | .load | .store | .watch _ | .bar _ => false
  | _ => true

/-! ### What an access waits for (R185, R262 to R276, R364) -/

/-- A Gallery operation whose accesses to this device's memory are performed, though it is not complete: a write to another device
under way (R448). -/
def GalOp.doneHere (o : GalOp) : Bool :=
  o.started && (match o.kind with | .puts .. | .radd .. => true | .coll .. | .get .. => false)

/-- What a stream has outstanding: pushed groups not written, or element reads issued and not made (R201, R261). -/
def Stream.open_ (t : Stream) : List Nat := if t.store then t.buf.map (·.id) else t.asks

/-- An access, copy record, store-stream group, stream read, matrix entry or Gallery operation with this number is still outstanding. -/
def State.idOpen (s : State) (id : Nat) : Bool :=
  (s.pending.any fun p => match p with | .access a => a.id = id | .fence _ => false) ||
  (s.records.any fun r => r.id = id) || (s.storeGroups.any fun g => g.id = id) ||
  (s.warps.any fun w => w.q.any fun q => (w.alive || q.2.store) && q.2.open_.contains id) ||
  (s.cores.any fun c => c.mq.any fun e => e.id = id) || (s.galOps.any fun o => o.id = id && !o.doneHere)

/-- The frames of the pages of a buffer, by page (R483, R484). -/
def State.sourceFrames (s : State) (ctx base : Nat) : Nat → SMap Nat
  | 0 => []
  | n + 1 => match s.translate newelSite ctx (base + 65536 * n) .read with
    | .ok pa _ => (s.sourceFrames ctx base n).put (pa / 65536) n
    | _ => s.sourceFrames ctx base n

/-- The source of a view. -/
def State.sourceOf (s : State) (v : View) : Option NamedBuffer := s.buffers.find? fun b => b.d.comm = v.comm && b.d.name = v.source

/-- A fence that freezes views is issued by a warp of a context: it freezes those made before it that no earlier one freezes (R483). -/
def State.claimViews (s : State) (ctx id : Nat) : State :=
  { s with views := s.views.map fun (v : View) =>
      if v.fence.isNone && (match s.sourceOf v with | some b => b.ctx = ctx | none => false) then { v with fence := some id } else v }

/-- The pages whose frames a fence looks for as it freezes views, with their context. -/
def State.frozenPages (s : State) (id : Nat) : List (Nat × Nat) :=
  (s.views.filter fun v => !v.frozen && v.fence = some id).flatMap fun v => match s.sourceOf v with
    | some b => (List.range (b.d.length / 65536)).map fun n => (b.ctx, b.d.base + 65536 * n)
    | none => []

/-- The views that a fence freezes freeze; the translations of their pages are kept (R389, R483). -/
def State.freezeViews (s0 : State) (id : Nat) : State :=
  let s := (s0.frozenPages id).foldl (fun t x => t.fill newelSite x.1 x.2) s0
  { s with views := s.views.map fun (v : View) =>
      match s.sourceOf v with
      | some b => if v.frozen || v.fence ≠ some id then v
        else { v with frozen := true, frames := s.sourceFrames b.ctx b.d.base (b.d.length / 65536) }
      | none => v }

/-- A FENCE at POD that releases and names GL: it freezes views (R483). -/
def FenceMark.freezes (f : FenceMark) : Bool := f.scope = 6 && 2 ≤ f.ord && f.paths.getLsbD 4

/-- A fence that still waits: for accesses, or for a walker to find what it freezes (R271, R389, R483). -/
def State.fenceOpen (s : State) (f : FenceMark) : Bool :=
  f.waits.any s.idOpen || (f.freezes && !s.views.isEmpty && (s.frozenPages f.id).any fun x => s.walkersBusy newelSite x.1 x.2)

/-- A pending fence of this number still waits, or a pending access of this number, that holds back what was issued after it; so do those
that stand in the image of a context that is away (R431, R448). -/
def State.fenceIdOpen (s : State) (id : Nat) : Bool :=
  (s.pending.any fun p => match p with | .fence f => f.id = id && s.fenceOpen f | .access a => a.id = id) ||
  s.ctxs.any fun c => c.awayIds.contains id


/-- What a warp's threads have done on some paths is ordered before what follows: the LSU path, CP, MX, NM and GL by bit (R267, R269). -/
def Rival.path : Rival → Nat
  | .lsu => 0
  | .near => 3
  | .reduce => 1
  | .plain => 1

/-- A fence or release of a warp's threads that covers some paths, for what was issued before number upto (R266, R267, R269). -/
def State.orders (s : State) (k : WarpKey) (lanes : LaneMask) (paths : BitVec 5) (upto : Nat) : State :=
  { s with spent := s.spent.filter fun e =>
      !(e.warp = k && e.threads &&& lanes != 0 && paths.getLsbD e.kind.path && e.id < upto) }

/-- What a release of a workgroup, or of a whole grid, covers is ordered before what follows (R266, R269). -/
def State.ordersOf (s : State) (p : WgKey → Bool) : State := { s with spent := s.spent.filter fun e => !p e.wg }

/-- What a fence does once the accesses it waits for are performed: an acquire that covers LSU drops its core's L1 lines, and so does
any that orders LSU reads behind another path's writes; a POD release that covers GL freezes views (R264, R267, R271, R483). -/
def State.fenceActs (s : State) (f : FenceMark) : State :=
  let s0 := s.orders f.warp f.lanes f.paths f.id
  let s1 := if f.paths.getLsbD 0 && (f.ord != 2 || f.paths != 1) then s0.dropL1 f.warp.core else s0
  if f.freezes && !s1.views.isEmpty then s1.freezeViews f.id else s1

/-- What an access has overtaken is still outstanding (log 54). -/
def State.passOpen (s : State) (o : Pass) : Bool := o.waits.any s.idOpen

/-- Bytes that were reached ahead of what is performed by now are as any others. -/
def State.endPasses (s : State) : State :=
  if s.passes.isEmpty then s else { s with passes := s.passes.filter s.passOpen }

/-- Fences that wait for nothing more have acted (R264, R271). -/
def State.settle (s0 : State) : State :=
  let s := s0.endPasses
  let done := s.pending.filterMap fun p => match p with
    | .fence f => if s.fenceOpen f then none else some f
    | .access _ => none
  if done.isEmpty then s
  else
    let s1 : State := { s with pending := s.pending.filter fun p => match p with
      | .fence f => s.fenceOpen f
      | .access _ => true }
    done.foldl State.fenceActs s1

/-- Threads in common. -/
def shareLanes (a b : LaneMask) : Bool := a &&& b != 0

/-- A pending fence holds an access of its warp. One of its threads': on a path it names, and any atomic behind a releasing one; a read
passes a fence that only releases LSU accesses. Any thread's: a release behind a releasing fence, an atomic that a releasing fence of
its own threads makes one too (R266, R271). -/
def State.heldBy (s : State) (a : Access) : Pending → Bool
  | .fence f =>
    let passes := a.kind.reads && f.ord = 2 && f.paths = 1
    let named := f.paths.getLsbD (if a.kind.near then 3 else 0) || (2 ≤ f.ord && a.kind.atomic)
    let release := match a.kind with | .bar (.arrive ..) => true | k => k.atomic && (2 ≤ a.ord || a.fencedRel)
    f.warp = a.warp && s.fenceOpen f &&
      ((shareLanes f.lanes a.threads && !passes && !a.kind.onBar && named) || (2 ≤ f.ord && release))
  | .access _ => false

/-- LSU accesses of a warp, numbered below upto and of some threads, that a release still waits for, with the releasing fences of the
warp before it (R266, R271). -/
def State.releaseDue (s : State) (k : WarpKey) (lanes : LaneMask) (upto : Nat) : Bool :=
  s.pending.any fun p => match p with
    | .access a => a.warp = k && a.id < upto && shareLanes a.threads lanes && !a.kind.near && !a.kind.onBar
    | .fence f => f.warp = k && f.id < upto && 2 ≤ f.ord && s.fenceOpen f

/-- Two lanes' accesses may be one thread's: their lanes agree, or one executes as a scalar, for all threads (R183). -/
def sameThread (x y : LaneAcc) : Bool := x.lane = y.lane || warpLane ≤ x.lane || warpLane ≤ y.lane

/-- Two accesses of one warp have a thread's accesses to overlapping bytes, one of them writing (R185, R262). -/
def Access.conflicts (a b : Access) : Bool :=
  a.glob == b.glob && !(a.kind.reads && b.kind.reads) &&
  a.lanes.any fun x => b.lanes.any fun y => sameThread x y && x.target = y.target && meets x.pa a.size y.pa b.size

/-- Two accesses to overlapping bytes, one of them writing, with a FENCE between them whose threads have a part in both (R271). -/
def Access.fencedFrom (a b : Access) : Bool :=
  a.glob == b.glob && !a.kind.near && !(a.kind.reads && b.kind.reads) && b.fenced.any fun m =>
    a.lanes.any fun x => b.lanes.any fun y => x.target = y.target && meets x.pa a.size y.pa b.size &&
      shareLanes m (if warpLane ≤ x.lane then a.threads else laneBit x.lane) &&
      shareLanes m (if warpLane ≤ y.lane then b.threads else laneBit y.lane)

/-- An access of the warp's own scratchpad in every lane. -/
def Access.home (a : Access) : Bool := !a.glob && a.lanes.all fun x => x.target = a.wg.wgid

/-- An earlier access of the warp on the same path that must be performed first: a thread's overlapping bytes, or those of threads that
a FENCE joins; a release after it, an acquire before it, for any later read too, whose L1 lines it drops; the own scratchpad in issue
order (R185, R262 to R264, R266, R271). -/
def Access.after (a b : Access) : Bool :=
  a.warp = b.warp && !a.kind.onBar && !b.kind.onBar && a.kind.near == b.kind.near && b.sent.isNone &&
    (a.conflicts b || a.fencedFrom b || (shareLanes a.threads b.threads && (2 ≤ a.ord || b.ord = 1 || b.ord = 3)) ||
      ((b.ord = 1 || b.ord = 3) && a.glob && a.kind.reads) || (a.home && b.home))

/-- The grid's token is with the workgroup in a phase (R275). -/
def State.turnAt (s : State) (k : WgKey) (p : Nat) : Bool :=
  match s.gridAt (gridOfWg k) with
  | some g => g.phase = p && g.turn = k.wgid
  | none => false

/-- The workgroup's turn of a phase has begun (R275). -/
def Grid.turnBegun (g : Grid) (wgid p : Nat) : Bool := p < g.phase || (g.phase = p && wgid ≤ g.turn)

/-- Some line of a byte range is pending for a near-memory atomic in transit (R364). -/
def State.nmaPending (s : State) (pa n : Nat) : Bool :=
  s.pending.any fun p => match p with
    | .access b => b.sent.isSome && b.lanes.any fun y => lineOf pa ≤ lineOf y.pa && lineOf y.pa ≤ lineOf (pa + n - 1)
    | .fence _ => false

/-- Two cores lie in one unit of a scope (R17, R18). -/
def sameUnit : Nat → Nat → Nat → Bool
  | 0, a, b | 1, a, b => a = b
  | 2, a, b => a / 12 = b / 12
  | 3, a, b => a / 24 = b / 24
  | 4, a, b => a / 96 = b / 96
  | _, _, _ => true

/-- Some line of a byte range waits: for a near-memory atomic in transit, or for an access that one to it has overtaken (R18, R364; log
54). -/
def State.paPending (s : State) (pa n : Nat) : Bool :=
  s.nmaPending pa n || s.passes.any fun o => lineOf pa ≤ lineOf (o.pa + o.size - 1) && lineOf o.pa ≤ lineOf (pa + n - 1) && s.passOpen o

/-- The line of a near-memory atomic in transit is pending (R364). -/
def State.linePending (s : State) (a : Access) : Bool :=
  a.glob && !a.kind.near && a.lanes.any fun x => s.nmaPending x.pa (max 1 a.size)

/-- Bytes of an access that another warp's access has reached ahead of what a scope orders before it are kept from the parties of that
scope until it is performed (R18, R263; log 54). -/
def State.withheld (s : State) (a : Access) : Bool :=
  a.glob && s.passes.any fun o => o.warp ≠ a.warp && sameUnit o.scope o.warp.core a.warp.core && s.passOpen o &&
    a.lanes.any fun l => meets l.pa a.size o.pa o.size

/-- What was issued before an access. -/
def State.issuedBefore (s : State) (a : Access) : List Pending :=
  s.pending.takeWhile fun p => match p with | .access b => b.id ≠ a.id | .fence _ => true

/-- The first commit operation of a turn, while it is pending: once performed, an acquire of all that earlier turns released (R266,
R277). -/
def State.commitHead (s : State) (b : Access) : Bool :=
  b.commit.isSome && (match s.wgAt b.wg with | some g => g.lastCommit != b.commit | none => true) &&
  !((s.issuedBefore b).any fun q => match q with
    | .access c => c.wg = b.wg && c.commit = b.commit
    | .fence _ => false)

/-- An access that a save takes along once its workgroup is saved: all but near-memory atomics on their way (R373, R425). -/
def Access.inImage (a : Access) : Bool := (a.buffered && a.sent.isNone) || !a.kind.near

/-- An earlier update of the same object by the warp (R302). -/
def Access.barAfter (a b : Access) : Bool :=
  a.kind.onBar && b.kind.onBar && a.warp = b.warp && a.glob == b.glob && a.lanes.any fun x => b.lanes.any fun y => x.pa = y.pa

/-- Whether an arrival's releases are performed (R266, R306). -/
def State.arrivalReady (s : State) (a : Access) : Bool :=
  match a.kind with
  | .bar (.arrive ..) => !s.releaseDue a.warp a.threads a.id
  | _ => true

/-- The number of what is pending. -/
def Pending.id : Pending → Nat
  | .access a => a.id
  | .fence f => f.id

/-- The physical address of a lane whose page had no translation at a restore (R394, R434). -/
def noPa : Nat := 2 ^ 46

/-- Every lane of an access has a physical address. -/
def Access.placed (a : Access) : Bool := !a.glob || a.lanes.all fun x => x.pa ≠ noPa

/-- A pending access is behind an earlier one: of its warp, of its object, or a turn's first commit operation (R185, R264 to R266,
R302). -/
def State.behind (s : State) (a b : Access) : Bool :=
  a.after b || a.barAfter b ||
    (a.warp = b.warp && !a.kind.onBar && (shareLanes a.threads b.threads || (a.glob && a.kind.reads)) && s.commitHead b)

/-- Whether a pending access may reach its ordering point now but for pending lines; none of a saved workgroup (R185, R263, R271, R275,
R277, R302, R431). -/
def State.mayReach (s : State) (a : Access) : Bool :=
  let before := s.issuedBefore a
  a.placed && !(s.isSaved a.wg && a.inImage) && !(before.any fun p => s.heldBy a p) && s.arrivalReady a &&
  !(before.any fun p => match p with
    | .access b => s.behind a b
    | .fence _ => false) &&
  (match a.commit with
   | none => true
   | some p => s.turnAt a.wg p &&
      !(before.any fun q => match q with | .access b => b.wg = a.wg && b.commit = some p | .fence _ => false))

/-- Whether a pending access may reach its ordering point now (R18, R364). -/
def State.mayPerform (s : State) (a : Access) : Bool := s.mayReach a && !s.linePending a && !s.withheld a

/-- A pending access by its number. -/
def State.accessById (s : State) (id : Nat) : Option Access :=
  s.pending.findSome? fun p => match p with
    | .access a => if a.id = id then some a else none
    | .fence _ => none

/-- Two of them on the same bytes without order leave those unpredictable: LSU atomics against all of other paths, other atomics of
different paths (R192, R269). -/
def Rival.spoils : Rival → Rival → Bool
  | .lsu, .lsu => false
  | .lsu, _ => true
  | _, .lsu => true
  | .near, .reduce => true
  | .reduce, .near => true
  | _, _ => false

/-- A copy operation that writes global memory (R290). -/
def dstGlobal (op : Nat) : Bool := op = 1 || op = 6 || op = 7

/-- A copy operation that writes a scratchpad (R290). -/
def dstScratch (op : Nat) : Bool := !dstGlobal op && op != 4 && op != 5

/-- Where an access's lane lies. -/
def Access.spaceOf (a : Access) (x : LaneAcc) : Space := if a.glob then none else some (a.targetOf x)

/-- What an atomic access is to operations of other paths (R192, R269). -/
def Access.rival (a : Access) : Rival := if a.kind.near then .near else .lsu

/-- Where a copy record writes, but to a bay. -/
def CopyRec.writesIn (r : CopyRec) (sp : Space) : Bool := if dstGlobal r.op then sp = none else dstScratch r.op && sp = some r.wg

/-- What a copy record's writes are to atomics of other paths (R192, R269). -/
def CopyRec.rival (r : CopyRec) : Rival := if r.op = 7 then .reduce else .plain

/-- The numbers of operations under way on n bytes that nothing orders behind one that is performed now, and that make with it those
bytes unpredictable (R192, R269). -/
def State.met (s : State) (k : Rival) (sp : Space) (pa n : Nat) : List Nat :=
  (s.pending.filterMap fun p => match p with
    | .access b => if b.kind.atomic && k.spoils b.rival &&
        (b.lanes.any fun y => b.spaceOf y = sp && meets pa n y.pa b.size) && (b.sent.isSome || s.mayReach b) then some b.id else none
    | .fence _ => none) ++
  (s.chunks.filterMap fun c => if meets pa n c.dst c.bytes && s.records.any (fun r => r.id = c.rec_ && r.writesIn sp && k.spoils r.rival)
    then some c.id else none) ++
  (s.storeGroups.filterMap fun g => if sp = none && k.spoils .plain && g.elems.any fun e => meets pa n e.2.1 (if g.wide then 8 else 4) then
    some g.id else none)

/-- An operation of another path on n bytes has been performed, and no fence or release of its warp has ordered it since (R269). -/
def State.metSpent (s : State) (k : Rival) (sp : Space) (pa n : Nat) : Bool :=
  s.spent.any fun e => k.spoils e.kind && e.space = sp && meets pa n e.pa e.size

/-- An operation of a number meets another on n bytes, under way or performed without order before, or has been met there. -/
def State.raced (s : State) (k : Rival) (id : Nat) (sp : Space) (pa n : Nat) : Bool :=
  !(s.met k sp pa n).isEmpty || s.metSpent k sp pa n || s.spoilt.any fun x => x.1 = id && x.2.1 = sp && meets pa n x.2.2.1 x.2.2.2

/-- What an operation meets as it is performed finds its bytes unpredictable in turn. -/
def State.spoil (s : State) (k : Rival) (sp : Space) (pa n : Nat) : State :=
  { s with spoilt := s.spoilt ++ (s.met k sp pa n).map fun x => (x, sp, pa, n) }

/-- An operation is performed on n bytes: until its warp orders it, another path's finds those unpredictable (R269). -/
def State.spend (s : State) (e : Spent) : State := { s with spent := s.spent ++ [e] }

/-- The entry of one lane's atomic. -/
def Access.spent (a : Access) (x : LaneAcc) : Spent :=
  ⟨a.rival, a.warp, a.wg, if warpLane ≤ x.lane then a.threads else laneBit x.lane, a.id, a.spaceOf x, x.pa, a.size⟩

/-- The words of 4 bytes that an operation writes and that one of another path meets are free values from the base-th on (R192, R269;
log 2). -/
def State.mixed (s : State) (k : Rival) (id : Nat) (sp : Space) (pa base : Nat) (bs : List Byte) : List Byte :=
  if s.pending.isEmpty && s.chunks.isEmpty && s.storeGroups.isEmpty && s.spoilt.isEmpty && s.spent.isEmpty then bs
  else (bs.zipIdx).map fun b => if s.raced k id sp (pa + b.2 / 4 * 4) 4 then (s.freeVal (base + b.2)).setWidth 8 else b.1

/-! ### An access at its ordering point -/

/-- Whether a lane's access reads poisoned data, as the granule stands now (R411, R413; log 73). -/
def State.lanePoison (s : State) (a : Access) (x : LaneAcc) : Bool :=
  if a.kind == .store || a.kind.onBar || (match a.kind with | .watch _ => true | _ => false) then false
  else if a.glob then s.poisonedAt x.pa a.size
  else match s.wgAt (a.targetOf x) with
    | some g => g.scratchBad x.pa a.size
    | none => false

/-- One lane of an access at its ordering point: the state after it, and what a loading access returns. An atomic that meets one of another
path, or its write, leaves and returns unpredictable bytes (R184, R192, R269, R380). Its bytes clear poison that they cover alone (R412; log
73). -/
def State.performLane (s : State) (a : Access) (x : LaneAcc) : State × Nat :=
  if a.glob then
    match a.kind with
    | .load =>
      let r := s.loadG a.warp.core x.key a.hint x.pa a.size
      (r.1, ofBytes r.2)
    | .watch slot => ((s.useLines x.pa a.size).armed a.warp slot a.id (readLE (s.seen x.key x.pa a.size) x.pa a.size), 0)
    | .store =>
      let bs := toBytes x.data.toNat a.size
      ((s.storeHint x.key (a.hint = 1) x.pa bs).storeL1 a.warp.core x.key a.hint x.pa bs, 0)
    | _ =>
      let old := readLE (s.seen x.key x.pa a.size) x.pa a.size
      let s1 := s.spend (a.spent x)
      if s.raced .lsu a.id none x.pa a.size then
        ((((s1.spoil .lsu none x.pa a.size).useFree 2).storeG x.key x.pa (toBytes (s.freeVal 0).toNat a.size)).dropL1Line
          a.warp.core (lineOf x.pa), (s.freeVal 1).toNat)
      else match a.newVal x old with
        | none => ((s1.useLines x.pa a.size).dropL1Line a.warp.core (lineOf x.pa), old)
        | some v => ((s1.storeG x.key x.pa (toBytes v a.size)).dropL1Line a.warp.core (lineOf x.pa), old)
  else
    match s.wgAt (a.targetOf x) with
    | none => (s, 0)
    | some g =>
      let old := readLE g.scratch x.pa a.size
      match a.kind with
      | .watch slot => (s.armed a.warp slot a.id old, 0)
      | .load => (s, old)
      | .store => (s.storeS (a.targetOf x) x.pa (toBytes x.data.toNat a.size), 0)
      | _ =>
        let s1 := s.spend (a.spent x)
        if s.raced .lsu a.id (a.spaceOf x) x.pa a.size then
          (((s1.spoil .lsu (a.spaceOf x) x.pa a.size).useFree 2).storeS (a.targetOf x) x.pa (toBytes (s.freeVal 0).toNat a.size),
            (s.freeVal 1).toNat)
        else match a.newVal x old with
          | none => (s1, old)
          | some v => (s1.storeS (a.targetOf x) x.pa (toBytes v a.size), old)

/-- All lanes in ascending order, with what they return (R185, R192). -/
def State.performLanes (s : State) (a : Access) : List LaneAcc → State × SMap (BitVec 128)
  | [] => (s, [])
  | x :: xs =>
    let r := s.performLane a x
    let rest := r.1.performLanes a xs
    (rest.1, SMap.put rest.2 x.lane (BitVec.ofNat 128 r.2))

/-- A value as a load of its type delivers it (R184). -/
def Access.widen (a : Access) (v : BitVec 128) : BitVec 128 :=
  if a.signed && a.size = 1 then ((v.setWidth 8).signExtend 32).setWidth 128
  else if a.signed && a.size = 2 then ((v.setWidth 16).signExtend 32).setWidth 128
  else v

/-- A commit operation has been performed: its workgroup's turn has one now, and its core's L1 lines, which the turn's first acquires,
are gone (R264, R266, R274). -/
def State.committed (s : State) (a : Access) : State :=
  if a.commit.isSome then (s.dropL1 a.warp.core).updWg a.wg fun g => { g with lastCommit := a.commit } else s

/-- What has been said of operations that are done with goes. -/
def State.unspoil (s : State) (id : Nat) : State := { s with spoilt := s.spoilt.filter fun x => x.1 ≠ id }

/-- An atomic that releases orders its threads' LSU accesses up to itself (R266, R269). -/
def State.released (s : State) (a : Access) : State :=
  if a.kind.atomic && (2 ≤ a.ord || a.fencedRel) then s.orders a.warp a.threads 1 (a.id + 1) else s

/-- An access is performed: its lanes' reads and writes, unless it reads poison; then its result is on its way back. An acquire,
and a commit operation, drop the core's L1 lines (R192, R264, R266, R413). -/
def State.performAccess (s : State) (a : Access) : State :=
  let s0 : State := { s with pending := s.pending.filter fun p => match p with | .access b => b.id ≠ a.id | .fence _ => true }
  let bad := a.lanes.filterMap fun x => if s.lanePoison a x then some (x.lane, x.va) else none
  let load := a.kind == .load
  let r := if !bad.isEmpty && !load then (s0, []) else s0.performLanes a a.lanes
  let s1 := (((if a.ord = 1 || a.ord = 3 then r.1.dropL1 a.warp.core else r.1).committed a).unspoil a.id).released a
  let ret : List LoadRet := if bad.isEmpty && a.dst.isNone then []
    else [⟨a.id, a.warp, a.wg, a.pc, a.dst.getD 251, a.scalar, sizeRegs a.size, a.threads, r.2.map fun e => (e.1, a.widen e.2), bad, !load⟩]
  { s1 with returns := s1.returns ++ ret }

/-! ### The scope discovery table (R21 to R24) -/

/-- Units of a scope that a partition as built holds (R22, R23). -/
def scopeUnits (c : Context) (scope : Nat) : Nat :=
  match scope with
  | 0 => 8 * c.part.length
  | 1 => c.part.length
  | 2 => (c.part.map (·.layer)).eraseDups.length
  | 3 => (c.part.map (·.chip)).eraseDups.length
  | 4 => (c.part.map (·.reti)).eraseDups.length
  | 5 => 1
  | 6 => c.podSize
  | _ => 2

/-- The 256 bytes of the discovery table (R21). -/
def discTable (c : Context) : List Byte :=
  toBytes 0x00010008 4 ++ toBytes 16 4 ++ List.replicate 8 0 ++
  ((List.range 8).flatMap fun k =>
    let x := Config.scopeCost k
    toBytes (x.1 % 65536 * 65536 + scopeUnits c k % 65536) 4 ++ toBytes x.2.1 4 ++ toBytes x.2.2.1 4 ++ toBytes x.2.2.2 4) ++
  List.replicate 112 0

end Sys2Proof.Machine
end

