-- ==== Sys2Proof/Machine/Object.lean ====
section
/-! DEFINITION. Barrier objects: their fields, their home, and what each update does to them (R301 to R309). -/

namespace Sys2Proof.Machine

/-! ### Barrier objects (R301 to R303) -/

/-- A barrier object's fields (R301). -/
structure Bar where
  init : Nat
  pend : Nat
  xgr : Nat
  dgr : Nat
  st : Nat
  scope : Nat
  resv : Nat
  phase : Nat
  deriving DecidableEq, Repr

/-- The fields of 16 little-endian bytes. -/
def Bar.ofNat (n : Nat) : Bar :=
  ⟨n / 2 ^ 16 % 2 ^ 16, n % 2 ^ 16, n / 2 ^ 32 % 2 ^ 32, n / 2 ^ 64 % 2 ^ 32, n / 2 ^ 126 % 4, n / 2 ^ 123 % 8, n / 2 ^ 112 % 2 ^ 11,
   n / 2 ^ 96 % 2 ^ 16⟩

/-- The 16 bytes of an object, as a number. -/
def Bar.toNat (b : Bar) : Nat :=
  b.pend % 2 ^ 16 + 2 ^ 16 * (b.init % 2 ^ 16) + 2 ^ 32 * (b.xgr % 2 ^ 32) + 2 ^ 64 * (b.dgr % 2 ^ 32) + 2 ^ 96 * (b.phase % 2 ^ 16) +
    2 ^ 112 * (b.resv % 2 ^ 11) + 2 ^ 123 * (b.scope % 8) + 2 ^ 126 * (b.st % 4)

def Bar.isLive (b : Bar) : Bool := b.st = 1
def Bar.isAbandoned (b : Bar) : Bool := b.st = 2

/-- The test after an update of PEND, XGR or DGR: a complete phase gives way to the next (R303). -/
def Bar.tested (old b : Bar) : Bar :=
  if b.pend = 0 && b.dgr = b.xgr && (old.pend != 0 || old.xgr != b.xgr || old.dgr != b.dgr) then
    { b with phase := (b.phase + 1) % 2 ^ 16, pend := b.init, xgr := 0, dgr := 0 }
  else b

/-- Where an object lies: in a workgroup's scratchpad at an offset, or at a physical address. -/
structure BarRef where
  glob : Bool
  wg : WgKey
  pa : Nat
  /-- the key slot of a global object's page -/
  key : KeyNo
  deriving DecidableEq, Repr

/-- An object in a workgroup's scratchpad. -/
def BarRef.own (k : WgKey) (off : Nat) : BarRef := ⟨false, k, off, ⟨0, 0⟩⟩

/-- Reads an object at its home (R302). -/
def State.barAt (s : State) (r : BarRef) : Bar :=
  if r.glob then Bar.ofNat (readLE (s.seen r.key r.pa 16) r.pa 16)
  else match s.wgAt r.wg with
    | some g => Bar.ofNat (readLE g.scratch r.pa 16)
    | none => Bar.ofNat 0

/-- Writes a whole object at its home, indivisibly (R302). -/
def State.putBar (s : State) (r : BarRef) (b : Bar) : State :=
  if r.glob then s.storeG r.key r.pa (toBytes b.toNat 16) else s.storeS r.wg r.pa (toBytes b.toNat 16)

/-- Updates an object at its home from what it held: words of a scratchpad object that were poisoned stay so (R302, R413). -/
def State.updBar (s : State) (r : BarRef) (b : Bar) : State :=
  let bad := if r.glob then [] else match s.wgAt r.wg with
    | some g => (natRange (r.pa / 4) 4).filter fun w => g.scratchPoison.contains w
    | none => []
  if bad.isEmpty then s.putBar r b
  else (s.putBar r b).updWg r.wg fun g => { g with scratchPoison := addPoison g.scratchPoison bad }

/-- A count-down of delivered bytes; one on an object that is not live is discarded (R297, R303, R309). -/
def State.countDown (s : State) (r : BarRef) (bytes : Nat) : State :=
  let b := s.barAt r
  if b.isLive then s.updBar r (b.tested { b with dgr := (b.dgr + bytes / 16) % 2 ^ 32 }) else s

/-- A live object becomes abandoned (R298, R310). -/
def State.abandon (s : State) (r : BarRef) : State :=
  let b := s.barAt r
  if b.isLive then s.updBar r { b with st := 2 } else s

/-- Why BARR, BARRD and BEXP may not use an object (R306, R307). -/
def Bar.stateCause (b : Bar) : Option Cause := if b.isAbandoned then some 0x0E2 else if b.isLive then none else some 0x0E3

/-- Expected bytes that the object cannot take (R306, R307). -/
def Bar.badBytes (b : Bar) (bytes : Nat) : Bool := bytes % 16 != 0 || 2 ^ 31 - 1 < b.xgr + bytes / 16

/-- An arrival of n with expected bytes (R303, R306). -/
def Bar.arrive (b : Bar) (drop : Bool) (n bytes : Nat) : Bar :=
  b.tested { b with
    xgr := b.xgr + bytes / 16
    pend := b.pend - n
    init := if drop then (2 ^ 16 + b.init - n) % 2 ^ 16 else b.init }

/-- Why an update that has waited cannot be made when it is performed (R302, R306, R307, R309). -/
def Bar.opCause (b : Bar) : BarOp → Option Cause
  | .init .. => none
  | .arrive _ n bytes =>
    match b.stateCause with
    | some c => some c
    | none => if bytes != 0 && b.badBytes bytes then some 0x0E6 else if b.pend < n then some 0x0E1 else none
  | .expect bytes =>
    match b.stateCause with
    | some c => some c
    | none => if b.badBytes bytes then some 0x0E6 else none
  | .abandon => none
  | .invalidate => if b.isLive || b.isAbandoned then none else some 0x0E3

/-- The object after an update (R303, R305 to R307, R309). -/
def Bar.apply (b : Bar) : BarOp → Bar
  | .init n scope => ⟨n, n, 0, 0, 1, scope, 0, 0⟩
  | .arrive drop n bytes => b.arrive drop n bytes
  | .expect bytes => b.tested { b with xgr := b.xgr + bytes / 16 }
  | .abandon => if b.isLive then { b with st := 2 } else b
  | .invalidate => { b with st := 0 }

/-- An update at the object's home (R302). BINIT writes every byte. -/
def State.makeBar (s : State) (r : BarRef) : BarOp → State
  | .init n scope => s.putBar r ((s.barAt r).apply (.init n scope))
  | op => s.updBar r ((s.barAt r).apply op)

/-- Updates of the object at a place that have issued and are still to be made, in issue order. -/
def State.barQueue (s : State) (r : BarRef) : List (Nat × BarOp) :=
  s.pending.filterMap fun p => match p with
    | .access a => match a.kind, a.lanes with
      | .bar op, x :: _ => if a.glob = r.glob ∧ (r.glob = true ∨ a.wg = r.wg) ∧ x.pa = r.pa then some (a.id, op) else none
      | _, _ => none
    | .fence _ => none

/-- An object once updates are made on it; one that cannot be made changes nothing. -/
def Bar.through (b : Bar) (ops : List BarOp) : Bar := ops.foldl (fun x op => if (x.opCause op).isNone then x.apply op else x) b

/-- Updates that can all be made on an object, one after the other. -/
def Bar.takes (b : Bar) : List BarOp → Bool
  | [] => true
  | op :: ops => (b.opCause op).isNone && (b.apply op).takes ops

/-- The object as an instruction that issues now finds it, with every update made that has issued: each cause is precise though an
update may have to wait (R302, R304, R306; log 28). -/
def State.barNow (s : State) (r : BarRef) : Bar := (s.barAt r).through ((s.barQueue r).map (·.2))

/-- An update may be made before others that have issued: they can all still be made after it, so that an arrival of a later phase waits
for those of the phase before it (R302, R306; log 28). -/
def Bar.takesFirst (b : Bar) (op : BarOp) (others : List BarOp) : Bool := b.takes (op :: others)

/-- A pending update may be made now as far as the others of its object go. -/
def State.barFits (s : State) (a : Access) (op : BarOp) (x : LaneAcc) : Bool :=
  let r : BarRef := ⟨a.glob, a.wg, x.pa, x.key⟩
  let q := s.barQueue r
  !((s.barAt r).takes (q.map (·.2))) || (s.barAt r).takesFirst op ((q.filter fun e => e.1 ≠ a.id).map (·.2))

/-- An arrival orders the LSU accesses of the arriving threads before what follows it (R266, R269). -/
def State.arrived (s : State) (k : WarpKey) (lanes : LaneMask) (upto : Nat) : BarOp → State
  | .arrive .. => s.orders k lanes 1 upto
  | _ => s

/-- An update that has waited is performed. It was checked as it issued and raises nothing more; on an object that has been abandoned
meanwhile it counts as it would have, and on one that can no longer take it, it changes nothing (R302, R306; log 28). -/
def State.performBar (s : State) (a : Access) (op : BarOp) (x : LaneAcc) : State :=
  let s0 : State := { s with pending := s.pending.filter fun p => match p with | .access b => b.id ≠ a.id | .fence _ => true }
  let s1 := s0.arrived a.warp a.threads a.id op
  let r : BarRef := ⟨a.glob, a.wg, x.pa, x.key⟩
  let b := s1.barAt r
  if (b.opCause op).isNone then s1.makeBar r op
  else if b.isAbandoned && (({ b with st := 1 } : Bar).opCause op).isNone then s1.updBar r (b.apply op)
  else s1

end Sys2Proof.Machine
end

