-- ==== Sys2Proof/Machine/Access.lean ====
section
/-! DEFINITION. LSU and near-memory accesses from issue to their result: addresses and checks, what is queued, reaching the
ordering point, load data returning (R176 to R185, R270 to R277, R369 to R372). -/

namespace Sys2Proof.Machine

/-! ### Addresses and checks (R176 to R181) -/

/-- A sign-extended 8-bit offset of MOD or IMM8. -/
def ofs8 (n : Nat) : Int := (BitVec.ofNat 8 n).toInt

/-- An address as an event record or a trap reports it, a negative one in two's complement (R181; log 63). -/
def addrOf (a : Int) : Nat := (BitVec.ofInt 64 a).toNat

/-- A lane's global address (R179). -/
def Opnd.ea (o : Opnd) (c : BitVec 8) (ofs : Int) (n l : Nat) : Int := ((o.rd64 c l).toNat : Int) + ofs * n

/-- A lane's scratchpad offset (R176). -/
def Opnd.eo (o : Opnd) (c : BitVec 8) (ofs : Int) (n l : Nat) : Int := ((o.rd c l).toNat : Int) + ofs * n

/-- One lane's checked global access. -/
structure GLane where
  lane : Nat
  va : Nat
  pa : Nat
  leaf : BitVec 64
  deriving DecidableEq, Repr

/-- Addresses joined with their translations. -/
def glanes : List (Nat × Int) → List (Nat × BitVec 64) → List GLane
  | e :: es, t :: ts => ⟨e.1, e.2.toNat, t.1, t.2⟩ :: glanes es ts
  | _, _ => []

/-- The global addresses of an instruction, checked in the order of R181 and translated; k goes on with the state that keeps the
translations. -/
def globalLanes (s : State) (o : Opnd) (c : BitVec 8) (ofs : Int) (n : Nat) (perm : Perm) (acc : Acc)
    (k : State → List GLane → Out) : Out :=
  let es := o.lanes.map fun l => (l, o.ea c ofs n l)
  match es.find? fun e => e.2 % (n : Int) != 0 with
  | some e => raiseAt s o.i 0x090 (addrOf e.2)
  | none =>
    match es.find? fun e => e.2 < 0 || (2 ^ 57 : Int) < e.2 + n with
    | some e => raiseAt s o.i 0x095 (addrOf e.2)
    | none =>
      let vas := es.map fun e => e.2.toNat
      if vas.any fun va => s.walkersBusy o.i.w.core o.i.w.wg.ctx va then .next s
      else match s.translateAll o.i.w.core o.i.w.wg.ctx perm vas with
      | .noMem pa => .fault (.noSuchMemory pa)
      | .fail c va => holdFault (s.fillAll o.i.w.core o.i.w.wg.ctx vas) o.i c va acc
      | .ok ts => k (s.fillAll o.i.w.core o.i.w.wg.ctx vas) (glanes es ts)

/-- The workgroup of a gang member (R94, R177). -/
def Iss.memberId (i : Iss) (j : Nat) : Nat := i.w.wg.wgid / i.gr.rec_.gang * i.gr.rec_.gang + j

/-- The issuing workgroup's index in its gang (R162). -/
def Iss.ownIndex (i : Iss) : Nat := i.w.wg.wgid % i.gr.rec_.gang

/-- One lane's checked scratchpad access: its member index and its offset. -/
structure SLane where
  lane : Nat
  member : Nat
  off : Nat
  deriving DecidableEq, Repr

/-- The scratchpad offsets of an instruction, checked in the order of R181; member gives each lane's gang index. -/
def scratchLanes (s : State) (o : Opnd) (c : BitVec 8) (ofs : Int) (n : Nat) (member : Nat → Nat) (k : List SLane → Out) : Out :=
  let es := o.lanes.map fun l => (l, member l, o.eo c ofs n l)
  match es.find? fun e => o.i.gr.rec_.gang ≤ e.2.1 with
  | some e => raiseAt s o.i 0x092 (addrOf e.2.2)
  | none =>
    match es.find? fun e => o.i.gr.retired.any fun r => r.1 = o.i.memberId e.2.1 with
    | some e => raiseAt s o.i 0x093 (addrOf e.2.2)
    | none =>
      match es.find? fun e => e.2.2 % (n : Int) != 0 with
      | some e => raiseAt s o.i 0x090 (addrOf e.2.2)
      | none =>
        match es.find? fun e => e.2.2 < 0 || (o.i.gr.rec_.scratch : Int) < e.2.2 + n with
        | some e => raiseAt s o.i 0x091 (addrOf e.2.2)
        | none => k (es.map fun e => ⟨e.1, e.2.1, e.2.2.toNat⟩)

/-! ### Issue -/

/-- An access with the fields that every instruction sets alike. -/
def Opnd.newAccess (o : Opnd) (s : State) (kind : AccKind) (glob : Bool) (size : Nat) (dst : Option (BitVec 8)) (lanes : List LaneAcc) :
    Access where
  id := s.nextId
  warp := o.i.w.key
  wg := o.i.w.wg
  pc := o.i.pc
  threads := o.i.mask
  phase := o.i.w.phase
  kind := kind
  glob := glob
  size := size
  signed := false
  dst := dst
  scalar := o.scalar
  lanes := lanes
  ord := 0
  scope := 0
  hint := 0
  commit := none
  buffered := false
  sent := none
  fenced := []
  fencedRel := o.i.w.relLanes &&& o.i.mask != 0

/-- The destination of a load: zero too returns its value, to l0 (R150, R187). -/
def Opnd.loadDst (o : Opnd) : Option (BitVec 8) := some o.dstCode

/-- The destination of an atomic: none where it is zero, which gives no register result (R194). -/
def Opnd.atomDst (o : Opnd) : Option (BitVec 8) := if clsOf o.f.d = .zero then none else some o.dstCode

/-- Memory instructions of a warp that its fences hold (R273). -/
def State.heldCount (s : State) (k : WarpKey) : Nat :=
  (s.pending.filter fun p => match p with
    | .access a => a.warp = k && !a.kind.onBar && (s.issuedBefore a).any fun q => s.heldBy a q
    | .fence _ => false).length

/-- Bytes of an operation in the commit buffer (R277). -/
def Access.commitBytes (a : Access) : Nat := 16 * a.lanes.length

/-- Bytes that a workgroup's commit buffer holds: its buffered operations until they are performed (R277). -/
def State.commitUsed (s : State) (k : WgKey) : Nat :=
  (s.pending.map fun p => match p with
    | .access a => if a.wg = k && a.buffered then a.commitBytes else 0
    | .fence _ => 0).sum

/-- Bytes in use of the 64 KiB of commit storage of a core (R427). -/
def State.commitStored (s : State) (core : Nat) : Nat :=
  (s.pending.map fun p => match p with
    | .access a => if a.warp.core = core && a.buffered then a.commitBytes else 0
    | .fence _ => 0).sum

/-- So many bytes do not fit a workgroup's commit buffer, or its core's commit storage (R277, R427). -/
def State.commitFull (s : State) (k : WgKey) (core bytes : Nat) : Bool :=
  32768 < s.commitUsed k + bytes || 65536 < s.commitStored core + bytes

/-- A core's near-memory lane operations that are sent and not performed; a buffered one is sent in its turn (R277, R372). -/
def State.nmaOpen (s : State) (core : Nat) : Nat :=
  (s.pending.map fun p => match p with
    | .access a => if a.kind.near && a.warp.core = core && (!a.buffered || a.sent.isSome) then a.lanes.length else 0
    | .fence _ => 0).sum

/-- Whether an access that is issued now would have to wait for what its warp has outstanding (R185, R271). -/
def State.waitsFor (s : State) (a : Access) : Bool :=
  s.pending.any fun p => s.heldBy a p || (match p with | .access b => a.after b | .fence _ => false)

/-- What stops a memory instruction from being issued: 64 held ones where it would be held too, the near-memory limit or a stopping
context, a full commit buffer (R273, R277, R372, R423, R427). -/
def State.noRoom (s : State) (a : Access) : Option Wait :=
  let n := a.lanes.length
  if (s.pending.any fun p => s.heldBy a p) && 64 ≤ s.heldCount a.warp then some .fenceHold
  else if a.kind.near && ((!a.buffered && 256 < s.nmaOpen a.warp.core + n) || s.stopping a.wg.ctx) then some (.nmaRoom n)
  else if a.buffered && s.commitFull a.wg a.warp.core a.commitBytes then some (.commitRoom a.commitBytes)
  else none

/-- A commit operation of a phase that a workgroup has buffered and not performed (R277). -/
def State.commitBuffered (s : State) (k : WgKey) (p : Nat) : Bool :=
  s.pending.any fun q => match q with
    | .access a => a.wg = k && a.buffered && a.commit = some p
    | .fence _ => false

/-- The workgroup's turn of a phase has ended by TOKPASS or PHASE: it has begun, and it had when it was passed or what was buffered for
it is performed (R276, R281, R283). -/
def State.turnEnded (s : State) (i : Iss) (p : Nat) : Bool :=
  (i.wg.ends.find p).isSome && i.gr.turnBegun i.w.wg.wgid p && (i.wg.endedIn.contains p || !s.commitBuffered i.w.wg p)

/-- A direct access to the own scratchpad with nothing of its warp before it is performed as it issues (R263; log 9). -/
def State.atOnce (s : State) (a : Access) (window : Bool) : Bool :=
  !a.glob && !window && a.commit.isNone && s.pending.all fun p => match p with
    | .access b => b.warp ≠ a.warp
    | .fence f => f.warp ≠ a.warp

/-- Issues an access: it joins what is outstanding, with l0 to come where the instruction has a register result (R150, R263,
R283). -/
def Opnd.issueAccess (o : Opnd) (s : State) (len : Nat) (a : Access) (window res : Bool) (upd : Warp → Warp := id) : Out :=
  if (match a.commit with | some p => s.turnEnded o.i p | none => false) then raise s o.i 0x0E8
  else
    let a : Access := { a with buffered := match a.commit with | some p => !s.turnAt a.wg p | none => false }
    match s.noRoom a with
    | some w => .next (s.block o.i w)
    | none =>
      let r := o.commit s none upd
      let due : Option Latch := if res then
          some ⟨o.scalar, [], if a.size = 16 then 0 else o.latchLanes, s.freeCtr + 128, some a.id⟩ else none
      let s1 : State := { r.1 with pending := r.1.pending ++ [.access a] }
      let s2 := if s.atOnce a window then s1.performAccess a else s1
      .next (s2.retire o.i len o.f.lnd { r.2 with l0 := due })

/-! ### Reaching the ordering point, and data on its way back -/

/-- An access with its global lanes translated afresh; a lane whose page is missing has no physical address (R394, R434). -/
def State.retranslated (s : State) (a : Access) : Access :=
  if a.glob then
    { a with lanes := a.lanes.map fun x => match s.translate a.warp.core a.wg.ctx x.va .either with
      | .ok pa e => { x with pa := pa, key := keyOf a.wg.ctx e }
      | _ => { x with pa := noPa } }
  else a

/-- Translating an access has to wait for a walker (R389). -/
def State.accessWalks (s : State) (a : Access) : Bool := a.glob && a.lanes.any fun x => s.walkersBusy a.warp.core a.wg.ctx x.va

/-- What walks for an access find is kept (R389). -/
def State.fillAccess (s : State) (a : Access) : State := if a.glob then s.fillAll a.warp.core a.wg.ctx (a.lanes.map (·.va)) else s

/-- An access whose pages were missing at a restore is translated again, once there is a walker (R388, R389, R434). -/
def State.settleFor (s0 : State) (id : Nat) : State :=
  let s := s0.settle
  match s.accessById id with
  | none => s
  | some a =>
    if a.placed || s.accessWalks a then s
    else
      let t := s.fillAccess a
      { t with pending := t.pending.map fun p => match p with
        | .access b => if b.id = id then .access (t.retranslated b) else p
        | .fence _ => p }

/-- ACCESS_PERFORMED (R263, R302): an LSU access or an update of a barrier object that nothing holds is performed. -/
def execAccessPerformed (id : Nat) (s0 : State) : Out :=
  let s := s0.settleFor id
  match s.accessById id with
  | none => .refused (.notEnabled "ACCESS_PERFORMED")
  | some a =>
    if !s.mayPerform a then .refused (.notEnabled "ACCESS_PERFORMED")
    else match a.kind, a.lanes with
      | .nma _, _ => .refused (.notEnabled "ACCESS_PERFORMED")
      | .bar op, x :: _ =>
        if s.barFits a op x then .next (s.performBar a op x).settle else .refused (.notEnabled "ACCESS_PERFORMED")
      | _, _ => .next (s.performAccess a).settle

/-- Threads of a warp that have not exited. -/
def Warp.liveLanes (w : Warp) : LaneMask := (w.pcs.map (·.lanes)).foldl (· ||| ·) 0

/-- A latch that waited for an access receives its values (R148, R150). -/
def fillLatch (id : Nat) (vals : SMap (BitVec 128)) : Option Latch → Option Latch
  | some l =>
    if l.due = some id then
      some { l with due := none, vals := vals.foldl (fun m e => SMap.set 0 m (if l.scalar then 0 else e.1) (e.2.setWidth 64)) [] }
    else some l
  | none => none

/-- LOAD_RETURN (R149, R413): a destination is written in the lanes whose threads are still there, and l0 filled; poison raises
and writes nothing, for a workgroup whose warps have all exited too, until it retires (R100). -/
def execLoadReturn (id : Nat) (s : State) : Out :=
  match s.returns.find? fun r => r.id = id with
  | none => .refused (.notEnabled "LOAD_RETURN")
  | some r =>
    let s1 : State := { s with returns := s.returns.filter fun x => x.id ≠ id }
    match s.warpAt r.warp with
    | none => .next s1
    | some w =>
      match r.poisoned with
      | x :: _ =>
        (match s1.wgAt r.wg with
         | some g => if g.broken then .next s1 else .next (s1.deliver w r.pc g.serCause x.2)
         | none => .next s1)
      | [] =>
        let vals := r.vals.filter fun e => if r.scalar then w.alive else w.liveLanes.getLsbD e.1
        let s2 := s1.updWarp r.warp fun w => writeLanes r.dst (32 * r.regs) vals w
        .next { s2 with flights := s2.flights.map fun (f : Flight) =>
          if f.core = r.warp.core ∧ f.warp = r.warp.idx then { f with l0 := fillLatch id r.vals f.l0 } else f }

/-! ### Near-memory atomics (R369 to R372) -/

/-- Bytes of a near-memory update of a line: at the home slice where the line is pinned, else in the stack, no slice keeping a copy
(R371). -/
def State.storeNear (s : State) (key : KeyNo) (pa : Nat) (bs : List Byte) : State :=
  if s.pinned (lineOf pa) then s.storeG key pa bs
  else
    let t := s.putBytes key pa bs
    ({ t with l2 := t.l2.filter fun x => x.line ≠ lineOf pa } : State).notifyG pa bs.length

/-- One lane of a near-memory atomic at its word; a poisoned word is left as it is, one that an atomic of another path meets becomes
unpredictable (R192, R269, R371). -/
def State.nmaLane (s : State) (a : Access) (x : LaneAcc) : State :=
  if s.poisonedAt x.pa a.size then s
  else
    let s1 := s.spend (a.spent x)
    if s.raced .near a.id none x.pa a.size then
      ((s1.spoil .near none x.pa a.size).useFree 1).storeNear x.key x.pa (toBytes (s.freeVal 0).toNat a.size)
    else match a.newVal x (readLE (s.seen x.key x.pa a.size) x.pa a.size) with
      | some v => s1.storeNear x.key x.pa (toBytes v a.size)
      | none => s1

/-- The home slice gives up its copy of a line (R371). -/
def State.dropL2 (s : State) (line : Nat) : State := { s with l2 := s.l2.filter fun x => x.line ≠ line }

/-- Replaces a pending access. -/
def State.setAccess (s : State) (a : Access) : State :=
  { s with pending := s.pending.map fun p => match p with
    | .access b => if b.id = a.id then .access a else p
    | .fence _ => p }

/-- Takes an access out of what is outstanding. -/
def State.removeAccess (s0 : State) (id : Nat) : State :=
  let s := s0.unspoil id
  { s with pending := s.pending.filter fun p => match p with | .access b => b.id ≠ id | .fence _ => true }

/-- An operation on a word of an access is in transit and came to its home slice before number upto: words of 8 bytes take one at a time
in the order of arrival (R371). -/
def State.wordBusy (s : State) (lanes : List LaneAcc) (upto : Nat) : Bool :=
  s.pending.any fun p => match p with
    | .access b => (match b.sent with | some n => decide (n < upto) | none => false) &&
        b.lanes.any fun y => lanes.any fun x => x.pa / 8 = y.pa / 8
    | .fence _ => false

/-- A near-memory atomic reaches the home slices: lanes on pinned lines are performed there, behind what is in transit to their words; the
others' lines leave L2 and are forwarded. A buffered one is sent only within the limit of 256 (R371, R372). -/
def State.sendNear (s : State) (a : Access) : Option State :=
  let here := a.lanes.filter fun x => s.pinned (lineOf x.pa)
  let away := a.lanes.filter fun x => !s.pinned (lineOf x.pa)
  if a.sent.isSome || !s.mayPerform a || s.wordBusy here s.nextId || (a.buffered && 256 < s.nmaOpen a.warp.core + a.lanes.length) then none
  else
    let s1 := here.foldl (fun t x => t.nmaLane a x) s
    let s2 := away.foldl (fun t x => t.dropL2 (lineOf x.pa)) s1
    if away.isEmpty then some ((s2.removeAccess a.id).committed a)
    else some ((s2.fresh).setAccess { a with sent := some s2.nextId, lanes := away })

/-- NMA_AT_HOME_SLICE (R371). -/
def execNmaAtHomeSlice (id : Nat) (s0 : State) : Out :=
  let s := s0.settleFor id
  match s.accessById id with
  | none => .refused (.notEnabled "NMA_AT_HOME_SLICE")
  | some a =>
    match a.kind with
    | .nma _ => (match s.sendNear a with
      | some t => .next t.settle
      | none => .refused (.notEnabled "NMA_AT_HOME_SLICE"))
    | _ => .refused (.notEnabled "NMA_AT_HOME_SLICE")

/-- NMA_ACKNOWLEDGEMENT (R371): the base die has applied the operations; those that reached a word's home slice earlier come first. -/
def execNmaAcknowledgement (id : Nat) (s : State) : Out :=
  match s.accessById id with
  | none => .refused (.notEnabled "NMA_ACKNOWLEDGEMENT")
  | some a =>
    match a.sent with
    | none => .refused (.notEnabled "NMA_ACKNOWLEDGEMENT")
    | some n =>
      if s.wordBusy a.lanes n then .refused (.notEnabled "NMA_ACKNOWLEDGEMENT")
      else .next (((a.lanes.foldl (fun t x => t.nmaLane a x) s).removeAccess id).committed a).settle

/-! ### Parties outside a scope (R18) -/

/-- Earlier accesses of a warp that an access could overtake: on the LSU or NM path, not sent, no commit operations, none of a thread's
same bytes, no acquires of a scope that encloses the device (R185, R262). -/
def State.overtaken (s : State) (y : Access) : List Nat :=
  (s.issuedBefore y).filterMap fun p => match p with
    | .access x =>
      if x.warp = y.warp && !x.kind.onBar && x.sent.isNone && x.commit.isNone && !((x.ord = 1 || x.ord = 3) && 5 ≤ x.scope) &&
          !(y.kind.near == x.kind.near && (y.conflicts x || y.fencedFrom x)) then some x.id else none
    | .fence _ => none

/-- A fence of the same warp whose scope does not enclose the device, and which waits for nothing but such accesses. -/
def FenceMark.narrow (f : FenceMark) (k : WarpKey) (xs : List Nat) : Bool := f.warp = k && f.scope < 5 && f.waits.all xs.contains

/-- The widest scope of what orders an access behind others that it overtakes: narrow fences, narrow acquires, its own release. -/
def State.orderScope (s : State) (y : Access) (xs : List Nat) (fs : List FenceMark) : Nat :=
  let acq := xs.filterMap fun id => match s.accessById id with
    | some x => if x.ord = 1 || x.ord = 3 then some x.scope else none
    | none => none
  (fs.map (·.scope) ++ acq).foldl max (if 2 ≤ y.ord then y.scope else 0)

/-- A store, atomic or near-memory atomic reaches its ordering point ahead of earlier accesses of its warp where no scope that orders
them encloses the device. Parties outside the scope see it first, and those within it wait with its bytes for the earlier ones; only one
warp is ahead of its order at a time, so that no two wait for one another (R18, R263; log 54). -/
def State.overtake (s0 : State) (id : Nat) : Out :=
  let s := s0.settleFor id
  match s.accessById id with
  | none => .refused (.notEnabled "ACCESS_PERFORMED")
  | some y =>
    let xs := s.overtaken y
    let fs := (s.issuedBefore y).filterMap fun p => match p with
      | .fence f => if f.narrow y.warp xs then some f else none
      | .access _ => none
    let rest : State := { s with pending := s.pending.filter fun p => match p with
      | .access x => !xs.contains x.id
      | .fence f => !fs.contains f }
    let scope := s.orderScope y xs fs
    if !y.glob || y.kind.onBar || y.kind.reads || y.commit.isSome || 5 ≤ scope || xs.isEmpty || s.passes.any (·.warp ≠ y.warp) then
      .refused (.notEnabled "ACCESS_PERFORMED")
    else match (if y.kind.near then rest.sendNear y else if rest.mayPerform y then some (rest.performAccess y) else none) with
      | none => .refused (.notEnabled "ACCESS_PERFORMED")
      | some t => .next ({ t with
          pending := s.pending.filterMap fun p => if p.id = y.id then t.pending.find? (fun q => q.id = y.id) else some p
          passes := s.passes ++ y.lanes.map fun l => ⟨y.warp, xs, scope, l.pa, y.size⟩ } : State).settle

end Sys2Proof.Machine
end

