-- ==== Sys2Proof/Machine/Memory.lean ====
section
/-! DEFINITION. Loads, stores, atomics, tables, prefetch, line locks, flushes, watches, near-memory atomics and queue bindings
(R187 to R202, R368 to R382). -/

namespace Sys2Proof.Machine

/-! ### Loads and stores (R187, R189) -/

/-- A page whose plain stores are commit operations in deterministic grids (R274, R387). -/
def GLane.ds (g : GLane) : Bool := g.leaf.getLsbD 5

/-- The phase of a commit operation in a deterministic grid (R274). -/
def Iss.commitIf (i : Iss) (b : Bool) : Option Nat := if i.gr.rec_.det && b then some i.w.phase else none

/-- A global load of n bytes: shape, length, fields, offset, hint, sign extension (R187, R189). -/
def loadGlobal (s : State) (sh : Shape) (len : Nat) (f : XForm) (n hint : Nat) (signed : Bool) : Out :=
  operate s sh f noExtra fun o =>
    globalLanes s o f.a (ofs8 (f.fld 7 0)) n .read .load fun s1 gs =>
      let a := o.newAccess s1 .load true n o.loadDst (gs.map fun g => ⟨g.lane, g.va, g.pa, 0, 0, 0, keyOf o.i.w.wg.ctx g.leaf⟩)
      o.issueAccess s1 len { a with hint := hint, signed := signed } false true

/-- A global store of n bytes of a data field of w bits (R187, R189, R274). -/
def storeGlobal (s : State) (sh : Shape) (len : Nat) (f : XForm) (data : BitVec 8) (w n hint : Nat) : Out :=
  operate s sh f noExtra fun o =>
    globalLanes s o f.a (ofs8 (f.fld 7 0)) n .write .store fun s1 gs =>
      let a := o.newAccess s1 .store true n none (gs.map fun g => ⟨g.lane, g.va, g.pa, 0, o.rd128 data g.lane w, 0, keyOf o.i.w.wg.ctx g.leaf⟩)
      o.issueAccess s1 len { a with hint := hint, commit := o.i.commitIf (gs.any GLane.ds) } false false

/-- A scratchpad load; member gives the gang index of a window access (R189, R177). -/
def loadScratch (s : State) (sh : Shape) (len : Nat) (f : XForm) (n : Nat) (signed : Bool) (member : Option (BitVec 8)) : Out :=
  operate s sh f noExtra fun o =>
    let j (l : Nat) : Nat := match member with | some c => o.rdN c l 32 | none => o.i.ownIndex
    scratchLanes s o f.a (ofs8 (f.fld 7 0)) n j fun ls =>
      let a := o.newAccess s .load false n o.loadDst (ls.map fun x => ⟨x.lane, x.off, x.off, o.i.memberId x.member, 0, 0, ⟨0, 0⟩⟩)
      o.issueAccess s len { a with signed := signed } member.isSome true

/-- A scratchpad store (R189, R177, R274). -/
def storeScratch (s : State) (sh : Shape) (len : Nat) (f : XForm) (data : BitVec 8) (w n : Nat) (member : Option (BitVec 8)) : Out :=
  operate s sh f noExtra fun o =>
    let j (l : Nat) : Nat := match member with | some c => o.rdN c l 32 | none => o.i.ownIndex
    scratchLanes s o f.a (ofs8 (f.fld 7 0)) n j fun ls =>
      let a := o.newAccess s .store false n none
        (ls.map fun x => ⟨x.lane, x.off, x.off, o.i.memberId x.member, o.rd128 data x.lane w, 0, ⟨0, 0⟩⟩)
      o.issueAccess s len { a with commit := o.i.commitIf (member.isSome && ls.any fun x => x.member ≠ o.i.ownIndex) }
        member.isSome false

/-- Length of a base word with or without a literal. -/
def IForm.len (f : IForm) : Nat := if f.lit.isSome then 12 else 4

def execLdg (f : IForm) (s : State) : Out := loadGlobal s (baseShape 0x1D f.toX) (IForm.len f) f.toX 4 0 false
/-- In STG and STS, D is the data (R187). -/
def execStg (f : IForm) (s : State) : Out := storeGlobal s (baseShape 0x1E f.toX) (IForm.len f) f.toX f.toX.d 32 4 0
def execLds (f : IForm) (s : State) : Out := loadScratch s (baseShape 0x1F f.toX) (IForm.len f) f.toX 4 false none
def execSts (f : IForm) (s : State) : Out := storeScratch s (baseShape 0x20 f.toX) (IForm.len f) f.toX f.toX.d 32 4 none

/-- A type whose narrow loads are sign-extended (R37, R184). -/
def memSigned (ty : BitVec 4) : Bool := ty = 0 || ty = 2

def execLdgw (f : XForm) (s : State) : Out :=
  loadGlobal s (shapeMem 0x00 f) f.len f (memBytes f.ty.toNat) (f.fld 9 8) (memSigned f.ty)
def execStgw (f : XForm) (s : State) : Out :=
  storeGlobal s (shapeMem 0x01 f) f.len f f.b (memW f.ty.toNat) (memBytes f.ty.toNat) (f.fld 9 8)
def execLdsw (f : XForm) (s : State) : Out :=
  loadScratch s (shapeMem 0x02 f) f.len f (memBytes f.ty.toNat) (memSigned f.ty) none
def execStsw (f : XForm) (s : State) : Out :=
  storeScratch s (shapeMem 0x03 f) f.len f f.b (memW f.ty.toNat) (memBytes f.ty.toNat) none
def execLdl (f : XForm) (s : State) : Out :=
  loadScratch s (shapeMem 0x04 f) f.len f (memBytes f.ty.toNat) (memSigned f.ty) (some f.b)
def execStl (f : XForm) (s : State) : Out :=
  storeScratch s (shapeMem 0x05 f) f.len f f.c (memW f.ty.toNat) (memBytes f.ty.toNat) (some f.b)

/-! ### LDK (R191) -/

/-- The bytes of a table of the grid (R191). -/
def ldkTable (s : State) (i : Iss) (tbl : Nat) : List Byte :=
  match tbl with
  | 0 => (match s.ctxAt i.w.wg.ctx with | some c => discTable c | none => [])
  | 1 => (List.range 16).flatMap fun n => toBytes (i.kReg n).toNat 8
  | _ => (List.range 8).flatMap fun n => toBytes (i.slot n).toNat 4

/-- LDK (R191); its tables hold no poison (R413; log 73). -/
def execLdk (f : XForm) (s : State) : Out :=
  operate s (shapeMem 0x06 f) f noExtra fun o =>
    let n := memBytes f.ty.toNat
    let t := ldkTable s o.i (f.fld 9 8)
    let es := o.lanes.map fun l => (l, o.eo f.a (ofs8 (f.fld 7 0)) n l)
    match es.find? fun e => e.2 % (n : Int) != 0 with
    | some e => raiseAt s o.i 0x090 (addrOf e.2)
    | none =>
      match es.find? fun e => e.2 < 0 || (t.length : Int) < e.2 + n with
      | some e => raiseAt s o.i 0x094 (addrOf e.2)
      | none =>
        let a := { o.newAccess s .load false n o.loadDst [] with signed := memSigned f.ty }
        let vals := es.foldl (fun m e => SMap.put m e.1 (a.widen (BitVec.ofNat 128 (ofBytes ((t.drop e.2.toNat).take n))))) []
        let r := o.commit s none id
        let s1 : State := { r.1 with returns := r.1.returns ++
          [⟨a.id, a.warp, a.wg, a.pc, a.dst.getD 251, a.scalar, sizeRegs n, a.threads, vals, [], false⟩] }
        .next (s1.retire o.i f.len f.lnd { r.2 with l0 := some ⟨o.scalar, [], o.latchLanes, s.freeCtr + 128, some a.id⟩ })

/-! ### Atomics (R192 to R196) -/

/-- A global atomic (R192, R274). -/
def atomGlobal (s : State) (xop : Nat) (f : XForm) (kind : AccKind) : Out :=
  operate s (shapeMem xop f) f noExtra fun o =>
    let n := memBytes f.ty.toNat
    let w := memW f.ty.toNat
    globalLanes s o f.a 0 n .both .atomic fun s1 gs =>
      let a := o.newAccess s1 kind true n o.atomDst
        (gs.map fun g => ⟨g.lane, g.va, g.pa, 0, o.rd128 f.b g.lane w, (o.rd128 f.c g.lane w).setWidth 64, keyOf o.i.w.wg.ctx g.leaf⟩)
      o.issueAccess s1 f.len { a with ord := f.fld 5 4, scope := f.fld 8 6, commit := o.i.commitIf true } false a.dst.isSome

/-- A scratchpad atomic, direct or through a window (R192, R177, R274). -/
def atomScratch (s : State) (xop : Nat) (f : XForm) (kind : AccKind) : Out :=
  operate s (shapeMem xop f) f noExtra fun o =>
    let n := memBytes f.ty.toNat
    let w := memW f.ty.toNat
    let win := f.bit 9
    let j (l : Nat) : Nat := if win then o.rdN f.e l 32 else o.i.ownIndex
    scratchLanes s o f.a 0 n j fun ls =>
      let a := o.newAccess s kind false n o.atomDst
        (ls.map fun x => ⟨x.lane, x.off, x.off, o.i.memberId x.member, o.rd128 f.b x.lane w, (o.rd128 f.c x.lane w).setWidth 64, ⟨0, 0⟩⟩)
      o.issueAccess s f.len { a with
        ord := f.fld 5 4, scope := f.fld 8 6
        commit := o.i.commitIf (win && ls.any fun x => x.member ≠ o.i.ownIndex) } win a.dst.isSome

def execAtomg (f : XForm) (s : State) : Out := atomGlobal s 0x07 f (.atom (f.fld 3 0))
def execCasg (f : XForm) (s : State) : Out := atomGlobal s 0x08 f .cas
def execFatomg (f : XForm) (s : State) : Out := atomGlobal s 0x09 f (.fatom (f.fld 3 0))
def execAtoms (f : XForm) (s : State) : Out := atomScratch s 0x0A f (.atom (f.fld 3 0))
def execCass (f : XForm) (s : State) : Out := atomScratch s 0x0B f .cas

/-! ### Near-memory atomics (R369 to R374) -/

def execNma (f : XForm) (s : State) : Out :=
  operate s (shapeMem 0x0C f) f noExtra fun o =>
    let n := memBytes f.ty.toNat
    globalLanes s o f.a (ofs8 (f.fld 7 0)) n .both .nma fun s1 gs =>
      let a := o.newAccess s1 (.nma (f.fld 11 8)) true n none
        (gs.map fun g => ⟨g.lane, g.va, g.pa, 0, o.rd128 f.b g.lane (memW f.ty.toNat), 0, keyOf o.i.w.wg.ctx g.leaf⟩)
      o.issueAccess s1 f.len { a with commit := o.i.commitIf true } false false

/-- Every near-memory atomic that a warp has issued is performed (R374). -/
def State.nmaDone (s : State) (k : WarpKey) : Bool :=
  !(s.pending.any fun p => match p with
    | .access a => a.warp = k && a.kind.near
    | .fence _ => false)

/-- A waiting instruction: it goes on where its condition holds, else its set is blocked (R120, R123). -/
def waitOn (s : State) (i : Iss) (f : XForm) (holds : Bool) (w : Wait) : Out :=
  if holds then .next (s.retire i f.len f.lnd Left.none) else .next (s.block i w)

def execNmdrain (f : XForm) (s : State) : Out := issue s fun i => waitOn s i f (s.nmaDone i.w.key) .nearMemory

/-! ### Prefetch, line locks, flushes (R202, R375 to R378) -/

/-- A prefetch that waits for its walk, or for its pending line (R202, R364). -/
def State.bringLater (s : State) (core ctx lvl va : Nat) : State :=
  { s.fresh with walks := s.walks ++ [⟨s.nextId, ctx, va, none, some (core, lvl)⟩] }

/-- Brings the line of an address into L1 or L2 where it may be read, now or once it can be, or does nothing (R202, R388). -/
def State.prefetch (s : State) (core ctx lvl : Nat) (ea : Int) : State :=
  if ea < 0 || (2 ^ 57 : Int) ≤ ea then s
  else match s.cached core ctx ea.toNat with
    | none => s.bringLater core ctx lvl ea.toNat
    | some _ => match s.translate core ctx ea.toNat .read with
      | .ok pa e => if s.paPending pa 1 then s.bringLater core ctx lvl ea.toNat else s.bringLine core (keyOf ctx e) lvl (lineOf pa)
      | _ => s

/-- PREF (R188, R202): its address has no size and so is never unaligned (log 47). -/
def execPref (f : XForm) (s : State) : Out :=
  operate s (shapeMem 0x10 f) f noExtra fun o =>
    let s1 := o.lanes.foldl (fun t l => t.prefetch o.i.w.core o.i.w.wg.ctx (f.fld 1 0) (o.ea f.a 0 1 l)) s
    o.complete s1 f.len none id

/-- Pinned ways of the set a line falls in (R375). -/
def State.pinnedWays (s : State) (line : Nat) : Nat :=
  ((s.wgs.flatMap fun g => if g.saved then [] else g.locks.map (·.1)).eraseDups.filter fun x => l2SetOf x = l2SetOf line).length

/-- LOCKL on one line: the state after it and its status (R375). -/
def State.lockLine (s : State) (k : WgKey) (line va : Nat) : State × Nat :=
  match s.wgAt k with
  | none => (s, 0)
  | some g =>
    if g.locks.any fun x => x.1 = line then (s, 1)
    else if 64 ≤ g.locks.length || 12 ≤ s.pinnedWays line then (s, 0)
    else ((s.touchL2 line false false).updWg k fun g => { g with locks := g.locks ++ [(line, va)] }, 1)

/-- UNLOCKL on one line (R375). -/
def State.unlockLine (s : State) (k : WgKey) (line _va : Nat) : State × Nat :=
  match s.wgAt k with
  | none => (s, 0)
  | some g =>
    if g.locks.any fun x => x.1 = line then (s.updWg k fun g => { g with locks := g.locks.filter fun x => x.1 ≠ line }, 1) else (s, 0)

/-- A line operation of each lane in ascending order, with its statuses. -/
def lineOps (op : State → Nat → Nat → State × Nat) : State → List GLane → State × List (Nat × DWord)
  | s, [] => (s, [])
  | s, g :: gs =>
    let r := op s (lineOf g.pa) g.va
    let rest := lineOps op r.1 gs
    (rest.1, (g.lane, BitVec.ofNat 64 r.2) :: rest.2)

/-- LOCKL and UNLOCKL (R375): they wait for pending lines (R364). -/
def lockOp (s : State) (xop : Nat) (f : XForm) (op : State → WgKey → Nat → Nat → State × Nat) : Out :=
  operate s (shapeMem xop f) f noExtra fun o =>
    globalLanes s o f.a 0 1 .either .load fun s1 gs =>
      if gs.any fun g => s.paPending g.pa 1 then .next s
      else
        let r := lineOps (fun t line va => op t o.i.w.wg line va) s1 gs
        o.complete r.1 f.len (some r.2) id

def execLockl (f : XForm) (s : State) : Out := lockOp s 0x11 f State.lockLine
def execUnlockl (f : XForm) (s : State) : Out := lockOp s 0x12 f State.unlockLine

/-- FLUSHL on one line (R378). -/
def State.flushLine (s : State) (core kind line : Nat) : State :=
  let clean : State := { s with l2 := s.l2.map fun (x : L2Line) => if x.line = line then { x with dirty := false } else x }
  match kind with
  | 0 => s.dropL1Line core line
  | 1 => clean
  | _ => if s.pinned line then clean.dropL1Line core line else (clean.dropL1Line core line).dropL2 line

def execFlushl (f : XForm) (s : State) : Out :=
  operate s (shapeMem 0x13 f) f noExtra fun o =>
    globalLanes s o f.a 0 1 .either .load fun s1 gs =>
      if f.fld 1 0 != 0 && gs.any fun g => s.paPending g.pa 1 then .next s
      else o.complete (gs.foldl (fun t g => t.flushLine o.i.w.core (f.fld 1 0) (lineOf g.pa)) s1) f.len none id

/-! ### Watches (R379 to R381) -/

/-- Arms a slot; its monitor reads the word by an access on the LSU path, and until that access is
performed the slot has not fired, so a PARK issued earlier waits for it (R261, R380, R383). -/
def armWatch (o : Opnd) (s : State) (f : XForm) (glob : Bool) (addr pa : Nat) (key : KeyNo) : Out :=
  let slot := f.fld 9 8
  let w : Watch := ⟨glob, addr, pa, key, f.ty = 5, f.fld 1 0, o.rd64 f.b warpLane, false, some s.nextId⟩
  let a := o.newAccess s (.watch slot) glob w.bytes none [⟨warpLane, addr, pa, if glob then 0 else o.i.w.wg.wgid, 0, 0, key⟩]
  o.issueAccess s f.len a false false fun wp => { wp with watch := wp.watch.put slot w }

/-- WATCH (R379, R380). -/
def execWatch (f : XForm) (s : State) : Out :=
  operate s (shapeMem 0x14 f) f noExtra fun o =>
    let n : Nat := if f.ty = 5 then 8 else 4
    if f.bit 3 then o.complete s f.len none fun wp => { wp with watch := wp.watch.del (f.fld 9 8) }
    else if f.bit 4 then
      let ea : Int := (o.rd64 f.a warpLane).toNat
      if ea % (n : Int) != 0 then raiseAt s o.i 0x090 (addrOf ea)
      else if (2 ^ 57 : Int) < ea + n then raiseAt s o.i 0x095 (addrOf ea)
      else if s.walkersBusy o.i.w.core o.i.w.wg.ctx ea.toNat then .next s
      else match s.translate o.i.w.core o.i.w.wg.ctx ea.toNat .read with
        | .noMem pa => .fault (.noSuchMemory pa)
        | .fail c => holdFault (s.fill o.i.w.core o.i.w.wg.ctx ea.toNat) o.i c ea.toNat .watch
        | .ok pa e => armWatch o (s.fill o.i.w.core o.i.w.wg.ctx ea.toNat) f true ea.toNat pa (keyOf o.i.w.wg.ctx e)
    else
      let eo := o.rdN f.a warpLane 32
      if eo % n != 0 then raiseAt s o.i 0x090 eo
      else if o.i.gr.rec_.scratch < eo + n then raiseAt s o.i 0x091 eo
      else armWatch o s f false eo eo ⟨0, 0⟩

/-- PARK's condition; a slot whose arming is under way has not fired (R381, R383). -/
def Warp.parkHolds (w : Warp) : Bool := w.watch.isEmpty || w.watch.any fun e => e.2.fired

def execPark (f : XForm) (s : State) : Out := issue s fun i => waitOn s i f i.w.parkHolds .park

/-! ### Queue streams (R197 to R201) -/

/-- A descriptor of 32 bytes, with whether its fields are legal for a warp of a width; id numbers the reads that its QCFG issues (R198,
R199, R261). -/
def readStream (m : List Host.Cell) (off width id : Nat) : Stream × Bool :=
  let base := readLE m off 8
  let groups := readLE m (off + 8) 4
  let gstr := sext32 (readLE m (off + 12) 4)
  let lstr := sext32 (readLE m (off + 16) 4)
  let fl := readLE m (off + 20) 4
  let wide := fl.testBit 2
  let e := if wide then 8 else 4
  let asks := if fl.testBit 0 then [] else List.replicate (min (streamRoom width wide) groups) id
  let t : Stream := ⟨fl.testBit 0, wide, base, groups, gstr, lstr, 0, 0, [], [], asks⟩
  let corner (g l : Nat) : Int := (base : Int) + (g : Int) * gstr + (l : Int) * lstr
  let ok (a : Int) : Bool := 0 ≤ a && a + e ≤ 2 ^ 57
  (t, fl / 8 == 0 && !fl.testBit 1 && readLE m (off + 24) 8 == 0 && groups != 0 && base % e == 0 && gstr % e == 0 && lstr % e == 0 &&
    ok (corner 0 0) && ok (corner 0 (width - 1)) && ok (corner (groups - 1) 0) && ok (corner (groups - 1) (width - 1)))

/-- The elements of a group with their physical addresses. -/
def zipElems (ctx : Nat) (g : QGroup) : Nat → List (Nat × BitVec 64) → List (Nat × Nat × DWord × KeyNo)
  | _, [] => []
  | l, t :: ts => (l, t.1, SMap.get 0 g.vals l, keyOf ctx t.2) :: zipElems ctx g (l + 1) ts

/-- Hands a pushed group to the engine that writes it, or names the fault that stops it (R200, R201, R288). -/
def State.takeGroup (s : State) (w : Warp) (t : Stream) (q : Option Nat) (g : QGroup) (fences : List Nat) :
    State × Option (Cause × Nat) :=
  let vas := (List.range w.width).map fun l => t.elemAddr g.index l
  match s.translateAll (engineSite w.core) w.wg.ctx .write vas with
  | .ok ts =>
    let s1 := s.fillAll (engineSite w.core) w.wg.ctx vas
    ({ s1 with storeGroups := s1.storeGroups ++ [⟨g.id, q, w.key, w.wg, t.wide, zipElems w.wg.ctx g 0 ts, vas, g.poison, fences⟩] }, none)
  | .fail c va => (s.fillAll (engineSite w.core) w.wg.ctx vas, some (c, va))
  | .noMem pa => (s, some (0x065, pa))

/-- What holds back the accesses that a warp issues now on a path: its open fences that name the path, and a buffered commit operation
whose turn acquires for what follows it (R266, R271). -/
def State.openFences (s : State) (k : WarpKey) (path : Nat) : List Nat :=
  s.pending.filterMap fun p => match p with
    | .fence f => if f.warp = k && f.paths.getLsbD path && s.fenceOpen f then some f.id else none
    | .access a => if a.warp = k && s.commitHead a then some a.id else none

/-- Groups of a released store stream are still written, behind the fences that their pushes were; a fault on one is reported, since no instruction is left to take it
(R199, R201, R497; log 12). -/
def State.releaseGroups (s : State) (w : Warp) (t : Stream) : List QGroup → State
  | [] => s
  | g :: gs =>
    let r := s.takeGroup w t none g ((s.openFences w.key 1).filter fun x => x < g.id)
    let s1 := match r.2 with
      | some (c, va) => r.1.postEvent { EventRec.ofWarp 5 c w 0 with addr := va, acc := Acc.element.code }
      | none => r.1
    s1.releaseGroups w t gs

/-- Releases a queue register's binding (R199, R201). -/
def State.releaseQueue (s : State) (w : Warp) (q : Nat) : State :=
  match w.q.find q with
  | none => s
  | some t =>
    let s1 := if t.store then s.releaseGroups w t t.buf else s
    let s2 : State := { s1 with storeGroups := s1.storeGroups.map fun (x : StoreGroup) =>
      if x.warp = w.key ∧ x.queue = some q then { x with queue := none } else x }
    s2.updWarp w.key fun w => { w with q := w.q.del q }

/-- A scratchpad store or atomic of the warp is not yet performed (R511). -/
def State.scratchDue (s : State) (k : WarpKey) : Bool :=
  s.pending.any fun p => match p with
    | .access a => a.warp = k && !a.glob && !a.kind.reads && !a.kind.onBar
    | .fence _ => false

/-- What holds back a count-down that a warp's instruction asks for now: open releasing fences and updates of barrier objects (R271,
R302). -/
def State.releaseHolds (s : State) (k : WarpKey) : List Nat :=
  s.pending.filterMap fun p => match p with
    | .fence f => if f.warp = k && 2 ≤ f.ord && s.fenceOpen f then some f.id else none
    | .access a => if a.warp = k && a.kind.onBar then some a.id else none

/-- QCFG (R199): its descriptor read waits as an access of the LSU path does, and for the warp's earlier scratchpad stores (R261, R511); it
takes the descriptor's bytes as they stand (log 73). -/
def execQcfg (f : XForm) (s : State) : Out :=
  operate s (shapeMem 0x0E f) f noExtra fun o =>
    let off := o.rdN f.a warpLane 32
    if s.scratchDue o.i.w.key || s.waitsFor (o.newAccess s .load false 4 none [⟨warpLane, off, off, o.i.w.wg.wgid, 0, 0, ⟨0, 0⟩⟩]) then .next s
    else if off % 32 != 0 then raiseAt s o.i 0x090 off
    else if o.i.gr.rec_.scratch < off + 32 then raiseAt s o.i 0x091 off
    else
      let d := readStream o.i.wg.scratch off o.i.w.width s.nextId
      if !d.2 then raise s o.i 0x0E0
      else o.complete (s.releaseQueue o.i.w f.d.toNat) f.len none fun w => { w with q := w.q.put f.d.toNat d.1 }

/-- QDRAIN's condition for a binding (R201). -/
def State.queueIdle (s : State) (k : WarpKey) (q : Nat) (t : Stream) : Bool :=
  if t.store then t.buf.isEmpty && !(s.storeGroups.any fun g => g.warp = k && g.queue = some q)
  else t.reading.isEmpty

/-- QDRAIN (R200, R201). A load stream reads no further once it is asked for; faults of the groups that it discards are not met (log 48). -/
def execQdrain (f : XForm) (s : State) : Out :=
  issue s fun i =>
    let q := f.d.toNat
    match i.w.q.find q with
    | none => .next (s.retire i f.len f.lnd Left.none)
    | some t =>
      match (if t.store then t.buf.findSome? (·.fault) else none) with
      | some (c, va) => holdElement s i c va
      | none =>
        let s1 := if t.store then s else s.updWarp i.w.key fun w => { w with q := w.q.put q { t with next := t.groups, buf := [], asks := [] } }
        if s1.queueIdle i.w.key q t then .next ((s1.releaseQueue i.w q).retire i f.len f.lnd Left.none)
        else .next (s1.block i (.queueDrain q))

end Sys2Proof.Machine
end

