-- ==== Sys2Proof/Machine/Barrier.lean ====
section
/-! DEFINITION. Barrier objects and the instructions on them; tickets and DEPDONE, which the grid and the workgroup hold (R301 to
R315). -/

namespace Sys2Proof.Machine

/-! ### Waits on objects (R308) -/

/-- What a wait on an object finds: a phase complete, still to come, or a cause (R308). -/
inductive BarTest where
  | complete
  | waits
  | bad (c : Cause)
  deriving DecidableEq, Repr

/-- The test of BWAIT and BTEST for the phase of a parity (R308). -/
def Bar.test (b : Bar) (parity : Bool) : BarTest :=
  if !b.isLive && !b.isAbandoned then .bad 0x0E3
  else if b.phase.testBit 0 != parity then .complete
  else if b.isAbandoned then .bad 0x0E2
  else .waits

/-! ### The object of an instruction (R304) -/

/-- The object that A names, checked for alignment, bounds and translation; one that is read waits for a pending line (R304, R364). -/
def withObject (s : State) (o : Opnd) (p : Perm) (acc : Acc) (k : State → BarRef → Nat → Out) : Out :=
  if o.f.bit 0 then
    let ea := o.rdN o.f.a warpLane 64
    if ea % 16 != 0 then raiseAt s o.i 0x090 ea
    else if 2 ^ 57 < ea + 16 then raiseAt s o.i 0x095 ea
    else if s.walkersBusy o.i.w.core o.i.w.wg.ctx ea then .next s
    else match s.translate o.i.w.core o.i.w.wg.ctx ea p with
      | .noMem pa => .fault (.noSuchMemory pa)
      | .fail c => holdFault (s.fill o.i.w.core o.i.w.wg.ctx ea) o.i c ea acc
      | .ok pa e =>
        if p = .read && s.paPending pa 16 then .next s
        else k ((s.fill o.i.w.core o.i.w.wg.ctx ea).touchL2 (lineOf pa) false false) ⟨true, o.i.w.wg, pa, keyOf o.i.w.wg.ctx e⟩ ea
  else
    let eo := o.rdN o.f.a warpLane 32
    if eo % 16 != 0 then raiseAt s o.i 0x090 eo
    else if o.i.gr.rec_.scratch < eo + 16 then raiseAt s o.i 0x091 eo
    else k s (.own o.i.w.wg eo) eo

/-- A count given as an immediate or by B (R295, R305). -/
def Opnd.countIB (o : Opnd) : Nat := if o.f.bit 4 then o.f.fld 15 8 else o.rdN o.f.b warpLane 32

/-- The access that an update of an object is, where it has to wait. -/
def Opnd.barAccess (o : Opnd) (s : State) (r : BarRef) (va : Nat) (op : BarOp) : Access :=
  o.newAccess s (.bar op) r.glob 16 none [⟨warpLane, va, r.pa, o.i.w.wg.wgid, 0, 0, r.key⟩]

/-- Earlier updates of the object by the warp are still to be made (R302). -/
def State.barDue (s : State) (a : Access) : Bool :=
  s.pending.any fun p => match p with | .access b => a.barAfter b | .fence _ => false

/-- An update that issues now may be made at once as far as those go that have issued and wait. -/
def State.barGoesFirst (s : State) (r : BarRef) (op : BarOp) : Bool :=
  let q := (s.barQueue r).map (·.2)
  !((s.barAt r).takes q) || (s.barAt r).takesFirst op q

/-- An update of an object: made at once where nothing it has to follow is outstanding, else it joins what is, and issue goes on. The
object is checked by test as the instruction issues, as it is with every update made that has issued (R302, R306; log 28). -/
def Opnd.update (o : Opnd) (s : State) (r : BarRef) (va : Nat) (op : BarOp) (test : Bar → Option Cause) (g : Workgroup → Workgroup) :
    Out :=
  let a := o.barAccess s r va op
  match test (s.barNow r) with
  | some c => raise s o.i c
  | none =>
    let s1 := s.updWg o.i.w.wg g
    if s.barDue a || !s.arrivalReady a || (r.glob && s.paPending r.pa 16) || !s.barGoesFirst r op then
      o.complete ({ s1.fresh with pending := s1.pending ++ [.access a] } : State) o.f.len none id
    else o.complete ((s1.arrived a.warp a.threads a.id op).makeBar r op) o.f.len none id

/-- BINIT (R305). -/
def execBinit (f : XForm) (s : State) : Out :=
  operate s (shapeAsync 0x03 f) f noExtra fun o =>
    withObject s o .both .atomic fun s1 r va =>
      let n := o.countIB
      if 65535 < n then raise s1 o.i 0x0E6
      else o.update s1 r va (.init n (f.fld 3 1)) (fun _ => none) id

/-- Arrivals of BARR and BARRD (R306). -/
def Opnd.arrivals (o : Opnd) : Nat :=
  match o.f.fld 2 1 with
  | 0 => (lanesOf o.i.fl.active).length
  | 1 => 1
  | _ => o.rdN o.f.b warpLane 32

/-- The cause that stops an arrival of n with expected bytes, in order (R306, R310). -/
def Bar.arriveCause (b : Bar) (cnt tx : Bool) (n bytes : Nat) (owedFull : Bool) : Option Cause :=
  match b.stateCause with
  | some c => some c
  | none =>
    if cnt && (n = 0 || 65535 < n) then some 0x0E6
    else if tx && b.badBytes bytes then some 0x0E6
    else if b.pend < n then some 0x0E1
    else if owedFull then some 0x0EB
    else none

/-- The owed list after an arrival on a global object (R310). -/
def owedAfter (drop : Bool) (va : Nat) (l : List Nat) : List Nat :=
  if drop then l.filter fun x => x ≠ va else if l.contains va then l else l ++ [va]

/-- BARR and BARRD (R306): an arrival, made once what it releases is performed (R266); issue goes on. -/
def arrive (xop : Nat) (drop : Bool) (f : XForm) (s : State) : Out :=
  operate s (shapeAsync xop f) f noExtra fun o =>
    withObject s o .both .atomic fun s1 r va =>
      let n := o.arrivals
      let bytes := if f.bit 3 then o.rdN f.c warpLane 32 else 0
      let full := f.bit 0 && !drop && !o.i.wg.owed.contains va && 16 ≤ o.i.wg.owed.length
      o.update s1 r va (.arrive drop n bytes) (fun b => b.arriveCause (f.fld 2 1 = 2) (f.bit 3) n bytes full) fun g =>
        if f.bit 0 then { g with owed := owedAfter drop va g.owed } else g

def execBarr (f : XForm) (s : State) : Out := arrive 0x04 false f s
def execBarrd (f : XForm) (s : State) : Out := arrive 0x05 true f s

/-- BEXP (R307). -/
def execBexp (f : XForm) (s : State) : Out :=
  operate s (shapeAsync 0x06 f) f noExtra fun o =>
    withObject s o .both .atomic fun s1 r va =>
      let op : BarOp := .expect (o.rdN f.b warpLane 32)
      o.update s1 r va op (fun b => b.opCause op) id

/-- BWAIT (R308): satisfied, it acquires on all paths (R264, R266). -/
def execBwait (f : XForm) (s : State) : Out :=
  operate s (shapeAsync 0x07 f) f noExtra fun o =>
    withObject s o .read .load fun s1 r addr =>
      let p := (o.rdN f.b warpLane 32).testBit 0
      match (s1.barAt r).test p with
      | .bad c => raise s1 o.i c
      | .complete => o.complete (s1.dropL1 o.i.w.core) f.len none id
      | .waits => .next (s1.block o.i (.barrier r.glob addr p))

/-- BTEST (R308). -/
def execBtest (f : XForm) (s : State) : Out :=
  operate s (shapeAsync 0x08 f) f noExtra fun o =>
    withObject s o .read .load fun s1 r _ =>
      let give (t : State) (v : DWord) : Out := o.complete t f.len (some (o.lanes.map fun l => (l, v))) id
      match (s1.barAt r).test ((o.rdN f.b warpLane 32).testBit 0) with
      | .bad c => raise s1 o.i c
      | .complete => give (s1.dropL1 o.i.w.core) 1
      | .waits => give s1 0

/-- BINV (R309). -/
def execBinv (f : XForm) (s : State) : Out :=
  operate s (shapeAsync 0x09 f) f noExtra fun o =>
    withObject s o .both .atomic fun s1 r va => o.update s1 r va .invalidate (fun b => b.opCause .invalidate) id

/-- BWAIT's condition for its set: the object's test no longer says wait, or its address no longer translates (R120, R308). -/
def State.barrierHolds (s : State) (w : Warp) (glob : Bool) (addr : Nat) (parity : Bool) : Bool :=
  if glob then
    match s.translate w.core w.wg.ctx addr .read with
    | .ok pa e => !s.paPending pa 16 && (s.barAt ⟨true, w.wg, pa, keyOf w.wg.ctx e⟩).test parity != .waits
    | _ => true
  else (s.barAt (.own w.wg addr)).test parity != .waits

/-! ### Tickets (R312 to R314) -/

/-- Workgroups of a grid (R92). -/
def Grid.count (g : Grid) : Nat := g.rec_.gx * g.rec_.gy * g.rec_.gz

/-- A counter's value (R312). -/
def Grid.ticket (g : Grid) (t : Nat) : Nat := SMap.get 0 g.tickets t

/-- How a workgroup retired, if it has. -/
def Grid.retiredHow (g : Grid) (wgid : Nat) : Option EndKind := (g.retired.find? fun r => r.1 = wgid).map (·.2)

/-- A counter moves on by one, or is abandoned at its last value (R314). -/
def Grid.bump (g : Grid) (t : Nat) : Grid :=
  if g.ticket t = 2 ^ 32 - 1 then { g with abandoned := g.abandoned ++ [t] } else { g with tickets := g.tickets.set 0 t (g.ticket t + 1) }

/-- A counter passes values whose owners have retired by EXIT and is abandoned at one that ended otherwise; at most n times
(R314). -/
def Grid.skip (t : Nat) : Nat → Grid → Grid
  | 0, g => g
  | n + 1, g =>
    if g.abandoned.contains t then g
    else match g.retiredHow (g.ticket t % g.count) with
      | none => g
      | some .exit => Grid.skip t n (g.bump t)
      | some _ => { g with abandoned := g.abandoned ++ [t] }

/-- All 64 counters after a retirement, but for those with a pass under way (R314). -/
def Grid.skipAll (g : Grid) : Grid :=
  (List.range 64).foldl (fun g t => if g.passes.any fun p => p.t = t then g else g.skip t (g.retired.length + 1)) g

/-- TKTAKE (R313). -/
def execTktake (f : XForm) (s : State) : Out :=
  operate s (shapeAsync 0x0A f) f noExtra fun o =>
    let t := f.fld 5 0
    let v := o.rdN f.a warpLane 32
    if o.i.gr.abandoned.contains t then raise s o.i 0x0E4
    else if v % o.i.gr.count != o.i.w.wg.wgid || v < o.i.gr.ticket t then raise s o.i 0x0E7
    else if o.i.gr.ticket t < v then .next (s.block o.i (.ticket t v))
    else o.complete (s.dropL1 o.i.w.core) f.len none id

/-- A pass may take effect: what it releases is performed (R266, R314). -/
def State.passReady (s : State) (p : TicketPass) : Bool := !s.releaseDue p.warp (BitVec.allOnes 64) p.upto

/-- TICKET_ADVANCE (R314): the oldest pass of a counter takes effect, or the counter moves past retired owners. -/
def execTicketAdvance (grid : GridKey) (t : Nat) (s : State) : Out :=
  match s.gridAt grid with
  | none => .refused (.notEnabled "TICKET_ADVANCE")
  | some g =>
    match g.passes.find? fun p => p.t = t with
    | some p =>
      if !s.passReady p then .refused (.notEnabled "TICKET_ADVANCE")
      else .next ((s.orders p.warp (BitVec.allOnes 64) 1 p.upto).updGrid grid fun g => ({ g.bump t with passes := g.passes.erase p } : Grid).skip t (g.retired.length + 1))
    | none =>
      let g' := g.skip t (g.retired.length + 1)
      if g' = g then .refused (.notEnabled "TICKET_ADVANCE") else .next (s.updGrid grid fun _ => g')

/-- TKPASS (R314): the counter moves on once what it releases is performed; issue goes on. Passes of the workgroup under way count
when the holder is judged. -/
def execTkpass (f : XForm) (s : State) : Out :=
  operate s (shapeAsync 0x0B f) f noExtra fun o =>
    let t := f.fld 5 0
    let under := (o.i.gr.passes.filter fun p => p.t = t).length
    if o.i.gr.abandoned.contains t || 2 ^ 32 ≤ o.i.gr.ticket t + under then raise s o.i 0x0E4
    else if (o.i.gr.ticket t + under) % o.i.gr.count != o.i.w.wg.wgid then raise s o.i 0x0E7
    else
      let p : TicketPass := ⟨t, o.i.w.wg.wgid, o.i.w.key, s.nextId⟩
      let s1 := (s.orders p.warp (BitVec.allOnes 64) 1 p.upto).updGrid (gridOfWg o.i.w.wg) fun g =>
        if under = 0 && s.passReady p then (g.bump t).skip t (g.retired.length + 1) else { g with passes := g.passes ++ [p] }
      o.complete s1 f.len none id

/-- TKTAKE's condition for its set (R313). -/
def State.ticketHolds (s : State) (w : Warp) (t v : Nat) : Bool :=
  match s.gridAt (gridOfWg w.wg) with
  | some g => g.abandoned.contains t || v ≤ g.ticket t
  | none => true

/-! ### DEPDONE (R315) -/

/-- DEPDONE (R315); without effect where the grid has no completion area. -/
def execDepdone (f : XForm) (s : State) : Out :=
  operate s (shapeAsync 0x0D f) f noExtra fun o =>
    if o.i.gr.rec_.compl = 0 then o.complete s f.len none id
    else o.complete ((s.updWarp o.i.w.key fun w => { w with depDone := true }).checkDone o.i.w.wg) f.len none id

end Sys2Proof.Machine
end

