-- ==== Sys2Proof/Machine/Codec.lean ====
section
/-! DEFINITION. How the parts of a context image that the manual gives no layout are written as bytes: codings of the records that a
grid record and a workgroup's section hold (R427, R428; log 18). -/

namespace Sys2Proof.Machine

/-! ### Codings -/

/-- A coding of a type: its bytes, and what stands at the head of some bytes with the rest of them. -/
structure Codec (α : Type) where
  enc : α → List Byte
  dec : List Byte → Option (α × List Byte)

/-- Seven bits in a byte, the least significant first, bit 7 set in all bytes but the last; n digits at most. -/
def natBytes : Nat → Nat → List Byte
  | 0, _ => []
  | n + 1, k => if k < 128 then [BitVec.ofNat 8 k] else BitVec.ofNat 8 (128 + k % 128) :: natBytes n (k / 128)

def natTake : List Byte → Option (Nat × List Byte)
  | [] => none
  | b :: bs =>
    if b.toNat < 128 then some (b.toNat, bs)
    else (natTake bs).map fun x => (b.toNat - 128 + 128 * x.1, x.2)

def Codec.nat : Codec Nat := ⟨fun n => natBytes (n.log2 + 1) n, natTake⟩

/-- A type that stands for another, which not every value of the other need be. -/
def Codec.partly {α β : Type} (c : Codec α) (to_ : β → α) (from_ : α → Option β) : Codec β :=
  ⟨fun x => c.enc (to_ x), fun bs => (c.dec bs).bind fun x => (from_ x.1).map fun y => (y, x.2)⟩

def Codec.iso {α β : Type} (c : Codec α) (to_ : β → α) (from_ : α → β) : Codec β := c.partly to_ fun x => some (from_ x)

def Codec.prod {α β : Type} (c : Codec α) (d : Codec β) : Codec (α × β) :=
  ⟨fun x => c.enc x.1 ++ d.enc x.2, fun bs => (c.dec bs).bind fun x => (d.dec x.2).map fun y => ((x.1, y.1), y.2)⟩

/-- One of two types, told apart by a first byte. -/
def Codec.alt {α β : Type} (c : Codec α) (d : Codec β) : Codec (α ⊕ β) :=
  ⟨fun x => match x with
    | .inl a => 0 :: c.enc a
    | .inr b => 1 :: d.enc b,
   fun bs => match bs with
    | [] => none
    | t :: bs => if t = 0 then (c.dec bs).map fun x => (.inl x.1, x.2) else (d.dec bs).map fun x => (.inr x.1, x.2)⟩

/-- So many values, one behind the other. -/
def takeMany {α : Type} (f : List Byte → Option (α × List Byte)) : Nat → List Byte → Option (List α × List Byte)
  | 0, bs => some ([], bs)
  | n + 1, bs => (f bs).bind fun x => (takeMany f n x.2).map fun y => (x.1 :: y.1, y.2)

/-- A list, with its length first. -/
def Codec.list {α : Type} (c : Codec α) : Codec (List α) :=
  ⟨fun l => Codec.nat.enc l.length ++ l.flatMap c.enc, fun bs => (natTake bs).bind fun x => takeMany c.dec x.1 x.2⟩

def Codec.opt {α : Type} (c : Codec α) : Codec (Option α) :=
  c.list.iso Option.toList List.head?

def Codec.bits {n : Nat} : Codec (BitVec n) := Codec.nat.iso BitVec.toNat (BitVec.ofNat n)

def Codec.bool : Codec Bool := Codec.nat.iso Bool.toNat (· != 0)

def Codec.int : Codec Int :=
  (Codec.bool.prod Codec.nat).iso (fun i => (decide (i < 0), i.natAbs)) fun x => if x.1 then -(x.2 : Int) else x.2

/-- A type whose values are lists of numbers. -/
def Codec.tagged {α : Type} (to_ : α → List Nat) (from_ : List Nat → Option α) : Codec α := Codec.nat.list.partly to_ from_

/-! ### Registers, sets and waits -/

def Codec.xForm : Codec XForm :=
  (Codec.bool.prod <| Codec.bits.prod <| Codec.bits.prod <| Codec.bool.prod <| Codec.bits.prod <| Codec.bits.prod <| Codec.bits.prod <|
   Codec.bits.prod <| Codec.bits.prod <| Codec.bits.prod <| Codec.bits.opt).iso
    (fun x => (x.lnd, x.d, x.h2, x.nw, x.ty, x.a, x.b, x.c, x.e, x.mod, x.lit))
    (fun (lnd, d, h2, nw, ty, a, b, c, e, mod, lit) => ⟨lnd, d, h2, nw, ty, a, b, c, e, mod, lit⟩)

def Codec.gridKey : Codec GridKey :=
  (Codec.nat.prod <| Codec.nat).iso
    (fun x => (x.ctx, x.grid))
    (fun (ctx, grid) => ⟨ctx, grid⟩)

def Codec.wgKey : Codec WgKey :=
  (Codec.nat.prod <| Codec.nat.prod <| Codec.nat).iso
    (fun x => (x.ctx, x.grid, x.wgid))
    (fun (ctx, grid, wgid) => ⟨ctx, grid, wgid⟩)

def Codec.warpKey : Codec WarpKey :=
  (Codec.nat.prod <| Codec.nat).iso
    (fun x => (x.core, x.idx))
    (fun (core, idx) => ⟨core, idx⟩)

def Codec.keyNo : Codec KeyNo :=
  (Codec.nat.prod <| Codec.nat).iso
    (fun x => (x.slot, x.ctx))
    (fun (slot, ctx) => ⟨slot, ctx⟩)

/-- Why a set is blocked, without the fields of an instruction. -/
def Wait.toNats : Wait → List Nat
  | .barrier g a p => [0, g.toNat, a, p.toNat]
  | .park => [1]
  | .token => [2]
  | .tokenPhase => [3]
  | .drain => [4]
  | .depwait => [5]
  | .matrix m u => [6, m.toNat, u]
  | .wsync => [7]
  | .queueDrain q => [8, q]
  | .nearMemory => [9]
  | .fenceHold => [10]
  | .commitRoom n => [11, n]
  | .requestRoom n => [12, n]
  | .ticket t v => [13, t, v]
  | .matrixRoom n => [14, n]
  | .team _ => []
  | .tileBusy t u => [15, t, u]
  | .nmaRoom n => [16, n]
  | .galleryRoom => [17]

def Wait.ofNats : List Nat → Option Wait
  | [0, g, a, p] => some (.barrier (g != 0) a (p != 0))
  | [1] => some .park
  | [2] => some .token
  | [3] => some .tokenPhase
  | [4] => some .drain
  | [5] => some .depwait
  | [6, m, u] => some (.matrix (BitVec.ofNat 8 m) u)
  | [7] => some .wsync
  | [8, q] => some (.queueDrain q)
  | [9] => some .nearMemory
  | [10] => some .fenceHold
  | [11, n] => some (.commitRoom n)
  | [12, n] => some (.requestRoom n)
  | [13, t, v] => some (.ticket t v)
  | [14, n] => some (.matrixRoom n)
  | [15, t, u] => some (.tileBusy t u)
  | [16, n] => some (.nmaRoom n)
  | [17] => some .galleryRoom
  | _ => none

def Codec.wait : Codec Wait :=
  ((Codec.tagged Wait.toNats Wait.ofNats).alt Codec.xForm).iso
    (fun w => match w with | .team f => .inr f | w => .inl w)
    (fun x => match x with | .inl w => w | .inr f => .team f)

def Codec.pcSet : Codec PcSet :=
  (Codec.bits.prod <| Codec.bits.prod <| Codec.wait.opt).iso
    (fun x => (x.pc, x.lanes, x.blocked))
    (fun (pc, lanes, blocked) => ⟨pc, lanes, blocked⟩)

def Codec.xReg : Codec XReg :=
  (Codec.nat.prod <| Codec.nat.prod <| Codec.nat).iso
    (fun x => (x.val, x.lo, x.hi))
    (fun (val, lo, hi) => ⟨val, lo, hi⟩)

def Codec.qGroup : Codec QGroup :=
  (Codec.nat.prod <| Codec.nat.prod <| (Codec.nat.prod Codec.bits).list.prod <| Codec.bits.prod <| (Codec.bits.prod Codec.nat).opt).iso
    (fun x => (x.id, x.index, x.vals, x.poison, x.fault))
    (fun (id, index, vals, poison, fault) => ⟨id, index, vals, poison, fault⟩)

def Codec.stream : Codec Stream :=
  (Codec.bool.prod <| Codec.bool.prod <| Codec.nat.prod <| Codec.nat.prod <| Codec.int.prod <| Codec.int.prod <| Codec.nat.prod <|
   Codec.nat.prod <| Codec.qGroup.list.prod <| Codec.qGroup.list.prod <| Codec.nat.list).iso
    (fun x => (x.store, x.wide, x.base, x.groups, x.gstr, x.lstr, x.used, x.next, x.reading, x.buf, x.asks))
    (fun (store, wide, base, groups, gstr, lstr, used, next, reading, buf, asks) => ⟨store, wide, base, groups, gstr, lstr, used, next,
     reading, buf, asks⟩)

def Codec.liveRecord : Codec LiveRecord :=
  Codec.tagged
    (fun r => match r with
      | .everything => []
      | .parts sa sb bays regs acc => [sa.toNat, sb.toNat, bays.toNat, regs.toNat, acc.toNat])
    (fun l => match l with
      | [sa, sb, bays, regs, acc] => some (.parts (BitVec.ofNat 64 sa) (BitVec.ofNat 64 sb) (BitVec.ofNat 32 bays) (BitVec.ofNat 24 regs) (BitVec.ofNat 8 acc))
      | [] => some .everything
      | _ => none)

def Codec.holdKind : Codec HoldKind :=
  Codec.nat.iso (fun k => match k with | .fault => 0 | .element => 1 | .brk => 2)
    (fun n => match n with | 0 => .fault | 1 => .element | _ => .brk)

def Codec.hold : Codec Hold :=
  (Codec.holdKind.prod <| Codec.bits.prod <| Codec.nat.prod <| Codec.nat.prod <| Codec.nat.prod <| Codec.bits).iso
    (fun x => (x.kind, x.cause, x.addr, x.acc, x.aux, x.pc))
    (fun (kind, cause, addr, acc, aux, pc) => ⟨kind, cause, addr, acc, aux, pc⟩)

def Codec.watch : Codec Watch :=
  (Codec.bool.prod <| Codec.nat.prod <| Codec.nat.prod <| Codec.keyNo.prod <| Codec.bool.prod <| Codec.nat.prod <| Codec.bits.prod <|
   Codec.bool.prod <| Codec.nat.opt).iso
    (fun x => (x.glob, x.addr, x.pa, x.key, x.wide, x.pred, x.value, x.fired, x.arming))
    (fun (glob, addr, pa, key, wide, pred, value, fired, arming) => ⟨glob, addr, pa, key, wide, pred, value, fired, arming⟩)

def Codec.team : Codec Team :=
  (Codec.nat.prod <| Codec.nat.prod <| Codec.nat.prod <| Codec.bool).iso
    (fun x => (x.lead, x.size, x.ordinal, x.broken))
    (fun (lead, size, ordinal, broken) => ⟨lead, size, ordinal, broken⟩)

/-- A saved warp: it is at a flight end, so it has no flight that has begun (R125). -/
def Codec.warp : Codec Warp :=
  (Codec.nat.prod <| Codec.nat.prod <| Codec.wgKey.prod <| Codec.nat.prod <| Codec.nat.prod <| Codec.nat.prod <| Codec.bits.prod <|
   (Codec.nat.prod Codec.bits).list.prod <| (Codec.nat.prod Codec.bits).list.prod <| (Codec.nat.prod Codec.bits).list.prod <|
   (Codec.nat.prod Codec.xReg).list.prod <| (Codec.nat.prod Codec.stream).list.prod <| Codec.bits.prod <| Codec.bits.prod <|
   Codec.bits.prod <| Codec.pcSet.list.prod <| Codec.nat.prod <| Codec.nat.prod <| (Codec.bits.prod Codec.bits).list.prod <|
   Codec.hold.opt.prod <| Codec.bits.opt.prod <| Codec.nat.prod <| Codec.bool.prod <| Codec.bits.prod <| Codec.liveRecord.opt.prod <| (Codec.nat.prod
   Codec.watch).list.prod <| Codec.team.opt.prod <| Codec.nat.list).iso
    (fun x => (x.core, x.idx, x.wg, x.num, x.width, x.pos, x.threads, x.v, x.s, x.m, x.x, x.q, x.mode, x.flags, x.srseq, x.pcs, x.age,
     x.lowRuns, x.sweep, x.hold, x.recorded, x.phase, x.depDone, x.relLanes, x.live, x.watch, x.team, x.regPoison))
    (fun (core, idx, wg, num, width, pos, threads, v, s, m, x, q, mode, flags, srseq, pcs, age, lowRuns, sweep, hold, recorded, phase,
     depDone, relLanes, live, watch, team, regPoison) => ⟨core, idx, wg, num, width, pos, threads, v, s, m, x, q, mode, flags, srseq, pcs, age,
     lowRuns, sweep, [], hold, recorded, phase, depDone, relLanes, live, watch, team, regPoison⟩)

/-! ### Workgroups and the matrix queue -/

def Codec.region : Codec Region :=
  (Codec.bits.prod <| Codec.bits.prod <| Codec.nat.opt).iso
    (fun x => (x.handler, x.cls, x.reg))
    (fun (handler, cls, reg) => ⟨handler, cls, reg⟩)

def Codec.endKind : Codec EndKind :=
  Codec.nat.iso (fun k => match k with | .exit => 0 | .kill => 1 | .fault => 2)
    (fun n => match n with | 0 => .exit | 1 => .kill | _ => .fault)

def Codec.dyadic : Codec Dyadic :=
  (Codec.int.prod <| Codec.int).iso
    (fun x => (x.m, x.e))
    (fun (m, e) => ⟨m, e⟩)

def Codec.tile : Codec Tile :=
  ((Codec.nat.prod Codec.bits).list.prod <| Codec.bool.prod <| Codec.nat.prod <| Codec.bits.list.prod <| Codec.nat.list.prod <|
   Codec.bits.prod <| Codec.bits.prod <| (Codec.nat.prod Codec.nat).list.prod <| (Codec.nat.prod Codec.dyadic).list.prod <|
   (Codec.nat.prod Codec.dyadic).list.prod <| Codec.nat.list.prod <| (Codec.nat.prod Codec.nat).list.prod <| (Codec.nat.prod
   Codec.dyadic).list.prod <| (Codec.nat.prod Codec.dyadic).list.prod <| Codec.nat.list).iso
    (fun x => (x.data, x.zeroed, x.seed, x.pool, x.poison, x.colv, x.rowv, x.runs, x.cc, x.ac, x.nfc, x.rruns, x.cr, x.ar, x.nfr))
    (fun (data, zeroed, seed, pool, poison, colv, rowv, runs, cc, ac, nfc, rruns, cr, ar, nfr) => ⟨data, zeroed, seed, pool, poison,
     colv, rowv, runs, cc, ac, nfc, rruns, cr, ar, nfr⟩)

def Codec.checkColumn : Codec CheckColumn :=
  (Codec.nat.prod <| Codec.nat.prod <| (Codec.nat.prod Codec.dyadic).list.prod <| (Codec.nat.prod Codec.dyadic).list.prod <|
   Codec.nat.list).iso
    (fun x => (x.tile, x.slot, x.sums, x.abss, x.nonfinite))
    (fun (tile, slot, sums, abss, nonfinite) => ⟨tile, slot, sums, abss, nonfinite⟩)

def Codec.workgroup : Codec Workgroup :=
  (Codec.wgKey.prod <| Codec.nat.prod <| (Codec.nat.prod Codec.bits).list.prod <| Codec.nat.list.prod <| (Codec.nat.prod
   Codec.bits).list.prod <| Codec.nat.prod <| Codec.bits.list.prod <| Codec.bits.list.prod <| (Codec.nat.prod Codec.nat).list.prod <|
   Codec.nat.list.prod <| Codec.checkColumn.list.prod <| (Codec.nat.prod Codec.tile).list.prod <| (Codec.nat.prod Codec.bits).list.prod
   <| Codec.nat.prod <| Codec.nat.list.prod <| Codec.region.list.prod <| Codec.bits.prod <| Codec.nat.list.prod <| Codec.nat.opt.prod <|
   Codec.bool.prod <| (Codec.nat.prod Codec.nat).list.prod <| (Codec.nat.prod Codec.nat).list.prod <| Codec.nat.list.prod <|
   Codec.nat.opt.prod <| Codec.endKind.opt.prod <| Codec.bool).iso
    (fun x => (x.key, x.core, x.scratch, x.scratchPoison, x.bay, x.baySeed, x.bayPool, x.tilePool, x.bayAlt, x.bayPoison, x.checks,
     x.tiles, x.scale, x.scaleSeed, x.scalePoison, x.regions, x.infltLimit, x.owed, x.doneAt, x.doneMade, x.locks, x.ends, x.endedIn,
     x.lastCommit, x.ended, x.saved))
    (fun (key, core, scratch, scratchPoison, bay, baySeed, bayPool, tilePool, bayAlt, bayPoison, checks, tiles, scale, scaleSeed,
     scalePoison, regions, infltLimit, owed, doneAt, doneMade, locks, ends, endedIn, lastCommit, ended, saved) => ⟨key, core, scratch,
     scratchPoison, bay, baySeed, bayPool, tilePool, bayAlt, bayPoison, checks, tiles, scale, scaleSeed, scalePoison, regions,
     infltLimit, owed, doneAt, doneMade, locks, ends, endedIn, lastCommit, ended, saved⟩)

def Codec.boundReg : Codec BoundReg :=
  (Codec.bits.prod <| Codec.bits.prod <| Codec.nat.prod <| Codec.nat).iso
    (fun x => (x.lo, x.hi, x.mode, x.hit))
    (fun (lo, hi, mode, hit) => ⟨lo, hi, mode, hit⟩)

def Codec.aSource : Codec ASource :=
  ((Codec.nat.prod Codec.bits).list.alt (Codec.nat.prod Codec.nat)).iso
    (fun a => match a with | .regs b => .inl b | .scratch o n => .inr (o, n))
    (fun x => match x with | .inl b => .regs b | .inr (o, n) => .scratch o n)

def Codec.quarter : Codec Quarter :=
  (Codec.nat.prod <| Codec.nat.prod <| Codec.nat.prod <| Codec.nat.prod <| Codec.bool.prod <| Codec.aSource.prod <| Codec.nat.prod <|
   Codec.bits.opt.prod <| Codec.bits).iso
    (fun x => (x.warp, x.tile, x.band, x.row0, x.zero, x.src, x.asci, x.ts, x.rows))
    (fun (warp, tile, band, row0, zero, src, asci, ts, rows) => ⟨warp, tile, band, row0, zero, src, asci, ts, rows⟩)

/-- A pass or a part of a team pass, or else another entry. -/
def Codec.mWork : Codec MWork :=
  (((Codec.nat.list.prod Codec.quarter.list).alt
    (Codec.nat.list.prod <| Codec.wgKey.prod <| Codec.bits.opt.prod Codec.nat.list)).alt
   (Codec.nat.list.prod <| (Codec.nat.prod Codec.boundReg).opt.prod <| Codec.bits.prod Codec.bits)).partly
    (fun w => match w with
      | .pass b a s c qs => .inl (.inl ([b, a, s, c], qs))
      | .team t a s b c r z l o n i ts ms => .inl (.inr ([t, a, s, b, c, r, z.toNat, o, n, i], l, ts, ms))
      | .scld a i u => .inr ([0, a, i, u], none, 0, 0)
      | .accz m => .inr ([1, m.toNat], none, 0, 0)
      | .accld t a n b k => .inr ([2, t, a, n, b, k], none, 0, 0)
      | .accst t a n d b k x m s => .inr ([3, t, a, n, d, b, k], x, m, s))
    (fun x => match x with
      | .inl (.inl ([b, a, s, c], qs)) => some (.pass b a s c qs)
      | .inl (.inr ([t, a, s, b, c, r, z, o, n, i], l, ts, ms)) => some (.team t a s b c r (z != 0) l o n i ts ms)
      | .inr ([0, a, i, u], _, _, _) => some (.scld a i u)
      | .inr ([1, m], _, _, _) => some (.accz (BitVec.ofNat 8 m))
      | .inr ([2, t, a, n, b, k], _, _, _) => some (.accld t a n b k)
      | .inr ([3, t, a, n, d, b, k], x, m, s) => some (.accst t a n d b k x m s)
      | _ => none)

def Codec.mEntry : Codec MEntry :=
  (Codec.nat.prod <| Codec.nat.prod <| Codec.wgKey.prod <| Codec.bits.prod <| Codec.mWork.prod <| Codec.bool.prod <| Codec.nat.list).iso
    (fun x => (x.id, x.warp, x.wg, x.pc, x.work, x.started, x.fences))
    (fun (id, warp, wg, pc, work, started, fences) => ⟨id, warp, wg, pc, work, started, fences⟩)

/-! ### Records, accesses and fences -/

def Codec.copyRec : Codec CopyRec :=
  (Codec.nat.prod <| Codec.warpKey.prod <| Codec.wgKey.prod <| Codec.nat.prod <| Codec.nat.prod <| Codec.nat.prod <| Codec.nat.prod <|
   Codec.nat.prod <| Codec.int.prod <| Codec.int.prod <| Codec.nat.opt.prod <| Codec.nat.prod <| Codec.nat.prod <| (Codec.nat.prod
   Codec.int).opt.prod <| Codec.bool.prod <| Codec.nat.prod <| Codec.nat.prod <| Codec.nat.prod <| (Codec.bits.prod (Codec.nat.prod
   Codec.nat)).opt.prod <| Codec.nat.list.prod <| Codec.nat.list).iso
    (fun x => (x.id, x.warp, x.wg, x.op, x.src, x.dst, x.rows, x.rowb, x.sstr, x.dstr, x.bar, x.slot, x.aux, x.arg, x.admitted, x.row,
     x.ofs, x.open_, x.suspended, x.bayTiles, x.fences))
    (fun (id, warp, wg, op, src, dst, rows, rowb, sstr, dstr, bar, slot, aux, arg, admitted, row, ofs, open_, suspended, bayTiles,
     fences) => ⟨id, warp, wg, op, src, dst, rows, rowb, sstr, dstr, bar, slot, aux, arg, admitted, row, ofs, open_, suspended, bayTiles,
     fences⟩)

def Codec.storeGroup : Codec StoreGroup :=
  (Codec.nat.prod <| Codec.nat.opt.prod <| Codec.warpKey.prod <| Codec.wgKey.prod <| Codec.bool.prod <| (Codec.nat.prod (Codec.nat.prod
   (Codec.bits.prod Codec.keyNo))).list.prod <| Codec.nat.list.prod <| Codec.bits.prod <| Codec.nat.list).iso
    (fun x => (x.id, x.queue, x.warp, x.wg, x.wide, x.elems, x.vas, x.poison, x.fences))
    (fun (id, queue, warp, wg, wide, elems, vas, poison, fences) => ⟨id, queue, warp, wg, wide, elems, vas, poison, fences⟩)

def AccKind.toNats : AccKind → List Nat
  | .load => [0]
  | .store => [1]
  | .watch s => [2, s]
  | .bar (.init n c) => [3, n, c]
  | .bar (.arrive d n b) => [4, d.toNat, n, b]
  | .bar (.expect b) => [5, b]
  | .bar .invalidate => [6]
  | .bar .abandon => [7]
  | .atom c => [8, c]
  | .cas => [9]
  | .fatom c => [10, c]
  | .nma c => [11, c]

def AccKind.ofNats : List Nat → Option AccKind
  | [0] => some .load
  | [1] => some .store
  | [2, s] => some (.watch s)
  | [3, n, c] => some (.bar (.init n c))
  | [4, d, n, b] => some (.bar (.arrive (d != 0) n b))
  | [5, b] => some (.bar (.expect b))
  | [6] => some (.bar .invalidate)
  | [7] => some (.bar .abandon)
  | [8, c] => some (.atom c)
  | [9] => some .cas
  | [10, c] => some (.fatom c)
  | [11, c] => some (.nma c)
  | _ => none

def Codec.accKind : Codec AccKind := Codec.tagged AccKind.toNats AccKind.ofNats

def Codec.laneAcc : Codec LaneAcc :=
  (Codec.nat.prod <| Codec.nat.prod <| Codec.nat.prod <| Codec.nat.prod <| Codec.bits.prod <| Codec.bits.prod <| Codec.keyNo).iso
    (fun x => (x.lane, x.va, x.pa, x.target, x.data, x.data2, x.key))
    (fun (lane, va, pa, target, data, data2, key) => ⟨lane, va, pa, target, data, data2, key⟩)

def Codec.access : Codec Access :=
  (Codec.nat.prod <| Codec.warpKey.prod <| Codec.wgKey.prod <| Codec.bits.prod <| Codec.bits.prod <| Codec.nat.prod <| Codec.accKind.prod
   <| Codec.bool.prod <| Codec.nat.prod <| Codec.bool.prod <| Codec.bits.opt.prod <| Codec.bool.prod <| Codec.laneAcc.list.prod <|
   Codec.nat.prod <| Codec.nat.prod <| Codec.nat.prod <| Codec.nat.opt.prod <| Codec.bool.prod <| Codec.nat.opt.prod <|
   Codec.bits.list.prod <| Codec.bool).iso
    (fun x => (x.id, x.warp, x.wg, x.pc, x.threads, x.phase, x.kind, x.glob, x.size, x.signed, x.dst, x.scalar, x.lanes, x.ord, x.scope,
     x.hint, x.commit, x.buffered, x.sent, x.fenced, x.fencedRel))
    (fun (id, warp, wg, pc, threads, phase, kind, glob, size, signed, dst, scalar, lanes, ord, scope, hint, commit, buffered, sent,
     fenced, fencedRel) => ⟨id, warp, wg, pc, threads, phase, kind, glob, size, signed, dst, scalar, lanes, ord, scope, hint, commit,
     buffered, sent, fenced, fencedRel⟩)

def Codec.fenceMark : Codec FenceMark :=
  (Codec.nat.prod <| Codec.warpKey.prod <| Codec.bits.prod <| Codec.nat.prod <| Codec.nat.prod <| Codec.bits.prod <| Codec.nat.list).iso
    (fun x => (x.id, x.warp, x.lanes, x.ord, x.scope, x.paths, x.waits))
    (fun (id, warp, lanes, ord, scope, paths, waits) => ⟨id, warp, lanes, ord, scope, paths, waits⟩)

/-! ### Grids -/

def Codec.launchRecord : Codec LaunchRecord :=
  (Codec.bits.prod <| Codec.nat.prod <| Codec.nat.prod <| Codec.nat.prod <| Codec.nat.prod <| Codec.nat.prod <| Codec.nat.prod <|
   Codec.bool.prod <| Codec.nat.prod <| Codec.nat.prod <| Codec.nat.prod <| Codec.nat.prod <| Codec.nat.prod <| Codec.nat.prod <|
   Codec.nat.prod <| Codec.nat.prod <| Codec.nat.prod <| Codec.nat.prod <| Codec.nat.prod <| Codec.nat.prod <| Codec.nat.prod <|
   Codec.nat.prod <| Codec.nat.prod <| Codec.nat.prod <| Codec.nat.prod <| Codec.nat.prod <| Codec.bits.list.prod <| Codec.bits.list.prod
   <| Codec.bool).iso
    (fun x => (x.entry, x.width, x.vregs, x.acc, x.carve, x.gang, x.prio, x.det, x.ctx, x.scratch, x.bays, x.wgx, x.wgy, x.wgz,
     x.patience, x.gx, x.gy, x.gz, x.compl, x.pred, x.depfn, x.deph, x.depw, x.pgx, x.pgy, x.pgz, x.slots, x.consts, x.reserved))
    (fun (entry, width, vregs, acc, carve, gang, prio, det, ctx, scratch, bays, wgx, wgy, wgz, patience, gx, gy, gz, compl, pred, depfn,
     deph, depw, pgx, pgy, pgz, slots, consts, reserved) => ⟨entry, width, vregs, acc, carve, gang, prio, det, ctx, scratch, bays, wgx,
     wgy, wgz, patience, gx, gy, gz, compl, pred, depfn, deph, depw, pgx, pgy, pgz, slots, consts, reserved⟩)

def Codec.gangWait : Codec GangWait :=
  (Codec.nat.prod <| Codec.nat).iso
    (fun x => (x.since, x.count))
    (fun (since, count) => ⟨since, count⟩)

def Codec.ticketPass : Codec TicketPass :=
  (Codec.nat.prod <| Codec.nat.prod <| Codec.warpKey.prod <| Codec.nat).iso
    (fun x => (x.t, x.wgid, x.warp, x.upto))
    (fun (t, wgid, warp, upto) => ⟨t, wgid, warp, upto⟩)

/-- What can grow with the grid stands last (R428). -/
def Codec.grid : Codec Grid :=
  (Codec.gridKey.prod <| Codec.launchRecord.prod <| Codec.nat.prod <| Codec.nat.prod <| Codec.bits.prod <| Codec.nat.prod <|
   Codec.nat.opt.prod <| Codec.nat.opt.prod <| Codec.gangWait.opt.prod <| Codec.nat.prod <| Codec.nat.prod <| Codec.bool.prod <|
   (Codec.nat.prod Codec.nat).list.prod <| Codec.nat.list.prod <| Codec.ticketPass.list.prod <| (Codec.nat.prod Codec.nat).list.prod <|
   (Codec.nat.prod Codec.endKind).list.prod <| (Codec.nat.prod (Codec.nat.prod Codec.nat).list).list).iso
    (fun x => (x.key, x.rec_, x.order, x.queue, x.tag, x.next, x.lastCore, x.lastLayer, x.waiting, x.phase, x.turn, x.killed, x.tickets,
     x.abandoned, x.passes, x.placed, x.retired, x.gone))
    (fun (key, rec_, order, queue, tag, next, lastCore, lastLayer, waiting, phase, turn, killed, tickets, abandoned, passes, placed,
     retired, gone) => ⟨key, rec_, order, queue, tag, next, lastCore, lastLayer, waiting, tickets, abandoned, passes, phase, turn, placed,
     retired, gone, killed⟩)

end Sys2Proof.Machine
end

