-- ==== Sys2Proof/Machine/Control.lean ====
section
/-! DEFINITION. Control flow: NOP, branches, CALL, RET, EXIT, TFENCE, WSYNC, PFX and words that are no instruction (R46 to R52,
R119 to R142, R404). -/

namespace Sys2Proof.Machine

/-- NOP (R136). -/
def execNop (lnd : Bool) (s : State) : Out := issue s fun i => .next (s.retire i 4 lnd Left.none)

/-- A short target: the instruction's own address plus words, unwrapped (R34, R137). -/
def shortTarget (i : Iss) (imm : BitVec 8) : Int := (i.ipc.toNat : Int) + 4 * imm.toInt

/-- A target that lies in the address space (R137). -/
def targetOk (t : Int) : Bool := 0 ≤ t && t < 2 ^ 57

/-- A long target (R34). -/
def longTarget (t : BitVec 55) : Pc := t ++ (0 : BitVec 2)

/-- Sends the threads of T to a target and the rest of the active set on (R137). -/
def branchTo (s : State) (i : Iss) (len : Nat) (lnd : Bool) (t : LaneMask) (tgt : Pc) : Out :=
  let nxt := i.nxt len
  let s1 := s.updWarp i.w.key fun w => { w with pcs := moveLanes tgt t (moveLanes nxt (i.fl.active &&& ~~~t) w.pcs) }
  .next (s1.retireAt i lnd (t != 0 && t != i.fl.active && tgt != nxt) Left.none)

/-- BRA and BRN with a short target: one out of range raises 0x043 where a thread takes it (R137). -/
def branchShort (s : State) (lnd : Bool) (m : BitVec 3) (neg : Bool) (imm : BitVec 8) : Out :=
  issue s fun i =>
    let bits := i.w.maskReg m.toNat
    let t := i.fl.active &&& (if neg then ~~~bits else bits)
    let tgt := shortTarget i imm
    if t != 0 && !targetOk tgt then raise s i 0x043
    else branchTo s i 4 lnd t (BitVec.ofInt 57 tgt)

/-- BRA and BRN with a long target (R137). -/
def branchLong (s : State) (lnd : Bool) (m : BitVec 3) (neg : Bool) (target : BitVec 55) : Out :=
  issue s fun i =>
    let bits := i.w.maskReg m.toNat
    branchTo s i 12 lnd (i.fl.active &&& (if neg then ~~~bits else bits)) (longTarget target)

def execBra (lnd : Bool) (m : BitVec 3) (imm : BitVec 8) (s : State) : Out := branchShort s lnd m false imm
def execBraLong (lnd : Bool) (m : BitVec 3) (target : BitVec 55) (s : State) : Out := branchLong s lnd m false target
def execBrn (lnd : Bool) (m : BitVec 3) (imm : BitVec 8) (s : State) : Out := branchShort s lnd m true imm
def execBrnLong (lnd : Bool) (m : BitVec 3) (target : BitVec 55) (s : State) : Out := branchLong s lnd m true target

/-- CALL once its target is known: the link in every active lane, once, or nowhere, and the jump (R138). -/
def callTo (s : State) (f : IForm) (tgt : Iss → Int) : Out :=
  let x := f.toX
  operate s (baseShape 0x23 x) x noExtra fun o =>
    let t := tgt o.i
    if !targetOk t then raise s o.i 0x043
    else
      let link : DWord := (o.i.nxt (if f.lit.isSome then 12 else 4)).setWidth 64
      let r := o.commit s (some (o.lanes.map fun l => (l, link))) id
      let s1 := r.1.updWarp o.i.w.key fun w => { w with pcs := moveLanes (BitVec.ofInt 57 t) o.i.fl.active w.pcs }
      .next (s1.retireAt o.i f.lnd false r.2)

def execCall (lnd : Bool) (d : BitVec 7) (imm : BitVec 8) (s : State) : Out :=
  callTo s ⟨lnd, d, 0, imm, false, none⟩ fun i => shortTarget i imm
def execCallLong (lnd : Bool) (d : BitVec 7) (target : BitVec 55) (s : State) : Out :=
  callTo s ⟨lnd, d, 0, 0, false, some (targetLit target)⟩ fun _ => ((longTarget target).toNat : Int)

/-- RET: each active thread goes to its own link (R139). -/
def execRet (lnd : Bool) (a : BitVec 7) (s : State) : Out :=
  let x := (⟨lnd, 0, a, 0, false, false⟩ : RForm).toX
  operate s (baseShape 0x24 x) x noExtra fun o =>
    let ts := (lanesOf o.i.fl.active).map fun l => (l, o.rd64 x.a l)
    if ts.any fun t => t.2.extractLsb' 0 2 != 0 then raise s o.i 0x040
    else if ts.any fun t => t.2.extractLsb' 57 7 != 0 then raise s o.i 0x041
    else
      let s1 := s.updWarp o.i.w.key fun w =>
        { w with pcs := ts.foldl (fun ps t => moveLanes (t.2.setWidth 57) (laneBit t.1) ps) w.pcs }
      .next (s1.retireAt o.i lnd (1 < (ts.map (·.2)).eraseDups.length) Left.none)

/-! ### WSYNC and EXIT -/

/-- The lowest set of a warp whose every set, of two or more, is blocked in WSYNC (R141). -/
def Warp.wsyncStuck (w : Warp) : Option Pc :=
  match w.pcs with
  | p :: _ :: _ => if w.pcs.all fun q => q.blocked == some .wsync then some p.pc else none
  | _ => none

/-- Raises 0x042 where no set of a warp can leave its WSYNC (R141). -/
def State.checkWsync (s : State) (k : WarpKey) : State :=
  match s.warpAt k with
  | none => s
  | some w => match w.wsyncStuck with
    | some pc => s.deliver w pc 0x042 0
    | none => s

/-- WSYNC (R141). -/
def execWsync (lnd : Bool) (s : State) : Out :=
  issue s fun i =>
    match i.w.pcs with
    | [_] => .next (s.retire i 4 lnd Left.none)
    | _ => .next ((s.block i .wsync).checkWsync i.w.key)

/-- Discards the loads in flight to v registers of threads, and to s registers where no thread is left (R140); poison on its way to
threads that remain, or with an atomic, is still delivered (R413). -/
def State.dropLoads (s : State) (k : WarpKey) (lanes : LaneMask) (all : Bool) : State :=
  let keep (l : Nat) : Bool := !all && !lanes.getLsbD l
  { s with
    pending := s.pending.filterMap fun p => match p with
      | .access a =>
        if a.warp = k && a.kind == .load && (all || !a.scalar) then
          let ls := a.lanes.filter fun x => keep x.lane
          if ls.isEmpty then none else some (.access { a with lanes := ls })
        else some p
      | .fence f => some (.fence f)
    returns := s.returns.filterMap fun r =>
      if r.warp = k && (all || !r.scalar) then
        let vs := r.vals.filter fun x => keep x.1
        let bad := if r.atomic then r.poisoned else r.poisoned.filter fun x => keep x.1
        if vs.isEmpty && bad.isEmpty then none else some { r with vals := vs, poisoned := bad }
      else some r }

/-- Marks a workgroup ended once its last warp has ended (R140). -/
def State.noteEnd (s : State) (k : WgKey) (how : EndKind) : State :=
  if (s.warpsOf k).any Warp.alive then s
  else s.updWg k fun g => { g with ended := some (g.ended.getD how) }

/-- A warp whose last thread has exited: its team breaks, its watches go, it counts as having issued DEPDONE's and PHASE's share
(R282, R315, R342, R382). A cause recorded against it goes with it (R128; log 51). -/
def State.warpEnded (s : State) (w : Warp) : State :=
  let s1 := (s.breakTeam w).updWarp w.key fun v => { v with team := none, watch := [], recorded := none }
  ((s1.notePhases w.wg).checkDone w.wg).noteEnd w.wg .exit

/-- EXIT (R140). -/
def execExit (_lnd : Bool) (s : State) : Out :=
  issue s fun i =>
    let left := dropLanes i.fl.active i.w.pcs
    let s1 := s.updWarp i.w.key fun w => { w with pcs := left }
    let s2 := (s1.dropLoads i.w.key i.fl.active left.isEmpty).endFlight
    .next ((if left.isEmpty then s2.warpEnded i.w else s2).checkWsync i.w.key)

/-! ### TFENCE, PFX, unassigned words -/

/-- TFENCE: a stall while a queued ACCST of the warp has flags to set, then the lowest enabled cause (R404). -/
def execTfence (lnd : Bool) (s : State) : Out :=
  issue s fun i =>
    if s.flagsDue i.w then .next s
    else match tfenceCause i.w.flags i.w.mode with
      | some c => raise s i c
      | none => .next (s.retire i 4 lnd Left.none)

/-- PFX: its instruction issues next, with it as one (R47); another PFX in force is no instruction to prefix (R48). -/
def execPfx (p : PForm) (s : State) : Out :=
  issue s fun i =>
    if i.fl.pfx.isSome then raise s i 0x003
    else .next (s.setFlight { i.fl with pfx := some p })

/-- A word or word pair that is no assigned instruction raises its cause (R51, R52). -/
def execUnassignedInstruction (cause : BitVec 9) (s : State) : Out := issue s fun i => raise s i cause

end Sys2Proof.Machine
end

