-- ==== Sys2Proof/Machine/Fresh.lean ====
section
/-! DEFINITION. Workgroups, warps and tiles as placement gives them (R93, R100, R119, R143, R320). -/

namespace Sys2Proof.Machine

/-- Free values that a workgroup takes: for its bay, its scale memory and its tiles (R100, R320, R321, R325; log 2). -/
def workgroupFree : Nat := 2 ^ 23

/-- What storage reads as that is given unpredictable: zero, or a value that the context has left there (R100; log 2). -/
def leftValue {n : Nat} (pool : List (BitVec n)) (seed : Nat) : BitVec n :=
  ((0 : BitVec n) :: pool).getD ((Config.free seed).toNat % (pool.length + 1)) 0

/-- A workgroup as placement gives it, on a core where its context has left bytes in the bay and elements in the tiles (R100). -/
def freshWorkgroup (key : WgKey) (core : Nat) (seed : Nat) (bayPool : List Byte) (tilePool : List Word) : Workgroup where
  key := key
  core := core
  scratch := []
  scratchPoison := []
  bay := []
  baySeed := seed
  bayPool := bayPool
  tilePool := tilePool
  bayAlt := []
  bayPoison := []
  checks := []
  tiles := []
  scale := []
  scaleSeed := seed + 2 ^ 21
  scalePoison := []
  regions := []
  infltLimit := 256
  owed := []
  doneAt := none
  doneMade := false
  locks := []
  ends := []
  endedIn := []
  lastCommit := none
  ended := none
  saved := false

/-- A warp as placement gives it: registers zero, one set at ENTRY (R119, R143). -/
def freshWarp (wg : WgKey) (core idx num width pos : Nat) (threads : LaneMask) (entry : Pc) : Warp where
  core := core
  idx := idx
  wg := wg
  num := num
  width := width
  pos := pos
  threads := threads
  v := []
  s := []
  m := []
  x := []
  q := []
  mode := 0
  flags := 0
  srseq := 0
  pcs := [⟨entry, threads, none⟩]
  age := 0
  lowRuns := 0
  sweep := []
  begun := []
  hold := none
  recorded := none
  phase := 0
  depDone := false
  relLanes := 0
  live := none
  watch := []
  team := none
  regPoison := []

/-- An accumulator tile as it is given: unpredictable, nothing checked (R320, R348). -/
def freshTile (seed : Nat) (pool : List Word) : Tile where
  data := []
  zeroed := false
  seed := seed
  pool := pool
  poison := []
  colv := 0
  rowv := 0
  runs := []
  cc := []
  ac := []
  nfc := []
  rruns := []
  cr := []
  ar := []
  nfr := []

/-- A tile of a workgroup. -/
def Workgroup.tile (g : Workgroup) (n : Nat) : Tile := (SMap.find g.tiles n).getD (freshTile (g.baySeed + 2 ^ 22 + 16384 * n) g.tilePool)

/-- Changes a tile. -/
def Workgroup.setTile (g : Workgroup) (n : Nat) (t : Tile) : Workgroup := { g with tiles := g.tiles.put n t }

end Sys2Proof.Machine
end

