-- ==== Sys2Proof/Machine/Residency.lean ====
section
/-! DEFINITION. Residency and placement: what a workgroup takes of a core, the distributor's decisions, gang patience and the layer
hold (R92 to R115). -/

namespace Sys2Proof.Machine

/-! ### What a workgroup takes (R92, R93, R97, R98) -/

/-- Threads of a workgroup (R92). -/
def LaunchRecord.threads (r : LaunchRecord) : Nat := r.wgx * r.wgy * r.wgz

/-- Warps of a workgroup (R93). -/
def LaunchRecord.nwarps (r : LaunchRecord) : Nat := (r.threads + r.width - 1) / r.width

/-- The threads of warp i by lane: tail lanes hold none (R93). -/
def LaunchRecord.warpThreads (r : LaunchRecord) (i : Nat) : LaneMask := fullMask (min r.width (r.threads - i * r.width))

/-- Resources charged on a core (R97). -/
structure Charge where
  warps : Nat
  scratch : Nat
  bays : Nat
  acc : Nat
  deriving DecidableEq, Repr

/-- The charge of one workgroup (R97). -/
def LaunchRecord.charge (r : LaunchRecord) : Charge := ⟨r.nwarps, roundUpTo r.scratch 4096, roundUpTo r.bays 65536, r.acc⟩

def Charge.add (a b : Charge) : Charge := ⟨a.warps + b.warps, a.scratch + b.scratch, a.bays + b.bays, a.acc + b.acc⟩

/-- The record of a workgroup's grid. -/
def State.recOf (s : State) (k : WgKey) : Option LaunchRecord := (s.gridAt (gridOfWg k)).map (·.rec_)

/-- The workgroups resident on a core. -/
def State.onCore (s : State) (core : Nat) : List Workgroup := s.wgs.filter fun g => g.core = core

/-- What the residents of a core hold (R97). -/
def State.coreCharge (s : State) (core : Nat) : Charge :=
  (s.onCore core).foldl (fun a g => match s.recOf g.key with | some r => a.add r.charge | none => a) ⟨0, 0, 0, 0⟩

/-- Register entries per lane that each warp of a grid takes (R97). -/
def LaunchRecord.entries (r : LaunchRecord) : Nat := 8 * r.vregs

/-- Free register entries in each lane of the lane positions of a core (R98). -/
def State.freeEntries (s : State) (core width : Nat) : List Nat :=
  (List.range (64 / width)).map fun p =>
    768 - ((s.warps.filter fun w => w.core = core && w.pos = p).map fun w =>
      match s.recOf w.wg with | some r => r.entries | none => 0).sum

/-- The lowest position with room, and what is left (R98). -/
def takeEntries (need : Nat) : List Nat → Option (Nat × List Nat)
  | [] => none
  | f :: fs =>
    if need ≤ f then some (0, (f - need) :: fs)
    else (takeEntries need fs).map fun r => (r.1 + 1, f :: r.2)

/-- Lane positions of n warps, taken in turn (R98). -/
def lanePositions (need : Nat) : Nat → List Nat → Option (List Nat)
  | 0, _ => some []
  | n + 1, free =>
    match takeEntries need free with
    | none => none
    | some r => (lanePositions need n r.2).map fun ps => r.1 :: ps

/-- Items 2 to 4 of R101 on a core with given residents: the lane positions of the workgroup's warps, if it fits. -/
def LaunchRecord.fitsIn (r : LaunchRecord) (used : Charge) (free : List Nat) : Option (List Nat) :=
  let t := used.add r.charge
  if 24 < t.warps || 32768 * r.carve < t.scratch || 2097152 < t.bays || 8 < t.acc then none
  else lanePositions r.entries r.nwarps free

/-- Check 0x06: a workgroup fits on an empty core (R96, R101). -/
def LaunchRecord.fitsEmpty (r : LaunchRecord) : Bool :=
  (r.fitsIn ⟨0, 0, 0, 0⟩ (List.replicate (64 / r.width) 768)).isSome

/-- The lane positions of a grid's next workgroup on a core, if it fits there (R101). -/
def State.fits (s : State) (c : Context) (g : Grid) (x : LCore) : Option (List Nat) :=
  let agrees := match s.coreAt x.phys with
    | some k => (s.onCore x.phys).isEmpty || (k.width = g.rec_.width && k.carve = g.rec_.carve)
    | none => true
  let open_ := match c.hold with | some (layer, grid) => layer ≠ x.layer || grid = g.key.grid | none => true
  if x.removed || !agrees || !open_ then none
  else g.rec_.fitsIn (s.coreCharge x.phys) (s.freeEntries x.phys g.rec_.width)

/-! ### Placing (R99, R100, R129) -/

/-- The lowest free warp index of a core (R129). -/
def State.freeIdx (s : State) (core : Nat) : Nat :=
  ((List.range 24).find? fun i => !(s.warps.any fun w => w.core = core && w.idx = i)).getD 0

/-- Places the warps of a workgroup, in ascending order, on their lane positions. -/
def State.placeWarps (s : State) (k : WgKey) (core : Nat) (r : LaunchRecord) : Nat → List Nat → State
  | _, [] => s
  | i, p :: ps =>
    let w := freshWarp k core (s.freeIdx core) i r.width p (r.warpThreads i) r.entry
    ({ s with warps := s.warps ++ [w] } : State).placeWarps k core r (i + 1) ps

/-- A core takes its next workgroup: an empty one takes its width and carve, re-splits for a new carve and has its bound registers
reset. Its L1 lines are dropped: the workgroup acquires what the completion of earlier grids released (R99, R173, R264, R266, R354). -/
def State.readyCore (s : State) (core width carve : Nat) : State :=
  match s.coreAt core with
  | none => { s with cores := s.cores ++ [⟨core, width, carve, [], [], [], [], []⟩] }
  | some _ =>
    if (s.onCore core).isEmpty then
      s.updCore core fun x => { x with width := width, carve := carve, bounds := [], l1 := [] }
    else s.dropL1 core

/-- The bytes and tile elements that a core's last owners of the context have left (R100). -/
def State.leftOn (s : State) (core : Nat) : List Byte × List Word :=
  match s.coreAt core with
  | some c => (c.leftBay, c.leftTiles)
  | none => ([], [])

/-- Places workgroup wgid of a grid on a core (R100, R104, R162). -/
def State.placeOn (s : State) (g : Grid) (wgid : Nat) (x : LCore) (pos : List Nat) : State :=
  let k : WgKey := ⟨g.key.ctx, g.key.grid, wgid⟩
  let s1 := s.readyCore x.phys g.rec_.width g.rec_.carve
  let s2 := ({ s1 with wgs := s1.wgs ++ [freshWorkgroup k x.phys s1.freeCtr (s1.leftOn x.phys).1 (s1.leftOn x.phys).2] } : State).useFree workgroupFree
  (s2.placeWarps k x.phys g.rec_ 0 pos).updGrid g.key fun g =>
    { g with next := wgid + 1, lastCore := some x.logical, placed := g.placed.put wgid x.logical }

/-- An access of another gang member's that reaches a workgroup's scratchpad through a layer window is outstanding, or a team pass that
reads it (R175, R342). -/
def State.windowOpen (s : State) (k : WgKey) : Bool :=
  (s.pending.any fun p => match p with
    | .access a => !a.glob && gridOfWg a.wg = gridOfWg k && a.lanes.any fun x => x.target = k.wgid
    | .fence _ => false) ||
  (s.cores.any fun c => c.mq.any fun e => match e.work with | .team _ _ _ _ _ _ _ leader .. => leader = k | _ => false)

/-! ### Dependency maps (R106, R116) -/

/-- Indices of a coordinate's window: the first and how many, clipped to n. -/
def window (c half n : Nat) : Nat × Nat := (c - half, min n (c + half + 1) - (c - half))

/-- The producers that a consumer workgroup needs, as windows in x, y and z (R116). -/
def LaunchRecord.windows (r : LaunchRecord) (wgid : Nat) : (Nat × Nat) × (Nat × Nat) × (Nat × Nat) :=
  let x := wgid % r.gx
  let y := wgid / r.gx % r.gy
  let z := wgid / (r.gx * r.gy)
  let all (n : Nat) : Nat × Nat := (0, n)
  match r.depfn with
  | 0 => ((0, 0), (0, 0), (0, 0))
  | 1 => (window x 0 r.pgx, window y 0 r.pgy, window z 0 r.pgz)
  | 2 => (all r.pgx, window y r.deph r.pgy, window z 0 r.pgz)
  | 3 => (window x r.depw r.pgx, all r.pgy, window z 0 r.pgz)
  | 4 => (window x r.depw r.pgx, window y r.deph r.pgy, window z 0 r.pgz)
  | _ => (all r.pgx, all r.pgy, all r.pgz)

/-- Indices of the needed producers (R316). -/
def LaunchRecord.needed (r : LaunchRecord) (wgid : Nat) : List Nat :=
  let w := r.windows wgid
  (natRange w.2.2.1 w.2.2.2).flatMap fun z => (natRange w.2.1.1 w.2.1.2).flatMap fun y =>
    (natRange w.1.1 w.1.2).map fun x => x + r.pgx * (y + r.pgy * z)

/-- One above the highest needed index, 0 where none is needed. -/
def LaunchRecord.neededBelow (r : LaunchRecord) (wgid : Nat) : Nat :=
  let w := r.windows wgid
  if w.1.2 = 0 || w.2.1.2 = 0 || w.2.2.2 = 0 then 0
  else (w.1.1 + w.1.2 - 1) + r.pgx * ((w.2.1.1 + w.2.1.2 - 1) + r.pgy * (w.2.2.1 + w.2.2.2 - 1)) + 1

/-- Of two grids, whether the first goes first in order of admission. -/
def firstAdmitted : List Grid → Option Grid
  | [] => none
  | g :: gs => match firstAdmitted gs with
    | none => some g
    | some h => if h.order < g.order then some h else some g

/-- Every producer that a workgroup needs counts as placed (R106). -/
def State.producersPlaced (s : State) (g : Grid) (wgid : Nat) : Bool :=
  g.rec_.depfn = 0 ||
    match firstAdmitted (s.grids.filter fun p => p.key.ctx = g.key.ctx && p.rec_.compl = g.rec_.pred) with
    | none => true
    | some p => g.rec_.neededBelow wgid ≤ p.next

/-! ### Decisions (R102 to R109) -/

/-- The partition's cores from a logical core on, wrapping (R104). -/
def coresFrom (start : Nat) (l : List LCore) : List LCore := (l.filter fun x => start ≤ x.logical) ++ l.filter fun x => x.logical < start

/-- The first core that takes a grid's next workgroup, with the lane positions. -/
def State.firstFit (s : State) (c : Context) (g : Grid) : List LCore → Option (LCore × List Nat)
  | [] => none
  | x :: xs => match s.fits c g x with
    | some p => some (x, p)
    | none => s.firstFit c g xs

/-- The first n cores that each take one member of a gang (R108). -/
def State.gangFit (s : State) (c : Context) (g : Grid) : Nat → List LCore → Option (List (LCore × List Nat))
  | 0, _ => some []
  | _ + 1, [] => none
  | n + 1, x :: xs => match s.fits c g x with
    | some p => (s.gangFit c g n xs).map fun l => (x, p) :: l
    | none => s.gangFit c g (n + 1) xs

/-- Logical layers of a partition, ascending. -/
def layersOf (l : List LCore) : List Nat := (List.range 16).filter fun n => l.any fun x => x.layer = n

/-- Layers from one on, wrapping (R108). -/
def layersFrom (start : Nat) (l : List LCore) : List Nat :=
  ((layersOf l).filter fun n => start ≤ n) ++ (layersOf l).filter fun n => n < start

/-- The first layer of a list that takes the next gang of a grid, with the cores it takes there. -/
def State.gangLayer (s : State) (c : Context) (g : Grid) : List Nat → Option (Nat × List (LCore × List Nat))
  | [] => none
  | n :: ns => match s.gangFit c g g.rec_.gang (c.part.filter fun x => x.layer = n) with
    | some l => some (n, l)
    | none => s.gangLayer c g ns

/-- Places the members of a gang in ascending order. -/
def State.placeGang (s : State) (g : Grid) : Nat → List (LCore × List Nat) → State
  | _, [] => s
  | wgid, x :: xs => (s.placeOn g wgid x.1 x.2).placeGang g (wgid + 1) xs

/-- One decision for one grid: its next workgroup or gang placed, offered to a core (or the layer of one) alone where given; none
where nothing takes it (R103 to R109). -/
def State.tryGrid (s : State) (c : Context) (g : Grid) (offer : Option LCore) : Option State :=
  if g.count ≤ g.next || g.killed then none
  else if g.rec_.gang ≤ 1 then
    if !s.producersPlaced g g.next then none
    else
      let cores := match offer with
        | some x => [x]
        | none => coresFrom (match g.lastCore with | some n => n + 1 | none => 0) c.part
      (s.firstFit c g cores).map fun r => s.placeOn g g.next r.1 r.2
  else if !((natRange g.next g.rec_.gang).all fun w => s.producersPlaced g w) then none
  else
    let layers := match offer with
      | some x => [x.layer]
      | none => layersFrom (match g.lastLayer with | some n => n + 1 | none => 0) c.part
    (s.gangLayer c g layers).map fun r =>
      let s1 := (s.placeGang g g.next r.2).updGrid g.key fun g => { g with lastLayer := some r.1, waiting := none }
      s1.updCtx c.num fun c => { c with hold := match c.hold with | some h => if h.2 = g.key.grid then none else some h | none => none }

/-- Inserts a grid by descending PRIO, then by order of admission (R103). -/
def insertGrid (g : Grid) : List Grid → List Grid
  | [] => [g]
  | h :: hs =>
    if h.rec_.prio < g.rec_.prio || (h.rec_.prio = g.rec_.prio && g.order < h.order) then g :: h :: hs
    else h :: insertGrid g hs

/-- Admitted grids of a context in the order decisions go to them (R103). -/
def State.gridOrder (s : State) (ctx : Nat) : List Grid := (s.grids.filter fun g => g.key.ctx = ctx).foldr insertGrid []

/-- The first grid of a list whose next workgroup or gang fits. -/
def State.tryGrids (s : State) (c : Context) : List Grid → Option State
  | [] => none
  | g :: gs => match s.tryGrid c g none with
    | some t => some t
    | none => s.tryGrids c gs

/-! ### Gang patience and the layer hold (R111 to R115) -/

/-- Warps of the context resident on a layer of its partition. -/
def State.layerWarps (s : State) (c : Context) (layer : Nat) : Nat :=
  (s.warps.filter fun w => w.wg.ctx = c.num && c.part.any fun x => x.layer = layer && x.phys = w.core).length

/-- The least-loaded layer of a list, the lowest among equals (R112). -/
def State.leastLoaded (s : State) (c : Context) : List Nat → Option Nat
  | [] => none
  | n :: ns => match s.leastLoaded c ns with
    | none => some n
    | some m => if s.layerWarps c m < s.layerWarps c n then some m else some n

/-- The gang that is served first of those past their patience: the earliest wait, then PRIO, then order of admission (R114). -/
def firstPast : List Grid → Option Grid
  | [] => none
  | g :: gs =>
    let rest := firstPast gs
    match g.waiting with
    | none => rest
    | some w =>
      if w.count ≤ g.rec_.patience || g.killed then rest
      else match rest with
        | none => some g
        | some h =>
          let v := match h.waiting with | some v => v.since | none => 0
          if w.since < v || (w.since = v && (h.rec_.prio < g.rec_.prio || (h.rec_.prio = g.rec_.prio && g.order < h.order)))
          then some g else some h

/-- Holds a layer where none is held and a gang has passed its patience; where no layer can take the earliest such gang, none is held
(R112, R114; log 61). -/
def State.holdLayer (s : State) (ctx : Nat) : State :=
  match s.ctxAt ctx with
  | none => s
  | some c =>
    if c.hold.isSome then s
    else match firstPast (s.grids.filter fun g => g.key.ctx = ctx) with
      | none => s
      | some g =>
        let able := (layersOf c.part).filter fun n =>
          g.rec_.gang ≤ (c.part.filter fun x => x.layer = n && !x.removed).length
        match s.leastLoaded c able with
        | none => s
        | some n => s.updCtx ctx fun c => { c with hold := some (n, g.key.grid) }

/-- The grids that a decision comes to and can place nothing for: those before the first whose next workgroup or gang fits (R103). -/
def State.passedOver (s : State) (c : Context) (order : List Grid) : List GridKey :=
  (order.takeWhile fun g => (s.tryGrid c g none).isNone).map (·.key)

/-- Gangs of grids that a decision found no layer for begin to wait, all at that decision (R111, R114). -/
def State.startWaits (s : State) (found : List GridKey) : State :=
  let begins (g : Grid) : Bool := found.contains g.key && 1 < g.rec_.gang && g.next < g.count && g.waiting.isNone && !g.killed
  if s.grids.any begins then
    { s with
      grids := s.grids.map fun (g : Grid) => if begins g then { g with waiting := some ⟨s.gangWaits, 0⟩ } else g
      gangWaits := s.gangWaits + 1 }
  else s

/-- The distributor decides until no admitted grid of a context can place its next workgroup, at most n times (R102). -/
def State.decideOn (ctx : Nat) : Nat → State → State
  | 0, s => s
  | n + 1, s =>
    match s.ctxAt ctx with
    | none => s
    | some c0 =>
      if c0.st ≠ .resident || s.quar then s
      else
        let s1 := s.holdLayer ctx
        let c := (s1.ctxAt ctx).getD c0
        let found := s1.passedOver c (s1.gridOrder ctx)
        match s1.tryGrids c (s1.gridOrder ctx) with
        | some t => State.decideOn ctx n (t.startWaits found)
        | none => s1.startWaits found

/-- No partition holds more workgroups than its cores hold warps (R97). -/
def decideMost : Nat := 192 * 24 + 1

/-- The distributor after an event (R102). -/
def State.distribute (s : State) (ctx : Nat) : State := State.decideOn ctx decideMost s

/-- The distributor after a workgroup of a grid has retired from a core: waits counted, a layer held, the refill offered, then
decisions as ever (R102, R105, R109, R111, R112). -/
def State.afterRetirement (s : State) (gk : GridKey) (core : Nat) : State :=
  let count (g : Grid) : Grid :=
    if g.key.ctx = gk.ctx then { g with waiting := g.waiting.map fun (w : GangWait) => { w with count := w.count + 1 } } else g
  match s.ctxAt gk.ctx with
  | none => s
  | some c0 =>
    if c0.st ≠ .resident || s.quar then s
    else
      let s1 := ({ s with grids := s.grids.map count } : State).holdLayer gk.ctx
      let c := (s1.ctxAt gk.ctx).getD c0
      let refill : Option State := match s1.gridAt gk, c.part.find? fun x => x.phys = core with
        | some g, some x => s1.tryGrid c g (some x)
        | _, _ => none
      (refill.getD s1).distribute gk.ctx

end Sys2Proof.Machine
end

