-- ==== Sys2Proof/Machine/Copy.lean ====
section
/-! DEFINITION. Request records and the copy engines: KICK with its checks, admission, chunks, fills and their check columns, the
inline reduce, dequantise-on-fill, and the queue-stream engine (R286 to R300, R322, R412). -/

namespace Sys2Proof.Machine

/-! ### Request records (R289 to R291) -/

/-- The fields of a request record (R289); resv is true where a reserved bit is set. -/
structure RawRec where
  op : Nat
  src : Nat
  dst : Nat
  rows : Nat
  rowb : Nat
  sstr : Int
  dstr : Int
  bar : Nat
  bv : Bool
  slot : Nat
  aux : Nat
  resv : Bool
  /-- every field but SRC and SSTR is zero, OP apart (R294) -/
  argOnly : Bool
  deriving DecidableEq, Repr

/-- Reads the 32 bytes of a record. -/
def readRec (m : List Host.Cell) (off : Nat) : RawRec :=
  let w0 := readLE m off 8
  let w1 := readLE m (off + 8) 8
  let w2 := readLE m (off + 16) 4
  let w5 := readLE m (off + 28) 4
  let op := w0 / 2 ^ 60
  let aux := w5 % 256
  ⟨op, w0 % 2 ^ 57, w1 % 2 ^ 57, w2 / 2 ^ 20 + 1, w2 % 2 ^ 20, sext32 (readLE m (off + 20) 4), sext32 (readLE m (off + 24) 4),
   w5 / 2 ^ 16, w5.testBit 15, w5 / 2 ^ 12 % 8, aux,
   w0 / 2 ^ 57 % 8 != 0 || w1 / 2 ^ 57 != 0 || w5 / 2 ^ 8 % 16 != 0 || (op != 7 && aux != 0),
   w1 == 0 && w2 == 0 && readLE m (off + 24) 4 == 0 && w5 == 0⟩

/-- Whether an OP is one a class accepts (R286, R290). -/
def opOfClass (cls op : Nat) : Bool :=
  match cls with
  | 0 => op < 4
  | 1 => op = 4 || op = 5
  | _ => op = 6 || op = 7

/-- The class of an OP (R290). -/
def classOfOp (op : Nat) : Nat := if op < 4 then 0 else if op < 6 then 1 else 2

/-- An OP that dequantises (R290). -/
def isDeq (op : Nat) : Bool := op = 2 || op = 3

/-- Destination bytes for each source byte (R290). -/
def widening (op : Nat) : Nat := if isDeq op then 4 else 1

def srcGlobal (op : Nat) : Bool := op = 0 || op = 2 || op = 3 || op = 4 || op = 6 || op = 7
def dstBay (op : Nat) : Bool := op = 4 || op = 5

/-- The bytes of a record (R290). -/
def RawRec.bytes (r : RawRec) : Nat := widening r.op * r.rowb * r.rows

/-- Every byte of every row lies in [0, limit) (R291). -/
def rowsInside (base : Nat) (stride : Int) (rows bytes limit : Nat) : Bool :=
  let last : Int := base + ((rows : Int) - 1) * stride
  (base + bytes ≤ limit) && (0 ≤ last) && (last + bytes ≤ (limit : Int))

/-- Elements of a block of a format slot (R66, R67). -/
def blockOf (w : Word) : Nat := match slotBlock w with | 1 => 16 | 2 => 32 | _ => 0

/-- The checks of R291 on a record, with the record after it in the batch. -/
def RawRec.bad (r : RawRec) (i : Iss) (cls : Nat) (next : Option RawRec) : Bool :=
  let scr := i.gr.rec_.scratch
  let sl := i.slot r.slot
  r.resv || !opOfClass cls r.op || r.rowb = 0 || r.rowb % 16 != 0 || r.src % 16 != 0 || r.dst % 16 != 0 ||
  r.sstr % 16 != 0 || r.dstr % 16 != 0 ||
  !rowsInside r.src r.sstr r.rows r.rowb (if srcGlobal r.op then 2 ^ 57 else scr) ||
  !rowsInside r.dst r.dstr r.rows (widening r.op * r.rowb)
    (if dstGlobal r.op then 2 ^ 57 else if dstBay r.op then i.gr.rec_.bays else scr) ||
  (r.bv && scr < 16 * r.bar + 16) ||
  2 ^ 20 < r.bytes || 4096 * i.wg.infltLimit.toNat < r.bytes ||
  (isDeq r.op && (slotFmt sl != (if r.op = 2 then 7 else 10) ||
    (match next with
     | some a => a.op != 15 || a.resv || !a.argOnly || a.src % 16 != 0 || a.sstr % 16 != 0 ||
        !rowsInside a.src a.sstr r.rows (2 * r.rowb / max 1 (blockOf sl)) (2 ^ 57)
     | none => true))) ||
  (r.op = 7 && 5 < r.aux) || (dstBay r.op && slotFmt sl = 1)

/-- A batch checked in order: an ARG record belongs to the record before it (R291, R294); what is to be queued, or none where a
record fails. -/
def batch (i : Iss) (cls : Nat) : List RawRec → Option (List (RawRec × Option RawRec))
  | [] => some []
  | r :: rs =>
    if r.bad i cls rs.head? then none
    else if isDeq r.op then
      match rs with
      | a :: rest => (batch i cls rest).map fun l => (r, some a) :: l
      | [] => none
    else (batch i cls rs).map fun l => (r, none) :: l

/-- A record as it is queued (R295). -/
def RawRec.queued (r : RawRec) (arg : Option RawRec) (id : Nat) (w : WarpKey) (wg : WgKey) (fences : List Nat) : CopyRec where
  id := id
  warp := w
  wg := wg
  op := r.op
  src := r.src
  dst := r.dst
  rows := r.rows
  rowb := r.rowb
  sstr := r.sstr
  dstr := r.dstr
  bar := if r.bv then some (16 * r.bar) else none
  slot := r.slot
  aux := r.aux
  arg := arg.map fun a => (a.src, a.sstr)
  admitted := false
  row := 0
  ofs := 0
  open_ := 0
  suspended := none
  bayTiles := []
  fences := fences

/-- The bytes of a record (R290). -/
def CopyRec.bytes (r : CopyRec) : Nat := widening r.op * r.rowb * r.rows

/-- Entries that a record takes of its core's request queue (R294, R295). -/
def CopyRec.entries (r : CopyRec) : Nat := if r.arg.isSome then 2 else 1

/-- Entries in use of a core's request queue (R295). -/
def State.queueUsed (s : State) (core : Nat) : Nat :=
  (s.records.map fun r => if r.warp.core = core && !r.admitted then r.entries else 0).sum

/-- Queues a checked batch; a record that counts down waits for the releases before it too (R271, R295, R302). -/
def State.queueBatch (s : State) (w : WarpKey) (wg : WgKey) (fences holds : List Nat) : List (RawRec × Option RawRec) → State
  | [] => s
  | r :: rs => ({ s.fresh with records := s.records ++ [r.1.queued r.2 s.nextId w wg (if r.1.bv then fences ++ holds else fences)] } :
      State).queueBatch w wg fences holds rs

/-- KICK (R295); the records' bytes are taken as they stand (R413; log 73). -/
def execKick (f : XForm) (s : State) : Out :=
  operate s (shapeAsync 0x00 f) f noExtra fun o =>
    let n := o.countIB
    let base := o.rdN f.a warpLane 32
    if n = 0 || 64 < n then raise s o.i 0x0E0
    else if base % 32 != 0 then raiseAt s o.i 0x090 base
    else if o.i.gr.rec_.scratch < base + 32 * n then raiseAt s o.i 0x091 base
    else if s.scratchDue o.i.w.key then .next s
    else match batch o.i (f.fld 1 0) ((List.range n).map fun j => readRec o.i.wg.scratch (base + 32 * j)) with
      | none => raise s o.i 0x0E0
      | some l =>
        if 256 < s.queueUsed o.i.w.core + n then .next (s.block o.i (.requestRoom n))
        else o.complete (s.queueBatch o.i.w.key o.i.w.wg (s.openFences o.i.w.key 1) (s.releaseHolds o.i.w.key) l) f.len none id

/-- INFLT (R299): the warp's records queued or in flight, or their bytes. -/
def execInflt (f : XForm) (s : State) : Out :=
  operate s (shapeAsync 0x01 f) f noExtra fun o =>
    let rs := s.records.filter fun r => r.warp = o.i.w.key
    let v := if f.bit 0 then min (rs.map CopyRec.bytes).sum (2 ^ 32 - 1) else (rs.map CopyRec.entries).sum
    o.complete s f.len (some (o.lanes.map fun l => (l, BitVec.ofNat 64 v))) id

/-- Nothing of a warp's copies is outstanding: no record, no pushed group still to be written (R300). -/
def State.drained (s : State) (w : Warp) : Bool :=
  !(s.records.any fun r => r.warp = w.key) && !(s.storeGroups.any fun g => g.warp = w.key) &&
  !(w.q.any fun q => q.2.store && !q.2.buf.isEmpty)

/-- DRAIN (R300). -/
def execDrain (f : XForm) (s : State) : Out :=
  operate s (shapeAsync 0x02 f) f noExtra fun o => waitOn s o.i f (s.drained o.i.w) .drain

/-! ### Admission (R296) -/

/-- Bytes in flight of the records that a test picks. -/
def State.inFlight (s : State) (p : CopyRec → Bool) : Nat :=
  (s.records.map fun r => if r.admitted && p r then r.bytes else 0).sum

/-- Whether the request engine may admit a record: the ones before it of its workgroup are admitted and the limits hold; none of a
context that is being switched out or killed (R296, R423). -/
def State.mayAdmit (s : State) (r : CopyRec) : Bool :=
  let lim := match s.wgAt r.wg with | some g => 4096 * g.infltLimit.toNat | none => 2 ^ 20
  let mine := s.inFlight fun x => x.wg = r.wg
  let alive := match s.wgAt r.wg with | some g => g.ended = none || g.ended = some .exit | none => false
  alive && !r.admitted && !s.stopping r.wg.ctx && s.inFlight (fun x => x.warp.core = r.warp.core) + r.bytes ≤ 2 ^ 20 &&
  (mine + r.bytes ≤ lim || (lim < r.bytes && mine = 0)) &&
  (s.records.takeWhile fun x => x.id ≠ r.id).all fun x => x.admitted || x.wg ≠ r.wg

/-- Changes a record. -/
def State.updRec (s : State) (id : Nat) (g : CopyRec → CopyRec) : State :=
  { s with records := s.records.map fun r => if r.id = id then g r else r }

/-- RECORD_ADMISSION (R296): the first record of a core's queue that may be admitted is. -/
def execRecordAdmission (core : Nat) (s : State) : Out :=
  match s.records.find? fun r => r.warp.core = core && s.mayAdmit r with
  | none => .refused (.notEnabled "RECORD_ADMISSION")
  | some r => .next (s.updRec r.id fun r => { r with admitted := true })

/-! ### Chunks (R287, R297, R298) -/

/-- A record whose next chunk the engine may issue. -/
def State.chunkReady (s : State) (r : CopyRec) : Bool :=
  r.admitted && r.row < r.rows && r.suspended.isNone && !(r.fences.any s.fenceIdOpen)

/-- Key of an engine's round-robin position. -/
def turnKey (chiplet engine : Nat) : Nat := 3 * chiplet + engine
/-- Key of the position within a core of a class. -/
def wgTurnKey (core engine : Nat) : Nat := 1000 + 3 * core + engine
/-- A workgroup's place in the round-robin order (R287; log 66). -/
def wgCode (k : WgKey) : Nat := (k.ctx * 2 ^ 64 + k.grid) * 2 ^ 32 + k.wgid

/-- The next of some numbers after a position, wrapping: positions are one above the last served (R287). -/
def nextTurn (pos : Nat) (l : List Nat) : Option Nat :=
  match (l.filter fun x => pos ≤ x).min? with
  | some x => some x
  | none => l.min?

/-- The record whose chunk the engine takes now, with the core and workgroup codes it serves (R287). -/
def State.engineTurn (s : State) (chiplet engine : Nat) : Option CopyRec :=
  let rs := s.records.filter fun r => r.warp.core / 24 = chiplet && classOfOp r.op = engine && s.chunkReady r
  match nextTurn (SMap.get 0 s.turns (turnKey chiplet engine)) (rs.map fun r => r.warp.core) with
  | none => none
  | some core =>
    let cs := rs.filter fun r => r.warp.core = core
    match nextTurn (SMap.get 0 s.turns (wgTurnKey core engine)) (cs.map fun r => wgCode r.wg) with
    | none => none
    | some w => cs.find? fun r => wgCode r.wg = w

/-- Bytes left of a page of 64 KiB from an address. -/
def pageRest (a : Nat) : Nat := 65536 - a % 65536

/-- Source and destination of a record's next chunk, and its source bytes: at most 4 KiB, within one row and within one page of
64 KiB on each global side (R287; log 13). -/
def CopyRec.nextChunk (r : CopyRec) : Nat × Nat × Nat :=
  let k := widening r.op
  let src := ((r.src : Int) + (r.row : Int) * r.sstr).toNat + r.ofs
  let dst := ((r.dst : Int) + (r.row : Int) * r.dstr).toNat + k * r.ofs
  let n := min (4096 / k) (r.rowb - r.ofs)
  let n := if srcGlobal r.op then min n (pageRest src) else n
  let n := if dstGlobal r.op then min n (pageRest dst) else n
  (src, dst, n)

/-- Virtual addresses of the scale bytes of a chunk of a dequantising record (R294). -/
def CopyRec.scaleVas (r : CopyRec) (slot : Word) (n : Nat) : List Nat :=
  match r.arg with
  | none => []
  | some (a, st) =>
    let b := max 1 (blockOf slot)
    let row := ((a : Int) + (r.row : Int) * st).toNat
    (natRange (2 * r.ofs / b) ((2 * (r.ofs + n) + b - 1) / b - 2 * r.ofs / b)).map fun g => row + g

/-- A record's slot word. -/
def State.slotOf (s : State) (k : WgKey) (n : Nat) : Word :=
  match s.gridAt (gridOfWg k) with
  | some g => g.rec_.slots.getD n 0
  | none => 0

/-- A chunk's translations: physical source, destination and scales, or the fault of the first that fails (R298). -/
inductive ChunkTrans where
  | ok (src dst : Nat × BitVec 64) (scales : List (Nat × KeyNo))
  | fail (c : Cause) (va : Nat) (acc : Acc)
  | noMem (pa : Nat)
  deriving DecidableEq, Repr

/-- Translates one address if its side is global. -/
def State.sidePa (s : State) (glob : Bool) (site ctx va : Nat) (p : Perm) : Trans := if glob then s.translate site ctx va p else .ok va 0

def State.chunkTrans (s : State) (r : CopyRec) (src dst : Nat) (scaleVas : List Nat) : ChunkTrans :=
  match s.sidePa (srcGlobal r.op) (engineSite r.warp.core) r.wg.ctx src .read with
  | .noMem a => .noMem a
  | .fail c => .fail c src .copySrc
  | .ok ps es =>
    match s.translateAll (engineSite r.warp.core) r.wg.ctx .read scaleVas with
    | .noMem a => .noMem a
    | .fail c va => .fail c va .copySrc
    | .ok sc =>
      match s.sidePa (dstGlobal r.op) (engineSite r.warp.core) r.wg.ctx dst (if r.op = 7 then .both else .write) with
      | .noMem a => .noMem a
      | .fail c => .fail c dst .copyDst
      | .ok pd ed => .ok (ps, es) (pd, ed) (sc.map fun x => (x.1, keyOf r.wg.ctx x.2))

/-- A held fault of a copy chunk, as it is told to the hosts (R298, R497). -/
def State.postChunkFault (s : State) (r : CopyRec) (c : Cause) (va acc : Nat) : State :=
  let num := match s.warpAt r.warp with | some w => w.num | none => 0
  s.postEvent { EventRec.blank with
    evt := 2, cause := c, ctx := r.wg.ctx, wgid := r.wg.wgid, acc := acc, warp := num, addr := va, gridno := r.wg.grid }

/-- CHUNK_ISSUE (R287, R298): an engine takes its turn with one chunk, or suspends the record at it. -/
def execChunkIssue (chiplet engine : Nat) (s : State) : Out :=
  match s.engineTurn chiplet engine with
  | none => .refused (.notEnabled "CHUNK_ISSUE")
  | some r =>
    let (src, dst, n) := r.nextChunk
    let vas := r.scaleVas (s.slotOf r.wg r.slot) n
    let turns := SMap.put (SMap.put s.turns (turnKey chiplet engine) (r.warp.core + 1)) (wgTurnKey r.warp.core engine) (wgCode r.wg + 1)
    let s1 : State := { s with turns := turns }
    let all := (if srcGlobal r.op then [src] else []) ++ vas ++ (if dstGlobal r.op then [dst] else [])
    let s2 := s1.fillAll (engineSite r.warp.core) r.wg.ctx all
    if all.any fun va => s.walkersBusy (engineSite r.warp.core) r.wg.ctx va then .refused (.notEnabled "CHUNK_ISSUE")
    else match s1.chunkTrans r src dst vas with
    | .noMem pa => .fault (.noSuchMemory pa)
    | .fail c va acc => .next ((s2.updRec r.id fun r => { r with suspended := some (c, va, acc.code) }).postChunkFault r c va acc.code)
    | .ok ps pd scs =>
      let whole := r.ofs + n = r.rowb
      let s3 := s2.updRec r.id fun r =>
        { r with row := if whole then r.row + 1 else r.row, ofs := if whole then 0 else r.ofs + n, open_ := r.open_ + 1 }
      .next { s3.fresh with chunks := s3.chunks ++ [⟨s3.nextId, r.id, ps.1, pd.1, n, 2 * r.ofs, dst, scs, keyOf r.wg.ctx ps.2, keyOf r.wg.ctx pd.2⟩] }

/-! ### Bytes moved (R292 to R294, R412) -/

/-- A byte of a workgroup's bay; one never written is unpredictable (R100, R321). -/
def Workgroup.bayByte (g : Workgroup) (a : Nat) : Byte :=
  match SMap.find g.bay a with
  | some b => b
  | none => leftValue g.bayPool (SMap.get g.baySeed g.bayAlt (a / 65536) + a)

/-- Writes bytes to a bay. -/
def Workgroup.bayWrite (g : Workgroup) (off : Nat) (bs : List Byte) : Workgroup :=
  { g with
    bay := (bs.foldl (fun (x : List Host.Cell × Nat) b => (SMap.put x.1 x.2 b, x.2 + 1)) (g.bay, off)).1
    bayPoison := clearPoison 32 g.bayPoison off bs.length }

/-- Source bytes of a chunk. -/
def State.chunkBytes (s : State) (r : CopyRec) (c : Chunk) : List Byte :=
  if srcGlobal r.op then readBytes (s.seen c.srcKey c.src c.bytes) c.src c.bytes
  else match s.wgAt r.wg with
    | some g => readBytes g.scratch c.src c.bytes
    | none => []

/-- Source offsets of a chunk, in steps of 4, that read poison. -/
def State.chunkPoison (s : State) (r : CopyRec) (c : Chunk) : List Nat :=
  let offs := (List.range (c.bytes / 4)).map (4 * ·)
  if srcGlobal r.op then (if s.memPoison.isEmpty then [] else offs.filter fun o => s.memPoison.contains ((c.src + o) / 32))
  else match s.wgAt r.wg with
    | some g => offs.filter fun o => g.scratchPoison.contains ((c.src + o) / 4)
    | none => []

/-- Whether an address lies in a row of a record's source (R292). -/
def CopyRec.inSource (r : CopyRec) (va : Nat) : Bool :=
  (List.range r.rows).any fun i =>
    let b := (r.src : Int) + (i : Int) * r.sstr
    b ≤ (va : Int) && (va : Int) < b + r.rowb

/-- Bytes whose destination overlaps the record's source are free values, granule by granule of 16 bytes (R292, log 2). -/
def State.overlapped (s : State) (r : CopyRec) (c : Chunk) (bs : List Byte) : List Byte :=
  if r.op = 6 || r.op = 7 then
    (bs.zipIdx).map fun b => if r.inSource (c.dstVa + b.2 / 16 * 16) then (s.freeVal b.2).setWidth 8 else b.1
  else bs

/-- Where a record writes; none for a bay. -/
def CopyRec.dstSpace (r : CopyRec) : Option Space := if dstGlobal r.op then some none else if dstScratch r.op then some (some r.wg) else none

/-- The entry of a chunk that is performed: its warp's writes on the CP path. -/
def CopyRec.spent (r : CopyRec) (c : Chunk) (sp : Space) (n : Nat) : Spent := ⟨r.rival, r.warp, r.wg, BitVec.allOnes 64, r.id, sp, c.dst, n⟩

/-- A chunk's write takes its free values, and is noted for operations of other paths (R192, R269). -/
def State.spendChunk (s : State) (r : CopyRec) (c : Chunk) (n : Nat) : State :=
  match r.dstSpace with
  | some sp => ((((s.spoil r.rival sp c.dst n).unspoil c.id).useFree (2 * n)).spend (r.spent c sp n))
  | none => s

/-- Words that a chunk writes and that an atomic of another path meets are free values (R192, R269). -/
def State.racedBytes (s : State) (r : CopyRec) (c : Chunk) (bs : List Byte) : List Byte :=
  match r.dstSpace with
  | some sp => s.mixed r.rival c.id sp c.dst bs.length bs
  | none => bs

/-- The inline reduce of two words (R293). -/
def reduceWord (aux d v : Nat) : Nat :=
  match aux with
  | 0 => (FOp.add.elem false 1 fp32 d v).code
  | 1 => add2 bf16 d v
  | 2 => (d + v) % 2 ^ 32
  | 3 => (FOp.min.elem false 1 fp32 d v).code
  | 4 => (FOp.max.elem false 1 fp32 d v).code
  | _ => Nat.xor d v

/-- Elements of 4 bytes combined pairwise (R293). -/
def reduceBytes (aux : Nat) (ds ss : List Byte) : List Byte :=
  (List.range (ss.length / 4)).flatMap fun i =>
    toBytes (reduceWord aux (ofBytes ((ds.drop (4 * i)).take 4)) (ofBytes ((ss.drop (4 * i)).take 4))) 4

/-- The tensor scale that a slot names, read from a constant register (R72). -/
def State.tensorScale (s : State) (k : WgKey) (slot : Word) : FVal :=
  match slotTscale slot with
  | none => .fin false 1 0 false
  | some n => match s.gridAt (gridOfWg k) with
    | some g => decodeFmt fp32 ((g.rec_.consts.getD n 0).toNat % 2 ^ 32)
    | none => .fin false 1 0 false

/-- A chunk of elements dequantised to BF16 (R89, R294). -/
def State.dequantBytes (s : State) (r : CopyRec) (c : Chunk) (bs : List Byte) : List Byte :=
  let sl := s.slotOf r.wg r.slot
  let t := s.tensorScale r.wg sl
  let b := max 1 (blockOf sl)
  (List.range (2 * bs.length)).flatMap fun k =>
    let byte := (bs.getD (k / 2) 0).toNat
    let code := if k % 2 = 0 then byte % 16 else byte / 16
    let at_ := c.scales.getD ((c.elem + k) / b - c.elem / b) (0, ⟨0, 0⟩)
    let sc := (byteAt (s.seen at_.2 at_.1 1) at_.1).toNat
    toBytes (dequantBf16 (elemVal (slotFmt sl) 0 code) (scaleVal (slotBscale sl) sc) t) 2

/-- Source offsets of a dequantising chunk that poison their words: poisoned bytes, and bytes under a poisoned scale (R412). -/
def State.dequantPoison (s : State) (r : CopyRec) (c : Chunk) : List Nat :=
  let b := max 1 (blockOf (s.slotOf r.wg r.slot))
  if s.memPoison.isEmpty then []
  else (List.range c.bytes).filter fun o =>
    s.memPoison.contains ((c.src + o) / 32) ||
    s.memPoison.contains ((c.scales.getD ((c.elem + 2 * o) / b - c.elem / b) (0, ⟨0, 0⟩)).1 / 32)

/-- Poisons the units of the destination that offsets reach (R412). -/
def State.poisonDst (s : State) (r : CopyRec) (dst : Nat) (offs : List Nat) : State :=
  if offs.isEmpty then s
  else if dstGlobal r.op then s.poisonMem (offs.map fun o => (dst + o) / 32)
  else if dstBay r.op then s.poisonBay r.wg (offs.map fun o => (dst + o) / 32)
  else s.updWg r.wg fun g => { g with scratchPoison := addPoison g.scratchPoison (offs.map fun o => (dst + o) / 4).eraseDups }

/-- A chunk's destination bytes are performed. -/
def State.moveChunk (s : State) (r : CopyRec) (c : Chunk) : State :=
  let raw := s.chunkBytes r c
  let s := if srcGlobal r.op then c.scales.foldl (fun t a => t.useLines a.1 1) (s.useLines c.src c.bytes) else s
  let src := s.chunkPoison r c
  let old := if r.op = 7 then ((List.range (c.bytes / 4)).map (4 * ·)).filter fun o => s.memPoison.contains ((c.dst + o) / 32) else []
  let bs := if isDeq r.op then s.dequantBytes r c raw
    else if r.op = 7 then reduceBytes r.aux (readBytes (s.seen c.dstKey c.dst c.bytes) c.dst c.bytes) raw
    else raw
  let bad := if isDeq r.op then (s.dequantPoison r c).map (4 * ·) else src ++ old
  let bs := s.overlapped r c (s.racedBytes r c bs)
  let s := s.spendChunk r c bs.length
  let s1 := if dstGlobal r.op then s.storeG c.dstKey c.dst bs
    else if dstBay r.op then s.updWg r.wg fun g => g.bayWrite c.dst bs
    else s.storeS r.wg c.dst bs
  s1.poisonDst r c.dst bad

/-! ### Check columns (R322) -/

/-- An exact sum of dyadic numbers. -/
def Dyadic.add (a b : Dyadic) : Dyadic :=
  let e := min a.e b.e
  ⟨a.m * 2 ^ (a.e - e).toNat + b.m * 2 ^ (b.e - e).toNat, if a.m = 0 ∧ b.m = 0 then 0 else e⟩

/-- A finite value as a dyadic number; none for an infinity or a NaN. -/
def FVal.dyadic : FVal → Option Dyadic
  | .fin neg m e _ => some ⟨signed neg m, e⟩
  | _ => none

def Dyadic.abs (a : Dyadic) : Dyadic := ⟨a.m.natAbs, a.e⟩

/-- The product. -/
def Dyadic.mul (a b : Dyadic) : Dyadic := ⟨a.m * b.m, a.e + b.e⟩

/-- No quantity. -/
def Dyadic.zero : Dyadic := ⟨0, 0⟩

/-- Elements of a row of 64 bytes: K of R69. -/
def depthOf (fmt : Nat) : Nat := 512 / max 1 (fmtBits fmt)

/-- Element k of the 64 bytes that a function gives (R66). -/
def elemCode (fmt k : Nat) (byte : Nat → Byte) : Nat :=
  match fmtBits fmt with
  | 4 => (byte (k / 2)).toNat / (if k % 2 = 0 then 1 else 16) % 16
  | 8 => (byte k).toNat
  | _ => (byte (2 * k)).toNat + 256 * (byte (2 * k + 1)).toNat

/-- The check column of the B tile at a bay offset under a slot (R322). -/
def Workgroup.checkColumn (g : Workgroup) (tile slot fmt : Nat) : CheckColumn :=
  let col (k : Nat) : List FVal := (List.range 128).map fun j =>
    elemVal fmt 0 (elemCode fmt k fun b => g.bayByte (8192 * tile + 64 * j + b))
  let sums := (List.range (depthOf fmt)).map fun k =>
    (k, (col k).foldl (fun (a : Option (Dyadic × Dyadic)) x => match a, x.dyadic with
      | some (p, q), some d => some (p.add d, q.add d.abs)
      | _, _ => none) (some (Dyadic.zero, Dyadic.zero)))
  ⟨tile, slot, sums.filterMap fun x => x.2.map fun y => (x.1, y.1), sums.filterMap fun x => x.2.map fun y => (x.1, y.2),
   sums.filterMap fun x => if x.2.isNone then some x.1 else none⟩

/-- The bay records the check columns of the tiles that a record wrote: none under an empty slot or with poison in the tile
(R322, R412). -/
def Workgroup.recordChecks (g : Workgroup) (slot fmt : Nat) (tiles : List Nat) : Workgroup :=
  { g with checks := (g.checks.filter fun c => !tiles.contains c.tile) ++
      (if fmt = 0 then []
       else (tiles.filter fun t => !(g.bayPoison.any fun p => p / 256 = t)).map fun t => g.checkColumn t slot fmt) }

/-- A record is finished with. -/
def State.removeRec (s : State) (id : Nat) : State := { s with records := s.records.filter fun r => r.id ≠ id }

/-- The count-down of a record orders its bytes before what follows it (R266, R297). -/
def State.counted (s : State) (r : CopyRec) : State :=
  if r.bar.isSome then { s with spent := s.spent.filter fun e => !(e.id = r.id && e.kind == r.rival && e.wg = r.wg) } else s

/-- CHUNK_PERFORMED (R297): the bytes are performed and counted down; the chunk that completes a fill counts after its check
columns are recorded; then the record completes. A chunk of a record that was cancelled moves nothing (R298). -/
def execChunkPerformed (id : Nat) (s : State) : Out :=
  match s.chunks.find? fun c => c.id = id with
  | none => .refused (.notEnabled "CHUNK_PERFORMED")
  | some c =>
    let s0 : State := { s with chunks := s.chunks.filter fun x => x.id ≠ id }
    match s.records.find? fun r => r.id = c.rec_ with
    | none => .next s0
    | some r =>
      if (srcGlobal r.op && (s.paPending c.src c.bytes || c.scales.any fun x => s.paPending x.1 1)) || (dstGlobal r.op && s.paPending c.dst c.bytes) then
        .refused (.notEnabled "CHUNK_PERFORMED")
      else
        let s1 := s0.moveChunk r c
        let n := widening r.op * c.bytes
        let tiles := if dstBay r.op then natRange (c.dst / 8192) ((c.dst + n - 1) / 8192 - c.dst / 8192 + 1) else []
        let r' : CopyRec := { r with open_ := r.open_ - 1, bayTiles := (r.bayTiles ++ tiles).eraseDups }
        let last := r'.open_ = 0 && r'.row = r'.rows
        let s2 := if last && dstBay r.op then
            s1.updWg r.wg fun g => g.recordChecks r.slot (slotFmt (s.slotOf r.wg r.slot)) r'.bayTiles
          else s1
        let s3 := match r.bar with
          | some b => s2.countDown (.own r.wg b) n
          | none => s2
        .next (if last then ((s3.counted r).removeRec r.id).settle else s3.updRec r.id fun _ => r')

/-! ### The QS engine (R197 to R201, R288) -/

/-- The warp and the stream of a queue register. -/
def State.streamAt (s : State) (core warp q : Nat) : Option (Warp × Stream) :=
  match s.warpAt ⟨core, warp⟩ with
  | none => none
  | some w => (w.q.find q).map fun t => (w, t)

/-- A group of a stream with its elements read at their home slices (R288, R412). -/
def State.readGroup (s : State) (ctx : Nat) (t : Stream) (index : Nat) (pas : List (Nat × BitVec 64)) : QGroup :=
  let e := if t.wide then 8 else 4
  ⟨0, index, (pas.zipIdx).foldl (fun m p => SMap.set 0 m p.2 (BitVec.ofNat 64 (readLE (s.seen (keyOf ctx p.1.2) p.1.1 e) p.1.1 e))) [],
   maskOf ((pas.zipIdx).filterMap fun p => if s.poisonedAt p.1.1 e then some p.2 else none), none⟩

/-- What holds the next group of a stream back: open fences and commit operations of its warp that were issued before the pop or push
(R266, R271). -/
def State.groupHeld (s : State) (w : Warp) (id : Nat) : Bool := (s.openFences w.key 1).any fun x => x < id

/-- The lines that elements are read from are used (R365). -/
def State.useElems (s : State) (n : Nat) (pas : List (Nat × BitVec 64)) : State := pas.foldl (fun t p => t.useLines p.1 n) s

/-- A stream that can take a turn: a load group has been asked for, or a pushed group is not yet taken (R288, R425). -/
def State.qsAble (s : State) (w : Warp) (t : Stream) : Bool :=
  !s.isSaved w.wg &&
  (if t.store then match t.buf with
    | [] => false
    | g :: _ => (!w.alive && g.fault.isSome) || (g.fault.isNone && !s.groupHeld w g.id)
  else match t.asks with
    | [] => false
    | id :: _ => w.alive && !s.groupHeld w id)

/-- Key of the round-robin position of a chiplet's QS engine. -/
def qsTurnKey (chiplet : Nat) : Nat := 10000 + chiplet
/-- A stream's place in the round-robin order (R288; log 66). -/
def qsCode (core warp q : Nat) : Nat := 96 * core + 4 * warp + q

/-- The stream whose turn it is on a chiplet's QS engine (R288). -/
def State.qsNext (s : State) (chiplet : Nat) : Option Nat :=
  nextTurn (SMap.get 0 s.turns (qsTurnKey chiplet))
    ((s.warps.filter fun w => w.core / 24 = chiplet).flatMap fun w =>
      (w.q.filter fun q => s.qsAble w q.2).map fun q => qsCode w.core w.idx q.1)

/-- A turn with one group of a stream that can take it (R200, R288). -/
def State.qsGroup (s : State) (w : Warp) (q : Nat) (t : Stream) : Out :=
  let put (s : State) (t : Stream) : State := s.updWarp w.key fun w => { w with q := w.q.put q t }
  if t.store then
    match t.buf with
    | [] => .refused (.notEnabled "QS_TURN")
    | g :: gs =>
      let r := s.takeGroup w t (some q) g []
      match r.2 with
      | none => .next (put r.1 { t with buf := gs })
      | some f =>
        if w.alive then .next (put r.1 { t with buf := { g with fault := some f } :: gs })
        else .next ((put r.1 { t with buf := gs }).postEvent
          { EventRec.ofWarp 5 f.1 w 0 with addr := f.2, acc := Acc.element.code })
  else
    let vas := (List.range w.width).map fun l => t.elemAddr t.next l
    let e := if t.wide then 8 else 4
    let read (s : State) (g : QGroup) : State := put s { t with next := t.next + 1, reading := t.reading ++ [g], asks := t.asks.drop 1 }
    match s.translateAll (engineSite w.core) w.wg.ctx .read vas with
    | .noMem pa => .fault (.noSuchMemory pa)
    | .fail c va => .next (read (s.fillAll (engineSite w.core) w.wg.ctx vas) ⟨0, t.next, [], 0, some (c, va)⟩)
    | .ok pas =>
      if pas.any fun p => s.paPending p.1 e then .refused (.notEnabled "QS_TURN")
      else
        let u := s.fillAll (engineSite w.core) w.wg.ctx vas
        .next ((read (u.useElems e pas) (u.readGroup w.wg.ctx t t.next pas)).settle)

/-- The addresses of the elements that a stream's next turn reads or writes. -/
def Stream.turnVas (t : Stream) (w : Warp) : List Nat :=
  let index := if t.store then match t.buf with | g :: _ => g.index | [] => 0 else t.next
  (List.range w.width).map fun l => t.elemAddr index l

/-- QS_TURN (R288): the stream whose turn it is has one group read, or one pushed group taken to be written. -/
def execQsTurn (core warp q : Nat) (s : State) : Out :=
  match s.streamAt core warp q with
  | none => .refused (.notEnabled "QS_TURN")
  | some (w, t) =>
    if s.qsNext (core / 24) ≠ some (qsCode core warp q) || (t.turnVas w).any (fun va => s.walkersBusy (engineSite core) w.wg.ctx va) then
      .refused (.notEnabled "QS_TURN")
    else ({ s with turns := s.turns.put (qsTurnKey (core / 24)) (qsCode core warp q + 1) } : State).qsGroup w q t

/-- GROUP_ARRIVAL (R288): the oldest group being read is in queue storage. -/
def execGroupArrival (core warp q : Nat) (s : State) : Out :=
  match s.streamAt core warp q with
  | none => .refused (.notEnabled "GROUP_ARRIVAL")
  | some (w, t) =>
    match t.reading with
    | [] => .refused (.notEnabled "GROUP_ARRIVAL")
    | g :: gs =>
      .next (s.updWarp w.key fun w => { w with q := w.q.put q { t with reading := gs, buf := t.buf ++ [g] } })

/-- One element of a store group is written, unpredictable where an LSU atomic meets it (R192, R201, R412). -/
def State.storeElem (s : State) (g : StoreGroup) (e : Nat × Nat × DWord × KeyNo) : State :=
  let n := if g.wide then 8 else 4
  let bs := s.mixed .plain g.id none e.2.1 0 (toBytes e.2.2.1.toNat n)
  let done : Spent := ⟨.plain, g.warp, g.wg, BitVec.allOnes 64, g.id, none, e.2.1, n⟩
  let s1 := (((s.spoil .plain none e.2.1 n).useFree n).spend done).storeG e.2.2.2 e.2.1 bs
  if g.poison.getLsbD e.1 then s1.poisonMem (granulesOf e.2.1 n) else s1

/-- A group may be written: the earlier groups of its stream are, and nothing holds it (R201, R262, R364). -/
def State.groupMayWrite (s : State) (g : StoreGroup) : Bool :=
  let earlier := (s.storeGroups.takeWhile fun x => x.id ≠ g.id).any fun x => x.warp = g.warp && x.queue = g.queue
  !(earlier || s.isSaved g.wg || (g.fences.any s.fenceIdOpen) || (g.elems.any fun e => s.paPending e.2.1 8))

/-- STORE_GROUP_WRITTEN (R201): a group is performed at the L2 slices; groups of one stream go in order (R262). -/
def execStoreGroupWritten (id : Nat) (s : State) : Out :=
  match s.storeGroups.find? fun g => g.id = id with
  | none => .refused (.notEnabled "STORE_GROUP_WRITTEN")
  | some g =>
    if !s.groupMayWrite g then
      .refused (.notEnabled "STORE_GROUP_WRITTEN")
    else .next (({ g.elems.foldl (fun t e => t.storeElem g e) s with
      storeGroups := s.storeGroups.filter fun x => x.id ≠ id } : State).unspoil id).settle

/-! ### Granules of one write (R483) -/

/-- A store's lanes of one granule reach their ordering point, its others later (R483; log 56). -/
def State.storePortion (s : State) (a : Access) (granule : Nat) : Out :=
  let now := a.lanes.filter fun x => x.pa / 16 = granule
  let rest := a.lanes.filter fun x => x.pa / 16 ≠ granule
  if a.glob && a.kind == .store && a.commit.isNone && !now.isEmpty && !rest.isEmpty && s.mayPerform a then
    .next ((s.setAccess { a with lanes := rest }).performLanes { a with lanes := now } now).1
  else .refused (.notEnabled "ACCESS_PERFORMED")

/-- A chunk that copies bytes as they are becomes two at the start of a granule of its destination (R483; log 56). -/
def State.chunkPortion (s : State) (r : CopyRec) (c : Chunk) (granule : Nat) : Out :=
  let n := 16 * granule - c.dst
  if dstGlobal r.op && !isDeq r.op && c.dst < 16 * granule && n < c.bytes then
    let tail : Chunk := { c with id := s.nextId, src := c.src + n, dst := c.dst + n, bytes := c.bytes - n, dstVa := c.dstVa + n }
    .next (({ s.fresh with chunks := (s.chunks.map fun x => if x.id = c.id then { c with bytes := n } else x) ++ [tail] } : State).updRec r.id
      fun r => { r with open_ := r.open_ + 1 })
  else .refused (.notEnabled "CHUNK_PERFORMED")

/-- A store group's elements of one granule are written, its others later (R483; log 56). -/
def State.groupPortion (s : State) (g : StoreGroup) (granule : Nat) : Out :=
  let rest := g.elems.filter fun e => e.2.1 / 16 ≠ granule
  if rest.length < g.elems.length && !rest.isEmpty && s.groupMayWrite g then
    .next ((g.elems.filter fun e => e.2.1 / 16 = granule).foldl (fun t e => t.storeElem g e)
      { s with storeGroups := s.storeGroups.map fun x => if x.id = g.id then { g with elems := rest } else x })
  else .refused (.notEnabled "STORE_GROUP_WRITTEN")

/-- One granule of a write under way is performed apart from the others, as a snapshot view may have it (R483; log 56). -/
def State.portion (s0 : State) (id granule : Nat) : Out :=
  let s := s0.settleFor id
  match s.accessById id, s.chunks.find? (fun c => c.id = id), s.storeGroups.find? fun g => g.id = id with
  | some a, _, _ => s.storePortion a granule
  | none, some c, _ => match s.records.find? fun r => r.id = c.rec_ with
    | some r => s.chunkPortion r c granule
    | none => .refused (.notEnabled "CHUNK_PERFORMED")
  | none, none, some g => s.groupPortion g granule
  | none, none, none => .refused (.notEnabled "ACCESS_PERFORMED")

end Sys2Proof.Machine
end

