-- ==== Sys2Proof/Machine/Token.lean ====
section
/-! DEFINITION. Deterministic mode: TOKWAIT, TOKPASS, PHASE and the commit token's way through the grid (R274 to R283). -/

namespace Sys2Proof.Machine

/-- A commit operation of a phase that a workgroup still holds (R277). -/
def State.commitDue (s : State) (k : WgKey) (p : Nat) : Bool :=
  s.pending.any fun q => match q with
    | .access a => a.wg = k && a.commit = some p
    | .fence _ => false

/-- The workgroup's turn of a phase has begun and what it had buffered for it is performed (R281). -/
def State.turnReady (s : State) (k : WgKey) (p : Nat) : Bool :=
  (match s.gridAt (gridOfWg k) with | some g => g.turnBegun k.wgid p | none => true) && !s.commitBuffered k p

/-- TOKWAIT.tok's condition for its set: satisfied, or its turn has ended (R281, R283). -/
def State.tokenHolds (s : State) (w : Warp) : Bool := s.turnReady w.wg w.phase

/-- TOKWAIT.phase's condition (R281). -/
def State.phaseHolds (s : State) (w : Warp) : Bool :=
  match s.gridAt (gridOfWg w.wg) with
  | some g => w.phase ≤ g.phase
  | none => true

/-- TOKWAIT (R281, R283). -/
def execTokwait (f : XForm) (s : State) : Out :=
  operate s (shapeSys 0x07 f) f noExtra fun o =>
    let p := o.i.w.phase
    if !o.i.gr.rec_.det then raise s o.i 0x0E9
    else if f.bit 0 then
      (if p ≤ o.i.gr.phase then o.complete (s.dropL1 o.i.w.core) f.len none id else .next (s.block o.i .tokenPhase))
    else if s.turnEnded o.i p then raise s o.i 0x0E8
    else if s.turnReady o.i.w.wg p then o.complete (s.dropL1 o.i.w.core) f.len none id
    else .next (s.block o.i .token)

/-- TOKPASS (R281): the turn of the warp's phase ends here, once. -/
def execTokpass (f : XForm) (s : State) : Out :=
  operate s (shapeSys 0x08 f) f noExtra fun o =>
    if !o.i.gr.rec_.det then raise s o.i 0x0E9
    else
      let p := o.i.w.phase
      o.complete (s.updWg o.i.w.wg fun g => if (g.ends.find p).isSome then g else { g with
        ends := g.ends.put p s.nextId
        endedIn := if o.i.gr.turnBegun o.i.w.wg.wgid p then g.endedIn ++ [p] else g.endedIn }) f.len none id

/-- PHASE (R281). -/
def execPhase (f : XForm) (s : State) : Out :=
  operate s (shapeSys 0x09 f) f noExtra fun o =>
    if !o.i.gr.rec_.det then raise s o.i 0x0E9
    else o.complete ((s.updWarp o.i.w.key fun w => { w with phase := w.phase + 1 }).notePhases o.i.w.wg) f.len none id

/-- Accesses of a workgroup on any path, numbered below upto if given, that the token waits for in a phase; commit operations of
later phases wait for their own turns (R276). -/
def State.workOpen (s : State) (k : WgKey) (p : Nat) (upto : Option Nat) : Bool :=
  let before (id : Nat) : Bool := match upto with | some u => id < u | none => true
  (s.pending.any fun q => match q with
    | .access a => a.wg = k && before a.id && (match a.commit with | some c => c ≤ p | none => true)
    | .fence _ => false) ||
  (s.records.any fun r => r.wg = k && before r.id) ||
  (s.storeGroups.any fun g => g.wg = k && before g.id) ||
  (s.warps.any fun w => w.wg = k && w.q.any fun q => (w.alive || q.2.store) && q.2.open_.any before) ||
  (s.cores.any fun c => c.mq.any fun e => e.wg = k && before e.id) ||
  (s.galOps.any fun o => o.wg = k && before o.id && !o.doneHere)

/-- The workgroup holds commit operations of phases after p (R275). -/
def State.laterCommits (s : State) (k : WgKey) (p : Nat) : Bool :=
  s.pending.any fun q => match q with
    | .access a => a.wg = k && (match a.commit with | some c => p < c | none => false)
    | .fence _ => false

/-- What the token waits for at the end of a turn is still to be performed: what was issued before the TOKPASS or PHASE that ended the
turn, else, unless a fault or a kill ended it, all of the workgroup's (R276, R282). -/
def State.turnHeld (s : State) (k : WgKey) (p : Nat) (ends : Option Nat) (abrupt : Bool) : Bool :=
  s.workOpen k p ends && !(abrupt && ends.isNone)

/-- The turn at the token has ended and what it waits for is performed (R275, R276). The turn of a workgroup that was killed or ended
by a fault ends at once, if it had not ended before (R282); a workgroup whose warps have all ended and that holds only operations of
later phases cannot retire before those, so its turn is over (log 19). A retired workgroup may still have near-memory atomics and
Gallery operations under way. -/
def State.turnOver (s : State) (g : Grid) : Bool :=
  let k : WgKey := ⟨g.key.ctx, g.key.grid, g.turn⟩
  match s.wgAt k with
  | none => !s.commitDue k g.phase && g.retired.any fun r => r.1 = g.turn &&
      !s.turnHeld k g.phase ((g.gone.find? fun x => x.1 = g.turn).bind fun x => x.2.find g.phase) (r.2 != .exit)
  | some wg =>
    let ends := wg.ends.find g.phase
    let abrupt := wg.ended = some .kill || wg.ended = some .fault
    !s.commitDue k g.phase && (abrupt || ends.isSome || (wg.ended.isSome && s.laterCommits k g.phase)) && !s.turnHeld k g.phase ends abrupt

/-- TOKEN_LEAVES (R276, R278): the token goes to the next workgroup; after the last, the next phase begins. -/
def execTokenLeaves (grid : GridKey) (s : State) : Out :=
  match s.gridAt grid with
  | none => .refused (.notEnabled "TOKEN_LEAVES")
  | some g =>
    if !g.rec_.det || g.retired.length = g.count || !s.turnOver g then .refused (.notEnabled "TOKEN_LEAVES")
    else .next ((s.ordersOf (· = ⟨grid.ctx, grid.grid, g.turn⟩)).updGrid grid fun g =>
      if g.turn + 1 = g.count then { g with phase := g.phase + 1, turn := 0 } else { g with turn := g.turn + 1 })

end Sys2Proof.Machine
end

