-- ==== Sys2Proof/Machine/Launch.lean ====
section
/-! DEFINITION. A grid's life: launch-queue entries and records with their checks, admission, done and fault marks, dependency
waits, retirement and completion (R95, R96, R100, R116, R117, R315 to R317, R498 to R500). -/

namespace Sys2Proof.Machine

/-! ### Memory as the Newel reads and writes it -/

/-- n bytes at a virtual address through a context's tables, piece by piece of 64; none where one cannot be read. -/
def State.readVa (s : State) (ctx : Nat) : Nat → Nat → Nat → Option (List Byte)
  | 0, _, _ => some []
  | m + 1, va, n =>
    if n = 0 then some []
    else if 2 ^ 57 ≤ va then none
    else
      let k := min n (64 - va % 64)
      match s.translate newelSite ctx va .read with
      | .ok pa e => (s.readVa ctx m (va + k) (n - k)).map fun bs =>
        readBytes (s.openUnder (s.keyIn (keyOf ctx e)) false pa k).mem pa k ++ bs
      | _ => none

/-- The Newel has read or written n bytes at a virtual address: walks and lines are used (R365, R389). -/
def State.reached (s : State) (site ctx va n : Nat) (write : Bool) : State :=
  (natRange (va / 128) (if n = 0 then 0 else (va + n - 1) / 128 - va / 128 + 1)).foldl (fun t l =>
    let a := max va (128 * l)
    let u := t.fill site ctx a
    match u.translate site ctx a (if write then .write else .read) with
    | .ok pa _ => u.touchL2 (lineOf pa) write false
    | _ => u) s

/-- Reading n bytes at a virtual address has to wait: for a pending line or for a walker (R364, R389). -/
def State.vaWaits (s : State) (site ctx va n : Nat) : Bool :=
  (natRange (va / 128) (if n = 0 then 0 else (va + n - 1) / 128 - va / 128 + 1)).any fun l =>
    let a := max va (128 * l)
    s.walkersBusy site ctx a || (match s.translate site ctx a .read with
      | .ok pa _ => s.paPending pa 1
      | _ => false)

/-- n bytes at a virtual address (R394). -/
def State.virtBytes (s : State) (ctx va n : Nat) : Option (List Byte) := s.readVa ctx (n / 64 + 2) va n

/-- Bit i of a list of bytes. -/
def bitOf (bs : List Byte) (i : Nat) : Bool := (bs.getD (i / 8) 0).getLsbD (i % 8)

/-! ### Completion areas (R117) -/

/-- Bytes of each bitmap of an area of n workgroups (R117). -/
def bitmapBytes (n : Nat) : Nat := 8 * ((n + 63) / 64)

/-- Sets one bit of a completion area; where the byte cannot be written, the mark is lost and the hosts are told (R117). -/
def State.markArea (s : State) (k : WgKey) (base i : Nat) : State :=
  let va := base + i / 8
  match s.translate newelSite k.ctx va .write with
  | .ok pa e => (s.fill newelSite k.ctx va).storeG (keyOf k.ctx e) pa [byteAt (s.seen (keyOf k.ctx e) pa 1) pa ||| BitVec.ofNat 8 (2 ^ (i % 8))]
  | .fail c => s.postEvent { EventRec.blank with
      evt := 5, cause := c, ctx := k.ctx, wgid := k.wgid, acc := Acc.store.code, addr := va, gridno := k.grid }
  | .noMem _ => s.postEvent { EventRec.blank with
      evt := 5, cause := 0x065, ctx := k.ctx, wgid := k.wgid, acc := Acc.store.code, addr := va, gridno := k.grid }

/-- Sets a workgroup's done bit, or its fault bit, where its grid has a completion area and it is not marked yet (R117, R315). -/
def State.mark (s : State) (k : WgKey) (fault : Bool) : State :=
  match s.gridAt (gridOfWg k), s.wgAt k with
  | some g, some w =>
    if g.rec_.compl = 0 || w.doneMade then s
    else
      let base := g.rec_.compl + if fault then bitmapBytes g.count else 0
      (s.markArea k base k.wgid).updWg k fun w => { w with doneMade := true }
  | _, _ => s

/-- A workgroup's mark has to wait: for a walker, or for a pending line (R364, R389). -/
def State.markPending (s : State) (k : WgKey) (fault : Bool) : Bool :=
  match s.gridAt (gridOfWg k), s.wgAt k with
  | some g, some w =>
    g.rec_.compl != 0 && !w.doneMade && (
      let va := g.rec_.compl + (if fault then bitmapBytes g.count else 0) + k.wgid / 8
      s.walkersBusy newelSite k.ctx va || (match s.translate newelSite k.ctx va .write with
       | .ok pa _ => s.paPending pa 1
       | _ => false))
  | _, _ => false

/-- DONE_MARK (R315): every access that the workgroup's warps issued before the mark became due is performed. A fault or kill after that
point does not take it back (R117). -/
def execDoneMark (wg : WgKey) (s : State) : Out :=
  match s.wgAt wg with
  | none => .refused (.notEnabled "DONE_MARK")
  | some w => match w.doneAt with
    | none => .refused (.notEnabled "DONE_MARK")
    | some u =>
      if w.doneMade || s.workOpen wg (2 ^ 64) (some u) || s.markPending wg false then
        .refused (.notEnabled "DONE_MARK")
      else .next ((s.ordersOf (· = wg)).mark wg false)

/-! ### DEPWAIT (R316) -/

/-- What an evaluation of DEPWAIT finds. -/
inductive DepTest where
  | satisfied
  | waits
  | faulted
  | xlat (c : Cause) (va : Nat)
  | noMem (pa : Nat)
  deriving DecidableEq, Repr

/-- Reads the bits of some indices at a base: whether all are set and whether any is; a pending line is waited for (R364). -/
def State.areaBits (s : State) (core ctx base : Nat) : List Nat → Except DepTest (Bool × Bool)
  | [] => .ok (true, false)
  | i :: is =>
    let va := base + i / 8
    match s.translate core ctx va .read with
    | .noMem pa => .error (.noMem pa)
    | .fail c => .error (.xlat c va)
    | .ok pa e =>
      if s.paPending pa 1 then .error .waits
      else match s.areaBits core ctx base is with
      | .error e => .error e
      | .ok (a, b) =>
        let x := (byteAt (s.openUnder (s.keyIn (keyOf ctx e)) false pa 1).mem pa).getLsbD (i % 8)
        .ok (x && a, x || b)

/-- The evaluation of R316: fault bits first, then done bits. -/
def State.depTest (s : State) (core : Nat) (k : WgKey) : DepTest :=
  match s.recOf k with
  | none => .satisfied
  | some r =>
    if r.depfn = 0 then .satisfied
    else
      let is := r.needed k.wgid
      match s.areaBits core k.ctx (r.pred + bitmapBytes (r.pgx * r.pgy * r.pgz)) is with
      | .error e => e
      | .ok (_, true) => .faulted
      | .ok (_, false) =>
        match s.areaBits core k.ctx r.pred is with
        | .error e => e
        | .ok (true, _) => .satisfied
        | .ok (false, _) => .waits

/-- The addresses that an evaluation reads: of fault bits, then of done bits (R316). -/
def State.depVas (s : State) (k : WgKey) : List Nat :=
  match s.recOf k with
  | none => []
  | some r => if r.depfn = 0 then [] else
      let is := r.needed k.wgid
      is.map (fun i => r.pred + bitmapBytes (r.pgx * r.pgy * r.pgz) + i / 8) ++ is.map fun i => r.pred + i / 8

/-- The walks and lines of an evaluation are used (R365, R389). -/
def State.useDeps (s : State) (core : Nat) (k : WgKey) : State := (s.depVas k).foldl (fun t va => t.reached core k.ctx va 1 false) s

/-- DEPWAIT (R316): satisfied, it acquires on all paths; the translations it found are kept (R389). -/
def execDepwait (f : XForm) (s : State) : Out :=
  operate s (shapeAsync 0x0C f) f noExtra fun o =>
    let r := o.i.gr.rec_
    let s1 := s.useDeps o.i.w.core o.i.w.wg
    if (s.depVas o.i.w.wg).any fun va => s.walkersBusy o.i.w.core o.i.w.wg.ctx va then .next s
    else match s.depTest o.i.w.core o.i.w.wg with
    | .noMem pa => .fault (.noSuchMemory pa)
    | .xlat c va => holdFault s1 o.i c va .load
    | .faulted => raise s1 o.i 0x0E5
    | .satisfied =>
      if r.depfn = 0 then o.complete s f.len none id
      else o.complete (s1.dropL1 o.i.w.core) f.len none id
    | .waits => .next (s1.block o.i .depwait)

/-- DEPWAIT's condition for its set. -/
def State.depHolds (s : State) (w : Warp) : Bool := s.depTest w.core w.wg != .waits

/-! ### Launch records (R95, R96) -/

/-- Bits [lo + n − 1 : lo] of a number. -/
def bitsAt (x lo n : Nat) : Nat := x / 2 ^ lo % 2 ^ n

/-- The launch record of 256 bytes, little-endian (R95). -/
def parseRecord (bs : List Byte) : LaunchRecord :=
  let le (o n : Nat) : Nat := ofBytes ((bs.drop o).take n)
  let a := le 0x08 4
  let e := le 0 8
  let c := le 0x30 8
  let p := le 0x38 8
  let d := le 0x40 4
  let width := bitsAt a 30 2
  let vregs := bitsAt a 25 5
  let gang := bitsAt a 13 4
  let depfn := bitsAt d 29 3
  let bad (x : Nat) : Bool := bitsAt x 57 7 != 0
  let slots : List Word := (List.range 8).map fun n => BitVec.ofNat 32 (le (0x50 + 4 * n) 4)
  { entry := BitVec.ofNat 57 (e % 2 ^ 57)
    width := 16 * 2 ^ width
    vregs := vregs
    acc := bitsAt a 21 4
    carve := bitsAt a 17 4
    gang := gang
    prio := bitsAt a 10 3
    det := a.testBit 9
    ctx := bitsAt a 3 6
    scratch := le 0x0C 4
    bays := le 0x10 4
    wgx := le 0x14 2
    wgy := le 0x16 2
    wgz := le 0x18 2
    patience := 0
    gx := le 0x20 4
    gy := le 0x24 4
    gz := le 0x28 4
    compl := c % 2 ^ 57
    pred := p % 2 ^ 57
    depfn := depfn
    deph := bitsAt d 8 8
    depw := bitsAt d 0 8
    pgx := le 0x44 4
    pgy := le 0x48 4
    pgz := le 0x4C 4
    slots := slots
    consts := (List.range 16).map fun n => BitVec.ofNat 64 (le (0x80 + 8 * n) 8)
    reserved := bad e || e % 4 != 0 || width = 3 || vregs = 0 || 24 < vregs || 8 < bitsAt a 21 4 || bitsAt a 17 4 = 15 || gang = 0 ||
      12 < gang || a % 8 != 0 || le 0x1A 2 != 0 || le 0x1E 2 != 0 || le 0x2C 4 != 0 || bad c || c % 64 != 0 || bad p || p % 64 != 0 ||
      5 < depfn || bitsAt d 16 13 != 0 || le 0x70 8 != 0 || le 0x78 8 != 0 || slots.any slotReserved }

/-- The first failing check of R96, in its order; 0 where none fails. -/
def State.checkRecord (s : State) (r : LaunchRecord) : Nat :=
  let n := r.gx * r.gy * r.gz
  let part : List LCore := match s.ctxAt r.ctx with | some c => c.part.filter fun x => !x.removed | none => []
  let fn := r.depfn
  if r.reserved then 0x01
  else if part.isEmpty then 0x02
  else if 32768 * r.carve < r.scratch || 2097152 < r.bays then 0x03
  else if r.threads = 0 || 1024 < r.threads then 0x04
  else if n = 0 || 2 ^ 31 < n then 0x05
  else if !r.fitsEmpty then 0x06
  else if n % r.gang != 0 || !((layersOf part).any fun l => r.gang ≤ (part.filter fun x => x.layer = l).length) then 0x07
  else if !r.slots.all slotValid then 0x08
  else if (fn != 0 && r.pred = 0) || (fn = 1 && (r.pgx, r.pgy, r.pgz) ≠ (r.gx, r.gy, r.gz)) ||
      ((fn = 0 || fn = 1 || fn = 5) && (r.deph != 0 || r.depw != 0)) || (fn = 2 && r.depw != 0) || (fn = 3 && r.deph != 0) ||
      (fn != 0 && (r.pgx = 0 || r.pgy = 0 || r.pgz = 0)) then 0x09
  else 0

/-! ### Launch queues (R498 to R500) -/

/-- A wait of a queue entry. -/
structure EntryWait where
  waddr : Nat
  wn : Nat
  wtot : Nat
  deriving DecidableEq, Repr

/-- A launch-queue entry of 64 bytes (R498); reserved is true where a reserved bit or value is used. -/
structure QEntry where
  opc : Nat
  tag : Word
  record : Nat
  waits : List EntryWait
  reserved : Bool
  deriving DecidableEq, Repr

def parseEntry (bs : List Byte) : QEntry :=
  let le (o n : Nat) : Nat := ofBytes ((bs.drop o).take n)
  let a := le 0 4
  let nw := bitsAt a 26 2
  ⟨bitsAt a 28 4, BitVec.ofNat 32 (le 4 4), le 8 8,
   (List.range (min nw 2)).map fun w => ⟨le (0x10 + 16 * w) 8, le (0x18 + 16 * w) 4, le (0x1C + 16 * w) 4⟩,
   bitsAt a 0 26 != 0 || 2 < bitsAt a 28 4 || 2 < nw || le 0x30 8 != 0 || le 0x38 8 != 0⟩

/-- A wait that check 0x0A refuses (R498, R499). -/
def EntryWait.bad (w : EntryWait) : Bool :=
  w.waddr % 64 != 0 || w.wn = 0 || 2 ^ 31 < w.wn || w.wtot = 0 || 2 ^ 31 < w.wtot || w.wtot < w.wn

/-- A wait's done and fault bits of workgroups 0 to WN − 1: all done, any faulted; none where they cannot be read. -/
def State.waitBits (s : State) (ctx : Nat) (w : EntryWait) : Option (Bool × Bool) :=
  let n := (w.wn + 7) / 8
  match s.virtBytes ctx w.waddr n, s.virtBytes ctx (w.waddr + bitmapBytes w.wtot) n with
  | some d, some f => some ((List.range w.wn).all (bitOf d), (List.range w.wn).any (bitOf f))
  | _, _ => none

/-- The addresses and lengths that a wait reads, of one it may read. -/
def EntryWait.reads (w : EntryWait) : List (Nat × Nat) :=
  if w.bad then [] else [(w.waddr, (w.wn + 7) / 8), (w.waddr + bitmapBytes w.wtot, (w.wn + 7) / 8)]

/-- A completion in its place in a queue's completion ring: 32 bytes (R500). -/
def LQueue.message (x : LQueue) (tag : Word) (status time : Nat) : HostMsg :=
  .write x.port (x.p.compl + 32 * (x.done % 2 ^ x.p.k)) (toBytes tag.toNat 4 ++ toBytes (status % 2 ^ 8) 4 ++ toBytes time 8 ++ toBytes 0 16)

/-- Writes a completion and the queue's interrupt (R500). -/
def State.postCompletion (s : State) (q : Nat) (tag : Word) (status : Nat) : State :=
  match s.queues.find? fun x => x.p.queue = q with
  | none => s
  | some x =>
    { s with
      queues := s.queues.map fun (y : LQueue) => if y.p.queue = q then { y with done := y.done + 1 } else y
      hostOut := s.hostOut ++ [x.message tag status s.time, .msix x.port x.p.vector] }

/-- Later than every queue's head entry came to the head. -/
def State.headStamp (s : State) : Nat := s.queues.foldl (fun n q => max n (q.headAt + 1)) 0

/-- The queue is past its head entry. -/
def State.advanceQueue (s : State) (q : Nat) : State :=
  { s with queues := s.queues.map fun (x : LQueue) => if x.p.queue = q then { x with head := x.head + 1, headAt := s.headStamp } else x }

/-- A grid as it is admitted (R103, R113, R275, R312, R499). -/
def freshGrid (key : GridKey) (r : LaunchRecord) (order queue : Nat) (tag : Word) : Grid where
  key := key
  rec_ := { r with patience := Config.patience }
  order := order
  queue := queue
  tag := tag
  next := 0
  lastCore := none
  lastLayer := none
  waiting := none
  tickets := []
  abandoned := []
  passes := []
  phase := 0
  turn := 0
  placed := []
  retired := []
  gone := []
  killed := false

/-- Admits a grid to a context and lets the distributor decide (R102, R499). -/
def State.admitGrid (s : State) (c : Context) (r : LaunchRecord) (queue : Nat) (tag : Word) : State :=
  let g := freshGrid ⟨c.num, c.nextGrid⟩ r s.admitted queue tag
  let s1 := s.updCtx c.num fun c => { c with nextGrid := (c.nextGrid + 1) % 2 ^ 32 }
  ({ s1 with grids := s1.grids ++ [g], admitted := s1.admitted + 1 } : State).distribute c.num

/-- A record launched from a queue, or refused whole with the code of its first failing check (R96, R499). -/
def State.launch (s : State) (c : Context) (queue : Nat) (e : QEntry) (r : LaunchRecord) : State :=
  if r.ctx ≠ c.num then s.postCompletion queue e.tag 0x0C
  else match s.checkRecord r with
    | 0 => s.admitGrid c r queue e.tag
    | code => s.postCompletion queue e.tag code

/-- The bytes of a queue's head entry: from the context's memory, or as the host's ring gives them (R498). -/
def State.headEntry (s : State) (q : LQueue) (hostEntry : List Byte) : Option (List Byte) :=
  if q.p.hostRing then (if hostEntry.length = 64 then some hostEntry else none)
  else s.virtBytes q.p.ctx (q.p.ring + 64 * (q.head % 2 ^ q.p.k)) 64

/-- LAUNCH_ENTRY_TAKEN (R499, R500); an entry that a kill or QDEL has answered for is taken with 0x22 whatever it says (R494). -/
def execLaunchEntryTaken (queue : Nat) (hostEntry : List (BitVec 8)) (s : State) : Out :=
  match s.queues.find? fun x => x.p.queue = queue with
  | none => .refused (.notEnabled "LAUNCH_ENTRY_TAKEN")
  | some q =>
    if q.head < q.drain then
      match s.headEntry q hostEntry with
      | some bs => .next ((s.advanceQueue queue).postCompletion queue (parseEntry bs).tag 0x22)
      | none => .refused (.notEnabled "LAUNCH_ENTRY_TAKEN")
    else match s.ctxAt q.p.ctx, s.headEntry q hostEntry with
    | some c, some bs =>
      if !s.ready || s.quar || q.closing || q.tail ≤ q.head || c.st ≠ .resident then .refused (.notEnabled "LAUNCH_ENTRY_TAKEN")
      else
        let e := parseEntry bs
        let reads := (if q.p.hostRing then [] else [(q.p.ring + 64 * (q.head % 2 ^ q.p.k), 64)]) ++
          (e.waits.flatMap EntryWait.reads) ++ (if e.opc = 1 then [(e.record, 256)] else [])
        let s1 := (reads.foldl (fun t x => t.reached newelSite c.num x.1 x.2 false) s).advanceQueue queue
        let ws := e.waits.map fun w => s.waitBits c.num w
        let rec_ := s.virtBytes c.num e.record 256
        if reads.any fun x => s.vaWaits newelSite c.num x.1 x.2 then .refused (.notEnabled "LAUNCH_ENTRY_TAKEN")
        else if e.reserved || (e.opc = 1 && e.record % 64 != 0) || e.waits.any EntryWait.bad then .next (s1.postCompletion queue e.tag 0x0A)
        else if (ws.any fun w => w.isNone) || (e.opc = 1 && rec_.isNone) then .next (s1.postCompletion queue e.tag 0x0B)
        else if !(ws.all fun w => match w with | some b => b.1 || b.2 | none => true) then .refused (.notEnabled "LAUNCH_ENTRY_TAKEN")
        else if ws.any fun w => match w with | some b => b.2 | none => false then .next (s1.postCompletion queue e.tag 0x20)
        else if e.opc = 1 then .next (s1.launch c queue e (parseRecord (rec_.getD [])))
        else .next (s1.postCompletion queue e.tag 0)
    | _, _ => .refused (.notEnabled "LAUNCH_ENTRY_TAKEN")

/-! ### Retirement (R100, R317) -/

/-- How a workgroup is to retire: as its last warp ended, or as killed with its context (R437). -/
def State.endOf (s : State) (g : Workgroup) : Option EndKind :=
  match s.ctxAt g.key.ctx with
  | some c => if c.st = .killing then some .kill else g.ended
  | none => g.ended

/-- A record that retirement by kill or fault discards: queued, or suspended with nothing in flight (R298, R317). -/
def CopyRec.discardable (r : CopyRec) : Bool := !r.admitted || (r.suspended.isSome && r.open_ = 0)

/-- Discards the queued and the suspended records of a workgroup; the barrier object of a suspended one is abandoned (R298, R317). -/
def State.dropRecords (s : State) (k : WgKey) : State :=
  let gone := s.records.filter fun r => r.wg = k && r.discardable
  let s1 := gone.foldl (fun t r => match r.bar with
    | some b => if r.suspended.isSome then t.abandon (.own k b) else t
    | none => t) s
  ({ s1 with records := s1.records.filter fun r => !(r.wg = k && r.discardable) } : State).settle

/-- The live objects of the owed list become abandoned (R310). -/
def State.abandonOwed (s : State) (k : WgKey) : List Nat → State
  | [] => s
  | va :: vas =>
    match s.translate newelSite k.ctx va .both with
    | .ok pa e => ((s.fill newelSite k.ctx va).abandon ⟨true, k, pa, keyOf k.ctx e⟩).abandonOwed k vas
    | _ => (s.fill newelSite k.ctx va).abandonOwed k vas

/-- What a workgroup has in its bay and tiles, as bytes and elements that the core keeps for the context (R100). -/
def State.leaveOn (s : State) (k : WgKey) : State :=
  match s.wgAt k with
  | none => s
  | some g => s.updCore g.core fun c => { c with
      leftBay := (c.leftBay ++ g.bay.map (·.2)).eraseDups
      leftTiles := (c.leftTiles ++ g.tiles.flatMap fun t => t.2.data.map (·.2)).eraseDups }

/-- Near-memory atomics still under way outlive their warp under a number of their own, and with them the fences that they or Gallery
operations hold open, and what nothing orders yet (R271, R372). -/
def State.orphan (s : State) (k : WgKey) : State :=
  let keys := (s.warpsOf k).map Warp.key
  let away (w : WarpKey) : WarpKey := ⟨w.core, 24 * (s.nextId + 1) + w.idx⟩
  { s with
    pending := s.pending.map fun p => match p with
      | .access a => if a.wg = k then .access { a with warp := away a.warp } else p
      | .fence f => if keys.contains f.warp then .fence { f with warp := away f.warp } else p
    spent := s.spent.map fun e => if e.wg = k then { e with warp := away e.warp } else e
    passes := s.passes.map fun o => if keys.contains o.warp then { o with warp := away o.warp } else o }

/-- What a retirement does waits for the workgroup's near-memory atomics: its mark and its owed objects until they are performed, its
pins until they have reached their home slices; owed objects wait for its Gallery operations' accesses too (R310, R372, R377; log 19). -/
def State.nmaHolds (s : State) (k : WgKey) : Bool :=
  match s.wgAt k, s.gridAt (gridOfWg k) with
  | some g, some gr =>
    let last := (gr.rec_.compl != 0 && !g.doneMade) || !g.owed.isEmpty
    (s.pending.any fun p => match p with
      | .access a => a.wg = k && a.kind.near && (last || (!g.locks.isEmpty && a.sent.isNone))
      | .fence _ => false) ||
    (!g.owed.isEmpty && s.galOps.any fun o => o.wg = k && !o.doneHere)
  | _, _ => false

/-- What holds up a retirement besides near-memory atomics: transfers in flight, queued records after EXIT, matrix entries, commit
operations, the accesses still to be performed, its own or into its scratchpad (R100, R175, R282, R310). -/
def State.holdsRetirement (s : State) (k : WgKey) : Bool :=
  s.nmaHolds k || s.windowOpen k ||
  (s.records.any fun r => r.wg = k) || (s.storeGroups.any fun g => g.wg = k) ||
  (s.warps.any fun w => w.wg = k && w.q.any fun q => q.2.store && !q.2.buf.isEmpty) ||
  (s.cores.any fun c => c.mq.any fun e => e.wg = k) ||
  (s.pending.any fun p => match p with
    | .access a => a.wg = k && (a.buffered || !a.kind.near)
    | .fence _ => false)

/-- A workgroup that ends by a fault or a kill has its fault bit set, unless its done mark was due before (R117, R315). -/
def Workgroup.faulted (g : Workgroup) (how : EndKind) : Bool := how != .exit && g.doneAt.isNone

/-- Something that the done mark is released after is still to be performed (R315, R372). -/
def State.holdsMark (s : State) (k : WgKey) (how : EndKind) : Bool :=
  match s.gridAt (gridOfWg k), s.wgAt k with
  | some g, some w =>
    g.rec_.compl != 0 && !w.doneMade && !w.faulted how && s.workOpen k (2 ^ 64) (if how = .exit then none else w.doneAt)
  | _, _ => false

/-- The state a workgroup leaves as its resources return (R100, R314, R317, R377, R382). -/
def State.removeWg (s : State) (k : WgKey) (how : EndKind) : State :=
  let keys := (s.warpsOf k).map Warp.key
  let s1 := (s.leaveOn k).orphan k
  ({ s1 with
    wgs := s1.wgs.filter fun g => g.key ≠ k
    warps := s1.warps.filter fun w => w.wg ≠ k
    returns := s1.returns.filter fun r => r.wg ≠ k
    scoreboard := s1.scoreboard.filter fun x => !keys.contains x.1 } : State).updGrid (gridOfWg k) fun g =>
        ({ g with
          retired := g.retired ++ [(k.wgid, how)]
          gone := if g.rec_.det then g.gone ++ (match s.wgAt k with | some w => [(k.wgid, w.ends)] | none => []) else g.gone } : Grid).skipAll

/-- A core that has become empty has its bound registers reset (R354). -/
def State.emptyCore (s : State) (core : Nat) : State :=
  if (s.onCore core).isEmpty then s.updCore core fun c => { c with bounds := [] } else s

/-- RETIREMENT (R100, R317): records that are to be discarded go first; nothing else outstanding, the workgroup is marked, its owed
objects are abandoned, its resources return and the distributor counts it. -/
def execRetirement (wg : WgKey) (s : State) : Out :=
  match s.wgAt wg with
  | none => .refused (.notEnabled "RETIREMENT")
  | some g => match s.endOf g with
    | none => .refused (.notEnabled "RETIREMENT")
    | some how =>
      let busy := s.flights.any fun f => match s.warpAt ⟨f.core, f.warp⟩ with | some w => w.wg = wg | none => false
      if busy || (g.saved && how != .kill) then .refused (.notEnabled "RETIREMENT")
      else
        let s0 := if how = .kill then s.endWorkgroup wg .kill else s
        let s1 := if how = .exit then s0 else s0.dropRecords wg
        if s1.holdsRetirement wg || s1.holdsMark wg how || s1.markPending wg (g.faulted how) ||
            (g.owed.any fun va => s1.vaWaits newelSite wg.ctx va 16) then .refused (.notEnabled "RETIREMENT")
        else
          let s2 := (s1.mark wg (g.faulted how)).abandonOwed wg g.owed
          .next (((s2.removeWg wg how).emptyCore g.core).afterRetirement (gridOfWg wg) g.core)

/-! ### Grid completion (R500) -/

/-- Near-memory atomics of a grid that are not performed, or its Gallery operations that still access this device's memory (R266,
R372). -/
def State.gridOpen (s : State) (k : GridKey) : Bool :=
  (s.pending.any fun p => match p with
    | .access a => gridOfWg a.wg = k
    | .fence _ => false) ||
  s.galOps.any fun o => gridOfWg o.wg = k && !o.doneHere

/-- The status of a grid's completion (R500). -/
def Grid.status (g : Grid) : Nat := if g.killed || g.retired.any fun r => r.2 ≠ .exit then 0x21 else 0

/-- GRID_COMPLETION (R266, R500): every workgroup retired (of a killed grid, every one that was placed) and every near-memory atomic and
Gallery access performed. -/
def execGridCompletion (grid : GridKey) (s : State) : Out :=
  match s.gridAt grid with
  | none => .refused (.notEnabled "GRID_COMPLETION")
  | some g =>
    let absent := match s.ctxAt grid.ctx with | some c => c.st = .saved || c.st = .restoring | none => false
    if absent || (!g.killed && g.retired.length < g.count) || (s.wgs.any fun w => gridOfWg w.key = grid) || s.gridOpen grid then
      .refused (.notEnabled "GRID_COMPLETION")
    else
      let s1 := (s.ordersOf fun k => gridOfWg k = grid).postCompletion g.queue g.tag g.status
      .next (({ s1 with grids := s1.grids.filter fun x => x.key ≠ grid } : State).distribute grid.ctx)

end Sys2Proof.Machine
end

