-- ==== Sys2Proof/Machine/Array.lean ====
section
/-! DEFINITION. The matrix array: operands with their scales, one band of a pass, the hallmark state and its checks, assay
registers (R84 to R86, R319 to R327, R336, R348 to R354). -/

namespace Sys2Proof.Machine

/-! ### Tiles and scale memory (R320, R325) -/

/-- An element of a tile by its key 128 ρ + j; one never written is zero after ACCZ, else a free value (R320, R344; log 2). -/
def Tile.get (t : Tile) (k : Nat) : Word :=
  match SMap.find t.data k with
  | some x => x
  | none => if t.zeroed then 0 else leftValue t.pool (t.seed + k)

/-- Writes an element and clears its poison (R412). -/
def Tile.set (t : Tile) (k : Nat) (x : Word) : Tile := { t with data := t.data.put k x, poison := t.poison.filter fun p => p ≠ k }

/-- A byte of scale memory; one never written is a free value (R325; log 2). -/
def Workgroup.scaleByte (g : Workgroup) (a : Nat) : Byte :=
  match SMap.find g.scale a with
  | some b => b
  | none => (Config.free (g.scaleSeed + a)).setWidth 8

/-! ### Slots as matrix operands (R69, R326) -/

/-- A slot that the array takes (R69). -/
def matrixSlot (w : Word) : Bool := 2 ≤ slotFmt w && slotFmt w ≤ 12

/-- An integer format. -/
def slotInt (w : Word) : Bool := slotFmt w = 11 || slotFmt w = 12

/-- Two slots that one pass may take together (R69). -/
def slotsAgree (a b : Word) : Bool :=
  matrixSlot a && matrixSlot b && fmtBits (slotFmt a) = fmtBits (slotFmt b) && slotInt a = slotInt b

/-- K of a pass (R69, R319). -/
def passK (w : Word) : Nat := depthOf (slotFmt w)

/-- NB, block scales of a row (R326). -/
def slotNB (w : Word) : Nat := if blockOf w = 0 then 0 else passK w / blockOf w

/-- Arrays that a slot reads of scale memory: block scales, zero points (R326). -/
def slotArrays (w : Word) : Nat := (if slotBscale w = 0 then 0 else 1) + (if slotZp w then 1 else 0)

/-- The scales and zero points of the first used of so many rows or columns lie within scale memory (R325, R326). -/
def scaleFits (w : Word) (idx rows used acc : Nat) : Bool :=
  used = 0 || slotArrays w = 0 || 64 * idx + ((slotArrays w - 1) * rows + used) * slotNB w ≤ 2048 * acc

/-- Offsets of the scale and zero-point bytes of a row for an element k (R326). -/
def scaleOfs (w : Word) (idx row k : Nat) : Nat := 64 * idx + row * slotNB w + k / max 1 (blockOf w)
def zeroOfs (w : Word) (idx rows row k : Nat) : Nat := scaleOfs w idx row k + (if slotBscale w = 0 then 0 else rows * slotNB w)

/-- A row of A or a column of B as a pass takes it: its K element values, the exact scale of each run of 16, block scale times
tensor scale, and whether the elements are integers (R84, R86). -/
structure OpRow where
  elems : List FVal
  scales : List FVal
  ints : Bool
  deriving DecidableEq, Repr

/-- The exact value one. -/
def FVal.one : FVal := .fin false 1 0 false

/-- The K values of a row or column with its scales applied, exact (R349). -/
def OpRow.vals (r : OpRow) : List FVal := r.elems.zipIdx.map fun x => (x.1.mul (r.scales.getD (x.2 / 16) FVal.one)).1

/-- A row or column with the scales of its runs (R66 to R68, R84, R326). -/
def operandRow (g : Workgroup) (w : Word) (t : FVal) (idx rows row : Nat) (byte : Nat → Byte) : OpRow where
  elems := (List.range (passK w)).map fun k =>
    elemVal (slotFmt w) (if slotZp w then (g.scaleByte (zeroOfs w idx rows row k)).toNat else 0) (elemCode (slotFmt w) k byte)
  scales := (List.range (passK w / 16)).map fun n =>
    ((if slotBscale w = 0 then FVal.one else scaleVal (slotBscale w) (g.scaleByte (scaleOfs w idx row (16 * n))).toNat).mul t).1
  ints := slotInt w

/-- Whether an operand's row reads a poisoned word of scale memory (R413). -/
def scalesBad (g : Workgroup) (w : Word) (idx rows row : Nat) : Bool :=
  !g.scalePoison.isEmpty && (List.range (passK w)).any fun k =>
    (slotBscale w != 0 && g.scalePoison.contains (scaleOfs w idx row k / 4)) ||
    (slotZp w && g.scalePoison.contains (zeroOfs w idx rows row k / 4))

/-! ### Accumulation (R84 to R86) -/

/-- A list cut in runs of 16. -/
def runsOf (l : List FVal) : List (List FVal) := (List.range (l.length / 16)).map fun g => (l.drop (16 * g)).take 16

/-- The exact sum of a run of products. -/
def runSum : List FVal → FVal
  | [] => .zero false
  | p :: ps => ps.foldl (fun a x => (a.add false x).1) p

/-- A zero of negative sign. -/
def FVal.isNegZero : FVal → Bool
  | .fin neg m _ _ => neg && m = 0
  | _ => false

/-- A product of two elements; an integer product of value 0 has no sign (R86). -/
def product (ints : Bool) (x y : FVal) : FVal :=
  match (x.mul y).1 with
  | .fin neg m e st => if ints && m = 0 then .zero false else .fin neg m e st
  | v => v

/-- A run of products scaled, exact: a zero is −0 only where every product is (R84, R85; log 41). -/
def scaledRun (ps : List FVal) (sa sb : FVal) : FVal :=
  match (((runSum ps).mul sa).1.mul sb).1 with
  | .fin neg m e st => if m = 0 then .zero (ps.all FVal.isNegZero) else .fin neg m e st
  | v => v

/-- FP32 RNE, subnormals kept. -/
def toFp32 (x : FVal) : Nat := (roundTo fp32 1 false 0 32 x).code

/-- One element after a pass: each run in ascending K scaled, rounded once and added once (R84). -/
def accumulate (acc : Nat) (a b : OpRow) : Nat :=
  (runsOf (List.zipWith (product (a.ints && b.ints)) a.elems b.elems)).zipIdx.foldl
    (fun acc r =>
      let s := scaledRun r.1 (a.scales.getD r.2 FVal.one) (b.scales.getD r.2 FVal.one)
      toFp32 ((decodeFmt fp32 acc).add false (decodeFmt fp32 (toFp32 s))).1) acc

/-! ### Hallmarks (R348 to R353) -/

/-- The exact sum of finite values and of their magnitudes; none where one is not finite. -/
def sumDyadic (l : List FVal) : Option (Dyadic × Dyadic) :=
  l.foldl (fun (a : Option (Dyadic × Dyadic)) x => match a, x.dyadic with
    | some (p, q), some d => some (p.add d, q.add d.abs)
    | _, _ => none) (some (Dyadic.zero, Dyadic.zero))

/-- Σ x_k × y_k of dyadic numbers. -/
def dotDyadic (x y : List Dyadic) : Dyadic := (List.zipWith Dyadic.mul x y).foldl Dyadic.add Dyadic.zero

/-- Sets a bit of a mask. -/
def setBit {w : Nat} (m : BitVec w) (n : Nat) (b : Bool) : BitVec w :=
  if b then m ||| BitVec.ofNat w (2 ^ n) else m &&& ~~~BitVec.ofNat w (2 ^ n)

/-- Forgets the keys of a band's columns. -/
def dropBand {α : Type} (m : SMap α) (band : Nat) : SMap α := m.filter fun e => e.1 / 128 ≠ band

/-- What a zero start does to the hallmark state (R350). -/
def Tile.zeroMarks (t : Tile) (band : Nat) (rows : List Nat) : Tile :=
  let t : Tile := { t with
    rowv := rows.foldl (fun m r => setBit m r true) t.rowv
    rruns := t.rruns.filter fun e => !rows.contains e.1
    cr := t.cr.filter fun e => !rows.contains e.1
    ar := t.ar.filter fun e => !rows.contains e.1
    nfr := t.nfr.filter fun r => !rows.contains r }
  if rows.length = 8 then
    { t with colv := setBit t.colv band true, runs := t.runs.del band, cc := dropBand t.cc band, ac := dropBand t.ac band,
             nfc := t.nfc.filter fun k => k / 128 ≠ band }
  else { t with colv := setBit t.colv band false }

/-- Finite values as dyadic numbers, others as zero. -/
def finites (l : List FVal) : List Dyadic := l.map fun x => x.dyadic.getD Dyadic.zero

/-- The column sums that a pass adds to a band (R349). -/
def Tile.columnMarks (t : Tile) (band k : Nat) (rows : List (Nat × List FVal)) (cols : List (List FVal)) : Tile :=
  let wA := (List.range k).map fun i => sumDyadic (rows.map fun r => r.2.getD i (.zero false))
  let aBad := wA.any Option.isNone
  let s := wA.map fun x => (x.map (·.1)).getD Dyadic.zero
  let m := wA.map fun x => (x.map (·.2)).getD Dyadic.zero
  let t : Tile := { t with runs := t.runs.put band (SMap.get 0 t.runs band + k / 16) }
  (cols.zipIdx).foldl (fun (t : Tile) c =>
    let key := 128 * band + c.2
    let b := finites c.1
    let t : Tile := { t with
      cc := t.cc.put key ((SMap.get Dyadic.zero t.cc key).add (dotDyadic s b))
      ac := t.ac.put key ((SMap.get Dyadic.zero t.ac key).add (dotDyadic m (b.map Dyadic.abs))) }
    if aBad || c.1.any fun x => x.dyadic.isNone then { t with nfc := addPoison t.nfc [key] } else t) t

/-- The row sum that a pass adds to a row, or the end of its check (R349). -/
def Tile.rowMarks (t : Tile) (k : Nat) (chk : Option CheckColumn) (tb : FVal) (r : Nat × List FVal) : Tile :=
  match chk with
  | none => { t with rowv := setBit t.rowv r.1 false }
  | some c =>
    let a := finites r.2
    let d := tb.dyadic.getD Dyadic.zero
    let wB := (List.range k).map fun i => (SMap.get Dyadic.zero c.sums i).mul d
    let wM := (List.range k).map fun i => (SMap.get Dyadic.zero c.abss i).mul d.abs
    let bad := tb.dyadic.isNone || !c.nonfinite.isEmpty || r.2.any fun x => x.dyadic.isNone
    let t : Tile := { t with
      rruns := t.rruns.put r.1 (SMap.get 0 t.rruns r.1 + k / 16)
      cr := t.cr.put r.1 ((SMap.get Dyadic.zero t.cr r.1).add (dotDyadic a wB))
      ar := t.ar.put r.1 ((SMap.get Dyadic.zero t.ar r.1).add (dotDyadic (a.map Dyadic.abs) wM)) }
    if bad then { t with nfr := addPoison t.nfr [r.1] } else t

/-- One band of a pass on a tile: the elements of the rows written, and the hallmark state (R336, R349, R350). rows pairs a tile
row with its values. -/
def Tile.band (t : Tile) (band k : Nat) (zero : Bool) (rows : List (Nat × OpRow)) (cols : List OpRow)
    (chk : Option CheckColumn) (tb : FVal) : Tile :=
  let t := if zero then t.zeroMarks band (rows.map (·.1)) else t
  let t := rows.foldl (fun (t : Tile) r => (cols.zipIdx).foldl (fun (t : Tile) c =>
    let key := 128 * r.1 + c.2
    t.set key (BitVec.ofNat 32 (accumulate (if zero then 0 else (t.get key).toNat) r.2 c.1))) t) t
  let vals := rows.map fun r => (r.1, r.2.vals)
  let t := t.columnMarks band k vals (cols.map OpRow.vals)
  vals.foldl (fun t r => t.rowMarks k chk tb r) t

/-- −2^e as an exponent: a count times (2^e1 × sum + 2^e2). -/
def tolerance (n : Nat) (e1 e2 : Int) (a : Dyadic) : Dyadic := (Dyadic.mk n 0).mul ((a.mul ⟨1, e1⟩).add ⟨1, e2⟩)

/-- |a − b| ≤ c. -/
def within (a b c : Dyadic) : Bool :=
  let d := (a.add ⟨-b.m, b.e⟩).abs
  let x := c.add ⟨-d.m, d.e⟩
  0 ≤ x.m

/-- A check: none where it is excluded, else whether it holds (R351). -/
def hallmarkCheck (elems : List FVal) (nf : Bool) (want : Dyadic) (tol : Dyadic) : Option Bool :=
  match sumDyadic elems with
  | none => none
  | some s => if nf then none else some (within s.1 want tol)

def Tile.columnCheck (t : Tile) (band col : Nat) : Option Bool :=
  let key := 128 * band + col
  hallmarkCheck ((List.range 8).map fun r => decodeFmt fp32 (t.get (128 * (8 * band + r) + col)).toNat) (t.nfc.contains key)
    (SMap.get Dyadic.zero t.cc key) (tolerance (SMap.get 0 t.runs band) (-22) (-144) (SMap.get Dyadic.zero t.ac key))

def Tile.rowCheck (t : Tile) (row : Nat) : Option Bool :=
  hallmarkCheck ((List.range 128).map fun j => decodeFmt fp32 (t.get (128 * row + j)).toNat) (t.nfr.contains row)
    (SMap.get Dyadic.zero t.cr row) (tolerance (SMap.get 0 t.rruns row) (-22) (-141) (SMap.get Dyadic.zero t.ar row))

/-- MCHK's status word, with whether a check failed (R352, R353). -/
def Tile.status (t : Tile) : Word × Bool :=
  let cols := ((List.range 4).filter fun b => t.colv.getLsbD b).flatMap fun b =>
    (List.range 128).map fun j => ((b, j), t.columnCheck b j)
  let rows := ((List.range 32).filter fun r => t.rowv.getLsbD r).map fun r => (r, t.rowCheck r)
  let badC := cols.find? fun c => c.2 == some false
  let badR := rows.find? fun r => r.2 == some false
  let fails := badC.isSome || badR.isSome
  let skip := (cols.any fun c => c.2.isNone) || rows.any fun r => r.2.isNone
  let place := match badC with | some c => c.1.1 * 2 ^ 24 + c.1.2 * 2 ^ 16 | none => 0
  let row := match badR with | some r => r.1 * 2 ^ 8 | none => 0
  let un := t.colv != 15 || t.rowv != BitVec.allOnes 32
  (BitVec.ofNat 32 (place + row + (if fails then 8 else 0) + (if un then 4 else 0) + (if skip then 2 else 0)), fails)

/-- A tile set to zero (R344, R350). -/
def zeroTile (seed : Nat) : Tile := { freshTile seed [] with zeroed := true, colv := 15, rowv := BitVec.allOnes 32 }

/-- The hallmark state of loaded bands (R350). -/
def Tile.loadMarks (t : Tile) (bf nb : Nat) : Tile :=
  let bands := natRange bf nb
  let rows := natRange (8 * bf) (8 * nb)
  let colVals (b j : Nat) : List FVal := (List.range 8).map fun r => decodeFmt fp32 (t.get (128 * (8 * b + r) + j)).toNat
  let rowVals (r : Nat) : List FVal := (List.range 128).map fun j => decodeFmt fp32 (t.get (128 * r + j)).toNat
  let keys := bands.flatMap fun b => (List.range 128).map fun j => (128 * b + j, sumDyadic (colVals b j), finites (colVals b j))
  let rs := rows.map fun r => (r, sumDyadic (rowVals r), finites (rowVals r))
  let tot (l : List Dyadic) : Dyadic := l.foldl Dyadic.add Dyadic.zero
  let t : Tile := { t with
    colv := bands.foldl (fun m b => setBit m b true) t.colv
    rowv := rows.foldl (fun m r => setBit m r true) t.rowv
    runs := bands.foldl (fun m b => m.del b) t.runs
    rruns := rows.foldl (fun m r => m.del r) t.rruns }
  let t := keys.foldl (fun (t : Tile) k => { t with
    cc := t.cc.put k.1 (tot k.2.2), ac := t.ac.put k.1 (tot (k.2.2.map Dyadic.abs))
    nfc := if k.2.1.isNone then addPoison t.nfc [k.1] else t.nfc.filter fun x => x ≠ k.1 }) t
  rs.foldl (fun (t : Tile) k => { t with
    cr := t.cr.put k.1 (tot k.2.2), ar := t.ar.put k.1 (tot (k.2.2.map Dyadic.abs))
    nfr := if k.2.1.isNone then addPoison t.nfr [k.1] else t.nfr.filter fun x => x ≠ k.1 }) t

/-! ### Assay registers (R354) -/

/-- A bound register as a core's first workgroup finds it. -/
def freshBound : BoundReg := ⟨0xFF800000, 0x7F800000, 0, 0⟩

/-- A bound register of a core. -/
def State.boundReg (s : State) (core n : Nat) : BoundReg :=
  match s.coreAt core with
  | some c => SMap.get freshBound c.bounds n
  | none => freshBound

/-- An FP32 value below another, −0 and +0 equal. -/
def fp32Less (a b : FVal) : Bool := FVal.cmp a b == .lt

/-- Whether an element is out of a register's bounds, and the value that clamping gives (R354). -/
def BoundReg.apply (b : BoundReg) (x : Word) : Bool × Word :=
  let v := decodeFmt fp32 x.toNat
  if v.isNan then (true, 0x7FC00000)
  else if fp32Less v (decodeFmt fp32 b.lo.toNat) then (true, b.lo)
  else if fp32Less (decodeFmt fp32 b.hi.toNat) v then (true, b.hi)
  else (false, x)

end Sys2Proof.Machine
end

