-- ==== Sys2Proof/Machine/Matrix.lean ====
section
/-! DEFINITION. The EXT.MATRIX instructions and the matrix queue: pass instructions with fusion, teams, tile and scale-memory
entries, checks, assay registers, MWAIT, and the queue's events (R323 to R360). -/

namespace Sys2Proof.Machine

/-! ### The queue (R328) -/

/-- A core's matrix queue. -/
def State.mqOf (s : State) (core : Nat) : List MEntry :=
  match s.coreAt core with
  | some c => c.mq
  | none => []

/-- Replaces a core's matrix queue. -/
def State.setMq (s : State) (core : Nat) (q : List MEntry) : State := s.updCore core fun c => { c with mq := q }

/-- Tiles that an entry names (R357). -/
def MEntry.tiles (e : MEntry) : List Nat :=
  match e.work with
  | .pass _ _ _ _ qs => qs.map (·.tile)
  | .team tile _ _ _ _ rowt .. => natRange tile rowt
  | .scld .. => []
  | .accz m => (List.range 8).filter fun n => m.getLsbD n
  | .accld tile .. => [tile]
  | .accst tile .. => [tile]

/-- A warp has part in an entry (R330, R357). -/
def MEntry.ofWarp (e : MEntry) (warp : Nat) : Bool :=
  e.warp = warp || (match e.work with | .pass _ _ _ _ qs => qs.any fun q => q.warp = warp | _ => false)

/-- An entry with the fields that every instruction sets alike. -/
def Iss.entry (i : Iss) (s : State) (work : MWork) : MEntry :=
  ⟨s.nextId, i.w.idx, i.w.wg, i.pc, work, false, s.openFences i.w.key 2⟩

/-- Appends an entry to its core's queue. -/
def State.enqueue (s : State) (core : Nat) (e : MEntry) : State := (s.setMq core (s.mqOf core ++ [e])).fresh

/-- Enters an instruction in the queue, or blocks its set while there is no room (R328). -/
def Opnd.enter (o : Opnd) (s : State) (work : MWork) (upd : Warp → Warp) : Out :=
  if 8 ≤ (s.mqOf o.i.w.core).length then .next (s.block o.i (.matrixRoom 1))
  else o.complete (s.enqueue o.i.w.core (o.i.entry s work)) o.f.len none upd

/-! ### Pass instructions (R323 to R335) -/

/-- Fields of a pass instruction (R332). -/
def bsciOf (f : XForm) : Nat := f.fld 31 24
def asciOf (f : XForm) : Nat := f.fld 23 16
def qbOf (f : XForm) : Nat := f.fld 11 9
def bslotOf (f : XForm) : Nat := f.fld 5 3
def aslotOf (f : XForm) : Nat := f.fld 2 0

/-- Check 1 of R335 but for the range of QB or ROWT: the slots and the scale indexes; lead is false for a team's other members. -/
def passSlotsBad (i : Iss) (f : XForm) (lead : Bool) : Bool :=
  let a := i.slot (aslotOf f)
  let b := i.slot (bslotOf f)
  !slotsAgree a b || (lead && slotArrays a = 0 && (asciOf f) != 0) || (slotArrays b = 0 && (bsciOf f) != 0)

/-- Check 3 of R335: the bay offset (R321). -/
def bayCause (i : Iss) (ofs : Nat) : Option Cause :=
  if ofs % 8192 != 0 then some 0x090 else if i.gr.rec_.bays < ofs + 8192 then some 0x0C5 else none

/-- Check 4 of R335: scratchpad rows of A (R324). -/
def rowsCause (i : Iss) (aofs stride : Nat) (rows : List Nat) (bytes : Nat) : Option Cause :=
  if aofs % 16 != 0 || stride % 16 != 0 then some 0x090
  else if rows.any fun r => i.gr.rec_.scratch < aofs + r * stride + bytes then some 0x091
  else none

/-- Check 5 of R335: scale memory, for the first used of the rows of A and all columns of B (R325, R326). -/
def scaleCause (i : Iss) (f : XForm) (aRows used : Nat) (lead : Bool) : Option Cause :=
  if (lead && !scaleFits (i.slot (aslotOf f)) (asciOf f) aRows used i.gr.rec_.acc) ||
      !scaleFits (i.slot (bslotOf f)) (bsciOf f) 128 128 i.gr.rec_.acc then
    some 0x0C6
  else none

/-- The first cause of a list. -/
def firstCause : List (Option Cause) → Option Cause
  | [] => none
  | some c :: _ => some c
  | none :: cs => firstCause cs

/-- The quarters of a warp that hold a lane of the mask (R329). -/
def Opnd.quarters (o : Opnd) : List Nat :=
  (List.range (o.i.w.width / 8)).filter fun q => (List.range 8).any fun r => o.i.mask.getLsbD (8 * q + r)

/-- The FP32 scale that the C field names (R327). -/
def Opnd.passScale (o : Opnd) : Option Word := if clsOf o.f.c = .zero then none else some (o.rd o.f.c warpLane)

/-- Row r of a quarter as read from registers: byte b is byte b mod 4 of v(A + b ÷ 4) (R323). -/
def Opnd.regRow (o : Opnd) (q r : Nat) : SMap Byte :=
  match clsOf o.f.a with
  | .v n => (List.range 64).foldl (fun m b =>
      SMap.put m (64 * r + b) (BitVec.ofNat 8 ((o.i.w.vReg (n + b / 4) (8 * q + r)).toNat / 2 ^ (8 * (b % 4))))) []
  | _ => []

/-- Quarter q of a pass instruction (R329). -/
def Opnd.quarter (o : Opnd) (zero regs : Bool) (q : Nat) : Quarter :=
  let e := (qbOf o.f) + q
  let rows := (List.range 8).filter fun r => o.i.mask.getLsbD (8 * q + r)
  ⟨o.i.w.idx, o.f.d.toNat + e / 4, e % 4, if regs then 0 else 8 * q, zero,
   if regs then .regs (rows.flatMap fun r => o.regRow q r) else .scratch (o.rdN o.f.a warpLane 32) (o.rdN o.f.e warpLane 32),
   (asciOf o.f), o.passScale, rows.foldl (fun m r => m ||| BitVec.ofNat 8 (2 ^ r)) 0⟩

/-- An open fence of a list waits for an entry (R271). -/
def State.fencedOff (s : State) (fences : List Nat) (id : Nat) : Bool :=
  s.pending.any fun p => match p with
    | .fence f => fences.contains f.id && f.waits.contains id
    | .access _ => false

/-- A quarter that may join the pass at the tail of the queue (R330): none behind a fence that waits for that pass (R271). -/
def canJoin (i : Iss) (f : XForm) (bofs : Nat) (fenced : Bool) (band : Nat) (e : MEntry) : Bool :=
  match e.work with
  | .pass b a bs bsci qs =>
    !e.started && e.wg = i.w.wg && !fenced && b = bofs && a = (aslotOf f) && bs = (bslotOf f) && bsci = (bsciOf f) &&
      !(qs.any fun q => q.band = band)
  | _ => false

/-- Adds a quarter to a queue: to the pass at its tail, which then waits for the quarter's fences too, or as a new entry (R271,
R330). -/
def addQuarter (s : State) (i : Iss) (f : XForm) (bofs : Nat) (fences : List Nat) (st : List MEntry × Nat) (q : Quarter) :
    List MEntry × Nat :=
  match st.1.getLast? with
  | some e =>
    if canJoin i f bofs (s.fencedOff fences e.id) q.band e then
      (st.1.dropLast ++ [match e.work with
        | .pass b a bs bsci qs =>
          { e with work := .pass b a bs bsci (qs ++ [q]), fences := e.fences ++ fences.filter fun x => !e.fences.contains x }
        | _ => e], st.2)
    else (st.1 ++ [⟨st.2, i.w.idx, i.w.wg, i.pc, .pass bofs (aslotOf f) (bslotOf f) (bsciOf f) [q], false, fences⟩], st.2 + 1)
  | none => ([⟨st.2, i.w.idx, i.w.wg, i.pc, .pass bofs (aslotOf f) (bslotOf f) (bsciOf f) [q], false, fences⟩], st.2 + 1)

/-- The sixteen registers of A: a pending write stalls, a poisoned entry is consumed (R146 to R148, R323, R413). -/
def Opnd.aRegs (o : Opnd) : List Nat :=
  match clsOf o.f.a with
  | .v n => natRange n 16
  | _ => []

/-- One more than the highest row of the pass that a quarter pass from quarter QB on reads for a lane of a mask (R326, R329). -/
def passRows (qb : Nat) (mask : LaneMask) : Nat :=
  (lanesOf mask).foldl (fun n l => max n (8 * ((qb + l / 8) % 4) + l % 8 + 1)) 0

/-- MMA, MMAZ and MMAS (R329, R334, R335). -/
def quarterPass (s : State) (xop : Nat) (f : XForm) (zero regs : Bool) : Out :=
  operate s (shapeMatrix xop f) f
    (fun o => if regs && o.aRegs.any fun n => o.i.vregs ≤ n then some 0x021 else none) fun o =>
    let i := o.i
    let nq := i.w.width / 8
    let bofs := o.rdN f.b warpLane 32
    let c := firstCause [
      if passSlotsBad i f true || 8 < (qbOf f) + nq then some 0x002 else none,
      if i.gr.rec_.acc ≤ f.d.toNat + ((qbOf f) + nq - 1) / 4 then some 0x0C1 else none,
      bayCause i bofs,
      if regs then none else rowsCause i (o.rdN f.a warpLane 32) (o.rdN f.e warpLane 32) (lanesOf i.mask) 64,
      scaleCause i f 32 (passRows (qbOf f) i.mask) true]
    match c with
    | some c => raise s i c
    | none =>
      if regs && o.aRegs.any fun n => (s.busyKeys i.w.key).contains n then .next s
      else if regs && o.aRegs.any fun n => (lanesOf i.mask).any fun l => i.w.regPoison.contains (64 * n + l) then raise s i i.wg.serCause
      else
        let q := (o.quarters.map fun q => o.quarter zero regs q).foldl (addQuarter s i f bofs (s.openFences i.w.key 2))
          (s.mqOf i.w.core, s.nextId)
        if 8 < q.1.length then .next (s.block i (.matrixRoom (q.1.length - (s.mqOf i.w.core).length)))
        else o.complete { s.setMq i.w.core q.1 with nextId := q.2 } f.len none id

def execMma (f : XForm) (s : State) : Out := quarterPass s 0x00 f false true
def execMmaz (f : XForm) (s : State) : Out := quarterPass s 0x01 f true true
def execMmas (f : XForm) (s : State) : Out := quarterPass s 0x02 f (f.bit 8) false

/-! ### Teams (R338 to R342) -/

/-- MCOOP (R338). Leaving a team that exists, by MCOOP.leave or for another team, breaks it (R342). -/
def execMcoop (f : XForm) (s : State) : Out :=
  operate s (shapeMatrix 0x08 f) f noExtra fun o =>
    let lead := f.fld 3 0
    let size := f.fld 5 4
    let own := o.i.ownIndex
    if size = 0 then o.complete (s.breakTeam o.i.w) f.len none fun w => { w with team := none }
    else if o.i.gr.rec_.gang < lead + size || own < lead || lead + size ≤ own ||
        (s.warpsOf o.i.w.wg).any fun v => v.idx ≠ o.i.w.idx && v.team.isSome then raise s o.i 0x0C4
    else
      let stays := match o.i.w.team with | some t => t.lead = lead && t.size = size | none => false
      o.complete (if stays then s else s.breakTeam o.i.w) f.len none fun w => { w with team := some ⟨lead, size, 0, false⟩ }

/-- What an MMAT that waits for its team would use. -/
structure TeamAsk where
  warp : Warp
  pc : Pc
  lanes : LaneMask
  f : XForm
  aofs : Nat
  stride : Nat
  bofs : Nat
  ts : Option Word

/-- The checks of R335 on an MMAT, in their order; A's are the leader's (R339). -/
def teamCause (i : Iss) (f : XForm) (lead : Bool) (aofs stride bofs : Nat) : Option Cause :=
  let rowt := qbOf f
  firstCause [
    if passSlotsBad i f lead || rowt = 0 || 6 < rowt then some 0x002 else none,
    if i.gr.rec_.acc ≤ f.d.toNat + rowt - 1 then some 0x0C1 else none,
    bayCause i bofs,
    if lead then rowsCause i aofs stride (List.range (32 * rowt)) 64 else none,
    scaleCause i f (32 * rowt) (32 * rowt) lead]

/-- Whether a warp is its team's leader, or has none (R338). -/
def Iss.leads (i : Iss) : Bool := match i.w.team with | some t => t.lead = i.ownIndex | none => true

/-- A scalar source as a set that issues anew reads it: s, k or zero; a latch is empty by then (R125, R339). -/
def Warp.sclVal (w : Warp) (gr : Grid) (c : BitVec 8) : Option Word :=
  match clsOf c with
  | .s n => some (w.sReg n)
  | .k n => some ((gr.rec_.consts.getD n 0).setWidth 32)
  | .zero => some 0
  | _ => none

/-- An s register that an instruction's source fields name holds poison (R413). -/
def Warp.sclPoison (w : Warp) (f : XForm) : Bool :=
  [f.a, f.b, f.c, f.e].any fun c => match clsOf c with | .s n => w.regPoison.contains (12288 + n) | _ => false

/-- The MMAT at which a member waits, with the values that its registers give it now (R339); none where it waits at none, or would
raise a cause of its own, poison that it consumes among them (R413). -/
def State.asks (s : State) (w : Warp) : Option TeamAsk :=
  w.pcs.findSome? fun p => match p.blocked, s.wgAt w.wg, s.gridAt (gridOfWg w.wg) with
    | some (.team f), some g, some gr =>
      let i : Iss := ⟨⟨w.core, 0, w.idx, p.lanes, 0, none, none, none, none, false⟩, w, g, gr, p.pc⟩
      match w.sclVal gr f.a, w.sclVal gr f.b, w.sclVal gr f.c, w.sclVal gr f.e with
      | some a, some b, some c, some e =>
        if w.sclPoison f || (teamCause i f i.leads a.toNat e.toNat b.toNat).isSome then none
        else some ⟨w, p.pc, p.lanes, f, a.toNat, e.toNat, b.toNat, if clsOf f.c = .zero then none else some c⟩
      | _, _, _, _ => none
    | _, _, _ => none

/-- A member waits at an MMAT that would now raise a cause of its own: its set issues again (R335, R339). -/
def State.asksInVain (s : State) (w : Warp) : Bool :=
  (w.pcs.any fun p => match p.blocked with | some (.team _) => true | _ => false) && (s.asks w).isNone

/-- The waiting MMATs of the other members, lead first: none while one is missing, or is still of a team that broke (R339, R342). -/
def State.teamAsks (s : State) (w : Warp) (t : Team) : Option (List TeamAsk) :=
  ((natRange t.lead t.size).filter fun j => j ≠ s.gangIndex w.wg).mapM fun j =>
    match (s.teamMates w t).find? fun v => s.gangIndex v.wg = j with
    | none => none
    | some v => match v.team, s.asks v with
      | some u, some a => if u.ordinal = t.ordinal && !u.broken then some a else none
      | _, _ => none

/-- The fields in which the MMATs of a team pass must agree: D, ASLOT, BSLOT, ROWT, Z (R339). -/
def teamKey (d : BitVec 8) (m : BitVec 32) : BitVec 8 × BitVec 32 := (d, m &&& 0xF3F)

/-- A team pass is appended to every member's queue (R341). asks lists all members. -/
def State.formPass (s : State) (leader : TeamAsk) (asks : List TeamAsk) : State :=
  let ids := natRange s.nextId asks.length
  (asks.zip ids).foldl (fun t x =>
    let a := x.1
    let work : MWork := .team a.f.d.toNat (aslotOf a.f) (bslotOf a.f) a.bofs (bsciOf a.f) (qbOf a.f) (a.f.bit 8) leader.warp.wg
      leader.aofs leader.stride (asciOf leader.f) leader.ts ids
    t.enqueue a.warp.core ⟨x.2, a.warp.idx, a.warp.wg, a.pc, work, false, t.openFences a.warp.key 2⟩) s

/-- The values that a member's MMAT holds by H2: A, B or both, each one value for the warp (R150, R333). -/
def TeamAsk.holds (a : TeamAsk) (seed : Nat) : Option Latch × Option Latch :=
  let held (n seed : Nat) : Latch := mkLatch true a.lanes seed [(warpLane, BitVec.ofNat 128 n)]
  match a.f.h2.toNat with
  | 0 => (none, none)
  | 1 => (some (held a.aofs seed), none)
  | 2 => (some (held a.bofs seed), none)
  | _ => (some (held a.aofs seed), some (held a.bofs (seed + 64)))

/-- Another member's MMAT issues in the cycle of formation: it is the first instruction of a flight of its set, which goes on when the
warp has its slot unless LND ends it (R28, R120, R339; log 69). -/
def State.releaseAsk (s : State) (a : TeamAsk) : State :=
  let h := a.holds s.freeCtr
  (s.useFree 128).updWarp a.warp.key fun w => { w with
    pcs := moveLanes (a.pc + 12) a.lanes w.pcs
    begun := if a.f.lnd then w.begun else w.begun ++ [⟨a.pc + 12, h.1, h.2⟩]
    team := w.team.map fun t => { t with ordinal := t.ordinal + 1 } }

/-- MMAT (R339). Members other than the leader use only D, B and MOD's slots, ROWT, Z and BSCI. No pass is formed for a context that
is being switched out (R359). -/
def execMmat (f : XForm) (s : State) : Out :=
  operate s (shapeMatrix 0x03 f) f noExtra fun o =>
    let i := o.i
    let bofs := o.rdN f.b warpLane 32
    let aofs := o.rdN f.a warpLane 32
    let stride := o.rdN f.e warpLane 32
    match teamCause i f i.leads aofs stride bofs with
    | some c => raise s i c
    | none => match i.w.team with
      | none => raise s i 0x0C4
      | some t =>
        if t.broken then raise s i 0x0C4
        else
          let me : TeamAsk := ⟨i.w, i.pc, i.fl.active, f, aofs, stride, bofs, o.passScale⟩
          let wait : Out := .next (s.block i (.team f))
          match (if s.stopping i.w.wg.ctx then none else s.teamAsks i.w t) with
          | none => wait
          | some others =>
            if others.any fun a => teamKey a.f.d a.f.mod != teamKey f.d f.mod then
              .next (others.foldl (fun t a => t.deliver a.warp a.pc 0x0C3 0) (s.endFlight.deliver i.w i.pc 0x0C3 0))
            else if (me :: others).any fun a => 8 ≤ (s.mqOf a.warp.core).length then wait
            else
              let leader := ((me :: others).find? fun a => s.gangIndex a.warp.wg = t.lead).getD me
              let s1 := others.foldl State.releaseAsk (s.formPass leader (me :: others))
              o.complete s1 f.len none fun w => { w with team := w.team.map fun t => { t with ordinal := t.ordinal + 1 } }

/-- Whether an MMAT that waits may be tried again: its team has broken, it would raise a cause of its own, or all members wait and the
queues have room (R335, R339, R341, R342). -/
def State.teamHolds (s : State) (w : Warp) : Bool :=
  match w.team with
  | none => true
  | some t => t.broken || s.asksInVain w || (match s.teamAsks w t with
    | none => false
    | some others => (s.mqOf w.core).length < 8 && others.all fun a => (s.mqOf a.warp.core).length < 8)

/-! ### Tile and scale-memory instructions (R343 to R347) -/

/-- SCLD (R343). -/
def execScld (f : XForm) (s : State) : Out :=
  operate s (shapeMatrix 0x04 f) f noExtra fun o =>
    let aofs := o.rdN f.a warpLane 32
    let units := f.fld 15 8 + 1
    if aofs % 64 != 0 then raise s o.i 0x090
    else if o.i.gr.rec_.scratch < aofs + 64 * units then raise s o.i 0x091
    else if 2048 * o.i.gr.rec_.acc < 64 * (f.fld 7 0 + units) then raise s o.i 0x0C6
    else o.enter s (.scld aofs (f.fld 7 0) units) id

/-- ACCZ (R344). -/
def execAccz (f : XForm) (s : State) : Out :=
  operate s (shapeMatrix 0x05 f) f noExtra fun o =>
    if (List.range 8).any fun n => o.i.gr.rec_.acc ≤ n && f.bit n then raise s o.i 0x0C1
    else o.enter s (.accz (f.mod.setWidth 8)) id

/-- The checks of ACCLD and ACCST on tile and rows (R345, R346); bytes of a row. -/
def bandCause (o : Opnd) (bytes : Nat) : Option Cause :=
  if o.i.gr.rec_.acc ≤ o.f.d.toNat then some 0x0C1
  else rowsCause o.i (o.rdN o.f.a warpLane 32) (o.rdN o.f.b warpLane 32) (List.range (8 * (o.f.fld 3 2 + 1))) bytes

/-- ACCLD (R345). -/
def execAccld (f : XForm) (s : State) : Out :=
  operate s (shapeMatrix 0x06 f) f noExtra fun o =>
    match bandCause o 512 with
    | some c => raise s o.i c
    | none => o.enter s (.accld f.d.toNat (o.rdN f.a warpLane 32) (o.rdN f.b warpLane 32) (f.fld 1 0) (f.fld 3 2 + 1)) id

/-- Entries of a workgroup numbered below upto that name a tile (R352, R354). -/
def State.tileBusy (s : State) (core : Nat) (k : WgKey) (tile upto : Nat) : Bool :=
  (s.mqOf core).any fun e => e.wg = k && e.id < upto && e.tiles.contains tile

/-- Bytes of a row of 128 elements in a slot's format (R66, R346). -/
def rowBytes (w : Word) : Nat := 128 * fmtBits (slotFmt w) / 8

/-- ACCST (R346, R354): a trap-mode register is tested at issue, once the tile stands still. -/
def execAccst (f : XForm) (s : State) : Out :=
  operate s (shapeMatrix 0x07 f) f noExtra fun o =>
    let slot := o.i.slot (f.fld 6 4)
    let tile := f.d.toNat
    let bound := if f.bit 7 then some (f.fld 11 8, s.boundReg o.i.w.core (f.fld 11 8)) else none
    let sr := o.i.w.modeRnd = 6 && slotFmt slot != 1 && slotFmt slot != 12
    let keys := (natRange (8 * f.fld 1 0) (8 * (f.fld 3 2 + 1))).flatMap fun r => (List.range 128).map fun j => 128 * r + j
    match firstCause [if dstSlotOk slot then none else some 0x002, bandCause o (rowBytes slot)] with
    | some c => raise s o.i c
    | none =>
      let go : Out := o.enter s (.accst tile (o.rdN f.a warpLane 32) (o.rdN f.b warpLane 32) (f.fld 6 4) (f.fld 1 0) (f.fld 3 2 + 1) bound
        o.i.w.mode o.i.w.srseq) fun w => if sr then w.bumpSr else w
      match bound with
      | some (_, b) =>
        if b.mode ≠ 2 then go
        else if s.tileBusy o.i.w.core o.i.w.wg tile s.nextId then .next (s.block o.i (.tileBusy tile s.nextId))
        else
          let t := o.i.wg.tile tile
          if keys.any fun k => t.poison.contains k then raise s o.i o.i.wg.serCause
          else if keys.any fun k => (b.apply (t.get k)).1 then raise s o.i 0x0C2
          else go
      | none => go

/-! ### Checks, assay registers, MWAIT (R351 to R357) -/

/-- MCHK (R352). -/
def execMchk (f : XForm) (s : State) : Out :=
  operate s (shapeMatrix 0x09 f) f noExtra fun o =>
    let tile := f.fld 2 0
    if o.i.gr.rec_.acc ≤ tile then raise s o.i 0x0C1
    else if s.tileBusy o.i.w.core o.i.w.wg tile s.nextId then .next (s.block o.i (.tileBusy tile s.nextId))
    else
      let t := o.i.wg.tile tile
      if !t.poison.isEmpty then raise s o.i o.i.wg.serCause
      else
        let r := t.status
        if r.2 && !f.bit 3 then raise s o.i 0x0C0
        else o.complete s f.len (some (o.lanes.map fun l => (l, r.1.setWidth 64))) id

/-- TBSET (R355). -/
def execTbset (f : XForm) (s : State) : Out :=
  operate s (shapeMatrix 0x0A f) f noExtra fun o =>
    let lo := o.rd f.a warpLane
    let hi := o.rd f.b warpLane
    let a := decodeFmt fp32 lo.toNat
    let b := decodeFmt fp32 hi.toNat
    if a.isNan || b.isNan || fp32Less b a then raise s o.i 0x0C7
    else o.complete (s.updCore o.i.w.core fun c =>
      { c with bounds := SMap.set freshBound c.bounds f.d.toNat ⟨lo, hi, f.fld 1 0, 0⟩ }) f.len none id

/-- TBGET (R356). -/
def execTbget (f : XForm) (s : State) : Out :=
  operate s (shapeMatrix 0x0B f) f noExtra fun o =>
    let b := s.boundReg o.i.w.core f.a.toNat
    let sel := f.fld 1 0
    if sel = 2 && o.i.gr.rec_.det then raise s o.i 0x0C8
    else
      let v : Nat := match sel with
        | 0 => b.lo.toNat
        | 1 => b.hi.toNat
        | _ => b.hit % 65536 * 65536 + b.mode % 4
      o.complete s f.len (some (o.lanes.map fun l => (l, BitVec.ofNat 64 v))) id

/-- MWAIT's condition: the warp's entries numbered below upto that name a tile of the mask, or all with no mask (R357). -/
def State.matrixHolds (s : State) (w : Warp) (mask : BitVec 8) (upto : Nat) : Bool :=
  !((s.mqOf w.core).any fun e => e.id < upto && e.ofWarp w.idx && (mask == 0 || e.tiles.any fun t => mask.getLsbD t))

/-- MWAIT (R357). -/
def execMwait (f : XForm) (s : State) : Out :=
  operate s (shapeMatrix 0x0C f) f noExtra fun o =>
    let m : BitVec 8 := f.mod.setWidth 8
    if (List.range 8).any fun n => o.i.gr.rec_.acc ≤ n && m.getLsbD n then raise s o.i 0x0C1
    else waitOn s o.i f (s.matrixHolds o.i.w m s.nextId) (.matrix m s.nextId)

/-! ### Performing entries (R331, R336, R340, R343 to R347) -/

/-- The warp of an entry, where it is still resident. -/
def State.entryWarp (s : State) (core : Nat) (e : MEntry) : Option Warp :=
  s.warps.find? fun w => w.core = core && w.idx = e.warp && w.wg = e.wg

/-- Poison that an entry reads is consumed and it writes nothing (R413). -/
def State.consume (s : State) (core : Nat) (e : MEntry) : State :=
  match s.entryWarp core e, s.wgAt e.wg with
  | some w, some g => if g.broken then s else s.deliver w e.pc g.serCause 0
  | _, _ => s

/-- The tensor scale of A: the slot's times the named one (R72, R327). -/
def State.aScale (s : State) (k : WgKey) (slot : Word) (ts : Option Word) : FVal :=
  let t := s.tensorScale k slot
  match ts with
  | none => t
  | some w => (t.mul (decodeFmt fp32 w.toNat)).1

/-- A B tile's 128 columns with their scales (R321, R326). -/
def State.bColumns (s : State) (g : Workgroup) (slot : Word) (bsci bofs : Nat) : List OpRow :=
  let t := s.tensorScale g.key slot
  (List.range 128).map fun j => operandRow g slot t bsci 128 j fun b => g.bayByte (bofs + 64 * j + b)

/-- Poison in a B tile or its scales (R413). -/
def bBad (g : Workgroup) (slot : Word) (bsci bofs : Nat) : Bool :=
  (g.bayPoison.any fun p => p / 256 = bofs / 8192) || (List.range 128).any fun j => scalesBad g slot bsci 128 j

/-- The check column that serves a pass's row checks (R349). -/
def Workgroup.columnFor (g : Workgroup) (slot : Word) (bslot bofs : Nat) : Option CheckColumn :=
  if slotBlock slot ≠ 0 then none else g.checks.find? fun c => c.tile = bofs / 8192 && c.slot = bslot

/-- Rows of a quarter that are written (R329). -/
def Quarter.rowList (q : Quarter) : List Nat := (List.range 8).filter fun r => q.rows.getLsbD r

/-- Byte b of row r of a quarter's A (R323, R324). -/
def Quarter.byte (g : Workgroup) (q : Quarter) (r b : Nat) : Byte :=
  match q.src with
  | .regs m => SMap.get 0 m (64 * r + b)
  | .scratch aofs stride => byteAt g.scratch (aofs + (q.row0 + r) * stride + b)

/-- Poison that a quarter reads: its A rows, their scales, and the elements it adds to (R413). -/
def Quarter.bad (g : Workgroup) (slot : Word) (q : Quarter) : Bool :=
  q.rowList.any fun r =>
    let row := 8 * q.band + r
    (match q.src with | .regs _ => false | .scratch aofs stride => g.scratchBad (aofs + (q.row0 + r) * stride) 64) ||
    scalesBad g slot q.asci 32 row ||
    (!q.zero && (g.tile q.tile).poison.any fun k => k / 128 = row)

/-- A pass of quarters (R336). -/
def State.performPass (s : State) (core : Nat) (e : MEntry) (bofs aslot bslot bsci : Nat) (qs : List Quarter) : State :=
  match s.wgAt e.wg with
  | none => s
  | some g =>
    let sa := s.slotOf e.wg aslot
    let sb := s.slotOf e.wg bslot
    if bBad g sb bsci bofs || qs.any fun q => q.bad g sa then s.consume core e
    else
      let cols := s.bColumns g sb bsci bofs
      let chk := g.columnFor sb bslot bofs
      let tb := s.tensorScale e.wg sb
      let g' := qs.foldl (fun (x : Workgroup) q =>
        let ta := s.aScale e.wg sa q.ts
        let rows := q.rowList.map fun r => (8 * q.band + r, operandRow g sa ta q.asci 32 (8 * q.band + r) fun b => q.byte g r b)
        x.setTile q.tile ((x.tile q.tile).band q.band (passK sb) q.zero rows cols chk tb)) g
      s.updWg e.wg fun x => { x with tiles := g'.tiles }

/-- Whether a member's part of a team pass reads poison (R413). -/
def State.teamBad (s : State) (e : MEntry) (tile aslot bslot bofs bsci rowt : Nat) (zero : Bool) (leader : WgKey)
    (aofs stride asci : Nat) : Bool :=
  match s.wgAt e.wg, s.wgAt leader with
  | some g, some l =>
    let sa := s.slotOf e.wg aslot
    bBad g (s.slotOf e.wg bslot) bsci bofs ||
      ((List.range (32 * rowt)).any fun r => l.scratchBad (aofs + r * stride) 64 || scalesBad l sa asci (32 * rowt) r) ||
      (!zero && (natRange tile rowt).any fun t => !(g.tile t).poison.isEmpty)
  | _, _ => false

/-- A member's part of a team pass: the leader's A rows and scales, its own B (R340). -/
def State.performTeam (s : State) (e : MEntry) (tile aslot bslot bofs bsci rowt : Nat) (zero : Bool) (leader : WgKey)
    (aofs stride asci : Nat) (ts : Option Word) : State :=
  match s.wgAt e.wg, s.wgAt leader with
  | some g, some l =>
      let sa := s.slotOf e.wg aslot
      let sb := s.slotOf e.wg bslot
      let cols := s.bColumns g sb bsci bofs
      let chk := g.columnFor sb bslot bofs
      let tb := s.tensorScale e.wg sb
      let ta := s.aScale e.wg sa ts
      let row (r : Nat) : OpRow := operandRow l sa ta asci (32 * rowt) r fun b => byteAt l.scratch (aofs + r * stride + b)
      let g' := (List.range rowt).foldl (fun (x : Workgroup) t =>
        x.setTile (tile + t) ((List.range 4).foldl (fun (a : Tile) b =>
          a.band b (passK sb) zero ((natRange (8 * b) 8).map fun r => (r, row (32 * t + r))) cols chk tb) (x.tile (tile + t)))) g
      s.updWg e.wg fun x => { x with tiles := g'.tiles }
  | _, _ => s

/-- SCLD: scratchpad bytes go to scale memory (R343). -/
def State.performScld (s : State) (core : Nat) (e : MEntry) (aofs sidx units : Nat) : State :=
  match s.wgAt e.wg with
  | none => s
  | some g =>
    if g.scratchBad aofs (64 * units) then s.consume core e
    else s.updWg e.wg fun g => { g with
      scale := (List.range (64 * units)).foldl (fun m b => SMap.put m (64 * sidx + b) (byteAt g.scratch (aofs + b))) g.scale
      scalePoison := clearPoison 4 g.scalePoison (64 * sidx) (64 * units) }

/-- ACCZ: zero elements and a fresh hallmark state (R344, R350, R412). -/
def State.performAccz (s : State) (e : MEntry) (mask : BitVec 8) : State :=
  s.updWg e.wg fun g => ((List.range 8).filter fun n => mask.getLsbD n).foldl (fun (x : Workgroup) n =>
    x.setTile n (zeroTile (x.tile n).seed)) g

/-- ACCLD: FP32 rows from the scratchpad (R345). -/
def State.performAccld (s : State) (core : Nat) (e : MEntry) (tile aofs stride bf nb : Nat) : State :=
  match s.wgAt e.wg with
  | none => s
  | some g =>
    if (List.range (8 * nb)).any fun r => g.scratchBad (aofs + r * stride) 512 then s.consume core e
    else s.updWg e.wg fun g =>
      let t := (List.range (8 * nb)).foldl (fun (t : Tile) r => (List.range 128).foldl (fun (t : Tile) j =>
        t.set (128 * (8 * bf + r) + j) (BitVec.ofNat 32 (readLE g.scratch (aofs + r * stride + 4 * j) 4))) t) (g.tile tile)
      g.setTile tile (t.loadMarks bf nb)

/-- Elements packed in a format, each of its width, little-endian (R66). -/
def packElems (bits : Nat) (l : List Nat) : List Byte :=
  toBytes (l.foldr (fun x acc => x % 2 ^ bits + 2 ^ bits * acc) 0) (l.length * bits / 8)

/-- One element as ACCST writes it: bounds, then the conversion with its flags; whether it was out of bounds (R346, R354). -/
def accstElem (slot : Word) (key : Nat) (mode : Word) (ctr : Nat) (bound : Option BoundReg) (x : Word) : Rounded × Bool :=
  let b := match bound with | some b => b.apply x | none => (false, x)
  let y := match bound with | some r => if r.mode = 1 then b.2 else x | none => x
  let rnd := (mode.extractLsb' 0 3).toNat
  let v := decodeFmt fp32 y.toNat
  (toSlot false (slotFmt slot) (if rnd = 0 then 1 else if rnd = 6 && slotFmt slot = 12 then 1 else rnd) false (randArx key ctr) 64
    (v, v.sigFlag), b.1)

/-- ACCST: rows in ascending order, with flags and hits added once (R346, R347, R354). -/
def State.performAccst (s : State) (core : Nat) (e : MEntry) (tile aofs stride dslot bf nb : Nat) (bound : Option (Nat × BoundReg))
    (mode srseq : Word) : State :=
  match s.wgAt e.wg, s.gridAt (gridOfWg e.wg) with
  | some g, some gr =>
    let t := g.tile tile
    let rows := natRange (8 * bf) (8 * nb)
    if rows.any fun r => t.poison.any fun k => k / 128 = r then s.consume core e
    else
      let slot := gr.rec_.slots.getD dslot 0
      let key := match slotKey slot with | some k => (gr.rec_.consts.getD k 0).toNat | none => 0
      let res := rows.map fun r => (r, (List.range 128).map fun j =>
        accstElem slot key mode (srseq.toNat * 2 ^ 32 + (e.wg.wgid * 4096 + 128 * r + j) % 2 ^ 32) (bound.map (·.2)) (t.get (128 * r + j)))
      let s1 := res.foldl (fun t r => t.storeS e.wg (aofs + (r.1 - 8 * bf) * stride)
        (packElems (fmtBits (slotFmt slot)) (r.2.map (·.1.code)))) s
      let fl := orFlags (res.flatMap fun r => r.2.map (·.1.flags))
      let hits := ((res.flatMap fun r => r.2).filter fun x => x.2).length
      let s2 := s1.updWarp ⟨core, e.warp⟩ fun w => if w.wg = e.wg then w.addFlags fl else w
      match bound with
      | none => s2
      | some (n, _) => s2.updCore core fun c =>
          let b := SMap.get freshBound c.bounds n
          { c with bounds := SMap.set freshBound c.bounds n { b with hit := min 65535 (b.hit + hits) } }
  | _, _ => s

/-- The effect of an entry when it completes. -/
def State.performEntry (s : State) (core : Nat) (e : MEntry) : State :=
  match e.work with
  | .pass bofs aslot bslot bsci qs => s.performPass core e bofs aslot bslot bsci qs
  | .team tile aslot bslot bofs bsci rowt zero leader aofs stride asci ts _ =>
    s.performTeam e tile aslot bslot bofs bsci rowt zero leader aofs stride asci ts
  | .scld aofs sidx units => s.performScld core e aofs sidx units
  | .accz m => s.performAccz e m
  | .accld tile aofs stride bf nb => s.performAccld core e tile aofs stride bf nb
  | .accst tile aofs stride dslot bf nb bound mode srseq => s.performAccst core e tile aofs stride dslot bf nb bound mode srseq

/-! ### The queue's events (R331) -/

def MEntry.isPass (e : MEntry) : Bool := match e.work with | .pass .. | .team .. => true | _ => false

/-- The entries of a team pass that are still queued. -/
def MEntry.mateIds (e : MEntry) : List Nat := match e.work with | .team _ _ _ _ _ _ _ _ _ _ _ _ m => m | _ => [e.id]

/-- An entry may start: nothing is before it in its queue, nor for a team pass before its parts in the members' queues; no fence
holds it, and its workgroup is not saved (R271, R331, R341, R425). -/
def State.mayStart (s : State) (e : MEntry) : Bool :=
  !e.started && s.cores.all fun c => (c.mq.zipIdx).all fun x =>
    !(e.mateIds.contains x.1.id) || (x.2 = 0 && !(x.1.fences.any s.fenceIdOpen) && !s.isSaved x.1.wg)

/-- Marks an entry and the other parts of its team pass as started. -/
def State.startEntry (s : State) (e : MEntry) : State :=
  { s with cores := s.cores.map fun (c : Core) =>
      { c with mq := c.mq.map fun x => if e.mateIds.contains x.id then { x with started := true } else x } }

/-- The head of a core's queue starts (R331, R341). -/
def startHead (core : Nat) (pass : Bool) (row : String) (s : State) : Out :=
  match s.mqOf core with
  | e :: _ => if e.isPass = pass ∧ s.mayStart e then .next (s.startEntry e) else .refused (.notEnabled row)
  | [] => .refused (.notEnabled row)

/-- A member's part of a team pass reads poison. -/
def State.partBad (s : State) (e : MEntry) : Bool :=
  match e.work with
  | .team tile aslot bslot bofs bsci rowt zero leader aofs stride asci _ _ =>
    s.teamBad e tile aslot bslot bofs bsci rowt zero leader aofs stride asci
  | _ => false

/-- The queued parts of the pass that an entry belongs to, with their cores. -/
def State.partsOf (s : State) (e : MEntry) : List (Nat × MEntry) :=
  s.cores.flatMap fun c => c.mq.filterMap fun x => if e.mateIds.contains x.id then some (c.phys, x) else none

/-- A team pass completes as one: its parts leave every member's queue; where one reads poison the event belongs to every member, and
none writes (R340, R341, R400, R413). -/
def State.completeTeam (s : State) (e : MEntry) : State :=
  let parts := s.partsOf e
  let s1 : State := { s with cores := s.cores.map fun (c : Core) =>
    { c with mq := c.mq.filter fun x => !e.mateIds.contains x.id } }
  if parts.any fun p => s.partBad p.2 then parts.foldl (fun t p => t.consume p.1 p.2) s1
  else parts.foldl (fun t p => t.performEntry p.1 p.2) s1

/-- The head of a core's queue, started, completes and leaves (R331, R341, R360). -/
def completeHead (core : Nat) (pass : Bool) (row : String) (s : State) : Out :=
  match s.mqOf core with
  | e :: q =>
    if e.isPass = pass ∧ e.started then
      (match e.work with
       | .team .. => .next (s.completeTeam e).settle
       | _ => .next ((s.setMq core q).performEntry core e).settle)
    else .refused (.notEnabled row)
  | [] => .refused (.notEnabled row)

def execMatrixPassStart (core : Nat) (s : State) : Out := startHead core true "MATRIX_PASS_START" s
def execMatrixPassComplete (core : Nat) (s : State) : Out := completeHead core true "MATRIX_PASS_COMPLETE" s
def execMatrixEntryStart (core : Nat) (s : State) : Out := startHead core false "MATRIX_ENTRY_START" s
def execMatrixEntryComplete (core : Nat) (s : State) : Out := completeHead core false "MATRIX_ENTRY_COMPLETE" s

end Sys2Proof.Machine
end

