-- ==== Sys2Proof/Machine/Integer.lean ====
section
/-! DEFINITION. The integer instructions: base words and EXT.INT (R204 to R225). -/

namespace Sys2Proof.Machine

/-! ### Arithmetic on words -/

/-- A shift count past the width gives nothing (R208, R225). -/
def shlW {w : Nat} (a : BitVec w) (n : Nat) : BitVec w := if w ≤ n then 0 else a <<< n
def shrW {w : Nat} (a : BitVec w) (n : Nat) : BitVec w := if w ≤ n then 0 else a >>> n
def sarW {w : Nat} (a : BitVec w) (n : Nat) : BitVec w := a.sshiftRight (min n w)

/-- High half of a signed product (R208). -/
def mulHighS (a b : Word) : Word := BitVec.ofInt 32 (a.toInt * b.toInt / 2 ^ 32)
/-- High half of an unsigned product (R208). -/
def mulHighU (a b : Word) : Word := BitVec.ofNat 32 (a.toNat * b.toNat / 2 ^ 32)

/-- Truncating signed quotient and remainder (R217). -/
def quotRemS (w : Nat) (a b : Int) : BitVec w × BitVec w :=
  if b = 0 then (BitVec.allOnes w, BitVec.ofInt w a)
  else
    let q := Int.tdiv a b
    (BitVec.ofInt w q, BitVec.ofInt w (a - q * b))

/-- Unsigned quotient and remainder (R217). -/
def quotRemU (w : Nat) (a b : Nat) : BitVec w × BitVec w :=
  if b = 0 then (BitVec.allOnes w, BitVec.ofNat w a) else (BitVec.ofNat w (a / b), BitVec.ofNat w (a % b))

/-- Bit count of a number of w bits. -/
def popCount (w n : Nat) : Nat := ((List.range w).filter fun i => n.testBit i).length
/-- Zero bits below the lowest one bit among w (R219). -/
def trailZeros (w n : Nat) : Nat := ((List.range w).takeWhile fun i => !n.testBit i).length
/-- Zero bits above the highest one bit among w (R219). -/
def leadZeros (w n : Nat) : Nat := if n = 0 then w else w - 1 - Nat.log2 n
/-- Bit order reversed among w bits (R219). -/
def revBits (w n : Nat) : Nat := (List.range w).foldl (fun r i => if n.testBit i then r + 2 ^ (w - 1 - i) else r) 0

/-- byte(x, i, s) (R50). -/
def byteS (x : Word) (i : Nat) (s : Bool) : Int :=
  let b : Byte := x.extractLsb' (8 * i) 8
  if s then b.toInt else (b.toNat : Int)

/-- clamp(t, lo, hi) (R50). -/
def clampI (t lo hi : Int) : Int := if t < lo then lo else if hi < t then hi else t

/-- A base R-form operation on a and b (R208). -/
def base2 (s : State) (op : Nat) (f : RForm) (g : Word → Word → Word) : Out :=
  intOp s 4 (baseShape op f.toX) f.toX fun o l => (g (o.rd o.f.a l) (o.rd o.f.b l)).setWidth 64

/-! ### Base words (R208 to R211) -/

def execIadd (f : RForm) (s : State) : Out := base2 s 0x03 f fun a b => a + b
def execIsub (f : RForm) (s : State) : Out := base2 s 0x05 f fun a b => a - b
def execImul (f : RForm) (s : State) : Out := base2 s 0x06 f fun a b => a * b
def execImulhs (f : RForm) (s : State) : Out := base2 s 0x07 f mulHighS
def execImulhn (f : RForm) (s : State) : Out := base2 s 0x08 f mulHighU
/-- IMAD reads D before it is written (R208). -/
def execImad (f : RForm) (s : State) : Out :=
  intOp s 4 (baseShape 0x09 f.toX) f.toX fun o l => (o.rd o.f.a l * o.rd o.f.b l + o.rd o.f.d l).setWidth 64
def execIand (f : RForm) (s : State) : Out := base2 s 0x0A f fun a b => a &&& b
def execIor (f : RForm) (s : State) : Out := base2 s 0x0B f fun a b => a ||| b
def execIxor (f : RForm) (s : State) : Out := base2 s 0x0C f fun a b => a ^^^ b
def execIandn (f : RForm) (s : State) : Out := base2 s 0x0D f fun a b => a &&& ~~~b
def execIshl (f : RForm) (s : State) : Out := base2 s 0x0E f fun a b => shlW a b.toNat
def execIshr (f : RForm) (s : State) : Out := base2 s 0x0F f fun a b => shrW a b.toNat
def execIsar (f : RForm) (s : State) : Out := base2 s 0x10 f fun a b => sarW a b.toNat
def execImins (f : RForm) (s : State) : Out := base2 s 0x12 f fun a b => if a.toInt ≤ b.toInt then a else b
def execImaxs (f : RForm) (s : State) : Out := base2 s 0x13 f fun a b => if b.toInt ≤ a.toInt then a else b
def execIminn (f : RForm) (s : State) : Out := base2 s 0x14 f fun a b => if a.toNat ≤ b.toNat then a else b
def execImaxn (f : RForm) (s : State) : Out := base2 s 0x15 f fun a b => if b.toNat ≤ a.toNat then a else b
/-- ISEL: the condition is the PFX C operand, else a (R209). -/
def execIsel (f : RForm) (s : State) : Out :=
  intOp s 4 (baseShape 0x16 f.toX) f.toX fun o l =>
    let a := o.rd o.f.a l
    let c := match o.i.pfxC with | some c => o.rd c l | none => a
    (if c != 0 then a else o.rd o.f.b l).setWidth 64
/-- IADDI (R210). -/
def execIaddi (f : IForm) (s : State) : Out :=
  intOp s 4 (baseShape 0x04 f.toX) f.toX fun o l => (o.rd o.f.a l + f.imm.signExtend 32).setWidth 64
/-- ISHI's four kinds (R211). -/
def ishiVal (a : Word) (imm : BitVec 8) : Word :=
  let n := (imm.extractLsb' 0 5).toNat
  match (imm.extractLsb' 6 2).toNat with
  | 0 => a <<< n
  | 1 => a >>> n
  | 2 => a.sshiftRight n
  | _ => a.rotateLeft n
def execIshi (f : IForm) (s : State) : Out :=
  intOp s 4 (baseShape 0x11 f.toX) f.toX fun o l => (ishiVal (o.rd o.f.a l) f.imm).setWidth 64

/-! ### EXT.INT (R212 to R225) -/

/-- An EXT.INT instruction. -/
def extInt (s : State) (xop : Nat) (f : XForm) (fn : Opnd → Nat → DWord) : Out :=
  intOp s f.len (shapeInt xop f) f fn

/-- A unary w-bit operation on a number. -/
def unary (s : State) (xop : Nat) (f : XForm) (g : Nat → Nat → Nat) : Out :=
  extInt s xop f fun o l => BitVec.ofNat 64 (g f.tyW (o.rdN f.a l f.tyW))

def execIadd64 (f : XForm) (s : State) : Out := extInt s 0x00 f fun o l => o.rd64 f.a l + o.rd64 f.b l
def execIsub64 (f : XForm) (s : State) : Out := extInt s 0x01 f fun o l => o.rd64 f.a l - o.rd64 f.b l
def execImul64 (f : XForm) (s : State) : Out := extInt s 0x02 f fun o l => o.rd64 f.a l * o.rd64 f.b l
/-- IMADW (R215). -/
def execImadw (f : XForm) (s : State) : Out :=
  extInt s 0x03 f fun o l =>
    let x (c : BitVec 8) : DWord := if f.ty = 0 then (o.rd c l).signExtend 64 else (o.rd c l).setWidth 64
    x f.a * x f.b + o.rd64 f.c l
/-- IADDC: the sum and its carry in the pair (R216). -/
def execIaddc (f : XForm) (s : State) : Out :=
  extInt s 0x04 f fun o l =>
    (o.rd f.a l).setWidth 64 + (o.rd f.b l).setWidth 64 + (if (o.rd f.c l).getLsbD 0 then 1 else 0)

/-- A division: a zero divisor in any lane raises before any lane writes, unless NT (R217). -/
def divide (s : State) (xop : Nat) (f : XForm) (sg wantRem : Bool) : Out :=
  let w := f.tyW
  operate s (shapeInt xop f) f noExtra fun o =>
    if o.i.mask != 0 && !f.bit 0 && o.lanes.any fun l => o.rdN f.b l w == 0 then raise s o.i 0x0A5
    else
      let g (l : Nat) : DWord :=
        let r : BitVec w × BitVec w :=
          if sg then quotRemS w (BitVec.ofNat w (o.rdN f.a l w)).toInt (BitVec.ofNat w (o.rdN f.b l w)).toInt
          else quotRemU w (o.rdN f.a l w) (o.rdN f.b l w)
        if wantRem then r.2.setWidth 64 else r.1.setWidth 64
      o.complete s f.len (some (o.lanes.map fun l => (l, g l))) id

def execIdivs (f : XForm) (s : State) : Out := divide s 0x05 f true false
def execIdivn (f : XForm) (s : State) : Out := divide s 0x06 f false false
def execIrems (f : XForm) (s : State) : Out := divide s 0x07 f true true
def execIremn (f : XForm) (s : State) : Out := divide s 0x08 f false true

/-- |a| or −a on w bits; SAT turns the most negative value into the most positive (R218). -/
def absNeg (neg sat : Bool) (w n : Nat) : Nat :=
  if sat && n == 2 ^ (w - 1) then 2 ^ (w - 1) - 1
  else if neg || 2 ^ (w - 1) ≤ n then (2 ^ w - n) % 2 ^ w else n

def execIabs (f : XForm) (s : State) : Out :=
  extInt s 0x09 f fun o l => BitVec.ofNat 64 (absNeg false o.i.sat f.tyW (o.rdN f.a l f.tyW))
def execIneg (f : XForm) (s : State) : Out :=
  extInt s 0x0A f fun o l => BitVec.ofNat 64 (absNeg true o.i.sat f.tyW (o.rdN f.a l f.tyW))
def execIclz (f : XForm) (s : State) : Out := unary s 0x0B f leadZeros
def execIctz (f : XForm) (s : State) : Out := unary s 0x0C f trailZeros
def execIpopc (f : XForm) (s : State) : Out := unary s 0x0D f popCount
def execIbrev (f : XForm) (s : State) : Out := unary s 0x0E f revBits

/-- Position and length of a field: from MOD when IS = 1, else from the control value (R220). -/
def fieldCtl (o : Opnd) (f : XForm) (c : BitVec 8) (l : Nat) : Nat × Nat :=
  if f.bit 16 then (f.fld 7 0, f.fld 15 8)
  else ((o.rd c l).toNat % 256, (o.rd c l).toNat / 256 % 256)

/-- IBFX on w bits (R220). -/
def bitExtract (sg : Bool) (w a pos len : Nat) : Nat :=
  let p := min pos w
  let n := min len (w - p)
  let x := a / 2 ^ p % 2 ^ n
  if sg && n != 0 && x.testBit (n - 1) then x + 2 ^ w - 2 ^ n else x

/-- IBFI on w bits (R220). -/
def bitInsert (w a b pos len : Nat) : Nat :=
  let p := min pos w
  let n := min len (w - p)
  b - b / 2 ^ p % 2 ^ n * 2 ^ p + a % 2 ^ n * 2 ^ p

def execIbfx (f : XForm) (s : State) : Out :=
  extInt s 0x0F f fun o l =>
    let c := fieldCtl o f f.b l
    BitVec.ofNat 64 (bitExtract (f.ty = 0 || f.ty = 2) f.tyW (o.rdN f.a l f.tyW) c.1 c.2)
def execIbfi (f : XForm) (s : State) : Out :=
  extInt s 0x10 f fun o l =>
    let c := fieldCtl o f f.c l
    BitVec.ofNat 64 (bitInsert f.tyW (o.rdN f.a l f.tyW) (o.rdN f.b l f.tyW) c.1 c.2)

/-- IFSHL (R221). -/
def execIfshl (f : XForm) (s : State) : Out :=
  extInt s 0x11 f fun o l =>
    let x : DWord := o.rd f.a l ++ o.rd f.b l
    ((x <<< min (o.rd f.c l).toNat 32).extractLsb' 32 32).setWidth 64

/-- One result byte of IPERM from a nibble (R222). -/
def permByte (x : DWord) (nib : Nat) : Nat :=
  let b := (x.extractLsb' (8 * (nib % 8)) 8).toNat
  if nib < 8 then b else if 128 ≤ b then 255 else 0
/-- IPERM (R222). -/
def permVal (a b : Word) (sel : Nat) : Nat :=
  let x : DWord := b ++ a
  (List.range 4).foldl (fun r i => r + permByte x (sel / 16 ^ i % 16) * 256 ^ i) 0
def execIperm (f : XForm) (s : State) : Out :=
  extInt s 0x12 f fun o l =>
    let sel := if f.bit 16 then f.fld 15 0 else (o.rd f.c l).toNat % 65536
    BitVec.ofNat 64 (permVal (o.rd f.a l) (o.rd f.b l) sel)

/-- Element width and signedness of a saturating type (R223). -/
def satElem (ty : Nat) : Nat × Bool :=
  (if ty ≤ 1 then 32 else if ty ≤ 5 then 16 else 8, ty % 2 == 0)
/-- One saturated element as its k bits (R223). -/
def satOne (k : Nat) (sg sub : Bool) (a b : Nat) : Nat :=
  let v (n : Nat) : Int := if sg then (BitVec.ofNat k n).toInt else (n : Int)
  let t := if sub then v a - v b else v a + v b
  let c := if sg then clampI t (-(2 ^ (k - 1))) (2 ^ (k - 1) - 1) else clampI t 0 (2 ^ k - 1)
  (BitVec.ofInt k c).toNat
/-- Packed saturating addition or subtraction (R223). -/
def satVal (ty : Nat) (sub : Bool) (a b : Nat) : Nat :=
  let e := satElem ty
  (List.range (32 / e.1)).foldl
    (fun r i => r + satOne e.1 e.2 sub (a / 2 ^ (i * e.1) % 2 ^ e.1) (b / 2 ^ (i * e.1) % 2 ^ e.1) * 2 ^ (i * e.1)) 0
def execIaddsat (f : XForm) (s : State) : Out :=
  extInt s 0x13 f fun o l => BitVec.ofNat 64 (satVal f.ty.toNat false (o.rdN f.a l 32) (o.rdN f.b l 32))
def execIsubsat (f : XForm) (s : State) : Out :=
  extInt s 0x14 f fun o l => BitVec.ofNat 64 (satVal f.ty.toNat true (o.rdN f.a l 32) (o.rdN f.b l 32))

/-- IDOT4 (R224). -/
def dot4 (sa mix sat : Bool) (a b c : Word) : Word :=
  let sb := sa != mix
  let sg := sa || sb
  let t : Int := (if sg then c.toInt else (c.toNat : Int)) +
    (List.range 4).foldl (fun r i => r + byteS a i sa * byteS b i sb) 0
  BitVec.ofInt 32 (if !sat then t else if sg then clampI t (-(2 ^ 31)) (2 ^ 31 - 1) else clampI t 0 (2 ^ 32 - 1))
def execIdot4 (f : XForm) (s : State) : Out :=
  extInt s 0x15 f fun o l => (dot4 (f.ty = 6) (f.bit 0) o.i.sat (o.rd f.a l) (o.rd f.b l) (o.rd f.c l)).setWidth 64

def execIshl64 (f : XForm) (s : State) : Out := extInt s 0x16 f fun o l => shlW (o.rd64 f.a l) (o.rd f.b l).toNat
def execIshr64 (f : XForm) (s : State) : Out := extInt s 0x17 f fun o l => shrW (o.rd64 f.a l) (o.rd f.b l).toNat
def execIsar64 (f : XForm) (s : State) : Out := extInt s 0x18 f fun o l => sarW (o.rd64 f.a l) (o.rd f.b l).toNat
/-- ISEL64 (R225). -/
def execIsel64 (f : XForm) (s : State) : Out :=
  extInt s 0x19 f fun o l => if o.rd f.c l != 0 then o.rd64 f.a l else o.rd64 f.b l

end Sys2Proof.Machine
end

