-- ==== Sys2Proof/Machine/Lane.lean ====
section
/-! DEFINITION. The EXT.LANE instructions: compares, mask operations, shuffles, votes, trees, mask transfer and index registers
(R251 to R259, R154 to R159). -/

namespace Sys2Proof.Machine

/-! ### Compares (R251) -/

/-- The condition codes 0 to 5 on an ordering (R251). -/
def ccHolds (cc : Nat) (o : Ordering) : Bool :=
  match cc with
  | 0 => o == .eq
  | 1 => o != .eq
  | 2 => o == .lt
  | 3 => o != .gt
  | 4 => o == .gt
  | _ => o != .lt

/-- An integer compare of two codes of a type of the INT column (R251). -/
def icmpLane (ty cc : Nat) (a b : DWord) : Bool :=
  let o : Ordering := match ty with
    | 0 => compare (a.setWidth 32).toInt (b.setWidth 32).toInt
    | 1 => compare (a.setWidth 32).toNat (b.setWidth 32).toNat
    | 2 => compare a.toInt b.toInt
    | _ => compare a.toNat b.toNat
  ccHolds cc o

def execIcmp (f : XForm) (s : State) : Out :=
  maskOp s f (shapeLane 0x00 f 64) fun o l =>
    (icmpLane f.ty.toNat (f.fld 2 0) (if f.tyW = 64 then o.rd64 f.a l else (o.rd f.a l).setWidth 64)
      (if f.tyW = 64 then o.rd64 f.b l else (o.rd f.b l).setWidth 64), 0)

/-- A float compare (R251): its bit and whether it sets invalid. -/
def fcmpLane (ftz : Bool) (cc a b : Nat) : Bool × Flags5 :=
  let x := decode32 ftz a
  let y := decode32 ftz b
  let sig := x.sigFlag ||| y.sigFlag
  if x.isNan || y.isNan then
    (cc = 1 || cc = 6, sig ||| flagIf (2 ≤ cc && cc ≤ 5) flNV)
  else if cc = 6 then (false, sig)
  else if cc = 7 then (true, sig)
  else (ccHolds cc (x.cmp y), sig)

def execFcmp (f : XForm) (s : State) : Out :=
  maskOp s f (shapeLane 0x01 f 64) fun o l => fcmpLane o.i.w.ftz (f.fld 2 0) (o.rdN f.a l 32) (o.rdN f.b l 32)

/-! ### Mask operations (R252) -/

/-- A mask operation on the bits of two mask registers. -/
def maskBits (s : State) (xop : Nat) (f : XForm) (g : Bool → Bool → Bool) : Out :=
  maskOp s f (shapeLane xop f 64) fun o l =>
    (g ((o.i.w.maskReg f.a.toNat).getLsbD l) ((o.i.w.maskReg f.b.toNat).getLsbD l), 0)

def execMand (f : XForm) (s : State) : Out := maskBits s 0x02 f fun a b => a && b
def execMor (f : XForm) (s : State) : Out := maskBits s 0x03 f fun a b => a || b
def execMxor (f : XForm) (s : State) : Out := maskBits s 0x04 f fun a b => a != b
def execMandn (f : XForm) (s : State) : Out := maskBits s 0x05 f fun a b => a && !b

/-- MTOR copies a whole mask register (R158). -/
def execMtor (f : XForm) (s : State) : Out :=
  warpVal s f.len (shapeLane 0x06 f 64) f noExtra fun o => (o.i.w.maskReg f.a.toNat, 0)

/-- RTOM tests each lane's value, or spreads a 64-bit value over the lanes (R159). -/
def execRtom (f : XForm) (s : State) : Out :=
  maskOp s f (shapeLane 0x07 f 64) fun o l =>
    let perLane := match clsOf f.a with
      | .v _ | .x _ => true
      | .l n => (match o.i.fl.latch n with | some t => !t.scalar | none => false)
      | _ => false
    (if perLane then o.rd f.a l != 0 else (o.rd64 f.a l).getLsbD l, 0)

def execMpopc (f : XForm) (s : State) : Out :=
  warpVal s f.len (shapeLane 0x08 f 64) f noExtra fun o =>
    (BitVec.ofNat 64 (lanesOf (o.i.mask &&& o.i.w.maskReg f.a.toNat)).length, 0)

def execSelm (f : XForm) (s : State) : Out :=
  intOp s f.len (shapeLane 0x09 f 64) f fun o l =>
    let c := if (o.i.w.maskReg f.c.toNat).getLsbD l then f.a else f.b
    if f.tyW = 64 then o.rd64 c l else (o.rd c l).setWidth 64

/-! ### Reading other lanes (R253 to R258) -/

/-- Whether one of the lanes that an instruction reads of A holds a poisoned entry (R253, R413). -/
def Opnd.lanesPoisoned (o : Opnd) (ls : List Nat) : Bool :=
  o.i.mask != 0 && (match o.vNum o.f.a with
    | some m => (natRange m (o.sh.a.width / 32)).any fun j => ls.any fun l => o.i.w.regPoison.contains (64 * j + l)
    | none => match clsOf o.f.a with
      | .s m => (natRange (12288 + m) (o.sh.a.width / 32)).any fun k => o.i.w.regPoison.contains k
      | _ => false)

/-- The value of A in a lane at the width of its field. -/
def Opnd.aAt (o : Opnd) (l : Nat) : DWord := (o.rd128 o.f.a l o.sh.a.width).setWidth 64

/-- A cross-lane instruction: reads names the lanes of A it reads, fn gives each lane's value, fl its flags (R253). -/
def crossOp (s : State) (sh : Shape) (f : XForm) (reads : Opnd → List Nat) (fn : Opnd → Nat → DWord) (fl : Opnd → Flags5) : Out :=
  operate s sh f noExtra fun o =>
    if o.lanesPoisoned (reads o) then raise s o.i o.i.wg.serCause
    else o.complete s f.len (some (o.lanes.map fun l => (l, fn o l))) fun w => w.addFlags (fl o)

/-- The source lane of a shuffle (R254): mode 0 SHFL, 1 SHFLUP, 2 SHFLDN, 3 SHFLX. -/
def shufSrc (mode c k l : Nat) : Nat :=
  let base := l - l % c
  match mode with
  | 0 => base + k % c
  | 1 => if k ≤ l % c then l - k else l
  | 2 => if l % c + k < c then l + k else l
  | _ => let x := l ^^^ k; if base ≤ x ∧ x < base + c then x else l

/-- A shuffle (R254). -/
def shuffle (s : State) (mode : Nat) (f : XForm) : Out :=
  let src (o : Opnd) (l : Nat) : Nat := shufSrc mode (segLen o.i.w.width (f.fld 2 0)) (o.shufK l) l
  crossOp s (shapeLane (0x0A + mode) f 64) f (fun o => (lanesOf o.i.mask).map (src o)) (fun o l => o.aAt (src o l)) fun _ => 0

def execShfl (f : XForm) (s : State) : Out := shuffle s 0 f
def execShflup (f : XForm) (s : State) : Out := shuffle s 1 f
def execShfldn (f : XForm) (s : State) : Out := shuffle s 2 f
def execShflx (f : XForm) (s : State) : Out := shuffle s 3 f

/-- BCAST (R255). -/
def execBcast (f : XForm) (s : State) : Out :=
  crossOp s (shapeLane 0x0E f 64) f (fun o => [o.oneLane]) (fun o _ => o.aAt o.oneLane) fun _ => 0

/-- The value of VOTE (R256): KIND 0 all, 1 any, 2 uni. -/
def voteVal (kind : Nat) (vals : List DWord) : Bool :=
  match kind with
  | 0 => vals.all (· != 0)
  | 1 => vals.any (· != 0)
  | _ => match vals with
    | [] => true
    | x :: xs => xs.all (· == x)

def execVote (f : XForm) (s : State) : Out :=
  crossOp s (shapeLane 0x0F f 64) f (fun o => lanesOf o.i.mask)
    (fun o _ => if voteVal (f.fld 1 0) ((lanesOf o.i.mask).map o.aAt) then 1 else 0) fun _ => 0

def execBallot (f : XForm) (s : State) : Out :=
  crossOp s (shapeLane 0x10 f 64) f (fun o => lanesOf o.i.mask)
    (fun o _ => maskOf ((lanesOf o.i.mask).filter fun l => o.aAt l != 0)) fun _ => 0

/-! ### Trees (R87, R88, R257) -/

/-- An operator of REDUX and SCAN on two values of w bits (R257). -/
def reduxOp (ftz : Bool) (mode opc w : Nat) (a b : Nat) : Nat × Flags5 :=
  let x := BitVec.ofNat w a
  let y := BitVec.ofNat w b
  match opc with
  | 0 => ((x + y).toNat, 0)
  | 1 => ((if x.toInt ≤ y.toInt then x else y).toNat, 0)
  | 2 => ((if x.toInt ≤ y.toInt then y else x).toNat, 0)
  | 3 => (min a b, 0)
  | 4 => (max a b, 0)
  | 5 => ((x &&& y).toNat, 0)
  | 6 => ((x ||| y).toNat, 0)
  | 7 => ((x ^^^ y).toNat, 0)
  | 8 => let r := FOp.add.elem ftz mode fp32 a b; (r.code, r.flags)
  | 9 => let r := FOp.min.elem ftz mode fp32 a b; (r.code, r.flags)
  | _ => let r := FOp.max.elem ftz mode fp32 a b; (r.code, r.flags)

/-- Two nodes combined, either absent (R87). -/
def joinNodes (op : Nat → Nat → Nat × Flags5) (a b : Option Nat × Flags5) : Option Nat × Flags5 :=
  match a.1, b.1 with
  | none, _ => (b.1, a.2 ||| b.2)
  | _, none => (a.1, a.2 ||| b.2)
  | some x, some y => let r := op x y; (some r.1, a.2 ||| b.2 ||| r.2)

/-- node(lo, 2^j) with the flags of all it combines (R87). -/
def treeNode (op : Nat → Nat → Nat × Flags5) (v : Nat → Option Nat) : Nat → Nat → Option Nat × Flags5
  | 0, lo => (v lo, 0)
  | j + 1, lo => joinNodes op (treeNode op v j lo) (treeNode op v j (lo + 2 ^ j))

/-- tree_scan(i) from level j down (R88). -/
def treeScan (op : Nat → Nat → Nat × Flags5) (v : Nat → Option Nat) (i : Nat) : Nat → Nat → Option Nat × Flags5 → Option Nat × Flags5
  | 0, lo, acc => if (i + 1).testBit 0 then joinNodes op acc (treeNode op v 0 lo) else acc
  | j + 1, lo, acc =>
    if (i + 1).testBit (j + 1) then treeScan op v i j (lo + 2 ^ (j + 1)) (joinNodes op acc (treeNode op v (j + 1) lo))
    else treeScan op v i j lo acc

/-- log2 of a warp's width. -/
def Warp.widthLog (w : Warp) : Nat := if w.width = 16 then 4 else if w.width = 32 then 5 else 6

/-- The value of A in the lanes of the execution mask; what a tree of one lane returns (R77, R257; log 72). -/
def Opnd.maskVals (o : Opnd) (l : Nat) : Option Nat :=
  if o.i.mask.getLsbD l then some (flushIn (o.i.w.ftz && o.f.ty == 0) (o.aAt l).toNat) else none

/-- The operator an instruction names (R257). -/
def Opnd.treeOp (o : Opnd) : Nat → Nat → Nat × Flags5 := reduxOp o.i.w.ftz o.i.rndNoSr (o.f.fld 3 0) o.sh.a.width

/-- The reduction of the warp (R87). -/
def Opnd.reduce (o : Opnd) : Option Nat × Flags5 := treeNode o.treeOp o.maskVals o.i.w.widthLog 0

/-- The prefix of a lane (R88). -/
def Opnd.scanAt (o : Opnd) (l : Nat) : Option Nat × Flags5 := treeScan o.treeOp o.maskVals l o.i.w.widthLog 0 (none, 0)

def execRedux (f : XForm) (s : State) : Out :=
  crossOp s (shapeLane 0x11 f 64) f (fun o => lanesOf o.i.mask) (fun o _ => BitVec.ofNat 64 (o.reduce.1.getD 0)) fun o => o.reduce.2

def execScan (f : XForm) (s : State) : Out :=
  crossOp s (shapeLane 0x12 f 64) f (fun o => lanesOf o.i.mask) (fun o l => BitVec.ofNat 64 ((o.scanAt l).1.getD 0))
    fun o => orFlags ((lanesOf o.i.mask).map fun l => (o.scanAt l).2)

/-- MATCH (R258). -/
def execMatchLanes (f : XForm) (s : State) : Out :=
  crossOp s (shapeLane 0x13 f 64) f (fun o => lanesOf o.i.mask)
    (fun o l => maskOf ((lanesOf o.i.mask).filter fun j => o.aAt j == o.aAt l)) fun _ => 0

/-! ### Index registers (R154 to R156) -/

/-- A value of an index register, 255 where it is out of range (R154). -/
def indexVal (n : Int) : Nat := if 0 ≤ n ∧ n ≤ 255 then n.toNat else 255

/-- The value XSET gives (R154). -/
def xsetVal (opr val imm : Nat) (a : Word) : Nat :=
  match opr with
  | 0 => indexVal (a.toNat : Int)
  | 1 => indexVal (imm : Int)
  | 2 => indexVal ((val : Int) + a.toInt)
  | _ => indexVal ((val : Int) + (BitVec.ofNat 8 imm).toInt)

def execXset (f : XForm) (s : State) : Out :=
  operate s (shapeLane 0x14 f 64) f noExtra fun o =>
    o.complete s f.len none fun w =>
      let n := f.d.toNat
      let x := w.xReg n
      w.setX n { x with val := xsetVal (f.fld 9 8) x.val (f.fld 7 0) (o.rd f.a warpLane) }

/-- XWIN sets window and value (R155). -/
def execXwin (f : XForm) (s : State) : Out :=
  operate s (shapeLane 0x15 f 64) f noExtra fun o =>
    o.complete s f.len none fun w => w.setX f.d.toNat ⟨f.fld 7 0, f.fld 7 0, f.fld 15 8⟩

end Sys2Proof.Machine
end

