-- ==== Sys2Proof/Machine/Wire.lean ====
section
/-! DEFINITION. The Gallery's links: flits received, packets in their lanes, routes, what is sent, ports trained (R440 to R443, R475,
R476). -/

namespace Sys2Proof.Machine

/-! ### Headers (R443, R476) -/

/-- Bytes of a packet's data: those of OP 0, 1, 3 and 4 follow the header flit (R443). -/
def opHasData (op : Nat) : Bool := op = 0 || op = 1 || op = 3 || op = 4

/-- The header flit of a packet of OP 0 to 6, with no data yet (R443). -/
def parseHeader (bs : List Byte) : Packet :=
  let le (o n : Nat) : Nat := ofBytes ((bs.drop o).take n)
  let a := le 0 4
  let b := le 4 4
  let c := le 8 4
  let d := le 0x20 4
  { op := bitsAt b 0 8
    gen := BitVec.ofNat 16 (bitsAt a 16 16)
    comm := bitsAt a 0 16
    srcRank := bitsAt b 20 12
    dstRank := bitsAt b 8 12
    name := bitsAt c 16 16
    bgen := BitVec.ofNat 16 (bitsAt c 0 16)
    seq := le 0x0C 4
    ofs := le 0x10 8
    len := le 0x18 4
    sofs := le 0x1C 4
    sname := bitsAt d 16 16
    sv := d.testBit 15
    opr := bitsAt d 12 3
    kind := bitsAt d 10 2
    data := []
    poison := [] }

/-- The header flit of a packet of OP 0 to 6 (R443). -/
def packHeader (p : Packet) : List Byte :=
  toBytes (p.comm + 2 ^ 16 * p.gen.toNat) 4 ++ toBytes (p.op + 2 ^ 8 * p.dstRank + 2 ^ 20 * p.srcRank) 4 ++
  toBytes (p.bgen.toNat + 2 ^ 16 * p.name) 4 ++ toBytes p.seq 4 ++ toBytes p.ofs 8 ++ toBytes p.len 4 ++ toBytes p.sofs 4 ++
  toBytes (2 ^ 10 * p.kind + 2 ^ 12 * p.opr + (if p.sv then 2 ^ 15 else 0) + 2 ^ 16 * p.sname) 4 ++ List.replicate 220 0

/-- The flit of a membership message (R476): OP 7, its other header fields 0. -/
def packMember (kind evk : Nat) (m : MemberMsg) : List Byte :=
  toBytes 0 4 ++ toBytes 7 4 ++ List.replicate 24 0 ++
  toBytes (m.sender + 2 ^ 12 * m.subj + 2 ^ 24 * evk + 2 ^ 28 * kind) 4 ++ toBytes m.inc 4 ++ toBytes m.evn 8 ++
  toBytes (2 ^ 4 * m.rank + 2 ^ 16 * m.comm) 4 ++ toBytes (m.conf2 + 2 ^ 12 * m.conf1) 4 ++ List.replicate 200 0

/-- The body of a membership message with its KIND and EVK (R476). -/
def parseMember (bs : List Byte) : Nat × Nat × MemberMsg :=
  let le (o n : Nat) : Nat := ofBytes ((bs.drop o).take n)
  let a := le 0x20 4
  let r := le 0x30 4
  let c := le 0x34 4
  (bitsAt a 28 4, bitsAt a 24 4,
   ⟨bitsAt a 0 12, bitsAt a 12 12, le 0x24 4, le 0x28 8, bitsAt r 16 16, bitsAt r 4 12, bitsAt c 12 12, bitsAt c 0 12⟩)

/-- Data flits that follow a header (R443). -/
def dataFlits (p : Packet) : Nat := if opHasData p.op then (p.len + 255) / 256 else 0

/-- The packet at the head of a lane's buffer with the flits it takes, once all of them are there; granule g of data flit f is
granule 8 f + g of the data. -/
def headPacket (fs : List Flit) : Option (Packet × Nat) :=
  match fs with
  | [] => none
  | h :: rest =>
    let p := parseHeader h.data
    let n := dataFlits p
    if rest.length < n then none
    else
      let ds := rest.take n
      let bad := (ds.zipIdx).flatMap fun f => ((List.range 8).filter fun g => f.1.poison.getLsbD g).map fun g => 8 * f.2 + g
      some ({ p with data := (ds.flatMap (·.data)).take (if n = 0 then 0 else p.len), poison := bad }, n + 1)

/-- The membership message at the head of a lane's buffer. -/
def headMember (fs : List Flit) : Option (Nat × Nat × MemberMsg) :=
  match fs with
  | [] => none
  | h :: _ => if (parseHeader h.data).op = 7 then some (parseMember h.data) else none

/-! ### Lanes (R441, R442) -/

/-- Receive buffer of a lane, and the room below which it asks its sender to stop (R442). -/
def laneFlits : Nat := 512
def laneStop : Nat := 320

/-- A membership message with a reserved KIND or EVK, or a reserved field that is not 0 (R2, R476). -/
def memberReserved (bs : List Byte) : Bool :=
  let m := parseMember bs
  6 < m.1 || (m.1 = 5 && 2 < m.2.1) || (m.1 ≠ 5 && m.2.1 ≠ 0) || ofBytes ((bs.drop 0x30).take 1) % 16 ≠ 0 ||
    ofBytes ((bs.drop 0x37).take 1) ≠ 0 || (bs.drop 0x38).any fun b => b ≠ 0

/-- Flits at a lane's head that belong to nothing: reserved OPs and reserved membership messages are discarded (R443, R476). -/
def dropReserved : List Flit → List Flit
  | [] => []
  | h :: rest =>
    let p := parseHeader h.data
    if 7 < p.op || (p.op = 7 && memberReserved h.data) then dropReserved rest else h :: rest

/-- A lane with other contents, its STOP bit set anew; the flits of packets held for a newer GEN count against it (R442, R480). -/
def VLane.refill (fs : List Flit) (held : Nat := 0) : VLane := ⟨fs, laneFlits - (fs.length + held) < laneStop⟩

/-- Changes lane v of a port, of whose flits some are held. -/
def GalPort.setLane (p : GalPort) (v held : Nat) (fs : List Flit) : GalPort :=
  { p with lanes := (p.lanes.zipIdx).map fun l => if l.2 = v then VLane.refill fs held else l.1 }

/-- The virtual lane of a packet (R442). -/
def laneOf (op : Nat) : Nat := if op = 7 then 0 else if op = 0 then 1 else if op = 1 || op = 2 || op = 4 then 2 else 3

/-- Flits of the packets of a lane that wait for a newer GEN (R480). -/
def State.laneHeld (s : State) (port v : Nat) : Nat :=
  (s.member.heldPackets.filter fun x => x.1 = port && laneOf x.2.op = v).foldl (fun n x => n + 1 + dataFlits x.2) 0

def GalPort.lane (p : GalPort) (v : Nat) : List Flit := match p.lanes[v]? with | some l => l.buffered | none => []

def State.setPort (s : State) (n : Nat) (p : GalPort) : State :=
  { s with galPorts := (s.galPorts.zipIdx).map fun q => if q.2 = n then p else q.1 }

/-- Sets a lane's STOP bit anew, what it holds having changed (R442, R480). -/
def State.relane (s : State) (port v : Nat) : State :=
  match s.galPorts[port]? with
  | some p => s.setPort port (p.setLane v (s.laneHeld port v) (p.lane v))
  | none => s

/-! ### Framing, sending and resending (R441, R442) -/

/-- One byte of the CRC-32 of R441, most significant bit first (log 18). -/
def crc32Byte (c : BitVec 32) (b : Byte) : BitVec 32 :=
  (List.range 8).foldl (fun x _ => if x.getLsbD 31 then (x <<< 1) ^^^ 0x04C11DB7 else x <<< 1) (c ^^^ (b.setWidth 32 <<< 24))

/-- Bits [95:0] of a flit's framing (R441). -/
def flitFraming (f : Flit) : BitVec 96 :=
  f.reserved.setWidth 96 ||| (f.stop.setWidth 96 <<< 66) ||| (f.vln.setWidth 96 <<< 70) ||| (f.poison.setWidth 96 <<< 72) |||
    (f.seqno.setWidth 96 <<< 80)

/-- The CRC over the flit and bits [95:0] of its framing (R441; log 18). -/
def flitCheck (f : Flit) : BitVec 32 := (f.data ++ toBytes (flitFraming f).toNat 12).foldl crc32Byte (BitVec.allOnes 32) ^^^ BitVec.allOnes 32

/-- A flit with its CRC. -/
def sealFlit (f : Flit) : Flit := { f with crc := flitCheck f }

def Outgoing.lane : Outgoing → Nat
  | .packet _ p => laneOf p.op
  | .member _ _ _ => 0

/-- Flits of what is sent (R443, R476). -/
def Outgoing.size : Outgoing → Nat
  | .packet _ p => 1 + dataFlits p
  | .member _ _ _ => 1

/-- The flits' 256 bytes with their poisoned granules, the header first (R441, R443, R476). -/
def Outgoing.contents : Outgoing → List (List Byte × BitVec 8)
  | .packet _ p => (packHeader p, 0) :: (List.range (dataFlits p)).map fun f =>
      let bs := (p.data.drop (256 * f)).take 256
      (bs ++ List.replicate (256 - bs.length) 0,
       (List.range 8).foldl (fun x g => if p.poison.contains (8 * f + g) then x ||| (1 <<< g) else x) (0 : BitVec 8))
  | .member k e m => [(packMember k e m, 0)]

/-- The STOP bits a port sends for the opposite direction (R442). -/
def GalPort.stops (p : GalPort) : BitVec 4 :=
  ((p.lanes.take 4).zipIdx).foldl (fun x l => if l.1.stop then x ||| (1 <<< l.2) else x) (0 : BitVec 4)

/-- The flits of a message, framed from a sequence number on. -/
def GalPort.flitsOf (p : GalPort) (seq : BitVec 16) (m : Outgoing) : List Flit :=
  (m.contents.zipIdx).map fun c => sealFlit ⟨0, seq + BitVec.ofNat 16 c.2, c.1.2, BitVec.ofNat 2 m.lane, p.stops, 0, c.1.1⟩

/-- What still has a flit among the last n sent, newest first (R441). -/
def keepHeld : Nat → List (BitVec 16 × Outgoing) → List (BitVec 16 × Outgoing)
  | _, [] => []
  | n, x :: xs => if n = 0 then [] else x :: keepHeld (n - x.2.size) xs

/-- Puts a message on the link: it takes the next sequence numbers and is held for a resend (R441). -/
def State.transmit (s : State) (port : Nat) (m : Outgoing) : State :=
  match s.galPorts[port]? with
  | none => s
  | some p =>
    ({ s with netOut := s.netOut ++ (p.flitsOf p.txSeq m).map (NetMsg.flit port) } : State).setPort port
      { p with txSeq := p.txSeq + BitVec.ofNat 16 m.size, held := (keepHeld 1024 (p.held ++ [(p.txSeq, m)]).reverse).reverse }

/-- Sends what waited, now that stop bits have changed: a message goes when its lane is open; a lane keeps its order (R442). -/
def State.resume (s : State) (port : Nat) : State :=
  match s.galPorts[port]? with
  | none => s
  | some p =>
    let go := p.waiting.filter fun x => !p.peerStop.getLsbD x.2.lane
    go.foldl (fun t x => t.transmit port x.2) (s.setPort port { p with waiting := p.waiting.filter fun x => p.peerStop.getLsbD x.2.lane })

/-- The flits held from a sequence number on, sent again in order (R441). -/
def GalPort.resendFrom (p : GalPort) (seq : BitVec 16) : List Flit :=
  (p.held.flatMap fun x => p.flitsOf x.1 x.2).filter fun f => (p.txSeq - f.seqno).toNat ≤ min 1024 (p.txSeq - seq).toNat

/-- FLIT_RECEIVE (R441): a flit with a bad CRC is discarded with all that follow it until the resend asked for arrives, which fails where
its CRC is bad too; one in sequence joins its lane and its STOP bits hold or release what this end sends. A resend request is answered
from the flits held. -/
def execFlitReceive (port : Nat) (input : LinkInput) (s : State) : Out :=
  match s.galPorts[port]? with
  | none => .refused (.notEnabled "FLIT_RECEIVE")
  | some p =>
    if !p.up then .refused (.notEnabled "FLIT_RECEIVE")
    else match input with
    | .resend seq =>
      let n := match p.asked with
        | some a => if a.1 = seq then a.2 + 1 else 0
        | none => 0
      .next (({ s with netOut := s.netOut ++ (p.resendFrom seq).map (NetMsg.flit port) } : State).setPort port
        { p with asked := some (seq, n) })
    | .flit f =>
      if f.crc ≠ flitCheck f then
        .next (({ s with netOut := s.netOut ++ [.resend port p.rxSeq] } : State).setPort port
          { p with discarding := true, resends := p.resends + 1, failed := if p.discarding then p.failed + 1 else p.failed })
      else if f.seqno ≠ p.rxSeq then .next s
      else
        let v := f.vln.toNat
        if laneFlits ≤ (p.lane v).length + s.laneHeld port v then .refused (.notEnabled "FLIT_RECEIVE")
        else
          let q := p.setLane v (s.laneHeld port v) (dropReserved (p.lane v ++ [f]))
          .next ((s.setPort port { q with rxSeq := p.rxSeq + 1, discarding := false, failed := 0, peerStop := f.stop }).resume port)

/-- Sixteen consecutive resends have failed, as either end counts them (R441; log 24). -/
def GalPort.failing (p : GalPort) : Bool :=
  16 ≤ p.failed || (match p.asked with
    | some a => 16 ≤ a.2
    | none => false)

/-- Takes a packet off the head of lane v of the first port that holds it there; none where no port does. -/
def takeFrom (held : Nat → Nat) (v : Nat) (test : List Flit → Option Nat) : Nat → List GalPort → Option (Nat × GalPort)
  | _, [] => none
  | n, p :: ps => match test (p.lane v) with
    | some k => some (n, p.setLane v (held n) (dropReserved ((p.lane v).drop k)))
    | none => takeFrom held v test (n + 1) ps

/-- The port that holds a received packet of OP 0 to 6 at its lane's head, and that port without it. -/
def State.findPacket (s : State) (p : Packet) : Option (Nat × GalPort) :=
  let v := laneOf p.op
  takeFrom (fun n => s.laneHeld n v) v
    (fun fs => match headPacket fs with | some x => if x.1 = p then some x.2 else none | none => none) 0 s.galPorts

/-- Takes a packet of OP 0 to 6 that has been received. -/
def State.takePacket (s : State) (p : Packet) : Option State := (s.findPacket p).map fun r => s.setPort r.1 r.2

/-- Takes a membership message that has been received. -/
def State.takeMember (s : State) (kind evk : Nat) (m : MemberMsg) : Option State :=
  (takeFrom (fun n => s.laneHeld n 0) 0 (fun fs => if headMember fs = some (kind, evk, m) then some 1 else none) 0 s.galPorts).map fun r => s.setPort r.1 r.2

/-- The whole packets of a lane's buffer, n at most: one that has come in part is not delivered (R475). -/
def wholeFlits : Nat → List Flit → List Flit
  | 0, _ => []
  | n + 1, fs => match headPacket fs with
    | some x => fs.take x.2 ++ wholeFlits n (fs.drop x.2)
    | none => []

/-- A port out of service: what its lanes have received whole stays, its counts too (R475, R503). -/
def GalPort.down (p : GalPort) : GalPort :=
  { GalPort.empty with
    lanes := p.lanes.map fun l => { l with buffered := wholeFlits l.buffered.length l.buffered }
    resends := p.resends
    downs := p.downs }

/-- GALLERY_PORT_TRAINED (R475): a port that was down is back in service; link sequence numbers start at 0 (log 24). -/
def execGalleryPortTrained (port : Nat) (s : State) : Out :=
  match s.galPorts[port]? with
  | none => .refused (.notEnabled "GALLERY_PORT_TRAINED")
  | some p =>
    if p.up then .refused (.notEnabled "GALLERY_PORT_TRAINED")
    else .next (s.setPort port { p.down with up := true })

/-! ### Routes and what is sent (R440, R441, R475) -/

/-- The route entry of a base die for a device; not valid where none is loaded (R440, R494). -/
def State.route (s : State) (die dev : Nat) : BitVec 8 :=
  match s.member.cfg.routes[die]? with
  | some t => SMap.get 0 t dev
  | none => 0

/-- The port of the device that a base die sends to a device on: 4 die + primary (R440, R494). -/
def State.diePort (s : State) (dev die : Nat) : Option Nat :=
  let e := s.route die dev
  let n := 4 * die + (e.extractLsb' 0 2).toNat
  if e.getLsbD 7 && (match s.galPorts[n]? with | some p => p.up | none => false) then some n else none

/-- The port used: of the base die itself, else of the first other die that reaches the device (R475). -/
def State.portFor (s : State) (die dev : Nat) : Option Nat :=
  match s.diePort dev die with
  | some n => some n
  | none => (List.range 8).findSome? fun d => s.diePort dev d

/-- Sends from a base die to another device: on the port's lane, or, while its receiver stops the lane or something waits there before
it, after that (R442); where no route reaches the device, it is dropped (R475). -/
def State.sendOn (s : State) (die dev : Nat) (m : Outgoing) : State :=
  match s.portFor die dev with
  | none => s
  | some n => match s.galPorts[n]? with
    | none => s
    | some q =>
      if q.peerStop.getLsbD m.lane || q.waiting.any (fun x => x.2.lane = m.lane) then s.setPort n { q with waiting := q.waiting ++ [(dev, m)] }
      else s.transmit n m

/-- Sends a packet (R443). -/
def State.send (s : State) (op : Option Nat) (die dev : Nat) (p : Packet) : State := s.sendOn die dev (.packet op p)

/-- Sends a membership message (R476). -/
def State.sendMember (s : State) (dev kind evk : Nat) (m : MemberMsg) : State := s.sendOn 0 dev (.member kind evk m)

end Sys2Proof.Machine
end

