-- ==== Sys2Proof/Machine/Gallery.lean ====
section
/-! DEFINITION. Gallery operations: COLL, PUTS, GET, RADD and GENRD from issue to completion or abort, and the packets of OP 0 to 6
(R444 to R469, R480, R481). -/

namespace Sys2Proof.Machine

/-! ### Communicators and buffers (R444 to R446, R477) -/

def State.commAt (s : State) (n : Nat) : Option Comm := s.comms.find? fun c => c.comm = n

def State.updComm (s : State) (n : Nat) (f : Comm → Comm) : State :=
  { s with comms := s.comms.map fun c => if c.comm = n then f c else c }

/-- The active rank table (R477). -/
def Comm.active (c : Comm) : List (BitVec 16) := if c.act then c.t1 else c.t0

/-- The device of a rank in the active table; none where it is vacant (R477). -/
def Comm.devOf (c : Comm) (rank : Nat) : Option Nat :=
  match c.active[rank]? with
  | some e => if e.getLsbD 15 then none else some (e.extractLsb' 0 12).toNat
  | none => none

/-- Generation a is older than generation b (R477). -/
def genOlder (a b : BitVec 16) : Bool := 1 ≤ (b - a).toNat && (b - a).toNat ≤ 32768

/-- The registration of a name in a communicator; none once its deregistration waits (R446). -/
def State.bufOf (s : State) (comm name : Nat) : Option NamedBuffer :=
  s.buffers.find? fun b => b.d.comm = comm && b.d.name = name && !b.closing

/-- The registration of a name in a communicator, kept until its deregistration completes for the operations that have reached the device
(R446). -/
def State.regOf (s : State) (comm name : Nat) : Option NamedBuffer := s.buffers.find? fun b => b.d.comm = comm && b.d.name = name

/-- The registration of a name for a context; of two communicators' with one name, the first registered (R445, R456, R466; log 22). -/
def State.bufFor (s : State) (ctx name : Nat) : Option NamedBuffer :=
  s.buffers.find? fun b => b.ctx = ctx && b.d.name = name && !b.closing

/-- Bytes of a stripe (R445). -/
def bufferStripe (d : BufferDesc) : Nat := 65536 * 2 ^ d.slog

/-- The stack, and so the base die, of a byte of a buffer (R445). -/
def bufferDie (d : BufferDesc) (ofs : Nat) : Nat := (d.s0 + ofs / bufferStripe d) % 8

/-! ### This device's memory as the base dies reach it (R448) -/

/-- Bytes of one page as a base die reaches them: physical address, length, key slot (R387, R448). -/
structure Run where
  pa : Nat
  n : Nat
  key : KeyNo
  deriving DecidableEq, Repr

/-- A range of virtual addresses as physical runs, split at pages of 64 KiB; or the cause and address of the first that fails. -/
def State.physRuns (s : State) (ctx : Nat) (p : Perm) : Nat → Nat → Nat → Except (Cause × Nat) (List Run)
  | 0, _, _ => .ok []
  | m + 1, va, n =>
    if n = 0 then .ok []
    else
      let k := min n (65536 - va % 65536)
      match s.translate newelSite ctx va p with
      | .fail c => .error (c, va)
      | .noMem _ => .error (0x065, va)
      | .ok pa e => match s.physRuns ctx p m (va + k) (n - k) with
        | .error e => .error e
        | .ok l => .ok (⟨pa, k, keyOf ctx e⟩ :: l)

/-- The runs of n bytes. -/
def State.runsOf (s : State) (ctx : Nat) (p : Perm) (va n : Nat) : Except (Cause × Nat) (List Run) :=
  s.physRuns ctx p (n / 65536 + 2) va n

/-- Bytes of physical runs. -/
def State.runBytes (s : State) (l : List Run) : List Byte := l.flatMap fun r => readBytes (s.seen r.key r.pa r.n) r.pa r.n

/-- The 16-byte units of runs that are poisoned, numbered from u (R412). -/
def State.runPoison (s : State) : Nat → List Run → List Nat
  | _, [] => []
  | u, r :: rs =>
    ((List.range (r.n / 16)).filter fun j => s.poisonedAt (r.pa + 16 * j) 16).map (u + ·) ++ s.runPoison (u + r.n / 16) rs

/-- Writes bytes to runs; those that an LSU atomic meets become unpredictable (R192, R269). -/
def State.writeRuns (s : State) : List Run → List Byte → State
  | [], _ => s
  | r :: rs, bs =>
    let b := s.mixed .plain s.nextId none r.pa 0 (bs.take r.n)
    (((s.spoil .plain none r.pa r.n).useFree r.n).storeG r.key r.pa b).writeRuns rs (bs.drop r.n)

/-- The physical addresses of 16-byte units of runs. -/
def runUnits (l : List Run) : List Nat := l.flatMap fun r => (List.range (r.n / 16)).map fun j => r.pa + 16 * j

/-- Poisons the granules of some units of runs (R412). -/
def State.poisonRuns (s : State) (l : List Run) (us : List Nat) : State :=
  if us.isEmpty then s
  else s.poisonMem (((runUnits l).zipIdx.filter fun x => us.contains x.2).flatMap fun x => granulesOf x.1 16)

/-- Some line of some runs is pending (R364). -/
def State.runsPending (s : State) (l : List Run) : Bool := l.any fun r => s.paPending r.pa r.n

/-- Where the pages of n bytes from an address begin, the address itself first. -/
def pageStarts (va n : Nat) : List Nat :=
  if n = 0 then [] else (natRange (va / 65536) ((va + n - 1) / 65536 - va / 65536 + 1)).map fun p => max va (65536 * p)

/-- An access to n bytes waits: for a walker, or for a pending line (R364, R389). -/
def State.rangePending (s : State) (ctx : Nat) (p : Perm) (va n : Nat) : Bool :=
  ((pageStarts va n).any fun a => s.walkersBusy newelSite ctx a) ||
  match s.runsOf ctx p va n with
  | .ok l => s.runsPending l
  | .error _ => false

/-- The base dies have translated n bytes: what their walks found is kept (R389). -/
def State.walked (s : State) (ctx va n : Nat) : State := s.fillAll newelSite ctx (pageStarts va n)

/-- The lines of runs are read at their home slices (R365). -/
def State.useRuns (s : State) (l : List Run) : State := l.foldl (fun t r => t.useLines r.pa r.n) s

/-- The pages of n bytes from an address, each with its bytes. -/
def pagePieces (va n : Nat) : List (Nat × Nat) := (pageStarts va n).map fun a => (a, min (va + n) (65536 * (a / 65536 + 1)) - a)

/-- Gives the bytes of a range free values, on each of its pages that can be written (R453, log 2). -/
def State.scrambleVa (s : State) (ctx va n : Nat) : State :=
  (pagePieces va n).foldl (fun t x => match t.runsOf ctx .write x.1 x.2 with
    | .error _ => t
    | .ok l => ((t.walked ctx x.1 x.2).writeRuns l ((List.range x.2).map fun j => (t.freeVal j).setWidth 8)).useFree x.2) s

/-! ### Absent workgroups (R432, R453) -/

/-- A workgroup that stands in its context's image, or whose save has begun (R425, R432). -/
def State.absent (s : State) (k : WgKey) : Bool :=
  match s.wgAt k with
  | some g => g.saved
  | none => match s.ctxAt k.ctx with | some c => c.away.contains k | none => false

/-- Physical address of byte b of an image buffer: 2 MiB stripes round the eight stacks (R422). -/
def bufferPa (buf : ImageBuffer) (b : Nat) : Nat :=
  let r := b / 2 ^ 21 % 8
  2 ^ 36 * r + buf.offsets.getD r 0 + 2 ^ 21 * (b / 2 ^ 24) + b % 2 ^ 21

/-- Bytes ofs to ofs + n − 1 of a buffer line by line: the first of each and how many. -/
def bufferPieces (ofs n : Nat) : List (Nat × Nat) :=
  if n = 0 then []
  else (natRange (ofs / 128) ((ofs + n - 1) / 128 - ofs / 128 + 1)).map fun l =>
    (max ofs (128 * l), min (ofs + n) (128 * l + 128) - max ofs (128 * l))

/-- Bytes written to an image buffer at the home slices of its lines (R363, R365, R380, R412, R422). -/
def State.writeBuffer (s : State) (buf : ImageBuffer) (ofs : Nat) (bs : List Byte) : State :=
  (bufferPieces ofs bs.length).foldl
    (fun t p => t.storeG (newelKey buf.slot) (bufferPa buf p.1) ((bs.drop (p.1 - ofs)).take p.2)) s

/-- The byte of an image buffer that lies at a physical address. -/
def bufferOfs (buf : ImageBuffer) (pa : Nat) : Option Nat :=
  if inBuffer buf pa then
    let r := pa % 2 ^ 36 - buf.offsets.getD (pa / 2 ^ 36) 0
    some (2 ^ 24 * (r / 2 ^ 21) + 2 ^ 21 * (pa / 2 ^ 36) + r % 2 ^ 21)
  else none

/-- Some line of bytes ofs to ofs + n − 1 of an image buffer is pending (R364). -/
def State.bufferPending (s : State) (buf : ImageBuffer) (ofs n : Nat) : Bool :=
  let hit (pa : Nat) : Bool := match bufferOfs buf (128 * lineOf pa) with
    | some b => b < ofs + n && ofs < b + 128 && s.paPending pa 1
    | none => false
  (s.pending.any fun p => match p with
    | .access a => a.sent.isSome && a.lanes.any fun x => hit x.pa
    | .fence _ => false) || s.passes.any fun o => hit o.pa || hit (o.pa + o.size - 1)

/-- First byte of the mailbox in an image buffer (R422, R433). -/
def mailboxAt : Nat := 570 * 2 ^ 20

/-- Bytes of a mailbox entry, GRID being the grid's index in the image (R433). -/
def MailEntry.bytes (e : MailEntry) (grid : Nat) : List Byte :=
  toBytes e.wgid 4 ++ toBytes (grid % 65536 * 65536 + e.obj % 65536) 4 ++ toBytes e.value 4 ++
    toBytes ((if e.arrival then 2 ^ 30 else 0) + e.seq % 2 ^ 30) 4

/-- The index of a grid in its context's image (R428, R433). -/
def State.gridIndex (s : State) (k : GridKey) : Nat :=
  let own : List Grid := s.grids.filter fun g => g.key.ctx = k.ctx
  if own.isEmpty then match s.ctxAt k.ctx with
    | some c => c.awayGrids.findIdx fun g => g.1 = k.grid
    | none => 0
  else own.findIdx fun g => g.key = k

/-- Entries of the mailbox (R433). -/
def mailboxRoom : Nat := 393216

/-- The line of a context's next mailbox entry is pending (R364, R433). -/
def State.mailPending (s : State) (c : Context) : Bool :=
  match c.buf with
  | some b => s.bufferPending b (mailboxAt + 16 * (c.mailSeq % mailboxRoom)) 16
  | none => false

/-- Logs an update of a barrier object of an absent workgroup, in the context record and in the buffer's ring (R422, R432, R433). -/
def State.logMail (s : State) (k : WgKey) (obj value : Nat) : State :=
  match s.ctxAt k.ctx with
  | none => s
  | some c =>
    let e : MailEntry := ⟨k.wgid, k.grid, obj, value, false, c.mailSeq % 2 ^ 30⟩
    let s1 := s.updCtx k.ctx fun c => { c with mailbox := c.mailbox ++ [e], mailSeq := c.mailSeq + 1 }
    match c.buf with
    | some b => s1.writeBuffer b (mailboxAt + 16 * (c.mailSeq % mailboxRoom)) (e.bytes (s.gridIndex (gridOfWg k)))
    | none => s1

/-! ### Ends of an operation (R443, R450, R453) -/

/-- A range in pieces of at most 4 KiB, none across a multiple of 64 KiB. -/
def piecesFrom : Nat → Nat → Nat → List (Nat × Nat)
  | 0, _, _ => []
  | m + 1, ofs, n =>
    if n = 0 then []
    else
      let k := min n (min 4096 (65536 - ofs % 65536))
      (ofs, k) :: piecesFrom m (ofs + k) (n - k)

def pieces (ofs n : Nat) : List (Nat × Nat) := piecesFrom (n / 4096 + n / 65536 + 3) ofs n

def State.removeOp (s : State) (id : Nat) : State := ({ s with galOps := s.galOps.filter fun o => o.id ≠ id } : State).settle

def State.setOp (s : State) (o : GalOp) : State := { s with galOps := s.galOps.map fun x => if x.id = o.id then o else x }

/-- An event record about an operation's warp. -/
def GalOp.event (o : GalOp) (evt : Nat) (c : Cause) : EventRec :=
  { EventRec.blank with evt := evt, cause := c, ctx := o.wg.ctx, wgid := o.wg.wgid, warp := o.warpNum, gridno := o.wg.grid }

/-- Suspends an operation at a fault on local memory and tells the hosts (R453). -/
def State.suspendOp (s : State) (o : GalOp) (c : Cause) (va : Nat) (a : Acc) : State :=
  (s.setOp { o with suspended := some (c, va, a.code) }).postEvent { o.event 2 c with acc := a.code, addr := va }

/-- A global object becomes abandoned, if live: at once, or, while its line is pending, once that is over (R298, R364, R453). -/
def State.abandonGlobal (s0 : State) (wg : WgKey) (warp : WarpKey) (va : Nat) : State :=
  let s := s0.fill newelSite wg.ctx va
  match s.translate newelSite wg.ctx va .both with
  | .ok pa e =>
    if s.paPending pa 16 then
      let a : Access :=
        { id := s.nextId, warp := warp, wg := wg, pc := 0, threads := 0, phase := 0, kind := .bar .abandon, glob := true,
          size := 16, signed := false, dst := none, scalar := true, lanes := [⟨0, va, pa, 0, 0, 0, keyOf wg.ctx e⟩], ord := 0, scope := 0, hint := 0,
          commit := none, buffered := false, sent := none, fenced := [], fencedRel := false }
      { s.fresh with pending := s.pending ++ [.access a] }
    else s.abandon ⟨true, wg, pa, keyOf wg.ctx e⟩
  | _ => s

/-- The completion object becomes abandoned, if live; the context record keeps an absent workgroup's until its restore (R453). -/
def State.abandonObj (s : State) (o : GalOp) : State :=
  if s.absent o.wg then s
  else if o.objG then s.abandonGlobal o.wg o.warp o.obj
  else s.abandon (.own o.wg o.obj)

/-- Records a cause against the issuing warp, keeps it for an absent one, or reports it (R453). -/
def State.recordCause (s : State) (o : GalOp) (c : Cause) : State :=
  if s.absent o.wg then
    s.updCtx o.wg.ctx fun x => { x with kept := x.kept ++ [(o.wg, o.warpNum, c, some (o.objG, o.obj))] }
  else match s.warpAt o.warp with
    | some w =>
      if w.wg = o.wg && w.alive then s.updWarp o.warp fun w => { w with recorded := some (w.recorded.getD c) }
      else s.postEvent (o.event 5 c)
    | none => s.postEvent (o.event 5 c)

/-- Segment q of a collective's range: offset and bytes (R454). -/
def segment (ofs len n q : Nat) : Nat × Nat := (ofs + q * (len / n), len / n)

/-- The range of the buffer that a collective writes on a rank: KIND 0 and 1 the range, KIND 2 its segment (R454). -/
def collRange (kind ofs len n rank : Nat) : Nat × Nat := if kind = 2 then segment ofs len n rank else (ofs, len)

/-- The bytes an aborted operation was to write here become free values; the segment that a rank only reads stays (R453, R454). -/
def State.scrambleOp (s : State) (o : GalOp) : State :=
  match s.commAt o.comm with
  | none => s
  | some c =>
    let at_ (ofs n : Nat) : State := match s.regOf o.comm o.name with
      | some b => s.scrambleVa b.ctx (b.d.base + ofs) n
      | none => s
    match o.kind with
    | .coll kind _ ofs len _ _ =>
      if kind = 1 then
        ((List.range c.nranks).filter fun q => q ≠ c.rank).foldl (fun t q =>
          let r := segment ofs len c.nranks q
          match t.regOf o.comm o.name with
          | some b => t.scrambleVa b.ctx (b.d.base + r.1) r.2
          | none => t) s
      else
        let r := collRange kind ofs len c.nranks c.rank
        at_ r.1 r.2
    | .get laddr _ len _ => s.scrambleVa o.wg.ctx laddr len
    | .puts _ rofs len rank _ _ _ | .radd _ _ rofs len rank _ _ _ => if rank = c.rank then at_ rofs len else s

/-- Every answer that a one-sided operation has asked for is there: a piece's data, acknowledgement or refusal, or all data of its own
device's. -/
def GalOp.answered (o : GalOp) : Bool :=
  let all_ (ofs n : Nat) : Bool := (pieces ofs n).all fun p => o.got.any fun g => g.2.1 = p.1
  match o.kind with
  | .puts _ rofs len _ _ _ _ | .radd _ _ rofs len _ _ _ _ => all_ rofs len
  | .get _ rofs len _ => all_ rofs len || (o.got.map fun g => g.2.2.length).sum = len
  | .coll .. => true

/-- Aborts an operation with a cause, or without one for a kill; answers still to come for it are remembered, so that they serve no other
operation (R453, R463 to R465, R468). -/
def State.abortOp (s : State) (o : GalOp) (c : Option Cause) : State :=
  let s1 := s.scrambleOp o
  let s2 := match c with | some c => s1.recordCause o c | none => s1
  let s3 := (s2.abandonObj o).removeOp o.id
  if o.started && !o.answered then { s3 with strays := s3.strays ++ [o] } else s3

/-- Aborts some operations, in order, with a cause (R467). -/
def State.abortOps (s : State) (c : Option Cause) : List GalOp → State
  | [] => s
  | o :: os =>
    let t : State := match s.galOps.find? (fun (x : GalOp) => x.id = o.id) with
      | some x => s.abortOp x c
      | none => s
    State.abortOps t c os

/-- The operation's count-down on its completion object, or the fault that stops it; an absent workgroup's goes to the mailbox, and
waits while that is full or its line is pending (R364, R432, R450). -/
inductive CountRes where
  | done (s : State)
  | fault (c : Cause) (va : Nat)
  | full

def State.countObj (s : State) (o : GalOp) (bytes : Nat) : CountRes :=
  if o.objG then
    match s.translate newelSite o.wg.ctx o.obj .both with
    | .ok pa e => .done ((s.fill newelSite o.wg.ctx o.obj).countDown ⟨true, o.wg, pa, keyOf o.wg.ctx e⟩ bytes)
    | .fail c => .fault c o.obj
    | .noMem _ => .fault 0x065 o.obj
  else if s.absent o.wg then
    (match s.ctxAt o.wg.ctx with
     | some c => if mailboxRoom ≤ c.mailbox.length || s.mailPending c then .full else .done (s.logMail o.wg (o.obj / 16) bytes)
     | none => .done s)
  else if (s.wgAt o.wg).isSome then .done (s.countDown (.own o.wg o.obj) bytes)
  else .done s

/-- Completes an operation: its count-down, and it is gone; a pending line of its object is waited for (R364, R450, R452). -/
def State.finishOp (s : State) (o : GalOp) (bytes : Nat) : Option State :=
  if o.objG && s.rangePending o.wg.ctx .both o.obj 16 then none
  else match s.countObj o bytes with
  | .done t => some (t.removeOp o.id)
  | .fault c va => some (s.suspendOp o c va .copyDst)
  | .full => none

/-! ### Views (R483 to R485) -/

/-- The view that a name of a communicator is. -/
def State.viewOf (s : State) (comm name : Nat) : Option View := s.views.find? fun v => v.comm = comm && v.name = name

/-- Physical runs of n bytes of a buffer at an offset: a view's kept pages in their frames, all else at the source (R445, R484). -/
def State.bufRuns (s : State) (b : NamedBuffer) (p : Perm) (ofs n : Nat) : Except (Cause × Nat) (List Run) :=
  match s.runsOf b.ctx p (b.d.base + ofs) n with
  | .error e => .error e
  | .ok l =>
    match s.viewOf b.d.comm b.d.name with
    | none => .ok l
    | some v => .ok (l.map fun r => match v.frames.find (r.pa / 65536) with
      | some i => (match v.pages.find i with | some f => { r with pa := 65536 * f + r.pa % 65536 } | none => r)
      | none => r)

/-! ### Elements (R455, R465) -/

/-- Bytes of an element of a COLL operator (R455). -/
def collElem (opr : Nat) : Nat := if opr = 1 then 2 else if opr = 2 || opr = 3 then 1 else 4

def collFmt (opr : Nat) : Fmt := if opr = 1 then bf16 else if opr = 2 then e4m3 else e5m2

/-- An element as the tree takes it: narrow ones decoded exactly to FP32 (R90, R455). -/
def collIn (opr c : Nat) : Nat := if 1 ≤ opr && opr ≤ 3 then (roundTo fp32 1 false 0 32 (decodeFmt (collFmt opr) c)).code else c

/-- The operator of a tree node (R455). -/
def collNode (opr a b : Nat) : Nat × Flags5 :=
  match opr with
  | 4 => ((FOp.min.elem false 1 fp32 a b).code, 0)
  | 5 => ((FOp.max.elem false 1 fp32 a b).code, 0)
  | 6 => (Nat.xor a b, 0)
  | _ => ((FOp.add.elem false 1 fp32 a b).code, 0)

/-- A tree's result as it is stored: narrow ones rounded once (R455). -/
def collOut (opr c : Nat) : Nat := if 1 ≤ opr && opr ≤ 3 then (roundTo (collFmt opr) 1 false 0 32 (decodeFmt fp32 c)).code else c

/-- The least j with n ≤ 2^j, ranks being at most 4,096. -/
def rankLog (n : Nat) : Nat := ((List.range 13).find? fun j => n ≤ 2 ^ j).getD 12

/-- One reduced element of the contributions of all ranks in order (R455). -/
def collReduce (opr : Nat) (vals : List Nat) : Nat :=
  collOut opr ((treeNode (collNode opr) (fun r => (vals[r]?).map (collIn opr)) (rankLog vals.length) 0).1.getD 0)

/-- Elementwise reduction of equally long contributions. -/
def collBytes (opr len : Nat) (bs : List (List Byte)) : List Byte :=
  let w := collElem opr
  (List.range (len / w)).flatMap fun i => toBytes (collReduce opr (bs.map fun l => ofBytes ((l.drop (w * i)).take w))) w

/-- Inserts a piece by its offset. -/
def insertPiece (p : Nat × List Byte) : List (Nat × List Byte) → List (Nat × List Byte)
  | [] => [p]
  | q :: qs => if p.1 ≤ q.1 then p :: q :: qs else q :: insertPiece p qs

/-- What an operation has of a rank, in order of offset. -/
def GalOp.fromRank (o : GalOp) (rank : Nat) : List Byte :=
  ((o.got.filterMap fun g => if g.1 = rank then some (g.2.1, g.2.2) else none).foldr insertPiece []).flatMap (·.2)

/-- One element of a RADD at its word; a poisoned word is left as it is, one that an atomic of another path meets becomes unpredictable
(R192, R269, R371, R412, R465). -/
def State.raddWord (s : State) (key : KeyNo) (opr pa v : Nat) : State :=
  if s.poisonedAt pa 4 then s
  else if s.raced .near s.nextId none pa 4 then
    ((s.spoil .near none pa 4).useFree 1).storeNear key pa (toBytes (s.freeVal 0).toNat 4)
  else
    let d := readLE (s.seen key pa 4) pa 4
    let x := match opr with
      | 0 => fatomNew 0 d v
      | 1 => (d + v) % 2 ^ 32
      | 2 => Nat.xor d v
      | 3 => fatomNew 1 d v
      | 4 => fatomNew 2 d v
      | _ => fatomNew 3 d v
    s.storeNear key pa (toBytes x 4)

/-- RADD on runs, element by element (R465). -/
def State.raddRuns (s : State) (opr : Nat) (l : List Run) (bs : List Byte) : State :=
  ((l.flatMap fun r => (List.range (r.n / 4)).map fun j => (r.pa + 4 * j, r.key)).zipIdx).foldl
    (fun t x => t.raddWord x.1.2 opr x.1.1 (ofBytes ((bs.drop (4 * x.2)).take 4))) s

/-! ### Pieces and packets (R443) -/

/-- The header of a packet of an operation (R443). -/
def GalOp.packet (o : GalOp) (c : Comm) (bgen : BitVec 16) (op dst ofs len : Nat) : Packet :=
  { op := op, gen := o.gen, comm := o.comm, srcRank := c.rank, dstRank := dst, name := o.name, bgen := bgen, seq := 0, ofs := ofs,
    len := len, sofs := 0, sname := 0, sv := false, opr := 0, kind := 0, data := [], poison := [] }

/-- Data and poison of a piece [ofs, ofs + n) of bytes that start at a base offset, units being 16 bytes. -/
def pieceData (bs : List Byte) (us : List Nat) (base ofs n : Nat) : List Byte × List Nat :=
  ((bs.drop (ofs - base)).take n,
   (List.range ((n + 31) / 32)).filter fun g => us.any fun u => 16 * u < ofs - base + 32 * g + 32 && ofs - base + 32 * g < 16 * u + 16)

/-- Units of 16 bytes that a packet's poisoned granules cover, counted from a base offset. -/
def packetUnits (p : Packet) (base : Nat) : List Nat :=
  p.poison.flatMap fun g =>
    let a := p.ofs + 32 * g - base
    natRange (a / 16) ((a + 31) / 16 - a / 16 + 1)

/-- Sends a packet to the device of a rank in the active table. -/
def State.sendRank (s : State) (o : Option Nat) (c : Comm) (die : Nat) (p : Packet) : State :=
  match c.devOf p.dstRank with
  | some d => s.send o die d p
  | none => s

/-- Sends a range to a rank in packets made by a function of piece, data and poison. -/
def State.sendPieces (s : State) (o : GalOp) (c : Comm) (b : NamedBuffer) (bs : List Byte) (us : List Nat) (base : Nat)
    (mk : Nat → Nat → Packet) : List (Nat × Nat) → State
  | [] => s
  | x :: xs =>
    let d := pieceData bs us base x.1 x.2
    (s.sendRank (some o.id) c (bufferDie b.d x.1) { mk x.1 x.2 with data := d.1, poison := d.2 }).sendPieces o c b bs us base mk xs

/-! ### What reaches this device's buffers (R463, R465) -/

/-- LEN counted down on a signal object, the release at the target (R463). -/
def State.signal (s : State) (comm sname sofs len : Nat) : State :=
  match s.regOf comm sname with
  | none => s
  | some b => match s.translate newelSite b.ctx (b.d.base + 16 * sofs) .both with
    | .ok pa e => (s.fill newelSite b.ctx (b.d.base + 16 * sofs)).countDown ⟨true, ⟨b.ctx, 0, 0⟩, pa, keyOf b.ctx e⟩ len
    | _ => s

/-- Data written, or combined under an operator, at an offset of a buffer; units of 16 bytes of it are poisoned (R412, R463, R465). -/
def State.landAt (s : State) (b : NamedBuffer) (opr : Option Nat) (ofs : Nat) (bs : List Byte) (us : List Nat) : State :=
  match s.runsOf b.ctx .write (b.d.base + ofs) bs.length with
  | .error _ => s
  | .ok l =>
    let s0 := s.walked b.ctx (b.d.base + ofs) bs.length
    let s1 := match opr with | none => s0.writeRuns l bs | some r => s0.raddRuns r l bs
    s1.poisonRuns l us

/-! ### Starting an operation (R448, R449, R457, R463 to R465, R481) -/

/-- The target rank of a one-sided operation. -/
def GalKind.rank? : GalKind → Option Nat
  | .coll .. => none
  | .puts _ _ _ r _ _ _ => some r
  | .get _ _ _ r => some r
  | .radd _ _ _ _ r _ _ _ => some r

/-- Every piece of a PUTS or RADD is acknowledged: its data is performed at the target (R463). -/
def GalOp.acked (o : GalOp) : Bool :=
  match o.kind with
  | .puts .. | .radd .. => o.answered
  | _ => false

/-- A PUTS or RADD counts down on a signal object. -/
def GalKind.signals : GalKind → Bool
  | .puts _ _ _ _ _ _ sv | .radd _ _ _ _ _ _ _ sv => sv
  | _ => false

/-- Ordered behind an earlier operation: overlapping COLLs of a communicator; PUTS and RADD of one warp to one rank and one name, or
with a signal to follow, until the data of the earlier is performed at the target (R449; log 22). -/
def GalOp.behind (o e : GalOp) : Bool :=
  match o.kind, e.kind with
  | .coll _ _ a n _ _, .coll _ _ b m _ _ => o.comm = e.comm && o.name = e.name && meets a n b m
  | .get .., _ | _, .get .. | .coll .., _ | _, .coll .. => false
  | _, _ => o.warp = e.warp && o.wg = e.wg && o.comm = e.comm && o.kind.rank? = e.kind.rank? && (o.name = e.name || o.kind.signals) &&
      !e.acked

/-- Reading n bytes of a buffer has to wait: for a walker, or for a pending line (R364, R389). -/
def State.bufPending (s : State) (b : NamedBuffer) (ofs n : Nat) : Bool :=
  ((pageStarts (b.d.base + ofs) n).any fun a => s.walkersBusy newelSite b.ctx a) ||
  match s.bufRuns b .read ofs n with | .ok l => s.runsPending l | .error _ => false

/-- Bytes of this device's that an operation reads or writes as it starts lie in pending lines (R364). -/
def State.startPending (s : State) (o : GalOp) (c : Comm) : Bool :=
  match s.regOf o.comm o.name with
  | none => false
  | some b =>
    let local_ (p : Perm) (ofs n : Nat) : Bool := s.rangePending b.ctx p (b.d.base + ofs) n
    match o.kind with
    | .coll kind _ ofs len _ _ => let x := if kind = 1 then segment ofs len c.nranks c.rank else (ofs, len); local_ .read x.1 x.2
    | .puts laddr rofs len rank sofs sname sv | .radd _ laddr rofs len rank sofs sname sv =>
      s.rangePending o.wg.ctx .read laddr len || (rank = c.rank && (local_ .write rofs len || (sv && (match s.regOf o.comm sname with
        | some t => s.rangePending t.ctx .both (t.d.base + 16 * sofs) 16
        | none => false))))
    | .get _ rofs len rank => rank = c.rank && s.bufPending b rofs len

/-- An operation may start: its fences are met, no rank it needs is vacant, nothing before it holds it, no line that it needs is
pending. What it then sends waits at its port while its lane is stopped (R442). -/
def State.mayStartOp (s : State) (o : GalOp) (c : Comm) : Bool :=
  !o.started && o.suspended.isNone && !(o.fences.any s.fenceIdOpen) && !s.startPending o c &&
  (match o.kind.rank? with
   | some r => (c.devOf r).isSome
   | none => (List.range c.nranks).all fun r => (c.devOf r).isSome) &&
  !((s.galOps.takeWhile fun e => e.id ≠ o.id).any fun e => o.behind e)

/-- The BGEN of a name (R447). -/
def State.bgenOf (s : State) (comm name : Nat) : BitVec 16 := match s.regOf comm name with | some b => b.d.bgen | none => 0

/-- The offset of a refusal that tells that its sender has left: one at which no piece of an operation begins (log 20). -/
def leftOfs : Nat := 2 ^ 36 - 1

/-- A refusal that tells a rank that this rank has left, as R468 has it; no packet of R443 says so (log 20). -/
def State.leftNotice (s : State) (c : Comm) (name dst : Nat) : Packet :=
  { op := 6, gen := c.gen, comm := c.comm, srcRank := c.rank, dstRank := dst, name := name, bgen := s.bgenOf c.comm name, seq := 0, ofs := leftOfs,
    len := 0x105, sofs := 0, sname := 0, sv := false, opr := 0, kind := 0, data := [], poison := [] }

/-- Every other rank of a communicator is told that this one has left (R468; log 20). -/
def State.tellLeft (s : State) (c : Comm) : State :=
  let name := match s.buffers.find? fun b => b.d.comm = c.comm with | some b => b.d.name | none => 0
  ((List.range c.nranks).filter fun r => r ≠ c.rank).foldl (fun t r => t.sendRank none c 0 (s.leftNotice c name r)) s

/-- The offsets of the two packets of collective data without bytes by which a rank says where its range begins and ends, and whether it
checks generations: the first byte of the range, and its last byte or the one before that. R457 compares these, and no other field holds
them (log 20). -/
def collHeads (ofs len : Nat) (gchk : Option (BitVec 16)) : List Nat := [ofs, ofs + len - (if gchk.isSome then 2 else 1)]

/-- What another rank has sent of a collective taken in: what differs between ranks aborts it with 0x102, as every rank finds of every
other (R457). -/
def State.takeColl (s : State) (o : GalOp) (p : Packet) : State :=
  match o.kind, s.commAt o.comm with
  | .coll kind opr ofs len gchk _, some c =>
    let want := if kind = 0 then (ofs, len) else if kind = 1 then segment ofs len c.nranks p.srcRank else segment ofs len c.nranks c.rank
    let head := p.len = 0
    if p.name ≠ o.name || p.kind ≠ kind || p.opr ≠ opr ||
        (if head then !(collHeads ofs len gchk).contains p.ofs else p.ofs < want.1 || want.1 + want.2 < p.ofs + p.len) then
      s.abortOp o (some 0x102)
    else if head then s.setOp { o with heads := o.heads ++ [(p.srcRank, p.ofs)] }
    else s.setOp { o with
      got := o.got ++ [(p.srcRank, p.ofs, p.data)]
      bgens := o.bgens ++ [(p.srcRank, p.bgen)]
      poison := o.poison ++ packetUnits p ofs }
  | _, _ => s

/-- Takes in the collective data that came ahead of the device's own part (R457). -/
def State.takeAhead (s : State) (id : Nat) : List Packet → State
  | [] => s
  | p :: ps => match s.galOps.find? fun o => o.id = id with
    | some o => (s.takeColl o p).takeAhead id ps
    | none => s

/-- A collective starts: its contribution is read and sent, one shot to every rank (R454, R459). -/
def State.startColl (s : State) (o : GalOp) (c : Comm) (b : NamedBuffer) (kind opr ofs len : Nat) (gchk : Option (BitVec 16)) (seq : Nat) :
    State :=
  let own := if kind = 1 then segment ofs len c.nranks c.rank else (ofs, len)
  let w := s.walked b.ctx (b.d.base + own.1) own.2
  match s.bufRuns b .read own.1 own.2 with
  | .error e => w.suspendOp o e.1 e.2 .copySrc
  | .ok l =>
    let bs := s.runBytes l
    let us := s.runPoison 0 l
    let o1 : GalOp := { o with
      started := true
      sentAt := s.nextId
      got := [(c.rank, own.1, bs)]
      bgens := [(c.rank, b.d.bgen)]
      poison := us.map fun u => u + (own.1 - ofs) / 16 }
    let others := (List.range c.nranks).filter fun q => q ≠ c.rank
    let sendTo (t : State) (q : Nat) : State :=
      let part := if kind = 2 then segment ofs len c.nranks q else own
      let mk (a n : Nat) : Packet := { o1.packet c b.d.bgen 0 q a n with seq := seq, kind := kind, opr := opr }
      ((collHeads ofs len gchk).foldl (fun u a => u.sendRank (some o.id) c (bufferDie b.d ofs) (mk a 0)) t).sendPieces o1 c b bs us own.1 mk
        (pieces part.1 part.2)
    let mine (p : Packet) : Bool := p.comm = o.comm && p.gen = o.gen && p.seq = seq
    let s1 := others.foldl sendTo ((w.fresh.useRuns l).setOp o1)
    ({ s1 with ahead := s1.ahead.filter fun p => !mine p } : State).takeAhead o.id (s1.ahead.filter mine)

/-- PUTS or RADD starts: the local bytes are read and sent, or land here at once where the target is this device (R463, R465). -/
def State.startPut (s : State) (o : GalOp) (c : Comm) (b : NamedBuffer) (opr : Option Nat) (laddr rofs len rank sofs sname : Nat)
    (sv : Bool) : State :=
  let w := s.walked o.wg.ctx laddr len
  match s.runsOf o.wg.ctx .read laddr len with
  | .error e => w.suspendOp o e.1 e.2 .copySrc
  | .ok l =>
    let bs := s.runBytes l
    let us := s.runPoison 0 l
    let o1 : GalOp := { o with started := true, sentAt := s.nextId }
    if rank = c.rank then
      let s1 := (w.fresh.useRuns l).landAt b opr rofs bs us
      let s2 := if sv then s1.signal o.comm sname sofs len else s1
      s2.setOp { o1 with got := (pieces rofs len).map fun p => (rank, p.1, []) }
    else
      ((w.fresh.useRuns l).setOp o1).sendPieces o1 c b bs us rofs
        (fun a n => { o1.packet c b.d.bgen (if opr.isSome then 4 else 1) rank a n with
          sofs := sofs, sname := sname, sv := sv, opr := opr.getD 0 }) (pieces rofs len)

/-- GET starts: its requests are sent, or the bytes are read here at once (R464). -/
def State.startGet (s : State) (o : GalOp) (c : Comm) (b : NamedBuffer) (rofs len rank : Nat) : State :=
  let o1 : GalOp := { o with started := true, sentAt := s.nextId }
  if rank = c.rank then
    let w := s.walked b.ctx (b.d.base + rofs) len
    match s.bufRuns b .read rofs len with
    | .error e => w.suspendOp o e.1 e.2 .copySrc
    | .ok l => (w.fresh.useRuns l).setOp { o1 with got := [(rank, rofs, s.runBytes l)], poison := s.runPoison 0 l }
  else
    (pieces rofs len).foldl (fun t p => t.sendRank (some o.id) c (bufferDie b.d p.1) (o1.packet c b.d.bgen 2 rank p.1 p.2)) (s.fresh.setOp o1)

/-- An operation starts; one whose name is gone from this device is refused there (R469). -/
def State.startOp (s : State) (o : GalOp) (c : Comm) : State :=
  match s.regOf o.comm o.name with
  | none => s.abortOp o (some 0x105)
  | some b => match o.kind with
    | .coll kind opr ofs len gchk seq => s.startColl o c b kind opr ofs len gchk seq
    | .puts laddr rofs len rank sofs sname sv => s.startPut o c b none laddr rofs len rank sofs sname sv
    | .get _ rofs len rank => s.startGet o c b rofs len rank
    | .radd opr laddr rofs len rank sofs sname sv => s.startPut o c b (some opr) laddr rofs len rank sofs sname sv

/-! ### Completing an operation (R450, R454, R458, R463, R464) -/

/-- Everything that an operation waits for is there. -/
def GalOp.received (o : GalOp) (c : Comm) : Bool :=
  match o.kind with
  | .coll kind _ ofs len gchk _ =>
    (List.range c.nranks).all fun q =>
      q = c.rank || ((collHeads ofs len gchk).all fun a => o.heads.contains (q, a)) && (o.got.map fun g => if g.1 = q then g.2.2.length else 0).sum = (if kind = 0 then len else len / c.nranks)
  | .get _ _ len _ => (o.got.map fun g => g.2.2.length).sum = len
  | .puts .. | .radd .. => o.acked

/-- What a collective writes on this rank: offset and bytes (R454, R455). -/
def collResult (o : GalOp) (c : Comm) (kind opr ofs len : Nat) : List (Nat × List Byte) :=
  let others := (List.range c.nranks).filter fun q => q ≠ c.rank
  if kind = 1 then others.map fun q => ((segment ofs len c.nranks q).1, o.fromRank q)
  else
    let r := collRange kind ofs len c.nranks c.rank
    let part (q : Nat) : List Byte := if kind = 2 && q = c.rank then ((o.fromRank q).drop (r.1 - ofs)).take r.2 else o.fromRank q
    if c.nranks = 1 then [(ofs, o.fromRank 0)] else [(r.1, collBytes opr r.2 ((List.range c.nranks).map part))]

/-- Writes a collective's results, poisoned where an input was (R412, R455); a fault stops it. -/
def State.writeColl (s : State) (o : GalOp) (b : NamedBuffer) (ofs : Nat) : List (Nat × List Byte) → Except (Cause × Nat) State
  | [] => .ok s
  | x :: xs =>
    match s.runsOf b.ctx .write (b.d.base + x.1) x.2.length with
    | .error e => .error e
    | .ok l =>
      let s := s.walked b.ctx (b.d.base + x.1) x.2.length
      let u0 := (x.1 - ofs) / 16
      let us := o.poison.filterMap fun u => if u0 ≤ u && u < u0 + x.2.length / 16 then some (u - u0) else none
      ((s.writeRuns l x.2).poisonRuns l us).writeColl o b ofs xs

/-- A collective that has all its data: generations checked, results written, bytes counted down (R454, R458). -/
def State.endColl (s : State) (o : GalOp) (c : Comm) (kind opr ofs len : Nat) (gchk : Option (BitVec 16)) : Option State :=
  match s.regOf o.comm o.name with
  | none => some (s.abortOp o (some 0x105))
  | some b =>
    if (match gchk with | some x => o.bgens.any fun g => g.2 ≠ x | none => false) then some (s.abortOp o (some 0x103))
    else match s.writeColl o b ofs (collResult o c kind opr ofs len) with
      | .error e => some (s.suspendOp o e.1 e.2 .copyDst)
      | .ok t => t.finishOp o (if kind = 2 then len / c.nranks else len)

/-- Bytes that an operation writes as it completes lie in pending lines (R364). -/
def State.endPending (s : State) (o : GalOp) (c : Comm) : Bool :=
  match o.kind with
  | .coll kind opr ofs len _ _ => (match s.regOf o.comm o.name with
    | some b => (collResult o c kind opr ofs len).any fun x => s.rangePending b.ctx .write (b.d.base + x.1) x.2.length
    | none => false)
  | .get laddr _ len _ => s.rangePending o.wg.ctx .write laddr len
  | .puts .. | .radd .. => false

/-- A GET that has all its data (R464). -/
def State.endGet (s : State) (o : GalOp) (laddr len rank : Nat) : Option State :=
  match s.runsOf o.wg.ctx .write laddr len with
  | .error e => some ((s.walked o.wg.ctx laddr len).suspendOp o e.1 e.2 .copyDst)
  | .ok l => (((s.walked o.wg.ctx laddr len).writeRuns l (o.fromRank rank)).poisonRuns l o.poison).finishOp o len

/-- COLLECTIVE_COMPLETE (R448 to R450, R454, R463 to R465): a Gallery operation starts once it may, and once everything it waits for
is there its bytes are counted down on its completion object. -/
def execCollectiveComplete (id : Nat) (s0 : State) : Out :=
  let s := s0.settle
  match s.galOps.find? fun o => o.id = id with
  | none => .refused (.notEnabled "COLLECTIVE_COMPLETE")
  | some o => match s.commAt o.comm with
    | none => .refused (.notEnabled "COLLECTIVE_COMPLETE")
    | some c =>
      if s.mayStartOp o c then .next (s.startOp o c)
      else if !o.started || o.suspended.isSome || !o.received c || s.endPending o c then .refused (.notEnabled "COLLECTIVE_COMPLETE")
      else
        let r := match o.kind with
          | .coll kind opr ofs len gchk _ => s.endColl o c kind opr ofs len gchk
          | .get laddr _ len rank => s.endGet o laddr len rank
          | .puts _ _ len _ _ _ _ | .radd _ _ _ len _ _ _ _ => s.finishOp o len
        match r with
        | some t => .next t
        | none => .refused (.notEnabled "COLLECTIVE_COMPLETE")

/-! ### Issue (R451, R452, R456, R461, R462) -/

/-- Gallery operations of a warp that are not complete (R452). -/
def State.galOpen (s : State) (w : Warp) : Nat := (s.galOps.filter fun o => o.warp = w.key && o.wg = w.wg).length

/-- Issues an operation stamped with its communicator's generation; on an expelled device it is aborted at once (R452, R467, R479). -/
def galIssue (s : State) (o : Opnd) (c : Comm) (name addr : Nat) (kind : GalKind) : Out :=
  if 16 ≤ s.galOpen o.i.w then .next (s.block o.i .galleryRoom)
  else
    let g : GalOp :=
      { id := s.nextId, warp := o.i.w.key, wg := o.i.w.wg, warpNum := o.i.w.num, comm := c.comm, name := name, gen := c.gen,
        objG := o.f.bit 0, obj := addr, kind := kind, started := false, sentAt := 0, heads := [], got := [], poison := [], bgens := [], suspended := none,
        fences := s.openFences o.i.w.key 4 ++ s.releaseHolds o.i.w.key }
    let s1 : State := { s with galOps := s.galOps ++ [g] }
    let s2 := match kind with | .coll .. => s1.updComm c.comm fun c => { c with colls := c.colls + 1 } | _ => s1
    o.complete (if s.member.selfExpelled then s2.abortOp g (some 0x104) else s2) o.f.len none id

/-- COLL (R454 to R458). -/
def execColl (f : XForm) (s : State) : Out :=
  operate s (shapeSys 0x0D f) f noExtra fun o =>
    withObject s o .both .atomic fun s1 _ addr =>
      let nm := o.rdN f.b warpLane 32
      match s1.bufFor o.i.w.wg.ctx (nm % 65536) with
      | none => raise s1 o.i 0x100
      | some b => match s1.commAt b.d.comm with
        | none => raise s1 o.i 0x100
        | some c =>
          let kind := f.fld 9 8
          let ofs := 256 * o.rdN f.c warpLane 32
          let e := o.rdN f.e warpLane 32
          if !b.d.col || b.d.snap then raise s1 o.i 0x100
          else if e = 0 || 0x7FFFFF < e || b.d.length < ofs + 256 * e || (kind != 0 && e % c.nranks != 0) then raise s1 o.i 0x101
          else galIssue s1 o c b.d.name addr
            (.coll kind (f.fld 6 4) ofs (256 * e) (if f.bit 10 then some (BitVec.ofNat 16 (nm / 65536)) else none) c.colls)

/-- The descriptor of a one-sided transfer (R461); reserved is true where a reserved bit is set, SOFS, SNAME and SV apart. -/
structure SideDesc where
  laddr : Nat
  rofs : Nat
  len : Nat
  name : Nat
  rank : Nat
  sofs : Nat
  sname : Nat
  sv : Bool
  reserved : Bool
  deriving DecidableEq, Repr

def readSide (m : List Host.Cell) (off : Nat) : SideDesc :=
  let a := readLE m off 8
  let b := readLE m (off + 8) 8
  let d := readLE m (off + 0x14) 4
  let e := readLE m (off + 0x1C) 4
  ⟨a % 2 ^ 57, b % 2 ^ 36, readLE m (off + 0x10) 4, bitsAt d 16 16, bitsAt d 4 12, readLE m (off + 0x18) 4, bitsAt e 16 16, e.testBit 15,
   bitsAt a 57 7 != 0 || bitsAt b 36 28 != 0 || bitsAt d 0 4 != 0 || bitsAt e 0 15 != 0⟩

/-- What a one-sided instruction is. -/
inductive Side where
  | put
  | get
  | radd (opr : Nat)
  deriving DecidableEq, Repr

/-- The permission that a transfer needs of the buffer (R462). -/
def Side.allowed (k : Side) (d : BufferDesc) : Bool :=
  match k with
  | .put => d.wr && !d.snap
  | .get => d.rd
  | .radd _ => d.raddp && !d.snap

/-- Check 4 of R462: the names and their permissions. -/
def sideNamed (s : State) (k : Side) (ctx : Nat) (d : SideDesc) : Option NamedBuffer :=
  match s.bufFor ctx d.name with
  | none => none
  | some b =>
    if !k.allowed b.d then none
    else if d.sv && k ≠ .get then
      (match s.bufFor ctx d.sname with
       | some t => if t.d.wr && !t.d.snap then some b else none
       | none => none)
    else some b

/-- Check 5 of R462: fields out of range. -/
def sideBad (s : State) (k : Side) (ctx : Nat) (b : NamedBuffer) (c : Comm) (d : SideDesc) : Bool :=
  d.reserved || (k = .get && (d.sofs != 0 || d.sname != 0 || d.sv)) ||
  d.len < 16 || 2 ^ 30 < d.len || d.len % 16 != 0 || d.laddr % 16 != 0 || d.rofs % 16 != 0 || c.nranks ≤ d.rank ||
  b.d.length < d.rofs + d.len || 2 ^ 57 < d.laddr + d.len ||
  (d.sv && (match s.bufFor ctx d.sname with
    | some t => t.d.comm ≠ b.d.comm || t.d.length < 16 * d.sofs + 16
    | none => false))

/-- PUTS, GET and RADD (R461 to R465): checks in order, after the warp's earlier scratchpad stores (R511). -/
def oneSided (xop : Nat) (k : Side) (f : XForm) (s : State) : Out :=
  operate s (shapeSys xop f) f noExtra fun o =>
    let off := o.rdN f.b warpLane 32
    if s.scratchDue o.i.w.key then .next s
    else if off % 32 != 0 then raiseAt s o.i 0x090 off
    else if o.i.gr.rec_.scratch < off + 32 then raiseAt s o.i 0x091 off
    else withObject s o .both .atomic fun s1 _ addr =>
      let d := readSide o.i.wg.scratch off
      match sideNamed s1 k o.i.w.wg.ctx d with
      | none => raise s1 o.i 0x100
      | some b => match s1.commAt b.d.comm with
        | none => raise s1 o.i 0x100
        | some c =>
          if sideBad s1 k o.i.w.wg.ctx b c d then raise s1 o.i 0x101
          else galIssue s1 o c b.d.name addr (match k with
            | .put => .puts d.laddr d.rofs d.len d.rank d.sofs d.sname d.sv
            | .get => .get d.laddr d.rofs d.len d.rank
            | .radd opr => .radd opr d.laddr d.rofs d.len d.rank d.sofs d.sname d.sv)

def execPuts (f : XForm) (s : State) : Out := oneSided 0x0A .put f s
def execGet (f : XForm) (s : State) : Out := oneSided 0x0B .get f s
def execRadd (f : XForm) (s : State) : Out := oneSided 0x0C (.radd (f.fld 3 1)) f s

/-- GENRD (R466). -/
def execGenrd (f : XForm) (s : State) : Out :=
  operate s (shapeSys 0x0E f) f noExtra fun o =>
    match s.bufFor o.i.w.wg.ctx (o.rdN f.a warpLane 32 % 65536) with
    | none => raise s o.i 0x100
    | some b => match s.commAt b.d.comm with
      | none => raise s o.i 0x100
      | some c =>
        let v := match f.fld 1 0 with
          | 0 => c.gen.toNat
          | 1 => c.rank
          | 2 => c.nranks
          | _ => b.d.bgen.toNat
        o.complete s f.len (some (o.lanes.map fun l => (l, BitVec.ofNat 64 v))) id

/-! ### Packets received (R443, R453, R457, R463 to R465, R480) -/

/-- A refusal or an acknowledgement sent back to a packet's sender. -/
def State.reply (s : State) (c : Comm) (p : Packet) (op len : Nat) (data : List Byte) (poison : List Nat) : State :=
  let die := match s.regOf p.comm p.name with | some b => bufferDie b.d p.ofs | none => 0
  s.sendRank none c die
    { op := op, gen := c.gen, comm := p.comm, srcRank := c.rank, dstRank := p.srcRank, name := p.name,
      bgen := (match s.regOf p.comm p.name with | some b => b.d.bgen | none => p.bgen), seq := 0, ofs := p.ofs, len := len, sofs := 0,
      sname := 0, sv := false, opr := 0, kind := 0, data := data, poison := poison }

/-- An operation waits for a rank's answer to its piece at an offset: a GET for data of the piece's length, a PUTS or RADD for an
acknowledgement; a refusal answers any of them. -/
def GalOp.awaits (o : GalOp) (p : Packet) : Bool :=
  o.comm = p.comm && o.name = p.name && o.gen = p.gen && o.started && !(o.got.any fun g => g.2.1 = p.ofs) && (match o.kind with
    | .puts _ rofs len rank _ _ _ | .radd _ _ rofs len rank _ _ _ =>
      p.op != 3 && rank = p.srcRank && (pieces rofs len).any fun x => x.1 = p.ofs
    | .get _ rofs len rank =>
      p.op != 5 && rank = p.srcRank && (pieces rofs len).any fun x => x.1 = p.ofs && (p.op != 3 || x.2 = p.len)
    | .coll .. => false)

/-- The first to have started of some operations: answers come back in the order in which the packets went (log 22). -/
def firstSent : List GalOp → Option GalOp
  | [] => none
  | o :: os => match firstSent os with
    | some x => if x.sentAt < o.sentAt then some x else some o
    | none => some o

/-- The one-sided operation whose piece a packet answers, an aborted one among them. -/
def State.awaiting (s : State) (p : Packet) : Option GalOp := firstSent ((s.galOps ++ s.strays).filter fun o => o.awaits p)

/-- An operation with a piece answered, by data or without. -/
def GalOp.answer (o : GalOp) (p : Packet) : GalOp := { o with got := o.got ++ [(p.srcRank, p.ofs, p.data)] }

/-- An answer that an aborted operation asked for does nothing. -/
def State.strayAnswered (s : State) (o : GalOp) (p : Packet) : State :=
  { s with strays := (s.strays.map fun (x : GalOp) => if x.id = o.id then x.answer { p with data := [] } else x).filter fun x => !x.answered }

/-- What an answer does to the operation that asked for it (R463 to R465). -/
def State.answers (s : State) (p : Packet) (f : GalOp → State) : State :=
  match s.awaiting p with
  | some o => if s.galOps.any fun x => x.id = o.id then f o else s.strayAnswered o p
  | none => s

/-- The collective of this device that lost bytes at an offset belong to: one under way there, else one yet to start (R475). -/
def State.lostColl (s : State) (p : Packet) : Option GalOp :=
  let os := s.galOps.filter fun o => o.comm = p.comm && o.name = p.name && o.gen = p.gen && (match o.kind with
    | .coll _ _ ofs len _ _ => ofs ≤ p.ofs && p.ofs < ofs + len
    | _ => false)
  (firstSent (os.filter (·.started))).or os.head?

/-- A collective of this device by its number (R457). -/
def State.collOp (s : State) (p : Packet) : Option GalOp :=
  s.galOps.find? fun o => o.comm = p.comm && o.gen = p.gen && (match o.kind with
    | .coll _ _ _ _ _ seq => seq = p.seq
    | _ => false)

/-- What a rank sends of a collective: for one under way, or ahead of the device's own part; for one that has ended here it comes
too late (R454, R457). -/
def State.handleColl (s : State) (c : Comm) (p : Packet) : State :=
  match s.collOp p with
  | some o => if o.started then s.takeColl o p else { s with ahead := s.ahead ++ [p] }
  | none => if p.seq < c.colls then s else { s with ahead := s.ahead ++ [p] }

/-- PUTS data at its target (R463). -/
def State.handlePut (s : State) (c : Comm) (p : Packet) : State :=
  match s.regOf p.comm p.name with
  | none => s.reply c p 6 0x105 [] []
  | some b =>
    let s1 := s.landAt b none p.ofs p.data (packetUnits p p.ofs)
    (if p.sv then s1.signal p.comm p.sname p.sofs p.len else s1).reply c p 5 0 [] []

/-- RADD data at its target (R465). -/
def State.handleRadd (s : State) (c : Comm) (p : Packet) : State :=
  match s.regOf p.comm p.name with
  | none => s.reply c p 6 0x105 [] []
  | some b =>
    let s1 := s.landAt b (some p.opr) p.ofs p.data (packetUnits p p.ofs)
    (if p.sv then s1.signal p.comm p.sname p.sofs p.len else s1).reply c p 5 0 [] []

/-- A GET request at its target; LEN is what it asks for, which goes back in packets of at most 4 KiB (R443, R464, R485). -/
def State.handleGetReq (s : State) (c : Comm) (p : Packet) : State :=
  match s.regOf p.comm p.name with
  | none => s.reply c p 6 0x105 [] []
  | some b => match s.bufRuns b .read p.ofs p.len with
    | .error _ => s.reply c p 6 0x105 [] []
    | .ok l =>
      let bs := s.runBytes l
      let us := s.runPoison 0 l
      (pieces p.ofs p.len).foldl (fun t x =>
        let d := pieceData bs us p.ofs x.1 x.2
        t.reply c { p with ofs := x.1 } 3 x.2 d.1 d.2) ((s.walked b.ctx (b.d.base + p.ofs) p.len).useRuns l)

/-- GET data at the reader (R464). -/
def State.handleGetData (s : State) (p : Packet) : State :=
  s.answers p fun o => match o.kind with
    | .get _ rofs _ _ => s.setOp { o.answer p with poison := o.poison ++ packetUnits p rofs }
    | _ => s

/-- A target's acknowledgement of one piece (R463). -/
def State.handleAck (s : State) (p : Packet) : State :=
  s.answers p fun o => s.setOp (o.answer { p with data := [] })

/-- A refusal aborts the operation it names with its cause: a one-sided one with that piece unanswered, or else a collective; one of a rank
that has left aborts all that involve it (R453, R457, R468, R475; log 20). -/
def State.handleRefusal (s : State) (p : Packet) : State :=
  if p.ofs = leftOfs then s.abortOps (some 0x104) (s.galOps.filter fun o => o.comm = p.comm && o.gen = p.gen &&
    (match o.kind.rank? with | some r => r = p.srcRank | none => true))
  else
    let cause : Cause := if p.len = 0x106 then 0x106 else 0x105
    match s.awaiting p, s.lostColl p with
    | none, some o => s.abortOp o (some cause)
    | _, _ => s.answers p fun o => s.abortOp (o.answer { p with data := [] }) (some cause)

/-- What a packet of OP 0 to 6 of the current generation does. -/
def State.handle (s : State) (c : Comm) (p : Packet) : State :=
  match p.op with
  | 0 => s.handleColl c p
  | 1 => s.handlePut c p
  | 2 => s.handleGetReq c p
  | 3 => s.handleGetData p
  | 4 => s.handleRadd c p
  | 5 => s.handleAck p
  | _ => s.handleRefusal p

/-- A packet of OP 0 to 6 at its device: dropped under an older generation, held under a newer one, dropped where the device has
left the pod; the port that received it is named (R443, R467, R479, R480). -/
def State.deliverPacket (s : State) (port : Nat) (p : Packet) : State :=
  match s.commAt p.comm with
  | none => s
  | some c =>
    if s.member.selfExpelled || p.dstRank ≠ c.rank || genOlder p.gen c.gen then s
    else if genOlder c.gen p.gen then
      ({ s with member := { s.member with heldPackets := s.member.heldPackets ++ [(port, p)] } } : State).relane port (laneOf p.op)
    else s.handle c p

/-- The headers of the packets in a lane's buffer, whole or not: after each its data flits are skipped. -/
def lanePackets (fs : List Flit) : List Packet :=
  (fs.foldl (fun (x : Nat × List Packet) f =>
    if 0 < x.1 then (x.1 - 1, x.2)
    else
      let p := parseHeader f.data
      (dataFlits p, p :: x.2)) (0, [])).2

/-- Packets of operations on some names have reached the device and are not delivered yet, in a lane or held for a newer generation
(R446, R480). -/
def State.arriving (s : State) (test : Packet → Bool) : Bool :=
  (s.galPorts.any fun q => [1, 2, 3].any fun v => (lanePackets (q.lane v)).any test) || s.member.heldPackets.any fun x => test x.2

/-- The name of the signal object that an operation counts down on. -/
def GalKind.signalName : GalKind → Option Nat
  | .puts _ _ _ _ _ n sv | .radd _ _ _ _ _ _ n sv => if sv then some n else none
  | _ => none

/-- A Gallery operation on a name, as its buffer or for its signal, is not performed (R446, R485). -/
def State.nameBusy (s : State) (comm name : Nat) : Bool :=
  (s.galOps.any fun o => o.comm = comm && (o.name = name || o.kind.signalName = some name)) ||
  s.arriving fun p => p.comm = comm && (p.name = name || (p.sv && p.sname = name))

/-- Bytes of this device's that a packet reads, writes or counts down lie in pending lines (R364). -/
def State.packetPending (s : State) (p : Packet) : Bool :=
  let object : Bool := p.sv && (match s.regOf p.comm p.sname with
    | some t => s.rangePending t.ctx .both (t.d.base + 16 * p.sofs) 16
    | none => false)
  match s.regOf p.comm p.name with
  | none => false
  | some b => match p.op with
    | 1 | 4 => s.rangePending b.ctx .write (b.d.base + p.ofs) p.data.length || object
    | 2 => s.bufPending b p.ofs p.len
    | _ => false

/-- A received packet of an OP leaves its lane and is delivered, behind what is pending on the lines that it reaches (R364). -/
def packetEvent (row : String) (op : Nat) (p : Packet) (s : State) : Out :=
  if p.op ≠ op || s.packetPending p then .refused (.notEnabled row)
  else match s.findPacket p with
    | some r => .next ((s.setPort r.1 r.2).deliverPacket r.1 p)
    | none => .refused (.notEnabled row)

def execCollectiveData (p : Packet) (s : State) : Out := packetEvent "COLLECTIVE_DATA" 0 p s
def execPutsPacket (p : Packet) (s : State) : Out := packetEvent "PUTS_PACKET" 1 p s
def execGetRequest (p : Packet) (s : State) : Out := packetEvent "GET_REQUEST" 2 p s
def execGetData (p : Packet) (s : State) : Out := packetEvent "GET_DATA" 3 p s
def execRaddPacket (p : Packet) (s : State) : Out := packetEvent "RADD_PACKET" 4 p s
def execAcknowledgement (p : Packet) (s : State) : Out := packetEvent "ACKNOWLEDGEMENT" 5 p s
def execRefusal (p : Packet) (s : State) : Out := packetEvent "REFUSAL" 6 p s

end Sys2Proof.Machine
end

