-- ==== Sys2Proof/Machine/Membership.lean ====
section
/-! DEFINITION. Membership: heartbeats, suspicion, the coordinator, events and generations, ports that fail, held packets, the swap
of rank tables and the join engine (R467, R470 to R482, R486 to R490). -/

namespace Sys2Proof.Machine

/-! ### The pod (R470, R473, R479) -/

def State.updMember (s : State) (f : Membership → Membership) : State := { s with member := f s.member }

/-- The watch-list entry of a device. -/
def Membership.watched (m : Membership) (dev : Nat) : Option WatchEntry := m.cfg.watch.find? fun w => w.dev = dev

/-- A device that has been expelled or has departed, under the incarnation last known of it (R473, R479). -/
def Membership.isGone (m : Membership) (dev : Nat) : Bool :=
  m.expelled.any fun e => e.1 = dev && (match (if dev = m.cfg.podnum then some m.cfg.inc else m.incs.find dev) with
    | some i => e.2 = i
    | none => true)

/-- The active coordinator: the lowest of the coordinator list that is not expelled (R473). -/
def Membership.coordinator (m : Membership) : Option Nat := (m.cfg.coords.filter fun d => !m.isGone d).min?

/-- A membership message with no fields in use (R476). -/
def MemberMsg.blank : MemberMsg := ⟨0, 0, 0, 0, 0, 0, 0, 0⟩

/-- An event record of the pod (R497). -/
def memberEvent (evn : Nat) : EventRec := { EventRec.blank with evt := 9, aux := evn % 2 ^ 32 }

/-- Forwards an event to every device on the watch list (R473). -/
def State.flood (s : State) (evk : Nat) (m : MemberMsg) : State :=
  s.member.cfg.watch.foldl (fun t w => t.sendMember w.dev 5 evk m) s

def EventKind.code : EventKind → Nat
  | .expel => 0
  | .departure => 1
  | .join => 2

/-! ### Generations (R467, R477, R478, R480) -/

/-- Held packets that a record's generation has reached are delivered, in order (R480). -/
def State.releaseHeld (s : State) (comm : Nat) : State :=
  match s.commAt comm with
  | none => s
  | some c =>
    let due (x : Nat × Packet) : Bool := x.2.comm = comm && !genOlder c.gen x.2.gen
    let ps := s.member.heldPackets.filter due
    let s1 := s.updMember fun m => { m with heldPackets := m.heldPackets.filter fun x => !due x }
    ps.foldl (fun t x => (t.relane x.1 (laneOf x.2.op)).deliverPacket x.1 x.2) s1

/-- A record's generation rises by one: COLLs are counted anew and operations stamped with older generations are aborted (R467,
R478). -/
def State.raiseGen (s : State) (comm : Nat) : State :=
  let s1 := s.updComm comm fun c => { c with gen := c.gen + 1, colls := 0 }
  match s1.commAt comm with
  | none => s1
  | some c =>
    let s2 := s1.abortOps (some 0x104) (s1.galOps.filter fun o => o.comm = comm && genOlder o.gen c.gen)
    ({ s2 with ahead := s2.ahead.filter fun p => !(p.comm = comm && genOlder p.gen c.gen) } : State).releaseHeld comm

/-- A table entry that names a device (R477). -/
def entryIs (dev : Nat) (e : BitVec 16) : Bool := !e.getLsbD 15 && (e.extractLsb' 0 12).toNat = dev

/-- A vacant rank (R477). -/
def vacant : BitVec 16 := 0x8000

/-- A device's ranks become vacant in a table. -/
def vacate (dev : Nat) (t : List (BitVec 16)) : List (BitVec 16) := t.map fun e => if entryIs dev e then vacant else e

/-- The inactive table. -/
def Comm.inactive (c : Comm) : List (BitVec 16) := if c.act then c.t0 else c.t1

/-- The device that a pending table adds (R478). -/
def Comm.joining (c : Comm) (dev : Nat) : Bool :=
  c.pend && (c.inactive.zip c.active).any fun e => entryIs dev e.1 && !entryIs dev e.2

/-- A device leaves a record: its ranks become vacant (R478). -/
def State.leaveComm (s : State) (dev : Nat) (c : Comm) : State :=
  if c.frozen || !((c.t0.any (entryIs dev) && (!c.act || c.pend)) || (c.t1.any (entryIs dev) && (c.act || c.pend))) then s
  else
    (s.updComm c.comm fun c => { c with
      t0 := vacate dev c.t0, t1 := vacate dev c.t1, pend := c.pend && !c.joining dev }).raiseGen c.comm

/-- A departure or an expulsion applied (R478, R479): records, suspicions, and for this device itself its own end in the pod. -/
def State.applyLeave (s : State) (m : MemberMsg) : State :=
  let before := s.member.coordinator
  let s1 := s.updMember fun x => { x with
    expelled := if x.expelled.contains (m.subj, m.inc) then x.expelled else x.expelled ++ [(m.subj, m.inc)]
    suspicions := x.suspicions.filter fun q => q.dev ≠ m.subj }
  let s2 := if m.subj = s.member.cfg.podnum then
      let t := s1.updMember fun x => { x with selfExpelled := true }
      ({ t with comms := t.comms.map fun (c : Comm) => { c with frozen := true } } : State).abortOps (some 0x104) t.galOps
    else (s1.comms.filter fun c => c.evn < m.evn).foldl (fun t c => t.leaveComm m.subj c) s1
  let s3 := s2.updMember fun x => { x with
    delaying := x.delaying || (before = some m.subj && x.coordinator = some x.cfg.podnum) }
  s3.postEvent (memberEvent m.evn)

/-- A join on this device, the spare, ends: 0 applied, 1 void, 2 failed (R489, R494). -/
def State.endJoin (s : State) (j : JoinRec) (res : Nat) : State :=
  let s1 : State := { s with
    joins := s.joins.filter fun x => x.cmd ≠ j.cmd
    longs := s.longs.map fun (l : LongCmd) => if l.id = j.cmd then { l with result := some (0, 0, res) } else l }
  if res = 0 then s1 else s1.postEvent (memberEvent s1.member.evn)

/-- A device had been expelled, or had departed, before an event (R478). -/
def Membership.leftBefore (x : Membership) (m : MemberMsg) : Bool :=
  x.log.any fun e => e.1 ≠ .join && e.2.subj = m.subj && e.2.inc = m.inc && e.2.evn < m.evn

/-- A rank is vacant in the table of a record that takes effect next (R478). -/
def Comm.openRank (c : Comm) (rank : Nat) : Bool :=
  match (if c.pend then c.inactive else c.active)[rank]? with
  | some e => e.getLsbD 15
  | none => false

/-- A join fills a rank that is vacant in the table that takes effect next of a record on this device (R478). -/
def State.joinFits (s : State) (m : MemberMsg) : Bool :=
  match s.commAt m.comm with
  | some c => !c.frozen && c.evn < m.evn && !s.member.leftBefore m && c.openRank m.rank
  | none => false

/-- A join is void, as far as this device can tell: the device has left, or the rank of a record here is not vacant (R478). -/
def State.joinVoid (s : State) (m : MemberMsg) : Bool :=
  s.member.leftBefore m || (match s.commAt m.comm with
    | some c => !c.frozen && c.evn < m.evn && !c.openRank m.rank
    | none => false)

/-- The join of a device at a rank of a communicator applied, or void (R478, R489). -/
def State.applyJoin (s : State) (m : MemberMsg) : State :=
  let self : Bool := m.subj = s.member.cfg.podnum
  let mine := s.joins.find? fun j => self && j.comm = m.comm && j.rank = m.rank
  if !s.joinFits m then
    let s1 := if s.joinVoid m && s.member.coordinator = some s.member.cfg.podnum then s.postEvent (memberEvent m.evn) else s
    match mine with
    | some j => s1.endJoin j 1
    | none => s1
  else
    let s1 := s.updComm m.comm fun c =>
      let base := if c.pend then c.inactive else c.active
      let t := base.set m.rank (BitVec.ofNat 16 m.subj)
      if self then { c with t0 := t, t1 := t, pend := false }
      else if c.act then { c with t0 := t, pend := true }
      else { c with t1 := t, pend := true }
    let s2 := s1.raiseGen m.comm
    match mine with
    | some j => s2.endJoin j 0
    | none => s2

/-- Applies one event in EVN order (R473). -/
def State.applyEvent (s : State) (k : EventKind) (m : MemberMsg) : State :=
  let s1 := match k with
    | .join => s.applyJoin m
    | _ => s.applyLeave m
  s1.updMember fun x => { x with evn := m.evn, log := x.log ++ [(k, m)] }

/-- Applies the events that were received early and are now next, at most n of them (R473). -/
def State.applyEarly : Nat → State → State
  | 0, s => s
  | n + 1, s =>
    match s.member.early.find? fun e => e.2.evn = s.member.evn + 1 with
    | none => s
    | some e => State.applyEarly n ((s.updMember fun x => { x with early := x.early.erase e }).applyEvent e.1 e.2)

/-! ### The coordinator (R473, R489) -/

/-- The coordinator numbers an event, applies it and floods it; a pair already expelled is ignored, and while a new coordinator waits
the request waits too (R473). -/
def State.number (s : State) (k : EventKind) (m : MemberMsg) : State :=
  if k ≠ .join && s.member.expelled.contains (m.subj, m.inc) then s
  else if s.member.delaying then s.updMember fun x => { x with requests := x.requests ++ [(k, m)] }
  else
    let e : MemberMsg := { m with sender := s.member.cfg.podnum, evn := s.member.evn + 1 }
    (s.applyEvent k e).flood k.code e

/-- Sends a request to the active coordinator, or numbers it where this device is that (R472, R479, R489). -/
def State.request (s : State) (k : EventKind) (m : MemberMsg) : State :=
  match s.member.coordinator with
  | none => s
  | some d =>
    if d = s.member.cfg.podnum then s.number k m
    else match k with
      | .expel => s.sendMember d 4 0 m
      | _ => s.sendMember d 5 k.code m

/-- This device is the active coordinator. -/
def State.coordinates (s : State) : Bool := s.member.coordinator = some s.member.cfg.podnum && !s.member.selfExpelled && !s.quar

/-- EXPEL_REQUEST (R473). -/
def execExpelRequest (msg : MemberMsg) (s : State) : Out :=
  match s.takeMember 4 0 msg with
  | some t => .next (if t.coordinates then t.number .expel msg else t)
  | none => .refused (.notEnabled "EXPEL_REQUEST")

/-- A join or departure request at the active coordinator: a KIND 5 message with EVN 0 (R473; log 23). -/
def State.requested (s : State) (m : MemberMsg) : Bool := m.evn = 0 && s.coordinates

/-- A request leaves its lane and is numbered. -/
def takeRequest (row : String) (k : EventKind) (m : MemberMsg) (s : State) : Out :=
  match s.takeMember 5 k.code m with
  | some t => if s.requested m then .next (t.number k m) else .refused (.notEnabled row)
  | none => .refused (.notEnabled row)

/-- JOIN_REQUEST_AT_COORDINATOR (R489). -/
def execJoinRequestAtCoordinator (msg : MemberMsg) (s : State) : Out :=
  takeRequest "JOIN_REQUEST_AT_COORDINATOR" .join msg s

/-- DEPARTURE_REQUEST (R479). -/
def execDepartureRequest (msg : MemberMsg) (s : State) : Out :=
  takeRequest "DEPARTURE_REQUEST" .departure msg s

/-- COORDINATOR_DELAY (R473): the wait of a new coordinator is over and what it has been asked is numbered. -/
def execCoordinatorDelay (s : State) : Out :=
  if !s.member.delaying then .refused (.notEnabled "COORDINATOR_DELAY")
  else
    let rs := s.member.requests
    .next (rs.foldl (fun t r => t.number r.1 r.2) (s.updMember fun x => { x with delaying := false, requests := [] }))

/-! ### Events (R473) -/

/-- An event received: dropped unless the active coordinator numbered it, forwarded once, applied in EVN order; what is missing is
asked for (R473). -/
def State.receiveEvent (s : State) (k : EventKind) (m : MemberMsg) : State :=
  if s.member.coordinator ≠ some m.sender then s
  else if m.evn ≤ s.member.evn || s.member.early.any fun e => e.2.evn = m.evn then s
  else
    let s1 := s.flood k.code m
    if m.evn = s.member.evn + 1 then State.applyEarly s.member.early.length (s1.applyEvent k m)
    else
      let gaps := (natRange (s.member.evn + 1) (m.evn - s.member.evn - 1)).filter fun n => !(s.member.early.any fun e => e.2.evn = n)
      let s2 := s1.updMember fun x => { x with early := x.early ++ [(k, m)] }
      gaps.foldl (fun t n => t.sendMember m.sender 6 0 { MemberMsg.blank with sender := t.member.cfg.podnum, evn := n }) s2

/-- An event message, which is no request to this device, leaves its lane and is received. -/
def eventMessage (row : String) (k : EventKind) (m : MemberMsg) (s : State) : Out :=
  match s.takeMember 5 k.code m with
  | some t => if s.requested m then .refused (.notEnabled row) else .next (t.receiveEvent k m)
  | none => .refused (.notEnabled row)

def execEventExpel (msg : MemberMsg) (s : State) : Out := eventMessage "EVENT_EXPEL" .expel msg s
def execEventDeparture (msg : MemberMsg) (s : State) : Out := eventMessage "EVENT_DEPARTURE" .departure msg s
def execEventJoin (msg : MemberMsg) (s : State) : Out := eventMessage "EVENT_JOIN" .join msg s

/-- EVENT_RESEND_REQUEST (R473): an event that another device lacks is sent again. -/
def execEventResendRequest (msg : MemberMsg) (s : State) : Out :=
  match s.takeMember 6 0 msg with
  | none => .refused (.notEnabled "EVENT_RESEND_REQUEST")
  | some t => match t.member.log.find? fun e => e.2.evn = msg.evn with
    | some e => .next (t.sendMember msg.sender 5 e.1.code e.2)
    | none => .next t

/-! ### Heartbeats and suspicion (R471, R472) -/

/-- A message about a device. -/
def State.about (s : State) (dev : Nat) : MemberMsg :=
  { MemberMsg.blank with sender := s.member.cfg.podnum, subj := dev, inc := (s.member.incs.find dev).getD 0 }

/-- HEARTBEAT_INTERVAL (R471): a heartbeat to each watcher; a quarantined device sends none (R418). -/
def execHeartbeatInterval (s : State) : Out :=
  if s.quar || s.member.cfg.watch.isEmpty then .refused (.notEnabled "HEARTBEAT_INTERVAL")
  else
    let m : MemberMsg := { MemberMsg.blank with sender := s.member.cfg.podnum, subj := s.member.cfg.podnum, inc := s.member.cfg.inc }
    .next ((Config.watchers s.member.cfg.podnum).foldl (fun t d => t.sendMember d 0 0 m) s)

/-- HEARTBEAT (R471, R472, R479): the count of misses starts anew; watchers that asked are answered DENY. -/
def execHeartbeat (msg : MemberMsg) (s : State) : Out :=
  match s.takeMember 0 0 msg with
  | none => .refused (.notEnabled "HEARTBEAT")
  | some t =>
    let d := msg.sender
    if (t.member.watched d).isNone || t.member.expelled.contains (d, msg.inc) then .next t
    else
      let asked := t.member.suspicions.filter fun q => q.dev = d && q.from_ ≠ t.member.cfg.podnum
      let t1 := t.updMember fun m => { m with
        miss := m.miss.del d
        incs := m.incs.put d msg.inc
        suspicions := m.suspicions.filter fun q => !(q.dev = d && q.from_ ≠ m.cfg.podnum) }
      .next (asked.foldl (fun t q => t.sendMember q.from_ 3 0 (t.about d)) t1)

/-- HEARTBEAT_MISS (R471, R472): one more miss; at the third, CONFIRM to those who asked, and a suspicion of its own. -/
def execHeartbeatMiss (dev : Nat) (s : State) : Out :=
  match s.member.watched dev with
  | none => .refused (.notEnabled "HEARTBEAT_MISS")
  | some w =>
      let n := SMap.get 0 s.member.miss dev + 1
      let s1 := s.updMember fun m => { m with miss := m.miss.put dev n }
      if n ≠ 3 then .next s1
      else
        let me := s.member.cfg.podnum
        let asked := s1.member.suspicions.filter fun q => q.dev = dev && q.from_ ≠ me
        let s2 := asked.foldl (fun t q => t.sendMember q.from_ 2 0 (t.about dev))
          (s1.updMember fun m => { m with suspicions := m.suspicions.filter fun q => !(q.dev = dev && q.from_ ≠ me) })
        if s2.member.suspicions.any fun q => q.dev = dev then .next s2
        else .next ((w.others.foldl (fun t d => t.sendMember d 1 0 (t.about dev)) s2).updMember fun m =>
          { m with suspicions := m.suspicions ++ [⟨dev, me, [], false⟩] })

/-- SUSPECT (R472): answered CONFIRM at a count of 3, else kept until the count or a heartbeat decides. -/
def execSuspect (msg : MemberMsg) (s : State) : Out :=
  match s.takeMember 1 0 msg with
  | none => .refused (.notEnabled "SUSPECT")
  | some t =>
    if (t.member.watched msg.subj).isNone then .next t
    else if 3 ≤ SMap.get 0 t.member.miss msg.subj then .next (t.sendMember msg.sender 2 0 (t.about msg.subj))
    else .next (t.updMember fun m => { m with suspicions := m.suspicions ++ [⟨msg.subj, msg.sender, [], false⟩] })

/-- The expel request of a suspicion with its first two confirming watchers (R472, R476). -/
def State.askExpel (s : State) (q : Suspicion) : State :=
  s.request .expel { s.about q.dev with conf1 := q.confirms.getD 0 0, conf2 := q.confirms.getD 1 0 }

/-- CONFIRM (R472): with the second one the expel is asked for. -/
def execConfirm (msg : MemberMsg) (s : State) : Out :=
  match s.takeMember 2 0 msg with
  | none => .refused (.notEnabled "CONFIRM")
  | some t =>
    let me := t.member.cfg.podnum
    match t.member.suspicions.find? fun q => q.dev = msg.subj && q.from_ = me with
    | none => .next t
    | some q =>
      if q.requested || q.confirms.contains msg.sender then .next t
      else
        let cs := q.confirms ++ [msg.sender]
        let q1 : Suspicion := { q with confirms := cs, requested := decide (2 ≤ cs.length) }
        let t1 := t.updMember fun m => { m with suspicions := m.suspicions.map fun x => if x = q then q1 else x }
        .next (if q1.requested then t1.askExpel q1 else t1)

/-- A suspicion of this device ends and its count is reset (R472). -/
def State.endSuspicion (s : State) (dev : Nat) : State :=
  s.updMember fun m => { m with
    suspicions := m.suspicions.filter fun q => !(q.dev = dev && q.from_ = m.cfg.podnum)
    miss := m.miss.del dev }

/-- DENY (R472). -/
def execDeny (msg : MemberMsg) (s : State) : Out :=
  match s.takeMember 3 0 msg with
  | none => .refused (.notEnabled "DENY")
  | some t =>
    if t.member.suspicions.any fun q => q.dev = msg.subj && q.from_ = t.member.cfg.podnum then .next (t.endSuspicion msg.subj)
    else .next t

/-- SUSPICION_TIMEOUT (R472): 200 µs without two CONFIRMs. -/
def execSuspicionTimeout (dev : Nat) (s : State) : Out :=
  if s.member.suspicions.any fun q => q.dev = dev && q.from_ = s.member.cfg.podnum && !q.requested then .next (s.endSuspicion dev)
  else .refused (.notEnabled "SUSPICION_TIMEOUT")

/-- EXPEL_REQUEST_REPEAT (R472): a request left unanswered for 500 µs goes to the active coordinator again. -/
def execExpelRequestRepeat (dev : Nat) (s : State) : Out :=
  match s.member.suspicions.find? fun q => q.dev = dev && q.from_ = s.member.cfg.podnum && q.requested with
  | some q => .next (s.askExpel q)
  | none => .refused (.notEnabled "EXPEL_REQUEST_REPEAT")

/-- HELD_PACKET_TIMEOUT (R480): a packet held for 2 ms is dropped. -/
def execHeldPacketTimeout (index : Nat) (s : State) : Out :=
  match s.member.heldPackets[index]? with
  | some x => .next ((s.updMember fun m => { m with heldPackets := m.heldPackets.eraseIdx index }).relane x.1 (laneOf x.2.op))
  | none => .refused (.notEnabled "HELD_PACKET_TIMEOUT")

/-! ### Ports that fail (R475) -/

/-- A route entry whose primary port is down: the alternate where there is one in service, else unreachable. -/
def reroute (s : State) (die down : Nat) (e : BitVec 8) : BitVec 8 :=
  if e.getLsbD 7 && (e.extractLsb' 0 2).toNat = down then
    let alt := (e.extractLsb' 2 2).toNat
    if e.getLsbD 6 && alt ≠ down && (match s.galPorts[4 * die + alt]? with | some p => p.up | none => false) then
      BitVec.ofNat 8 (0x80 + alt)
    else 0
  else e

/-- An operation expects no answer to the pieces that were lost (R475; log 22). -/
def GalOp.lose (o : GalOp) (held : List (BitVec 16 × Outgoing)) : GalOp :=
  { o with got := o.got ++ held.filterMap fun x => match x.2 with
      | .packet (some id) q => if id = o.id then some (q.dstRank, q.ofs, []) else none
      | _ => none }

/-- Of lost packets of one operation, the first: its receivers are told once. Answers belong to none of this device's (R475; log 22). -/
def firstLost : List Nat → List (BitVec 16 × Outgoing) → List (BitVec 16 × Outgoing)
  | _, [] => []
  | seen, x :: xs => match x.2 with
    | .packet (some id) _ => if seen.contains id then firstLost seen xs else x :: firstLost (id :: seen) xs
    | _ => x :: firstLost seen xs

/-- A refusal with cause 0x106 for a lost packet, to its receiving rank or, for a collective, to every rank (R475). -/
def State.sendLost (s : State) (p : Packet) : State :=
  match s.commAt p.comm with
  | none => s
  | some c =>
    let ranks := if p.op = 0 then (List.range c.nranks).filter fun r => r ≠ c.rank else [p.dstRank]
    ranks.foldl (fun t r => t.sendRank none c 0
      { p with op := 6, gen := c.gen, srcRank := c.rank, dstRank := r, seq := 0, len := 0x106, sofs := 0, sname := 0, sv := false,
               opr := 0, kind := 0, data := [], poison := [] }) s

/-- PORT_DOWN (R441, R475): a port whose resends have failed 16 times is taken down, routes switch to their alternates, what was lost is
aborted and told, the hosts are told, and what had no flit sent goes by the new routes. -/
def execPortDown (port : Nat) (s : State) : Out :=
  match s.galPorts[port]? with
  | none => .refused (.notEnabled "PORT_DOWN")
  | some p =>
    if !p.up || !p.failing then .refused (.notEnabled "PORT_DOWN")
    else
      let die := port / 4
      let s1 := s.setPort port { p.down with downs := p.downs + 1 }
      let s2 := s1.updMember fun m => { m with cfg := { m.cfg with
        routes := (m.cfg.routes.zipIdx).map fun t =>
          if t.2 = die then t.1.map fun e => (e.1, reroute s1 die (port % 4) e.2) else t.1 } }
      let abort (t : State) (x : BitVec 16 × Outgoing) : State :=
        match x.2 with
        | .member _ _ _ => t
        | .packet op q =>
          let t1 := match op.bind fun id => t.galOps.find? fun o => o.id = id with
            | some o => t.abortOp (o.lose p.held) (some 0x106)
            | none => t
          t1.sendLost q
      let s3 := ((firstLost [] p.held).foldl abort s2).postEvent { EventRec.blank with evt := 8, aux := port }
      .next (p.waiting.foldl (fun t x => t.sendOn die x.1 x.2) s3)

/-! ### The swap of rank tables (R482) -/

/-- Pending tables of a context's records become active; operations held for a rank they fill may start (R481, R482). -/
def State.swapTables (s : State) (ctx : Nat) : State :=
  { s with comms := s.comms.map fun (c : Comm) => if c.ctx = ctx && c.pend && !c.frozen then { c with act := !c.act, pend := false } else c }

/-! ### The join engine (R486 to R489) -/

/-- Bytes of a stripe of a join (R487). -/
def joinStripeBytes : Nat := 64 * 2 ^ 20

/-- The source ranks that a stripe tries, in order; a parity stripe has one try (R486, R487). -/
def JoinEntry.sources (e : JoinEntry) : List Nat :=
  if e.kind = 1 then [e.srank] else [e.srank] ++ e.alt1.toList ++ e.alt2.toList

/-- The ranks that a stripe reads on its current try. -/
def JoinEntry.reads (e : JoinEntry) (rank tried : Nat) : List Nat :=
  if e.kind = 1 then (natRange e.srank 8).filter fun r => r ≠ rank
  else match e.sources[tried]? with | some r => [r] | none => []

/-- Stripes in flight that read from a device. -/
def JoinRec.fromDev (j : JoinRec) (c : Comm) (d : Nat) : Nat :=
  (j.stripes.filter fun t => t.sent && !t.written && (match j.entries[t.entry]? with
    | some e => (e.reads j.rank t.tried).any fun r => c.devOf r = some d
    | none => false)).length

/-- A stripe may be sent for: fewer than 64 in flight, fewer than two from any device it reads (R487). -/
def JoinRec.maySend (j : JoinRec) (c : Comm) (t : JoinStripeRec) : Bool :=
  !t.sent && !t.written && (j.stripes.filter fun x => x.sent && !x.written).length < 64 &&
  (match j.entries[t.entry]? with
   | some e => (e.reads j.rank t.tried).all fun r => match c.devOf r with | some d => j.fromDev c d < 2 | none => true
   | none => false)

/-- The requests of a stripe, a packet's data each (R443, R447, R464, R487). -/
def State.askStripe (s : State) (j : JoinRec) (c : Comm) (t : JoinStripeRec) : State :=
  match j.entries[t.entry]? with
  | none => s
  | some e => (e.reads j.rank t.tried).foldl (fun u r => (pieces (e.sofs + t.ofs) t.len).foldl (fun u p => u.sendRank none c 0
      { op := 2, gen := c.gen, comm := c.comm, srcRank := j.rank, dstRank := r, name := e.sname, bgen := s.bgenOf c.comm e.sname, seq := 0,
        ofs := p.1, len := p.2, sofs := 0, sname := 0, sv := false, opr := 0, kind := 0, data := [], poison := [] }) u) s

def State.setJoin (s : State) (j : JoinRec) : State := { s with joins := s.joins.map fun x => if x.cmd = j.cmd then j else x }

/-- Sends for stripes as far as the limits let it, in order, at most n of them (R487). -/
def State.fillJoin (cmd : Nat) : Nat → State → State
  | 0, s => s
  | n + 1, s =>
    match s.joins.find? fun j => j.cmd = cmd with
    | none => s
    | some j => match s.commAt j.comm with
      | none => s
      | some c => match j.stripes.find? fun t => j.maySend c t with
        | none => s
        | some t =>
          let j1 : JoinRec := { j with stripes := j.stripes.map fun x => if x.id = t.id then { x with sent := true } else x }
          State.fillJoin cmd n ((s.setJoin j1).askStripe j c t)

/-- Bytewise exclusive or of equal parts of a list (R487). -/
def xorParts (len : Nat) (bs : List Byte) : List Byte :=
  (List.range len).map fun i => (List.range (bs.length / max 1 len)).foldl (fun a k => a ^^^ bs.getD (k * len + i) 0) 0

/-- The registrations that a join fed take the next generation of what fed them (R489, R490). -/
def State.bumpBgens (s : State) (c : Comm) (j : JoinRec) : State :=
  j.stripes.foldl (fun t x => match j.entries[x.entry]? with
    | none => t
    | some e => { t with buffers := t.buffers.map fun (b : NamedBuffer) =>
        if b.ctx = c.ctx ∧ meets (e.daddr + x.ofs) x.len b.d.base b.d.length then
          { b with d := { b.d with bgen := x.bgen + 1 } } else b }) s

/-- Every stripe is written: generations are set and the join is asked for (R489). -/
def State.finishJoin (s : State) (j : JoinRec) (c : Comm) : State :=
  let s1 := (s.bumpBgens c j).setJoin { j with requested := true }
  s1.request .join { MemberMsg.blank with
    sender := s1.member.cfg.podnum, subj := s1.member.cfg.podnum, inc := s1.member.cfg.inc, comm := j.comm, rank := j.rank }

/-- JOIN_STRIPE (R412, R487): a stripe's data arrives and is written, with the poison of its 16-byte units, or its read is refused or aborted and the next source is tried; a
stripe with no source left, or one that cannot be written here, fails the join. -/
def execJoinStripe (id : Nat) (reply : Option (BitVec 16 × List (BitVec 8) × List Nat)) (s : State) : Out :=
  match s.joins.find? fun j => j.stripes.any fun t => t.id = id && t.sent && !t.written with
  | none => .refused (.notEnabled "JOIN_STRIPE")
  | some j => match j.stripes.find? fun t => t.id = id, s.commAt j.comm with
    | some t, some c => match j.entries[t.entry]? with
      | none => .refused (.notEnabled "JOIN_STRIPE")
      | some e =>
        let upd (f : JoinStripeRec → JoinStripeRec) : JoinRec := { j with stripes := j.stripes.map fun x => if x.id = id then f x else x }
        let room := j.stripes.length
        match reply with
        | none =>
          if t.tried + 1 < e.sources.length then
            .next (State.fillJoin j.cmd room (s.setJoin (upd fun x => { x with tried := x.tried + 1, sent := false })))
          else .next (s.endJoin j 2)
        | some (g, bs, us) =>
          if bs.length ≠ (if e.kind = 1 then (e.reads j.rank t.tried).length * t.len else t.len) then .refused (.notEnabled "JOIN_STRIPE")
          else match s.runsOf c.ctx .write (e.daddr + t.ofs) t.len with
            | .error _ => .next (s.endJoin j 2)
            | .ok l =>
              if s.rangePending c.ctx .write (e.daddr + t.ofs) t.len then .refused (.notEnabled "JOIN_STRIPE")
              else
              let j1 := upd fun x => { x with written := true, bgen := g }
              let bad := if e.kind = 1 then us.map fun u => u % (t.len / 16) else us
              let s1 := (((s.walked c.ctx (e.daddr + t.ofs) t.len).writeRuns l (if e.kind = 1 then xorParts t.len bs else bs)).poisonRuns l bad).setJoin j1
              if j1.stripes.all fun x => x.written then .next (s1.finishJoin j1 c)
              else .next (State.fillJoin j.cmd room s1)
    | _, _ => .refused (.notEnabled "JOIN_STRIPE")

end Sys2Proof.Machine
end

