-- ==== Sys2Proof/Machine/Order.lean ====
section
/-! DEFINITION. FENCE (R270 to R273, R482, R483). -/

namespace Sys2Proof.Machine

/-- Ids of what a fence's threads have outstanding in LSU or near-memory accesses on its paths; an acquire of LSU accesses alone does
not wait for plain stores, and any acquire waits for LSU atomics, by which it may acquire (R266, R271). -/
def State.fenceAccesses (s : State) (k : WarpKey) (lanes : LaneMask) (ord : Nat) (paths : BitVec 5) : List Nat :=
  s.pending.filterMap fun p => match p with
    | .access a =>
      if a.warp = k && a.threads &&& lanes != 0 && !a.kind.onBar &&
          (paths.getLsbD (if a.kind.near then 3 else 0) || (ord != 2 && a.kind.atomic && !a.kind.near)) &&
          !(ord = 1 && paths = 1 && a.kind == .store) then some a.id else none
    | .fence _ => none

/-- Ids of a warp's copy records, store-stream groups and stream reads that are not done (R261, R271). -/
def State.fenceCopies (s : State) (w : Warp) : List Nat :=
  (s.records.filterMap fun r => if r.warp = w.key then some r.id else none) ++
  (s.storeGroups.filterMap fun g => if g.warp = w.key then some g.id else none) ++
  w.q.flatMap fun q => q.2.open_

/-- Everything that a fence waits for (R271). -/
def State.fenceWaits (s : State) (w : Warp) (lanes : LaneMask) (ord : Nat) (paths : BitVec 5) : List Nat :=
  s.fenceAccesses w.key lanes ord paths ++
  (if paths.getLsbD 1 then s.fenceCopies w else []) ++
  (if paths.getLsbD 2 then (s.cores.flatMap fun c => if c.phys = w.core then c.mq.filterMap fun e =>
    if e.ofWarp w.idx then some e.id else none else []) else []) ++
  (if paths.getLsbD 4 then s.galOps.filterMap fun o => if o.warp = w.key && o.wg = w.wg && !o.doneHere then some o.id else none else [])

/-- A FENCE that names LSU accesses alone stands between what its threads have outstanding and what they issue later: overlapping bytes
keep that order, though the fence waits for less (R271). -/
def State.markFenced (s : State) (k : WarpKey) (lanes : LaneMask) : State :=
  { s with pending := s.pending.map fun p => match p with
    | .access a => if a.warp = k && a.threads &&& lanes != 0 && !a.kind.near && !a.kind.onBar then
        .access { a with fenced := a.fenced ++ [lanes] } else p
    | .fence _ => p }

/-- FENCE (R271, R273): what it orders is recorded and issue goes on; an acquire that covers LSU drops the core's L1 lines before any
later read of the warp (R264); at POD with gl a pending rank table becomes active (R482). -/
def execFence (f : XForm) (s : State) : Out :=
  operate s (shapeSys 0x00 f) f noExtra fun o =>
    let paths : BitVec 5 := f.mod.setWidth 5
    let scope := f.fld 10 8
    let s0 := if paths.getLsbD 0 && f.fld 12 11 != 2 then s.dropL1 o.i.w.core else s
    let s1 := if scope = 6 && paths.getLsbD 4 then s0.swapTables o.i.w.wg.ctx else s0
    let m : FenceMark := ⟨s1.nextId, o.i.w.key, o.i.fl.active, f.fld 12 11, scope, paths,
      s1.fenceWaits o.i.w o.i.fl.active (f.fld 12 11) paths⟩
    let s1 := (if m.freezes then s1.claimViews o.i.w.wg.ctx m.id else s1).orders m.warp m.lanes paths m.id
    let s2 := if paths = 1 then s1.markFenced o.i.w.key o.i.fl.active else s1
    let s3 := if m.waits.isEmpty && !s2.fenceOpen m then s2.fenceActs m else { s2.fresh with pending := s2.pending ++ [.fence m] }
    o.complete s3 f.len none fun w => if 2 ≤ m.ord then { w with relLanes := w.relLanes ||| m.lanes } else w

end Sys2Proof.Machine
end

