-- ==== Sys2Proof/Machine/Wait.lean ====
section
/-! DEFINITION. Blocked sets: when the condition of a waiting or not-issued instruction holds (R120, R128). -/

namespace Sys2Proof.Machine

/-- QDRAIN may go on: the stream is idle, unbound, or holds a group with a fault to report (R200, R201). -/
def State.queueHolds (s : State) (w : Warp) (q : Nat) : Bool :=
  match w.q.find q with
  | none => true
  | some t => s.queueIdle w.key q t || (t.store && t.buf.any fun g => g.fault.isSome)

/-- Whether the condition that a set of a warp is blocked at holds (R120). -/
def State.waitHolds (s : State) (w : Warp) : Wait → Bool
  | .barrier g a p => s.barrierHolds w g a p
  | .park => w.parkHolds
  | .token => s.tokenHolds w
  | .tokenPhase => s.phaseHolds w
  | .drain => s.drained w
  | .depwait => s.depHolds w
  | .matrix m upto => s.matrixHolds w m upto
  | .wsync => w.pcs.length = 1
  | .queueDrain q => s.queueHolds w q
  | .nearMemory => s.nmaDone w.key
  | .fenceHold => s.heldCount w.key < 64
  | .commitRoom n => !s.commitFull w.wg w.core n || (match s.gridAt (gridOfWg w.wg) with
    | some g => g.turnBegun w.wg.wgid w.phase
    | none => true)
  | .requestRoom n => s.queueUsed w.core + n ≤ 256
  | .ticket t v => s.ticketHolds w t v
  | .matrixRoom n => (s.mqOf w.core).length + n ≤ 8
  | .team .. => s.teamHolds w
  | .tileBusy t upto => !s.tileBusy w.core w.wg t upto
  | .nmaRoom n => s.nmaOpen w.core + n ≤ 256 && !s.stopping w.wg.ctx
  | .galleryRoom => s.galOpen w < 16

/-- WAIT_CONDITION_HOLDS: a blocked set whose condition holds becomes eligible (R120). -/
def execWaitConditionHolds (core warp : Nat) (pc : BitVec 57) (s0 : State) : Out :=
  let s := s0.settle
  match s.warpAt ⟨core, warp⟩ with
  | none => .refused (.notEnabled "WAIT_CONDITION_HOLDS")
  | some w => match w.pcs.find? fun p => p.pc = pc with
    | none => .refused (.notEnabled "WAIT_CONDITION_HOLDS")
    | some p => match p.blocked with
      | none => .refused (.notEnabled "WAIT_CONDITION_HOLDS")
      | some c =>
        if s.waitHolds w c then
          .next (s.updWarp w.key fun v => { v with pcs := v.pcs.map fun q => if q.pc = pc then { q with blocked := none } else q })
        else .refused (.notEnabled "WAIT_CONDITION_HOLDS")

end Sys2Proof.Machine
end

