-- ==== Sys2Proof/Machine/Admin.lean ====
section
/-! DEFINITION. Admin commands as a whole: which are accepted, how each is answered, and long commands in progress (R493 to R495, R418,
R506, R509). -/

namespace Sys2Proof.Machine

/-- A PCI Express port whose link is trained. -/
def State.linkUp (s : State) (port : Nat) : Bool := match s.ports[port]? with | some p => p.up | none => false

/-- Writes a message to the host of a port, unless the port is down (R491). -/
def State.tellHost (s : State) (port : Nat) (ms : List HostMsg) : State :=
  if s.linkUp port then { s with hostOut := s.hostOut ++ ms } else s

/-- A response at its address: 64 bytes (R495). -/
def responseTo (h : AdminHdr) (addr astat : Nat) (rcause : Cause) (time res : Nat) : HostMsg :=
  .write h.port addr (toBytes (h.cid.toNat * 2 ^ 16 + astat % 2 ^ 16) 4 ++ toBytes rcause.toNat 4 ++ toBytes time 8 ++ toBytes res 48)

/-- One response of a command, with its MSI-X vector (R495). -/
def State.respond (s : State) (h : AdminHdr) (second : Bool) (astat : Nat) (rcause : Cause) (res : Nat) : State :=
  s.tellHost h.port [responseTo h (if second then h.resp + 64 else h.resp) astat rcause s.time res, .msix h.port 0]

/-- The first response. -/
def State.answer (s : State) (h : AdminHdr) (astat : Nat) : State := s.respond h false astat 0 0

/-- Which commands a device takes before READY, in recovery and in quarantine (R418, R504, R506, R509). -/
inductive Accepts where
  /-- only while READY, out of quarantine -/
  | ready
  /-- also before READY -/
  | early
  /-- also before READY and in recovery -/
  | load
  /-- also in quarantine -/
  | always
  deriving DecidableEq, Repr

def State.accepts (s : State) : Accepts → Bool
  | .ready => s.ready && !s.recov && !s.quar
  | .early => !s.recov && !s.quar
  | .load => !s.quar
  | .always => s.ready || s.quar

/-- A command reaches the Newel by a doorbell: refused where it is not accepted, or a reserved field or value or a misaligned RESP is used;
else its own answer (R492, R493, R495; log 43). -/
def admin (s : State) (row : String) (h : AdminHdr) (a : Accepts) (wellFormed : Bool) (k : State) : Out :=
  if !s.linkUp h.port then .refused (.notEnabled row)
  else if !s.accepts a then .next (s.answer h 5)
  else if !h.reservedZero || h.resp % 64 != 0 || !wellFormed then .next (s.answer h 1)
  else .next k

/-- Accepts a long command: its first response, and its work in progress (R495). -/
def State.startLong (s : State) (h : AdminHdr) (work : LongWork) : State :=
  let t := s.answer h 0
  { t.fresh with longs := t.longs ++ [⟨t.nextId, h, work, t.nextId, none⟩] }

/-- Fixes the second response of the long commands that do some work. -/
def State.finishLong (s : State) (work : LongWork) (astat : Nat) (rcause : Cause) (res : Nat) : State :=
  { s with longs := s.longs.map fun (l : LongCmd) =>
      if l.work = work && l.result.isNone then { l with result := some (astat, rcause, res) } else l }

/-- A record of a context's state (R497). -/
def ctxEvent (c : Cause) (ctx : Nat) : EventRec := { EventRec.blank with evt := 7, cause := c, ctx := ctx }

end Sys2Proof.Machine
end

