-- ==== Sys2Proof/Machine/Save.lean ====
section
/-! DEFINITION. Saving a workgroup: when it may be saved, what its liveness records leave out, and the image (R377, R382, R423 to R431). -/

namespace Sys2Proof.Machine

/-! ### Liveness (R429, R430) -/

/-- Register group g of a warp is saved (R430). -/
def Warp.keepsGroup (w : Warp) (g : Nat) : Bool :=
  match w.live with
  | some (.parts _ _ _ regs _) => regs.getLsbD g
  | _ => true

/-- Register keys of a warp that are not saved. -/
def Warp.lostKeys (w : Warp) (vregs : Nat) : List Nat :=
  (List.range vregs).flatMap fun g => if w.keepsGroup g then []
    else (natRange (8 * g) 8).flatMap fun n => natRange (64 * n) w.width

/-- Some live warp of a workgroup names something: one without a record, or whose record names everything, does; and so does a matrix entry
that stands in the image with all it may use (R359, R430; log 17). -/
def named (whole : Bool) (ws : List Warp) (f : LiveRecord → Bool) : Bool :=
  whole || ws.any fun w => match w.live with
    | none => true
    | some .everything => true
    | some r => f r

def LiveRecord.scratch (n : Nat) : LiveRecord → Bool
  | .everything => true
  | .parts sa sb .. => if n < 64 then sa.getLsbD n else n < 112 && sb.getLsbD (n - 64)

def LiveRecord.bay (n : Nat) : LiveRecord → Bool
  | .everything => true
  | .parts _ _ bays .. => bays.getLsbD n

def LiveRecord.tile (n : Nat) : LiveRecord → Bool
  | .everything => true
  | .parts _ _ _ _ acc => acc.getLsbD n

/-- Scratchpad bytes as they come back: in the granules of 4 KiB that were not saved, zero or bytes that the workgroup had there (R430). -/
def lostScratch (cells : List Host.Cell) (granules : Nat) (keep : Nat → Bool) (seed : Nat) : List Host.Cell :=
  let pool := (cells.map (·.2)).eraseDups
  if (List.range granules).all keep then cells
  else (List.range granules).flatMap fun g =>
    if keep g then cells.filter fun x => x.1 / 4096 = g
    else (natRange (4096 * g) 4096).filterMap fun a =>
      let b := leftValue pool (seed + a)
      if b = 0 then none else some (a, b)

/-- A workgroup as it comes back: what no live warp's record names is unpredictable, zero or values of its own (R430). -/
def Workgroup.lose (g : Workgroup) (r : LaunchRecord) (whole : Bool) (ws : List Warp) (seed : Nat) : Workgroup :=
  let keepS (n : Nat) : Bool := named whole ws (LiveRecord.scratch n)
  let keepB (n : Nat) : Bool := named whole ws (LiveRecord.bay n)
  { g with
    scratch := lostScratch g.scratch ((r.scratch + 4095) / 4096) keepS seed
    scratchPoison := g.scratchPoison.filter fun x => keepS (x / 1024)
    bay := g.bay.filter fun x => keepB (x.1 / 65536)
    bayAlt := ((List.range 32).filter fun n => !keepB n).foldl (fun m n => m.put n (seed + 2 ^ 20)) g.bayAlt
    bayPool := (g.bayPool ++ g.bay.map (·.2)).eraseDups
    bayPoison := g.bayPoison.filter fun x => keepB (x / 2048)
    tiles := ((List.range r.acc).filter fun n => !named whole ws (LiveRecord.tile n)).foldl
      (fun m n => m.put n (freshTile (seed + 2 ^ 22 + 65536 * n)
        ((g.tile n).pool ++ (g.tile n).data.map (·.2)).eraseDups)) g.tiles }

/-- Free values that one save may use. -/
def saveFree : Nat := 2 ^ 23

/-! ### When a workgroup may be saved (R425) -/

/-- A flight of a workgroup is in progress, with a slot or begun at its team's formation (R125, R339). -/
def State.flying (s : State) (k : WgKey) : Bool :=
  (s.warps.any fun w => w.wg = k && !w.begun.isEmpty) ||
  s.flights.any fun f => match s.warpAt ⟨f.core, f.warp⟩ with | some w => w.wg = k | none => false

/-- A commit operation waits for its workgroup's turn of its phase (R275). -/
def State.awaitsTurn (s : State) (a : Access) : Bool := match a.commit with | some p => !s.turnAt a.wg p | none => false

/-- One step further in what a context's switch-out stops: queued and suspended records, commit operations whose turn has not come and
accesses at a page that is missing, and whatever of the context cannot go on before those in ids have (R275, R298, R423, R431; log 17). -/
def State.stuckStep (s : State) (ctx : Nat) (ids : List Nat) : List Nat :=
  let waits (l : List Nat) : Bool := l.any fun n => ids.contains n
  let behindOne (a : Access) : Bool := (s.issuedBefore a).any fun p => ids.contains p.id && (s.heldBy a p || match p with
    | .access b => s.behind a b || (a.commit.isSome && a.commit = b.commit && a.wg = b.wg) || (a.kind.arrives && a.warp = b.warp && shareLanes a.threads b.threads)
    | .fence _ => false)
  (s.records.filterMap fun r => if r.wg.ctx = ctx && (!r.admitted || r.suspended.isSome || waits r.fences) then some r.id else none) ++
  (s.pending.filterMap fun p => match p with
    | .access a => if a.wg.ctx = ctx && a.sent.isNone && (s.awaitsTurn a || !a.placed || behindOne a) then some a.id else none
    | .fence f => if waits f.waits then some f.id else none) ++
  (s.cores.flatMap fun c => (c.mq.dropWhile fun e => !(e.wg.ctx = ctx && waits (e.fences ++ e.mateIds))).map (·.id)) ++
  (s.warps.flatMap fun w => if w.wg.ctx = ctx then w.q.flatMap fun q => q.2.open_.filter fun n =>
    waits ((s.openFences w.key 1).filter fun x => x < n) else []) ++
  (s.storeGroups.filterMap fun g => if g.wg.ctx = ctx && waits g.fences then some g.id else none) ++
  (s.galOps.filterMap fun o => if o.wg.ctx = ctx && !o.started && (waits o.fences ||
    (s.galOps.takeWhile fun e => e.id ≠ o.id).any fun e => ids.contains e.id && o.behind e) then some o.id else none)

/-- What a switch-out of a context takes along undone (log 17): steps enough for the longest chain. -/
def State.stuck (s : State) (ctx : Nat) : List Nat :=
  (List.range (2 * s.pending.length + s.galOps.length + s.storeGroups.length + (s.cores.map fun c => c.mq.length).sum + 2)).foldl
    (fun ids _ => s.stuckStep ctx ids) []

/-- A queue stream of a warp has reads or groups under way; a group at a fault waits for its instruction (R200). -/
def Stream.busy (stuck : List Nat) (t : Stream) : Bool :=
  !t.reading.isEmpty || (t.store && t.buf.any fun g => g.fault.isNone && !stuck.contains g.id)

/-- Transfers in flight of a workgroup: admitted records that are not suspended with nothing open, store groups, streams (R296,
R298). -/
def State.inTransit (s : State) (stuck : List Nat) (k : WgKey) : Bool :=
  (s.records.any fun r => r.wg = k && (0 < r.open_ || (r.admitted && !stuck.contains r.id))) ||
  (s.storeGroups.any fun g => g.wg = k && !stuck.contains g.id) ||
  (s.warps.any fun w => w.wg = k && w.q.any fun q => q.2.busy stuck)

/-- A pending access goes into the image: one that the switch-out stops, all but near-memory atomics once its workgroup is saved (R425,
R431; log 17). -/
def State.imaged (s : State) (stuck : List Nat) (a : Access) : Bool := stuck.contains a.id || (s.isSaved a.wg && a.inImage)

/-- An access of a workgroup that its save waits for: near-memory atomics only hold up the context (R373, R425). -/
def State.accessing (s : State) (stuck : List Nat) (k : WgKey) : Bool :=
  (s.pending.any fun p => match p with
    | .access a => a.wg = k && !s.imaged stuck a && !a.kind.near
    | .fence _ => false) ||
  (s.returns.any fun r => r.wg = k) || (s.scoreboard.any fun x => match s.warpAt x.1 with | some w => w.wg = k | none => false)

/-- Another gang member's access through a layer window into a workgroup's scratchpad, or part of a team pass that reads it, which its
save waits for (R175, R342, R425). -/
def State.otherWindows (s : State) (stuck : List Nat) (k : WgKey) : Bool :=
  (s.pending.any fun p => match p with
    | .access a => !a.glob && a.wg ≠ k && gridOfWg a.wg = gridOfWg k && !s.imaged stuck a && a.lanes.any fun x => x.target = k.wgid
    | .fence _ => false) ||
  (s.cores.any fun c => c.mq.any fun e => e.wg ≠ k && !stuck.contains e.id && match e.work with
    | .team _ _ _ _ _ _ _ leader .. => leader = k
    | _ => false)

/-- A workgroup may be saved: its warps have stopped, its transfers, matrix-queue entries and accesses are done (R175, R359, R425). -/
def State.savable (s : State) (g : Workgroup) : Bool :=
  let stuck := s.stuck g.key.ctx
  (match s.ctxAt g.key.ctx with | some c => c.st == .switching | none => false) && !g.saved &&
  (g.ended = none || g.ended = some .exit) && !s.flying g.key && !s.inTransit stuck g.key &&
  !(s.cores.any fun c => c.phys = g.core && c.mq.any fun e => e.wg = g.key && !stuck.contains e.id) &&
  !s.accessing stuck g.key && !s.otherWindows stuck g.key

/-- Registers named by keys become unpredictable, zero or values that the warp has had, and clean (R430). -/
def Warp.loseRegs (pool : List Word) (seed : Nat) (w : Warp) : List Nat → Warp
  | [] => w
  | k :: ks => Warp.loseRegs pool (seed + 1)
      { w with v := SMap.set 0 w.v k (leftValue pool seed), regPoison := w.regPoison.filter fun x => x ≠ k } ks

/-- A warp as it goes into the image: its unsaved registers are unpredictable, its monitors are gone (R382, R430). -/
def Warp.forImage (vregs seed : Nat) (w : Warp) : Warp :=
  let v := w.loseRegs (w.v.map (·.2)).eraseDups seed (w.lostKeys vregs)
  { v with watch := v.watch.map fun e => (e.1, { e.2 with pa := noPa, key := ⟨0, 0⟩ }) }

/-- A matrix entry that uses a workgroup's tiles or scratchpad: its own, or a part of a team pass that it leads (R342, R359). -/
def MEntry.uses (e : MEntry) (k : WgKey) : Bool :=
  e.wg = k || match e.work with
    | .team _ _ _ _ _ _ _ leader .. => leader = k
    | _ => false

/-- WORKGROUP_SAVED: a stopped, drained workgroup goes into the image; its suspended records become queued ones (R298, R425, R430). -/
def execWorkgroupSaved (wg : WgKey) (s0 : State) : Out :=
  let s := s0.settle
  match s.wgAt wg, s.recOf wg with
  | some g, some r =>
    if !s.savable g then .refused (.notEnabled "WORKGROUP_SAVED")
    else
      let ws := s.warpsOf wg
      let whole := s.cores.any fun c => c.mq.any fun e => e.uses wg
      let s1 := (s.updWg wg fun g => { g.lose r whole (ws.filter Warp.alive) s.freeCtr with saved := true }).useFree saveFree
      let s2 := ws.foldl (fun t w => (t.updWarp w.key fun v => v.forImage r.vregs t.freeCtr).useFree 16384) s1
      .next { s2 with records := s2.records.map fun (x : CopyRec) => if x.wg = wg then { x with admitted := false } else x }
  | _, _ => .refused (.notEnabled "WORKGROUP_SAVED")

/-! ### The image of a context (R427, R428) -/

/-- The logical number of a core of a context's partition (R19). -/
def Context.logicalOf (c : Context) (phys : Nat) : Nat := ((c.part.find? fun x => x.phys = phys).map (·.logical)).getD phys

/-- The physical number of a logical core. -/
def Context.physOf (c : Context) (logical : Nat) : Nat := ((c.part.find? fun x => x.logical = logical).map (·.phys)).getD logical

/-- New numbers for what an image holds: of cores by core, of the context, and of the model's ids from base on (R20). -/
structure Relabel where
  core : Nat → Nat
  ctx : Nat
  base : Nat
  /-- numbers of operations that are still under way, which keep theirs -/
  keep : List Nat

/-- The new number of what an image's state names. -/
def Relabel.id (f : Relabel) (n : Nat) : Nat := if f.keep.contains n then n else f.base + n

/-- A pending access or fence under other numbers; the image holds no physical address (R20). -/
def Pending.relabel (f : Relabel) : Pending → Pending
  | .access a => .access { a with
      id := f.base + a.id
      warp := { a.warp with core := f.core a.warp.core }
      wg := { a.wg with ctx := f.ctx }
      lanes := if a.glob then a.lanes.map fun x => { x with pa := noPa, key := ⟨0, 0⟩ } else a.lanes }
  | .fence m => .fence { m with
      id := f.base + m.id
      warp := { m.warp with core := f.core m.warp.core }
      waits := m.waits.map f.id }

def Workgroup.relabel (f : Relabel) (g : Workgroup) : Workgroup :=
  { g with
    core := f.core g.core
    key := { g.key with ctx := f.ctx }
    locks := g.locks.map fun x => (0, x.2)
    ends := g.ends.map fun e => (e.1, f.base + e.2)
    doneAt := g.doneAt.map (f.base + ·) }

/-- A wait under new numbers. -/
def Wait.relabel (f : Relabel) : Wait → Wait
  | .matrix m upto => .matrix m (f.base + upto)
  | .tileBusy t upto => .tileBusy t (f.base + upto)
  | w => w

def Stream.relabel (f : Relabel) (t : Stream) : Stream :=
  { t with
    asks := t.asks.map (f.base + ·)
    buf := t.buf.map fun (g : QGroup) => { g with id := f.base + g.id } }

def Warp.relabel (f : Relabel) (w : Warp) : Warp :=
  { w with
    core := f.core w.core
    wg := { w.wg with ctx := f.ctx }
    pcs := w.pcs.map fun (p : PcSet) => { p with blocked := p.blocked.map (Wait.relabel f) }
    q := w.q.map fun e => (e.1, e.2.relabel f)
    watch := w.watch.map fun e => (e.1, { e.2 with arming := e.2.arming.map (f.base + ·) }) }

def CopyRec.relabel (f : Relabel) (r : CopyRec) : CopyRec :=
  { r with
    id := f.base + r.id
    warp := { r.warp with core := f.core r.warp.core }
    wg := { r.wg with ctx := f.ctx }
    fences := r.fences.map (f.base + ·) }

def StoreGroup.relabel (f : Relabel) (g : StoreGroup) : StoreGroup :=
  { g with
    id := f.base + g.id
    warp := { g.warp with core := f.core g.warp.core }
    wg := { g.wg with ctx := f.ctx }
    elems := g.elems.map fun e => (e.1, noPa, e.2.2.1, ⟨0, 0⟩)
    fences := g.fences.map (f.base + ·) }

def MWork.relabel (f : Relabel) : MWork → MWork
  | .team tile aslot bslot bofs bsci rowt zero leader aofs stride asci ts mates =>
    .team tile aslot bslot bofs bsci rowt zero { leader with ctx := f.ctx } aofs stride asci ts (mates.map (f.base + ·))
  | w => w

def MEntry.relabel (f : Relabel) (e : MEntry) : MEntry :=
  { e with id := f.base + e.id, wg := { e.wg with ctx := f.ctx }, work := e.work.relabel f, fences := e.fences.map (f.base + ·) }

/-- A grid under new numbers, its passes of tickets under way among them. -/
def Grid.relabel (f : Relabel) (g : Grid) : Grid :=
  { g with
    key := { g.key with ctx := f.ctx }
    gone := g.gone.map fun x => (x.1, x.2.map fun e => (e.1, f.base + e.2))
    passes := g.passes.map fun (p : TicketPass) => { p with warp := { p.warp with core := f.core p.warp.core }, upto := f.base + p.upto } }

/-- What is pending for the workgroups of a context: commit operations, accesses behind fences, and fences. -/
def State.pendOf (s : State) (ctx : Nat) : List Pending :=
  s.pending.filter fun p => match p with
    | .access a => a.wg.ctx = ctx
    | .fence m => match s.warpAt m.warp with | some w => w.wg.ctx = ctx | none => false

/-- The image of a context whose workgroups are all saved; no physical identity stands in it (R20, R428). -/
def State.imageOf (s : State) (c : Context) (buf : ImageBuffer) : Image :=
  let f : Relabel := ⟨c.logicalOf, c.num, 0, []⟩
  let own := s.cores.filter fun k => c.part.any fun x => x.phys = k.phys
  { buf := buf
    ids := s.nextId
    used := false
    podRanks := c.podSize
    shape := c.part.map fun x => (x.layer, x.chip, x.reti)
    grids := (s.grids.filter fun g => g.key.ctx = c.num).map (Grid.relabel f)
    wgs := (s.wgs.filter fun g => g.key.ctx = c.num).map (Workgroup.relabel f)
    warps := (s.warps.filter fun w => w.wg.ctx = c.num).map (Warp.relabel f)
    bounds := own.map fun k => (c.logicalOf k.phys, k.bounds)
    records := (s.records.filter fun r => r.wg.ctx = c.num).map (CopyRec.relabel f)
    pend := (s.pendOf c.num).map (Pending.relabel f)
    mqs := own.map fun k => (c.logicalOf k.phys, k.mq.map (MEntry.relabel f))
    storeGroups := (s.storeGroups.filter fun g => g.wg.ctx = c.num).map (StoreGroup.relabel f)
    hold := c.hold
    nextGrid := c.nextGrid }

/-! ### The end of a save (R421, R425) -/

/-- Cores leave a partition and are cleared (R100). -/
def State.freeCores (s : State) (phys : List Nat) : State := { s with cores := s.cores.filter fun k => !phys.contains k.phys }

/-- A context still owns a core: it is in its partition, and not removed and cleared (R392, R438). -/
def State.owns (s : State) (c : Context) (n : Nat) : Bool :=
  c.part.any fun x => x.phys = n && (!x.removed || (s.wgs.any fun g => g.core = n && g.key.ctx = c.num) ||
    s.longs.any fun l => l.result.isNone && match l.work with
      | .shrink ctx cores => ctx = c.num && cores.contains n
      | _ => false)

/-- The cores that a context owns. -/
def State.ownCores (s : State) (c : Context) : List Nat := (c.part.map (·.phys)).filter fun n => s.owns c n

/-- A context gives up all its cores: they are cleared, and its shrinks in progress have nothing left to wait for, whoever owns those
cores next (R100, R438). -/
def State.releaseCores (s : State) (c : Context) : State :=
  let t := s.freeCores (s.ownCores c)
  { t with longs := t.longs.map fun (l : LongCmd) => match l.work with
      | .shrink ctx _ => if ctx = c.num && l.result.isNone then { l with result := some (0, 0, 0) } else l
      | _ => l }

/-- No cached translation of a context is left. -/
def State.dropTlb (s : State) (ctx : Nat) : State :=
  { s with tlb := s.tlb.filter fun t => t.ctx ≠ ctx, walks := s.walks.filter fun x => x.ctx ≠ ctx }

/-- Every workgroup of a switching context is saved and its near-memory atomics are performed (R373, R425). -/
def State.imageReady (s : State) (ctx : Nat) : Bool :=
  let stuck := s.stuck ctx
  (s.wgs.all fun g => g.key.ctx ≠ ctx || g.saved) &&
  !(s.pending.any fun p => match p with
    | .access a => a.wg.ctx = ctx && !s.imaged stuck a
    | .fence _ => false)

end Sys2Proof.Machine
end

