-- ==== Sys2Proof/Machine/Image.lean ====
section
/-! DEFINITION. The bytes of a context image: header, grid records and workgroup sections, how they are written and read (R422, R427,
R428, R430, R434, R436; log 18). -/

namespace Sys2Proof.Machine

/-! ### The header (R422, R428) -/

/-- Bytes of an image buffer. -/
def State.readBuffer (s : State) (buf : ImageBuffer) (ofs n : Nat) : List Byte :=
  (bufferPieces ofs n).flatMap fun p => readBytes (s.seen (newelKey buf.slot) (bufferPa buf p.1) p.2) (bufferPa buf p.1) p.2

/-- One byte of the CRC-64 of R428, most significant bit first (log 18). -/
def crc64Byte (c : BitVec 64) (b : Byte) : BitVec 64 :=
  (List.range 8).foldl (fun x _ => if x.getLsbD 63 then (x <<< 1) ^^^ 0x42F0E1EBA9EA3693 else x <<< 1) (c ^^^ (b.setWidth 64 <<< 56))

/-- The CRC-64 of R428: initial value and final XOR all ones. -/
def crc64 (bs : List Byte) : BitVec 64 := bs.foldl crc64Byte (BitVec.allOnes 64) ^^^ BitVec.allOnes 64

/-- NLAYER of a partition's shape (R428). -/
def layersIn (shape : List (Nat × Nat × Nat)) : Nat := (shape.map (·.1)).eraseDups.length

/-- LCORES and LCHIP of 16 logical layers and LRETI of 8 logical chiplets, bytes 0x020 to 0x047 of the header (R428). -/
def shapeBytes (shape : List (Nat × Nat × Nat)) : List Byte :=
  ((List.range 16).flatMap fun n => match shape.find? fun x => x.1 = n with
    | some x => [BitVec.ofNat 8 (shape.filter fun y => y.1 = n).length, BitVec.ofNat 8 x.2.1]
    | none => [0, 0]) ++
  (List.range 8).map fun n => match shape.find? fun x => x.2.1 = n with
    | some x => BitVec.ofNat 8 x.2.2
    | none => 0

/-- The shape that those bytes say, core by core. -/
def shapeOf (bs : List Byte) : List (Nat × Nat × Nat) :=
  (List.range 16).flatMap fun n =>
    let chip := (bs.getD (2 * n + 1) 0).toNat
    List.replicate (bs.getD (2 * n) 0).toNat (n, chip, (bs.getD (32 + chip) 0).toNat)

/-- Image offset of the first grid record (R428; log 18). -/
def gridsAt : Nat := 4096

/-- A list of bytes cut or filled to a length. -/
def fitBytes (n : Nat) (bs : List Byte) : List Byte := bs.take n ++ List.replicate (n - bs.length) 0

/-! ### What is saved of a workgroup (R430) -/

/-- The launch record of a workgroup of an image. -/
def Image.recOf (im : Image) (k : WgKey) : Option LaunchRecord := (im.grids.find? fun g => g.key = gridOfWg k).map (·.rec_)

/-- The warps of a workgroup of an image, in order. -/
def Image.warpsOf (im : Image) (k : WgKey) : List Warp := im.warps.filter fun w => w.wg = k

/-- Keys of the registers of a warp that are saved. -/
def Warp.savedKeys (w : Warp) (vregs : Nat) : List Nat :=
  ((List.range vregs).filter w.keepsGroup).flatMap fun g => (natRange (8 * g) 8).flatMap fun n => natRange (64 * n) w.width

/-- A matrix entry of an image uses a workgroup's tiles or scratchpad, which are then saved whole (R359; log 17). -/
def Image.whole (im : Image) (k : WgKey) : Bool := im.mqs.any fun q => q.2.any fun e => e.uses k

/-- Those of n granules that some live warp of a workgroup names. -/
def savedOf (whole : Bool) (ws : List Warp) (f : Nat → LiveRecord → Bool) (n : Nat) : List Nat :=
  (List.range n).filter fun k => named whole (ws.filter Warp.alive) (f k)

/-- Addresses of granules of a size. -/
def granuleAddrs (size : Nat) (ns : List Nat) : List Nat := ns.flatMap fun n => natRange (size * n) size

/-- Granules of the scratchpad, of the bay and tiles that are saved (R97, R430). -/
def scratchSaved (r : LaunchRecord) (whole : Bool) (ws : List Warp) : List Nat :=
  savedOf whole ws LiveRecord.scratch ((r.scratch + 4095) / 4096)
def baySaved (r : LaunchRecord) (whole : Bool) (ws : List Warp) : List Nat := savedOf whole ws LiveRecord.bay ((r.bays + 65535) / 65536)
def tilesSaved (r : LaunchRecord) (whole : Bool) (ws : List Warp) : List Nat := savedOf whole ws LiveRecord.tile r.acc

/-- The elements of a tile, row by row. -/
def Tile.bytes (t : Tile) : List Byte := (List.range 4096).flatMap fun k => toBytes (t.get k).toNat 4

/-! ### Grid records and workgroup sections (R427, R428) -/

/-- The layer that is held for a grid's gang (R112, R114). -/
def Image.holdOf (im : Image) (g : Grid) : Option Nat := im.hold.bind fun h => if h.2 = g.key.grid then some h.1 else none

/-- All that the record of a grid says, what R428 lists first. -/
def Image.gridBytes (im : Image) (g : Grid) : List Byte := (Codec.nat.opt.prod Codec.grid).enc (im.holdOf g, g)

/-- The 4 KiB record of a grid: how long what it says is, and the first of it (log 18). -/
def Image.gridRecord (im : Image) (g : Grid) : List Byte :=
  let bs := im.gridBytes g
  toBytes bs.length 8 ++ fitBytes 4088 bs

/-- Control state of a workgroup: itself and its warps without what other parts hold, bound registers of its core, records, accesses and
fences, matrix-queue entries and store groups (R427, R431; log 17). -/
structure Control where
  wg : Workgroup
  warps : List Warp
  bounds : SMap BoundReg
  records : List CopyRec
  accesses : List Access
  fences : List FenceMark
  entries : List MEntry
  groups : List StoreGroup

def Codec.control : Codec Control :=
  (Codec.workgroup.prod <| Codec.warp.list.prod <| (Codec.nat.prod Codec.boundReg).list.prod <| Codec.copyRec.list.prod <|
   Codec.access.list.prod <| Codec.fenceMark.list.prod <| Codec.mEntry.list.prod Codec.storeGroup.list).iso
    (fun x => (x.wg, x.warps, x.bounds, x.records, x.accesses, x.fences, x.entries, x.groups))
    (fun (wg, warps, bounds, records, accesses, fences, entries, groups) =>
      ⟨wg, warps, bounds, records, accesses, fences, entries, groups⟩)

/-- The accesses of a workgroup in an image, buffered commit operations or the others. -/
def Image.accessesOf (im : Image) (k : WgKey) (buffered : Bool) : List Access :=
  im.pend.filterMap fun p => match p with
    | .access a => if a.wg = k && a.buffered = buffered then some a else none
    | .fence _ => none

def Image.control (im : Image) (g : Workgroup) (ws : List Warp) : Control where
  wg := { g with scratch := [], bay := [], bayPool := [], tilePool := [], tiles := [], scale := [] }
  warps := ws.map fun w => { w with v := [], q := [] }
  bounds := ((im.bounds.find? fun b => b.1 = g.core).map (·.2)).getD []
  records := im.records.filter fun r => r.wg = g.key
  accesses := im.accessesOf g.key false
  fences := im.pend.filterMap fun p => match p with
    | .fence f => if ws.any fun w => w.key = f.warp then some f else none
    | .access _ => none
  entries := im.mqs.flatMap fun q => q.2.filter fun e => e.wg = g.key
  groups := im.storeGroups.filter fun x => x.wg = g.key

/-- The queue storage of the warps of a workgroup, by warp. -/
def Codec.queues : Codec (List (Nat × SMap Stream)) := (Codec.nat.prod (Codec.nat.prod Codec.stream).list).list

/-- The parts of a workgroup's section in the order of R427's table. -/
def Image.parts (im : Image) (g : Workgroup) (r : LaunchRecord) : List (List Byte) :=
  let ws := im.warpsOf g.key
  let whole := im.whole g.key
  [ ws.flatMap fun w => (w.savedKeys r.vregs).flatMap fun k => toBytes (SMap.get 0 w.v k).toNat 4,
    (granuleAddrs 4096 (scratchSaved r whole ws)).map (byteAt g.scratch),
    (tilesSaved r whole ws).flatMap fun n => (g.tile n).bytes,
    (List.range (2048 * r.acc)).map g.scaleByte,
    (Codec.nat.prod Codec.tile).list.enc ((tilesSaved r whole ws).map fun n => (n, { g.tile n with data := [], pool := [] })),
    Codec.queues.enc (ws.map fun w => (w.num, w.q)),
    Codec.access.list.enc (im.accessesOf g.key true),
    Codec.control.enc (im.control g ws),
    (granuleAddrs 65536 (baySaved r whole ws)).map g.bayByte ]

/-- The most bytes of each part (R427): of a core's storage for what is stored as it stands, and what the workgroup's tiles, warps and
buffered operations have of it for what the model codes (log 18). -/
def Image.partRoom (im : Image) (g : Workgroup) (r : LaunchRecord) : List Nat :=
  [196608, 458752, 131072, 16384, 2048 * r.acc, 4096 * (im.warpsOf g.key).length,
    ((im.accessesOf g.key true).map Access.commitBytes).sum, 1024 * (im.warpsOf g.key).length, 2097152]

/-- The parts of a workgroup's section, each cut at its room, and what was cut off. -/
def Image.cutSection (im : Image) (g : Workgroup) : List (List Byte) × List (List Byte) :=
  match im.recOf g.key with
  | none => ([], [])
  | some r =>
    let ps := (im.parts g r).zip (im.partRoom g r)
    (ps.map fun p => p.1.take p.2, ps.map fun p => p.1.drop p.2)

/-- A workgroup's section: its 64-byte descriptor (linear id, grid index, logical core, warps, lane positions, lengths, whether it is saved
whole), and the parts (R428; log 18). -/
def Image.section_ (im : Image) (g : Workgroup) : List Byte :=
  let ps := (im.cutSection g).1
  fitBytes 64 (toBytes g.key.wgid 4 ++ toBytes (im.grids.findIdx fun x => x.key = gridOfWg g.key) 2 ++ toBytes g.core 1 ++
    toBytes (im.warpsOf g.key).length 1 ++ fitBytes 24 ((im.warpsOf g.key).map fun w => BitVec.ofNat 8 w.pos) ++
    (ps.flatMap fun p => toBytes p.length 3) ++ toBytes (im.whole g.key).toNat 1) ++ ps.flatMap id

/-- What a workgroup's parts have no room for, each with its length in 3 bytes. -/
def Image.excess (im : Image) (g : Workgroup) : List Byte := (im.cutSection g).2.flatMap fun p => toBytes p.length 3 ++ p

/-- Bytes of a buffer that an image may take (R422). -/
def imageRoom : Nat := 570 * 2 ^ 20

/-- Bytes 0x018 to the end of an image; behind the sections stand the model's numbers, the next GRIDNO and what grid records and parts had no
room for, as far as the buffer reaches (R422, R427, R428; log 18). -/
def Image.body (im : Image) : List Byte :=
  let sects := gridsAt + 4096 * im.grids.length
  (toBytes (im.wgs.length % 65536 * 65536 + layersIn im.shape) 4 ++ toBytes im.podRanks 4 ++ shapeBytes im.shape ++
  toBytes gridsAt 8 ++ toBytes sects 8 ++ List.replicate (gridsAt - 0x58) 0 ++
  im.grids.flatMap im.gridRecord ++ im.wgs.flatMap im.section_ ++
  (Codec.nat.prod Codec.nat).enc (im.ids, im.nextGrid) ++ (im.grids.flatMap fun g => (im.gridBytes g).drop 4088) ++
  im.wgs.flatMap im.excess).take (imageRoom - 0x18)

/-- The bytes of an image (R428). -/
def Image.bytes (im : Image) : List Byte :=
  toBytes 0x49435844 4 ++ toBytes (0x10000 + im.grids.length % 65536) 4 ++ toBytes (0x18 + im.body.length) 8 ++
  toBytes (crc64 im.body).toNat 8 ++ im.body

/-! ### Reading an image (R434, R436) -/

/-- Little-endian field of some bytes. -/
def fieldAt (bs : List Byte) (ofs n : Nat) : Nat := ofBytes ((bs.drop ofs).take n)

/-- Parts of some lengths. -/
def cutParts : List Nat → List Byte → List (List Byte)
  | [], _ => []
  | n :: ns, bs => bs.take n :: cutParts ns (bs.drop n)

/-- The parts of a section at the head of some bytes with whether the workgroup is saved whole, and the rest. -/
def takeSection (bs : List Byte) : Option ((List (List Byte) × Bool) × List Byte) :=
  let ns := (List.range 9).map fun k => fieldAt bs (32 + 3 * k) 3
  if bs.length < 64 + ns.sum then none
  else some ((cutParts ns (bs.drop 64), fieldAt bs 59 1 != 0), bs.drop (64 + ns.sum))

/-- Grid records, with what stands behind the sections for those that are longer, and the rest of that. -/
def takeGrids : List (List Byte) → List Byte → Option (List (Option Nat × Grid) × List Byte)
  | [], more => some ([], more)
  | b :: bs, more =>
    let n := fieldAt b 0 8
    ((Codec.nat.opt.prod Codec.grid).dec ((b.drop 8).take n ++ more.take (n - 4088))).bind fun x =>
      (takeGrids bs (more.drop (n - 4088))).map fun l => (x.1 :: l.1, l.2)

/-- Parts with what stands behind the sections for those that are longer, and the rest of that. -/
def takeExcess : List (List Byte) → List Byte → List (List Byte) × List Byte
  | [], more => ([], more)
  | p :: ps, more =>
    let n := fieldAt more 0 3
    let r := takeExcess ps (more.drop (3 + n))
    ((p ++ (more.drop 3).take n) :: r.1, r.2)

/-- The sections of an image with all their parts. -/
def fillSections : List (List (List Byte) × Bool) → List Byte → List (List (List Byte) × Bool)
  | [], _ => []
  | x :: xs, more =>
    let r := takeExcess x.1 more
    (r.1, x.2) :: fillSections xs r.2

/-- Words of four bytes under keys. -/
def wordCells (ks : List Nat) (bs : List Byte) : SMap Word :=
  (ks.zipIdx).foldl (fun m k => SMap.set 0 m k.1 (BitVec.ofNat 32 (fieldAt bs (4 * k.2) 4))) []

/-- Registers of the warps of a workgroup, one warp behind the other. -/
def takeRegs (vregs : Nat) : List Warp → List Byte → List Warp
  | [], _ => []
  | w :: ws, bs =>
    let ks := w.savedKeys vregs
    { w with v := wordCells ks bs } :: takeRegs vregs ws (bs.drop (4 * ks.length))

/-- The tiles of a workgroup, with their elements. -/
def takeTiles : SMap Tile → List Byte → SMap Tile
  | [], _ => []
  | t :: ts, bs =>
    (t.1, { t.2 with data := (List.range 4096).map fun k => (k, BitVec.ofNat 32 (fieldAt bs (4 * k) 4)) }) :: takeTiles ts (bs.drop 16384)

/-- A workgroup, its warps with their queues and registers, its commit operations and its control state, from the parts of its section. -/
def takeParts (grids : List Grid) (ps : List (List Byte) × Bool) : Option (Workgroup × List Warp × List Access × Control) :=
  let part (n : Nat) : List Byte := ps.1.getD n []
  (Codec.control.dec (part 7)).bind fun x =>
    ((grids.find? fun g => g.key = gridOfWg x.1.wg.key).map (·.rec_)).bind fun r =>
      (Codec.queues.dec (part 5)).bind fun qs =>
        (Codec.access.list.dec (part 6)).bind fun cs =>
          ((Codec.nat.prod Codec.tile).list.dec (part 4)).map fun ts =>
            let c := x.1
            let ws := takeRegs r.vregs (c.warps.map fun w =>
              { w with q := ((qs.1.find? fun q => q.1 = w.num).map (·.2)).getD [] }) (part 0)
            ({ c.wg with
              scratch := ((granuleAddrs 4096 (scratchSaved r ps.2 ws)).zip (part 1)).filter fun e => e.2 ≠ 0
              tiles := takeTiles ts.1 (part 2)
              scale := (List.range (2048 * r.acc)).zip (part 3)
              bay := (granuleAddrs 65536 (baySaved r ps.2 ws)).zip (part 8) }, ws, cs.1, c)

/-- Puts what has a number in order. -/
def insertBy {α : Type} (f : α → Nat) (x : α) : List α → List α
  | [] => [x]
  | y :: ys => if f x ≤ f y then x :: y :: ys else y :: insertBy f x ys

def sortBy {α : Type} (f : α → Nat) (l : List α) : List α := l.foldr (insertBy f) []

/-- What the bytes of an image in a buffer say; what was not saved is missing. Of what a queue holds in order, the numbers say the order
(R428, R431, R436). -/
def imageDecode (buf : ImageBuffer) (bs : List Byte) : Option Image :=
  let shape := shapeOf ((bs.drop 0x20).take 40)
  let ngrid := fieldAt bs 4 2
  let recs := (List.range ngrid).map fun n => (bs.drop (fieldAt bs 0x48 8 + 4096 * n)).take 4096
  (takeMany takeSection (fieldAt bs 0x1A 2) (bs.drop (fieldAt bs 0x50 8))).bind fun sects =>
    ((Codec.nat.prod Codec.nat).dec sects.2).bind fun tail =>
      (takeGrids recs tail.2).bind fun gs =>
        ((fillSections sects.1 gs.2).mapM (takeParts (gs.1.map (·.2)))).map fun xs =>
          { buf := buf
            ids := tail.1.1
            used := true
            podRanks := fieldAt bs 0x1C 4
            shape := shape
            grids := gs.1.map (·.2)
            wgs := xs.map (·.1)
            warps := xs.flatMap (·.2.1)
            bounds := xs.foldl (fun m x => if m.any fun b => b.1 = x.1.core then m else m ++ [(x.1.core, x.2.2.2.bounds)]) []
            records := sortBy CopyRec.id (xs.flatMap (·.2.2.2.records))
            pend := sortBy Pending.id (xs.flatMap fun x =>
              (x.2.2.1 ++ x.2.2.2.accesses).map .access ++ x.2.2.2.fences.map .fence)
            mqs := ((xs.map (·.1.core)).eraseDups).map fun c =>
              (c, sortBy MEntry.id (xs.flatMap fun x => if x.1.core = c then x.2.2.2.entries else []))
            storeGroups := sortBy StoreGroup.id (xs.flatMap (·.2.2.2.groups))
            hold := gs.1.findSome? fun g => g.1.map fun l => (l, g.2.key.grid)
            nextGrid := tail.1.2 }

/-- Free values that reading an image may use. -/
def Image.freeNeed (im : Image) : Nat := saveFree * im.wgs.length + 16384 * im.warps.length

/-- What an image does not hold comes back unpredictable, zero or values of the context's own, by free values from seed on (R430). -/
def Image.filled (im : Image) (seed : Nat) : Image :=
  { im with
    wgs := (im.wgs.zipIdx).map fun x => match im.recOf x.1.key with
      | some r => x.1.lose r (im.whole x.1.key) ((im.warpsOf x.1.key).filter Warp.alive) (seed + saveFree * x.2)
      | none => x.1
    warps := (im.warps.zipIdx).map fun x => match im.recOf x.1.wg with
      | some r => x.1.forImage r.vregs (seed + saveFree * im.wgs.length + 16384 * x.2)
      | none => x.1 }

/-- IMGBYTES of a buffer whose header has MAGIC and VERSION and a length that the buffer has room for (R428, R434). -/
def State.imageLength (s : State) (buf : ImageBuffer) : Option Nat :=
  let head := s.readBuffer buf 0 0x18
  let n := ofBytes ((head.drop 8).take 8)
  if ofBytes (head.take 4) ≠ 0x49435844 ∨ ofBytes ((head.drop 4).take 4) / 65536 ≠ 1 ∨ n < gridsAt ∨ imageRoom < n then none else some n

/-- What stands in an image buffer where MAGIC, VERSION and CHECK hold: an image that this device has written, there or elsewhere, or
what the bytes of another's say (R421, R434, R436). -/
def State.imageIn (s : State) (buf : ImageBuffer) : Option Image :=
  match s.imageLength buf with
  | none => none
  | some n =>
    let bs := s.readBuffer buf 0 n
    if (crc64 (bs.drop 0x18)).toNat ≠ fieldAt bs 0x10 8 then none
    else match s.images.find? fun (im : Image) => im.bytes = bs with
      | some im => some im
      | none => (imageDecode buf bs).map fun im => im.filled s.freeCtr

/-- Bytes of a buffer that reading its image reads: the header's, or all of them. -/
def State.imageSpan (s : State) (buf : ImageBuffer) : Nat := (s.imageLength buf).getD 0x58

/-- Reading the image in a buffer uses its lines (R365). -/
def State.useImage (s : State) (buf : ImageBuffer) : State :=
  (bufferPieces 0 (s.imageSpan buf)).foldl (fun t p => t.useLines (bufferPa buf p.1) p.2) s

/-- The header's shape and pod size agree with a partition and a pod size (R393, R434). -/
def State.imageFits (s : State) (buf : ImageBuffer) (shape : List (Nat × Nat × Nat)) (podSize : Nat) : Bool :=
  let head := s.readBuffer buf 0 0x58
  ofBytes ((head.drop 0x18).take 2) = layersIn shape && (head.drop 0x20).take 40 = shapeBytes shape &&
  ofBytes ((head.drop 0x1C).take 4) = podSize

/-- An image is written, over what this device knew to stand in the buffer. -/
def State.putImage (s : State) (im : Image) : State :=
  ({ s with images := (s.images.filter fun x => x.buf ≠ im.buf) ++ [im] } : State).writeBuffer im.buf 0 im.bytes

/-- The save of a context can end: everything of it is saved, and no line that its image is written to is pending (R364, R373, R425). -/
def State.saveReady (s : State) (c : Context) (buf : ImageBuffer) : Bool :=
  s.imageReady c.num && !s.bufferPending buf 0 (s.imageOf c buf).bytes.length

/-- The image is complete: it stands in the buffer, the context is saved and its cores are free; a layer hold ends (R114, R421, R425). -/
def State.completeSave (s : State) (c : Context) (buf : ImageBuffer) : State :=
  let im := s.imageOf c buf
  let pend := s.pendOf c.num
  let t : State := { s with
    grids := s.grids.filter fun g => g.key.ctx ≠ c.num
    wgs := s.wgs.filter fun g => g.key.ctx ≠ c.num
    warps := s.warps.filter fun w => w.wg.ctx ≠ c.num
    records := s.records.filter fun r => r.wg.ctx ≠ c.num
    storeGroups := s.storeGroups.filter fun g => g.wg.ctx ≠ c.num
    pending := s.pending.filter fun p => !pend.contains p
    spent := s.spent.filter fun e => e.wg.ctx ≠ c.num }
  ((((t.releaseCores c).dropTlb c.num).updCtx c.num fun c => { c with
      st := .saved
      part := []
      hold := none
      away := im.wgs.map (·.key)
      awayGrids := im.grids.map fun g => (g.key.grid, g.queue, g.tag)
      awayIds := im.pend.map Pending.id }).putImage im).postEvent (ctxEvent 0x140 c.num)

end Sys2Proof.Machine
end

