-- ==== Sys2Proof/Machine/Switch.lean ====
section
/-! DEFINITION. The life of a context: switch-out, restore, kill and shrink (R421, R422, R431 to R439, R468). -/

namespace Sys2Proof.Machine

/-! ### Requests (R421, R422) -/

/-- An image buffer that a switch-out may use: ranges 2 MiB-aligned in the mappable region without a retired frame, and a key slot
bound to the Newel alone (R396, R422). -/
def State.bufferOk (s : State) (b : ImageBuffer) : Bool :=
  b.offsets.length = 8 && (b.offsets.all fun o => o % 2 ^ 21 = 0 && o + imageRange ≤ reservedBase) &&
  !(s.contA.retired.any fun f => inBuffer b (65536 * f)) && (s.keys.any fun k => k.slot = b.slot && k.owners = 0)

/-- Changes a context's state. -/
def State.setCtxState (s : State) (ctx : Nat) (st : CtxState) : State := s.updCtx ctx fun c => { c with st := st }

/-- Holds a transition until the one in progress ends (R421). -/
def State.holdTransition (s : State) (ctx : Nat) (t : Transition) : State := s.updCtx ctx fun c => { c with held := c.held ++ [t] }

/-- A switch-out request (R421, R422). -/
def State.requestSwout (s : State) (h : AdminHdr) (ctx : Nat) (buf : ImageBuffer) : State :=
  match s.ctxAt ctx with
  | none => s.answer h 2
  | some c => match c.st with
    | .switching | .restoring => s.holdTransition ctx (.swout h buf)
    | .created | .saved | .killing => s.answer h 2
    | .resident =>
      let t := s.startLong h (.swout ctx)
      if s.bufferOk buf then
        t.updCtx ctx fun c => { c with st := .switching, buf := some buf, mailbox := [], mailSeq := 0, away := [], awayGrids := [], awayIds := [], kept := [] }
      else (t.finishLong (.swout ctx) 4 0x143 0).postEvent (ctxEvent 0x143 ctx)

/-- A restore request (R421, R494). -/
def State.requestRestore (s : State) (h : AdminHdr) (ctx : Nat) (buf : ImageBuffer) : State :=
  match s.ctxAt ctx with
  | none => s.answer h 2
  | some c =>
    let begins : State := (s.startLong h (.restore ctx buf)).updCtx ctx fun c => { c with st := .restoring }
    match c.st with
    | .switching | .restoring => s.holdTransition ctx (.restore h buf)
    | .created | .killing => s.answer h 2
    | .saved => if c.part.isEmpty then s.answer h 2 else begins
    | .resident =>
      if c.nextGrid = 0 && !(s.wgs.any fun g => g.key.ctx = ctx) then begins else s.answer h 2

/-! ### Kill (R421, R437, R468, R500) -/

/-- Answers with 0x22 a queue's next n entries in the context's memory; the TAG of one that can no longer be read is a free value (R494,
R500; log 15). -/
def State.drainMemory (s : State) (q : LQueue) : Nat → State
  | 0 => s
  | n + 1 =>
    match s.headEntry q [] with
    | some bs => (((s.advanceQueue q.p.queue).postCompletion q.p.queue (parseEntry bs).tag 0x22)).drainMemory { q with head := q.head + 1 } n
    | none =>
      (((s.advanceQueue q.p.queue).postCompletion q.p.queue ((s.freeVal 0).setWidth 32) 0x22).useFree 1).drainMemory
        { q with head := q.head + 1 } n

/-- Every entry of a queue is answered with 0x22, in ring order: at once where the context's memory holds them, and as the Newel reads them
where the host's does (R494, R500). -/
def State.drainQueue (s : State) (q : LQueue) : State :=
  if q.p.hostRing then
    { s with queues := s.queues.map fun (x : LQueue) => if x.p.queue = q.p.queue then { x with drain := x.tail } else x }
  else s.drainMemory q (q.tail - q.head)

/-- Every queued entry of a context is answered, in ring order (R500). -/
def State.drainQueues (s : State) (ctx : Nat) : State := (s.queues.filter fun q => q.p.ctx = ctx).foldl State.drainQueue s

/-- A killed context's part in the Gallery: its operations are aborted without a cause, the other ranks of its communicators are told
that its rank has left, its names are gone (R468; log 20). -/
def State.killGallery (s : State) (ctx : Nat) : State :=
  let os := s.galOps.filter fun o => o.wg.ctx = ctx
  let s1 := os.foldl (fun t o => t.abortOp o none) ((s.comms.filter fun c => c.ctx = ctx).foldl (fun t c => t.tellLeft c) s)
  { s1 with
    buffers := s1.buffers.filter fun b => b.ctx ≠ ctx
    views := s1.views.filter fun v => s1.buffers.any fun b => b.ctx ≠ ctx && b.d.comm = v.comm && b.d.name = v.source }

/-- The context record is discarded (R421). -/
def State.discardCtx (s : State) (ctx : Nat) : State :=
  let t : State := { s.dropTlb ctx with ctxs := s.ctxs.filter fun c => c.num ≠ ctx }
  t.postEvent (ctxEvent 0x141 ctx)

/-- The grids of a saved context are answered as killed (R500; log 21). -/
def State.answerSaved (s : State) (c : Context) : State := c.awayGrids.foldl (fun t g => t.postCompletion g.2.1 g.2.2 0x22) s

/-- The image of a context that is saved. -/
def State.savedImage (s : State) (ctx : Nat) : Option Image :=
  match s.ctxAt ctx with
  | some c => if c.st = .saved then c.buf.bind s.imageIn else none
  | none => none

/-- Near-memory atomics that stand in the image of a saved context are performed as it is killed: one that has issued always is, and no
record that its fence waited for is left (R372, R437; log 17). -/
def State.performSaved (s : State) (ctx : Nat) : State :=
  match s.savedImage ctx with
  | none => s
  | some im => im.pend.foldl (fun t p => match p with
      | .access a => if a.kind.near && !a.buffered then
          a.lanes.foldl (fun u x => match u.translate newelSite ctx x.va .both with
            | .ok pa e => (u.fill newelSite ctx x.va).nmaLane a { x with pa := pa, key := keyOf ctx e }
            | _ => u) t
        else t
      | .fence _ => t) s

/-- A workgroup that a switch-out has stopped goes on to its end; the pins that its save has released stay released (R377). -/
def Workgroup.resume (g : Workgroup) : Workgroup := { g with saved := false, locks := if g.saved then [] else g.locks }

/-- A kill request; pins that a switch-out has released stay released (R377, R421, R437). -/
def State.requestKill (s : State) (h : AdminHdr) (ctx : Nat) : State :=
  match s.ctxAt ctx with
  | none => s.answer h 2
  | some c => match c.st with
    | .restoring => s.holdTransition ctx (.kill h)
    | .killing => s.answer h 2
    | .created | .saved =>
      let t := (((s.startLong h (.kill ctx)).performSaved ctx).drainQueues ctx).answerSaved c
      let u := ((t.killGallery ctx).releaseCores c).discardCtx ctx
      u.finishLong (.kill ctx) 0 0x141 0
    | .resident | .switching =>
      let t := ((s.startLong h (.kill ctx)).finishLong (.swout ctx) 4 0x141 0).setCtxState ctx .killing
      let u : State := { t with
        wgs := t.wgs.map fun (g : Workgroup) => if g.key.ctx = ctx then g.resume else g
        grids := t.grids.map fun (g : Grid) => if g.key.ctx = ctx then { g with killed := true } else g }
      (u.drainQueues ctx).killGallery ctx

/-- Transitions that were held are taken in order (R421). -/
def State.takeHeld (s : State) (ctx : Nat) : State :=
  match s.ctxAt ctx with
  | none => s
  | some c => c.held.foldl (fun t x => match x with
      | .swout h b => t.requestSwout h ctx b
      | .restore h b => t.requestRestore h ctx b
      | .kill h => t.requestKill h ctx) (s.updCtx ctx fun c => { c with held := [] })

/-- Where a kill has stopped a save, the buffer's header is cleared, so that it holds no valid image (R421; log 18). -/
def State.spoilImage (s : State) (c : Context) : State :=
  match c.buf with
  | some b => ({ s with images := s.images.filter fun im => im.buf ≠ b } : State).writeBuffer b 0 (List.replicate gridsAt 0)
  | none => s

/-- A killing context can go: its grids and workgroups have, and no line of a header to be cleared is pending (R364, R437). -/
def State.killReady (s : State) (c : Context) : Bool :=
  !(s.wgs.any fun g => g.key.ctx = c.num) && !(s.grids.any fun g => g.key.ctx = c.num) &&
  (match c.buf with | some b => !s.bufferPending b 0 gridsAt | none => true)

/-- Nothing of a killing context is left on the device: it is gone, and what was held for it is answered (R437, R500). -/
def State.completeKill (s : State) (c : Context) : State :=
  let t := ((s.spoilImage c).releaseCores c).discardCtx c.num
  c.held.foldl (fun t x => match x with | .swout h _ | .restore h _ | .kill h => t.answer h 2) t

/-! ### Restore (R431 to R435) -/

/-- Replays one mailbox entry, or discards it and reports it whole: its words 0, 2 and then 1 with 3 in the record (R433; log 18). -/
def State.replay (s : State) (ctx : Nat) (e : MailEntry) : State :=
  let k : WgKey := ⟨ctx, e.grid, e.wgid⟩
  let r : BarRef := .own k (16 * e.obj)
  let b := s.barAt r
  if (s.wgAt k).isNone || !b.isLive || (e.arrival && b.pend < e.value) then
    let bs := e.bytes (s.gridIndex (gridOfWg k))
    s.postEvent { ctxEvent 0x144 ctx with
      wgid := e.wgid, aux := e.value, addr := ofBytes ((bs.drop 4).take 4) + 2 ^ 32 * ofBytes (bs.drop 12) }
  else if e.arrival then s.updBar r (b.arrive false e.value 0)
  else s.countDown r e.value

/-- A cause kept for a workgroup while it was away: its object is abandoned, then a warp takes the cause at its next flight (R298,
R453). -/
def State.takeKept (s : State) (x : WgKey × Nat × Cause × Option (Bool × Nat)) : State :=
  let k := x.1
  let s1 := match x.2.2.2 with
    | some (false, o) => s.abandon (.own k o)
    | some (true, o) => s.abandonGlobal k ⟨0, 0⟩ o
    | none => s
  let ws := (s1.warpsOf k).filter Warp.alive
  match (ws.find? fun w => w.num = x.2.1).or ws.head? with
  | some w => s1.updWarp w.key fun v => { v with recorded := some (v.recorded.getD x.2.2.1) }
  | none => (s1.updWg k fun g => { g with ended := some .fault }).postEvent { EventRec.blank with
      evt := 5, cause := x.2.2.1, ctx := k.ctx, wgid := k.wgid, warp := x.2.1, gridno := k.grid }

/-- Pins again the lines that a restored workgroup held, where the limits allow (R377). -/
def State.repin (s : State) (g : Workgroup) : State :=
  g.locks.foldl (fun t x => match t.translate g.core g.key.ctx x.2 .either with
    | .ok pa _ => (t.lockLine g.key (lineOf pa) x.2).1
    | _ => t) s

/-- The restored workgroups of a context pin their lines again, one behind the other; none holds a pin before (R377). -/
def State.repinAll (s : State) (ctx : Nat) : State :=
  let mine (g : Workgroup) : Bool := g.key.ctx = ctx
  (s.wgs.filter mine).foldl State.repin
    { s with wgs := s.wgs.map fun (g : Workgroup) => if mine g then { g with locks := [] } else g }

/-- A watch slot re-armed after restore; the word is read at its home (R382). -/
def State.rearm (s : State) (w : Warp) (x : Watch) : Watch :=
  if x.glob then
    match s.translate w.core w.wg.ctx x.addr .read with
    | .ok pa e => { x with pa := pa, key := keyOf w.wg.ctx e, fired := x.fired || x.test (readLE (s.seen (keyOf w.wg.ctx e) pa x.bytes) pa x.bytes), arming := none }
    | _ => { x with fired := true, arming := none }
  else match s.wgAt w.wg with
    | some g => { x with fired := x.fired || x.test (readLE g.scratch x.addr x.bytes), arming := none }
    | none => x

/-- The watch slots of a context's warps are re-armed, their lines used (R365, R382). -/
def State.rearmAll (s : State) (ctx : Nat) : State :=
  s.warps.foldl (fun t w => if w.wg.ctx = ctx then
      w.watch.foldl (fun u e =>
        let x := s.rearm w e.2
        let u1 := if x.glob && x.pa ≠ noPa then (u.fill w.core ctx x.addr).useLines x.pa x.bytes else u
        u1.updWarp w.key fun v => { v with watch := v.watch.put e.1 x }) t
    else t) s

/-- Re-arming or pinning again would reach a pending line, or they or the restored accesses and store groups would need a walker that is
not free (R364, R377, R382, R389). -/
def State.rearmPending (s : State) (ctx : Nat) : Bool :=
  (s.warps.any fun w => w.wg.ctx = ctx && w.watch.any fun e => e.2.glob &&
    (s.walkersBusy w.core ctx e.2.addr || match s.translate w.core ctx e.2.addr .read with
     | .ok pa _ => s.paPending pa e.2.bytes
     | _ => false)) ||
  (s.wgs.any fun g => g.key.ctx = ctx && g.locks.any fun x =>
    s.walkersBusy g.core ctx x.2 || match s.translate g.core ctx x.2 .either with
    | .ok pa _ => s.paPending pa 1
    | _ => false) ||
  (s.pending.any fun p => match p with
    | .access a => a.wg.ctx = ctx && s.accessWalks a
    | .fence _ => false) ||
  (s.storeGroups.any fun g => g.wg.ctx = ctx && g.vas.any fun va => s.walkersBusy (engineSite g.warp.core) ctx va)

/-- The access kind that the fault of a pending access reports (R497). -/
def Access.acc (a : Access) : Acc :=
  match a.kind with
  | .load => .load
  | .store => .store
  | .watch _ => .watch
  | .nma _ => .nma
  | .atom _ | .cas | .fatom _ | .bar _ => .atomic

/-- A warp one of whose accesses has no translation is held at it, as at a fault of that access (R391, R434; log 17). -/
def State.holdMissing (s : State) (w : Warp) : State :=
  if w.hold.isSome then s
  else
    let lost := s.pending.findSome? fun p => match p with
      | .access a => if a.warp = w.key && a.wg = w.wg && a.glob then
          (a.lanes.find? fun x => x.pa = noPa).map fun x => (a, x.va) else none
      | .fence _ => none
    match lost with
    | none => s
    | some (a, va) => match s.translate w.core w.wg.ctx va .either with
      | .fail c => s.updWarp w.key fun v => { v with hold := some ⟨.fault, c, va, a.acc.code, 0, a.pc⟩ }
      | _ => s

/-- Lanes without a translation of the accesses of warps that will not take their fault go (log 17). -/
def State.dropMissing (s : State) (gone : Warp → Bool) : State :=
  { s with pending := s.pending.map fun p => match p with
      | .access a => if (s.warps.any fun w => w.key = a.warp && gone w) && a.glob then
          .access { a with lanes := a.lanes.filter fun x => x.pa ≠ noPa } else .access a
      | .fence m => .fence m }

/-- Reports the fault of a page that is missing for the accesses of a warp that has ended, which no warp is left to take (R388, R434,
R497; log 17). -/
def State.reportMissing (s : State) (w : Warp) : State :=
  s.pending.foldl (fun t p => match p with
    | .access a => if a.warp = w.key && a.wg = w.wg && a.glob then
        (match a.lanes.find? fun x => x.pa = noPa with
         | some x => (match s.translate w.core w.wg.ctx x.va .either with
           | .fail c => t.postEvent { EventRec.ofWarp 5 c w a.pc.toNat with addr := x.va, acc := a.acc.code }
           | _ => t)
         | none => t)
      else t
    | .fence _ => t) s

/-- The warps of a context with accesses that have no translation. -/
def State.holdMissingOf (s : State) (ctx : Nat) : State :=
  let own := s.warps.filter fun w => w.wg.ctx = ctx
  ((own.filter fun w => !w.alive).foldl State.reportMissing ((own.filter Warp.alive).foldl State.holdMissing s)).dropMissing fun w =>
    w.wg.ctx = ctx && !w.alive

/-- Fault records that a restored warp or record sends again (R298, R391, R431). -/
def State.resendFaults (s : State) (ctx : Nat) : State :=
  let s1 := (s.warps.filter fun w => w.wg.ctx = ctx).foldl (fun t w => match w.hold with
    | some h => (match h.kind with
      | .fault => t.postEvent { EventRec.ofWarp 1 h.cause w h.pc.toNat with acc := h.acc, addr := h.addr }
      | .element => t.postEvent { EventRec.ofWarp 2 h.cause w h.pc.toNat with acc := h.acc, addr := h.addr }
      | .brk => t)
    | none => t) s
  (s1.records.filter fun r => r.wg.ctx = ctx).foldl (fun t r => match r.suspended with
    | some (c, va, acc) => t.postChunkFault r c va acc
    | none => t) s1

/-- A store group with its elements translated afresh; one whose page is missing is reported and goes (R434; log 12). -/
def State.placeGroup (s : State) (g : StoreGroup) : State :=
  let xs := (g.elems.zip g.vas).map fun x => (x, s.translate (engineSite g.warp.core) g.wg.ctx x.2 .write)
  let here := xs.filterMap fun x => match x.2 with
    | .ok pa e => some ((x.1.1.1, pa, x.1.1.2.2.1, keyOf g.wg.ctx e), x.1.2)
    | _ => none
  let u := s.fillAll (engineSite g.warp.core) g.wg.ctx g.vas
  let s1 : State := { u with storeGroups := u.storeGroups ++ [{ g with elems := here.map (·.1), vas := here.map (·.2) }] }
  match xs.findSome? fun x => match x.2 with | .fail c => some (c, x.1.2) | _ => none with
  | some (c, va) => s1.postEvent { EventRec.blank with
      evt := 5, cause := c, ctx := g.wg.ctx, wgid := g.wg.wgid, gridno := g.wg.grid, addr := va, acc := Acc.element.code }
  | none => s1

/-- The image's workgroups return to their logical cores (R434, R435). -/
def State.loadImage (s : State) (c : Context) (im : Image) : State :=
  let ids := im.pend.map Pending.id
  let base := if im.used then s.nextId else 0
  let f : Relabel := ⟨c.physOf, c.num, base,
    if c.awayIds = ids then s.galOps.filterMap fun o => if o.wg.ctx = c.num then some o.id else none else []⟩
  let wgs := im.wgs.map fun g => { g.relabel f with saved := false }
  let queueOf (g : Grid) : Nat := match c.awayGrids.find? fun x => x.1 = g.key.grid with | some x => x.2.1 | none => g.queue
  let grids := im.grids.map fun g => { g.relabel f with queue := queueOf g }
  let rec_ (k : WgKey) : Option LaunchRecord := (grids.find? fun g => g.key = gridOfWg k).map (·.rec_)
  let s1 := wgs.foldl (fun t g => match rec_ g.key with | some r => t.readyCore g.core r.width r.carve | none => t) s
  let s2 := im.bounds.foldl (fun t b => t.updCore (c.physOf b.1) fun k => { k with bounds := b.2 }) s1
  let s3 : State := { im.mqs.foldl (fun t b => t.updCore (c.physOf b.1) fun k => { k with mq := k.mq ++ b.2.map (MEntry.relabel f) }) s2 with
    nextId := if im.used then s2.nextId + im.ids else s2.nextId
    freeCtr := s2.freeCtr + im.freeNeed
    images := s2.images.map fun (x : Image) => if x.buf = im.buf then { x with used := true } else x
    grids := s2.grids ++ grids
    admitted := grids.foldl (fun n g => max n (g.order + 1)) s2.admitted
    gangWaits := grids.foldl (fun n g => match g.waiting with | some x => max n (x.since + 1) | none => n) s2.gangWaits
    wgs := s2.wgs ++ wgs
    warps := s2.warps ++ im.warps.map fun w => { w.relabel f with age := 0 }
    records := s2.records ++ im.records.map (CopyRec.relabel f) }
  let ps := im.pend.map (Pending.relabel f)
  let s3f := ps.foldl (fun t p => match p with | .access a => t.fillAccess a | .fence _ => t) s3
  let s4 : State := { s3f with
    pending := s3f.pending ++ ps.map fun p => match p with | .access a => .access (s3f.retranslated a) | m => m
    galOps := s3.galOps.map fun (o : GalOp) =>
      if o.wg.ctx = c.num then
        let o1 : GalOp := { o with fences := o.fences.map fun n => if c.awayIds = ids && ids.contains n then base + n else n }
        (match s3.warps.find? fun w => w.wg = o.wg && w.num = o.warpNum with
         | some w => { o1 with warp := w.key }
         | none => o1)
      else o }
  ((im.storeGroups.map (StoreGroup.relabel f)).foldl State.placeGroup s4).updCtx c.num fun c =>
    { c with hold := im.hold, nextGrid := im.nextGrid }

/-- What follows the placing of the saved workgroups, up to the first flight (R377, R382, R431, R433, R453, R482). -/
def State.finishRestore (s : State) (c : Context) : State :=
  let s1 := c.mailbox.foldl (fun t e => t.replay c.num e) s
  let s2 := c.kept.foldl State.takeKept s1
  let s4 := (s2.repinAll c.num).rearmAll c.num
  let s5 := ((s4.holdMissingOf c.num).swapTables c.num).updCtx c.num fun c =>
    { c with st := .resident, buf := none, mailbox := [], mailSeq := 0, away := [], awayGrids := [], awayIds := [], kept := [] }
  (s5.resendFaults c.num).distribute c.num

/-- The checks of R434 on the image in a buffer. -/
def State.restorable (s : State) (c : Context) (buf : ImageBuffer) : Option Image :=
  match s.imageIn buf with
  | some im =>
    if s.imageFits buf (c.part.map fun x => (x.layer, x.chip, x.reti)) c.podSize &&
        (s.keys.any fun k => k.slot = buf.slot && k.owners = 0) then some im else none
  | none => none

/-- A restore runs: refused by its checks, or the context is resident again (R421, R434, R435). ASTAT, RCAUSE beside the state. -/
def State.restore (s0 : State) (c : Context) (buf : ImageBuffer) : State × Nat × Cause :=
  let s := s0.useImage buf
  match s.restorable c buf with
  | none => ((s.setCtxState c.num .saved).postEvent (ctxEvent 0x142 c.num), 4, 0x142)
  | some im => ((s.loadImage c im).finishRestore c, 0, 0)

/-! ### The commands (R494) -/

/-- SWOUT (R421, R422). -/
def execSwout (h : AdminHdr) (ctx : Nat) (buf : ImageBuffer) (s : State) : Out :=
  admin s "SWOUT" h .ready (ctx < 64 && buf.slot < 2048 && buf.offsets.length = 8) (s.requestSwout h ctx buf)

/-- RESTORE (R421, R434). -/
def execRestore (h : AdminHdr) (ctx : Nat) (buf : ImageBuffer) (s : State) : Out :=
  admin s "RESTORE" h .ready (ctx < 64 && buf.slot < 2048 && buf.offsets.length = 8) (s.requestRestore h ctx buf)

/-- KILL (R421, R437). -/
def execKill (h : AdminHdr) (ctx : Nat) (s : State) : Out := admin s "KILL" h .ready (ctx < 64) (s.requestKill h ctx)

/-- SHRINK (R438): the distributor places nothing new on the cores; they go once their workgroups have retired. -/
def execShrink (h : AdminHdr) (ctx : Nat) (cores : BitVec 192) (s : State) : Out :=
  admin s "SHRINK" h .ready (ctx < 64) <|
    match s.ctxAt ctx with
    | none => s.answer h 2
    | some c =>
      let named := (List.range 192).filter fun n => cores.getLsbD n
      if named.all fun n => c.part.any fun x => x.phys = n && !x.removed then
        (s.updCtx ctx fun c => { c with
          part := c.part.map fun (x : LCore) => if cores.getLsbD x.phys then { x with removed := true } else x }).startLong h (.shrink ctx named)
      else s.answer h 2

/-- Removed cores hold nothing of a context any more (R438). -/
def State.shrunk (s : State) (ctx : Nat) (cores : List Nat) : Bool :=
  !(s.wgs.any fun g => cores.contains g.core && g.key.ctx = ctx)

end Sys2Proof.Machine
end

