-- ==== Sys2Proof/Machine/System.lean ====
section
/-! DEFINITION. Software traps, breakpoints, containment regions and liveness records: TRAP, BRK, CROPEN, CRCLOSE and LIVE (R409,
R410, R419, R420, R429). -/

namespace Sys2Proof.Machine

/-- TRAP (R419). -/
def execTrap (f : XForm) (s : State) : Out :=
  operate s (shapeSys 0x01 f) f noExtra fun o => raise s o.i (BitVec.ofNat 9 (0x160 + f.fld 4 0))

/-- Whether a context's programs may be held at BRK (R420). -/
def State.debugOn (s : State) (ctx : Nat) : Bool := match s.ctxAt ctx with | some c => c.dbg | none => false

/-- BRK (R420): a NOP, or with debug enabled a hold of its warp once it has issued. -/
def execBrk (f : XForm) (s : State) : Out :=
  operate s (shapeSys 0x0F f) f noExtra fun o =>
    if s.debugOn o.i.w.wg.ctx then
      let s1 := s.updWarp o.i.w.key fun w => { w with pcs := moveLanes (o.i.nxt f.len) o.i.fl.active w.pcs }
      .next (s1.hold o.i 4 ⟨.brk, 0, 0, 0, f.fld 7 0, o.i.pc⟩)
    else o.complete s f.len none id

/-- CROPEN (R409). -/
def execCropen (f : XForm) (s : State) : Out :=
  operate s (shapeSys 0x04 f) f noExtra fun o =>
    let h := o.rd64 f.a warpLane
    if h.extractLsb' 0 2 != 0 || h.extractLsb' 57 7 != 0 then raise s o.i 0x123
    else if 4 ≤ o.i.wg.regions.length then raise s o.i 0x124
    else
      let reg := match clsOf f.d with | .s n => some n | _ => none
      let r : Region := ⟨h.setWidth 57, f.mod.setWidth 12, reg⟩
      o.complete (s.updWg o.i.w.wg fun g => { g with regions := r :: g.regions }) f.len none id

/-- CRCLOSE (R410). -/
def execCrclose (f : XForm) (s : State) : Out :=
  operate s (shapeSys 0x05 f) f noExtra fun o =>
    if o.i.wg.regions.isEmpty then raise s o.i 0x125
    else o.complete (s.updWg o.i.w.wg fun g => { g with regions := g.regions.drop 1 }) f.len none id

/-- The record that LIVE leaves (R429). -/
def liveOf (o : Opnd) : LiveRecord :=
  if o.f.ty.getLsbD 0 then .everything
  else .parts (o.rd64 o.f.a warpLane) (o.rd64 o.f.b warpLane) (o.rd o.f.c warpLane) (o.f.mod.extractLsb' 0 24)
    (o.f.mod.extractLsb' 24 8)

/-- LIVE (R429). -/
def execLive (f : XForm) (s : State) : Out :=
  operate s (shapeSys 0x06 f) f noExtra fun o => o.complete s f.len none fun w => { w with live := some (liveOf o) }

end Sys2Proof.Machine
end

