-- ==== Sys2Proof/Machine/Commands.lean ====
section
/-! DEFINITION. Admin commands on contexts, keys, faults, queues, communicators, registrations, views and the pod (R19, R390 to R396,
R420, R444 to R447, R470, R483 to R487, R494 to R498). -/

namespace Sys2Proof.Machine

/-! ### Contexts and partitions (R19, R392, R421) -/

/-- A context record as CTXNEW creates it (R392, R421). -/
def freshContext (ctx troot podSize : Nat) (dbg : Bool) : Context where
  num := ctx
  st := .created
  troot := troot
  podSize := podSize
  slots := []
  dbg := dbg
  part := []
  nextGrid := 0
  hold := none
  held := []
  buf := none
  mailbox := []
  mailSeq := 0
  away := []
  awayGrids := []
  awayIds := []
  kept := []

/-- CTXNEW (R494). -/
def execCtxnew (h : AdminHdr) (ctx troot podSize : Nat) (dbg : Bool) (s : State) : Out :=
  admin s "CTXNEW" h .ready (ctx < 64 && troot < 2 ^ 46 && 1 ≤ podSize && podSize ≤ 4096) <|
    if (s.ctxAt ctx).isSome then s.answer h 2
    else ({ s with ctxs := s.ctxs ++ [freshContext ctx troot podSize dbg] } : State).answer h 0

/-- A context has a transition in progress (R421). -/
def Context.moving (c : Context) : Bool := c.st == .switching || c.st == .restoring || c.st == .killing

/-- CTXDEL (R494). -/
def execCtxdel (h : AdminHdr) (ctx : Nat) (s : State) : Out :=
  admin s "CTXDEL" h .ready (ctx < 64) <|
    match s.ctxAt ctx with
    | none => s.answer h 2
    | some c =>
      if !c.part.isEmpty || c.moving || (s.queues.any fun q => q.p.ctx = ctx) || (s.comms.any fun x => x.ctx = ctx) then s.answer h 2
      else ({ s.dropTlb ctx with ctxs := s.ctxs.filter fun x => x.num ≠ ctx } : State).answer h 0

/-- The logical numbering of a set of physical cores, dense at every level (R19, R20); that they run in the physical
order is the model's choice (log 70). -/
def numberCores (phys : List Nat) : List LCore :=
  let rank (f : Nat → Nat) (n : Nat) : Nat := ((phys.map f).eraseDups.filter fun x => x < f n).length
  (phys.zipIdx).map fun p => ⟨p.2, rank (· / 12) p.1, rank (· / 24) p.1, rank (· / 96) p.1, p.1, false⟩

/-- PARTBUILD (R19, R421, R494). -/
def execPartbuild (h : AdminHdr) (ctx : Nat) (cores : BitVec 192) (s : State) : Out :=
  admin s "PARTBUILD" h .ready (ctx < 64 && cores != 0) <|
    match s.ctxAt ctx with
    | none => s.answer h 2
    | some c =>
      let phys := (List.range 192).filter fun n => cores.getLsbD n
      if !c.part.isEmpty || (c.st ≠ .created && c.st ≠ .saved) || (phys.any fun n => s.ctxs.any fun d => s.owns d n) then s.answer h 2
      else (s.updCtx ctx fun c => { c with
        part := numberCores phys, st := if c.st = .created then .resident else c.st }).respond h false 0 0 phys.length

/-- DEBUG (R420). -/
def execDebugEnable (h : AdminHdr) (ctx : Nat) (enable : Bool) (s : State) : Out :=
  admin s "DEBUG" h .ready (ctx < 64) <|
    if (s.ctxAt ctx).isNone then s.answer h 2 else (s.updCtx ctx fun c => { c with dbg := enable }).answer h 0

/-- DISCREAD (R21, R494); for a context without a partition the manual gives no status, the model answers 2 (log 43). -/
def execDiscread (h : AdminHdr) (ctx : Nat) (s : State) : Out :=
  admin s "DISCREAD" h .ready (ctx < 64) <|
    match s.ctxAt ctx with
    | none => s.answer h 2
    | some c => if c.part.isEmpty then s.answer h 2 else (s.tellHost h.port [.write h.port h.data (discTable c)]).answer h 0

/-! ### Keys (R395, R396, R496) -/

/-- A field of so many bytes. -/
def sized (n : Nat) (bs : List Byte) : List Byte := (bs ++ List.replicate n 0).take n

/-- The 4,557 bytes of a signed encapsulation key: the key, then both signatures over it and the CID (R496). -/
def signedKey (n : Nat) (cid : BitVec 16) : List Byte :=
  let key := sized 1184 (Config.encapKey n)
  let msg := key ++ toBytes cid.toNat 2
  key ++ sized 64 (Config.signEd25519 msg) ++ sized 3309 (Config.signMldsa65 msg)

/-- KEYXCH (R496): a fresh key pair, the only one that KEYBIND then unwraps with. -/
def execKeyxch (h : AdminHdr) (s : State) : Out :=
  admin s "KEYXCH" h .ready true <|
    ((({ s with kemKey := some s.freeCtr } : State).useFree 1).tellHost h.port [.write h.port h.data (signedKey s.freeCtr h.cid)]).answer h 0

/-- The slot's key that a KEYBIND's buffer of 1,160 bytes carries: behind a ciphertext of 1,088 bytes to the latest KEYXCH's key pair, wrapped
in 72 bytes under the first 32 of the shared secret's digest (R496). -/
def State.unwrapped (s : State) (buffer : List Byte) : Option (List Byte) :=
  s.kemKey.bind fun n => (Config.decapsulate n (buffer.take 1088)).bind fun secret =>
    keyUnwrap ((sha512 secret).take 32) (buffer.drop 1088)

/-- KEYBIND (R392, R395, R396, R496): the slot joins the masks of the contexts that its owner mask names and that exist; nothing unwraps
before the first KEYXCH. -/
def execKeybind (h : AdminHdr) (slot : Nat) (owners : BitVec 64) (buffer : List (BitVec 8)) (s : State) : Out :=
  admin s "KEYBIND" h .ready (1 ≤ slot && slot ≤ 2047 && buffer.length = 1160) <|
    if s.keys.any fun k => k.slot = slot then s.answer h 2
    else match s.unwrapped buffer with
      | some key => ({ s with
          keys := s.keys ++ [⟨slot, owners, key⟩]
          ctxs := s.ctxs.map fun (c : Context) => if owners.getLsbD c.num then { c with slots := c.slots ++ [slot] } else c } : State).answer h 0
      | none => s.answer h 4

/-- KEYUNBIND (R396). -/
def execKeyunbind (h : AdminHdr) (slot : Nat) (s : State) : Out :=
  admin s "KEYUNBIND" h .ready (1 ≤ slot && slot ≤ 2047) <|
    if s.keys.any fun k => k.slot = slot then
      ({ s with
        keys := s.keys.filter fun k => k.slot ≠ slot
        ctxs := s.ctxs.map fun (c : Context) => { c with slots := c.slots.filter fun n => n ≠ slot } } : State).answer h 0
    else s.answer h 2

/-! ### Shootdown (R390) -/

/-- SHOOT (R390): cached entries that cover the range go at once; the rest completes the command. -/
def execShoot (h : AdminHdr) (ctx base bytes : Nat) (s : State) : Out :=
  admin s "SHOOT" h .ready (ctx < 64 && base % 65536 = 0 && bytes % 65536 = 0 && base < 2 ^ 57 && bytes < 2 ^ 57) <|
    if (s.ctxAt ctx).isNone then s.answer h 2
    else
      let gone (t : TlbEntry) : Bool := t.ctx = ctx && meets t.base t.size base bytes
      ({ s with tlb := s.tlb.filter fun t => !gone t } : State).startLong h
        (.shoot ctx base bytes ((s.tlb.filter fun t => gone t && t.isLeaf).map fun t => (t.base, t.size)).eraseDups)

/-- n bytes lie in part in one of some ranges. -/
def inSpans (spans : List (Nat × Nat)) (va n : Nat) : Bool := spans.any fun x => meets va n x.1 x.2

/-- Accesses issued before number upto under removed translations, of pages in some ranges, that are not performed: copy chunks and store
groups of the context too, and checkpoints of such a page (R390). -/
def State.owing (s : State) (ctx : Nat) (spans : List (Nat × Nat)) (upto : Nat) : Bool :=
  (s.pending.any fun p => match p with
    | .access a => a.glob && a.wg.ctx = ctx && a.id < upto && a.lanes.any fun x => inSpans spans x.va a.size
    | .fence _ => false) ||
  (s.chunks.any fun c => c.id < upto && s.records.any fun r => r.id = c.rec_ && r.wg.ctx = ctx) ||
  (s.storeGroups.any fun g => g.id < upto && g.wg.ctx = ctx) ||
  (s.longs.any fun l => l.id < upto && match l.work with
    | .ckpt job => job.ctx = ctx && job.copying.isSome && (job.pages.take 1).any fun va => inSpans spans va 65536
    | _ => false)

/-- The watches on pages in some ranges fire (R380, R390). -/
def State.fireWatches (s : State) (ctx : Nat) (spans : List (Nat × Nat)) : State :=
  { s with warps := s.warps.map fun (w : Warp) => if w.wg.ctx = ctx then
      { w with watch := w.watch.map fun e => (e.1,
          if e.2.glob && inSpans spans e.2.addr e.2.bytes then { e.2 with fired := true } else e.2) } else w }

/-! ### Answers to held faults (R200, R298, R391, R420, R453, R494) -/

/-- The warp that a command names. -/
def State.warpNamed (s : State) (k : WgKey) (warp : Nat) : Option Warp := s.warps.find? fun w => w.wg = k && w.num = warp

/-- Groups of a stream at a fault are tried again: read anew from the first such group of a load stream (R200). -/
def Stream.retry (c : Cause) (va : Nat) (t : Stream) : Stream :=
  let bad (g : QGroup) : Bool := g.fault = some (c, va)
  if t.store then { t with buf := t.buf.map fun (g : QGroup) => if bad g then { g with fault := none } else g }
  else match (t.buf ++ t.reading).find? bad with
    | none => t
    | some g => { t with
        next := g.index
        asks := List.replicate (t.next - g.index) 0 ++ t.asks
        buf := t.buf.filter fun x => x.index < g.index
        reading := t.reading.filter fun x => x.index < g.index }

/-- No cached translation of an address is left, so that the next access walks (R391). -/
def State.forget (s : State) (ctx va : Nat) : State :=
  { s with tlb := s.tlb.filter fun t => !(t.ctx = ctx && t.base ≤ va && va < t.base + t.size) }

/-- A held warp goes on: its translation is fresh, a faulted queue group is tried again. A restored warp whose accesses have a page
missing yet is held again (R200, R391, R434). -/
def State.resolveHold (s : State) (w : Warp) (h : Hold) : State :=
  let s1 := (s.forget w.wg.ctx h.addr).updWarp w.key fun v => { v with
    hold := none
    q := if h.kind = .element then v.q.map fun e => (e.1, e.2.retry h.cause h.addr) else v.q }
  let s2 : State := { s1 with pending := s1.pending.map fun p => match p with
    | .access a => if a.warp = w.key ∧ ¬ a.placed then .access (s1.retranslated a) else .access a
    | .fence m => .fence m }
  let s3 := s2.holdMissing { w with hold := none }
  match (s3.warpAt w.key).bind (·.hold) with
  | some x => s3.postEvent { EventRec.ofWarp 1 x.cause w x.pc.toNat with acc := x.acc, addr := x.addr }
  | none => s3

/-- A held warp's cause is delivered to it as a trap (R200, R391). -/
def State.rejectHold (s : State) (w : Warp) (h : Hold) : State :=
  ((s.updWarp w.key fun v => { v with hold := none }).dropMissing fun v => v.key = w.key).deliver { w with hold := none } h.pc h.cause h.addr

/-- The index in its workgroup of the warp that issued a record. -/
def State.numOf (s : State) (r : CopyRec) : Nat := match s.warpAt r.warp with | some w => w.num | none => 0

/-- A rejected record is cancelled: its object is abandoned and a warp takes 0x0EA, or the hosts are told (R298). -/
def State.rejectRecord (s : State) (r : CopyRec) : State :=
  let s1 := (({ s with chunks := s.chunks.filter fun c => c.rec_ ≠ r.id } : State).removeRec r.id).settle
  if s.isSaved r.wg then
    s1.updCtx r.wg.ctx fun c => { c with kept := c.kept ++ [(r.wg, s.numOf r, 0x0EA, r.bar.map fun b => (false, b))] }
  else
    let s2 := match r.bar with | some b => s1.abandon (.own r.wg b) | none => s1
    let ws := (s2.warpsOf r.wg).filter Warp.alive
    match (ws.find? fun w => w.key = r.warp).or ws.head? with
    | some w => s2.updWarp w.key fun v => { v with recorded := some (v.recorded.getD 0x0EA) }
    | none => (s2.updWg r.wg fun g => { g with ended := some .fault }).postEvent { EventRec.blank with
        evt := 5, cause := 0x0EA, ctx := r.wg.ctx, wgid := r.wg.wgid, warp := s.numOf r, gridno := r.wg.grid }

/-- A suspended record in the image of a saved context, answered there: the image is rewritten, a rejection's cause is kept (R298). -/
def State.rejectInImage (s : State) (k : WgKey) (warp : Nat) (reject : Bool) : Option State :=
  match s.savedImage k.ctx with
  | none => none
  | some im => match im.records.find? fun r => r.wg = k && r.suspended.isSome && im.warps.any fun w => w.key = r.warp && w.num = warp with
    | none => none
    | some r =>
      let rs := if reject then im.records.filter fun x => x.id ≠ r.id
        else im.records.map fun (x : CopyRec) => if x.id = r.id then { x with suspended := none } else x
      let t := s.putImage { im with records := rs }
      some (if reject then t.updCtx k.ctx fun c => { c with kept := c.kept ++ [(k, warp, 0x0EA, r.bar.map fun b => (false, b))] } else t)

/-- The answer to a copy-chunk, Gallery-access or queue-element fault of a warp, the oldest record first (R200, R298, R453). -/
def State.answerCopy (s : State) (k : WgKey) (warp : Nat) (reject : Bool) : Option State :=
  match s.records.find? fun r => r.wg = k && r.suspended.isSome && s.numOf r = warp with
  | some r => some (if reject then s.rejectRecord r
      else (match r.suspended with | some f => s.forget r.wg.ctx f.2.1 | none => s).updRec r.id fun x => { x with suspended := none })
  | none => match s.galOps.find? fun o => o.wg = k && o.warpNum = warp && o.suspended.isSome with
    | some o => some (if reject then s.abortOp o (some 0x0EA) else
        (match o.suspended with | some f => s.forget o.wg.ctx f.2.1 | none => s).setOp { o with suspended := none })
    | none => match (s.warpNamed k warp).bind fun w => w.hold.map fun h => (w, h) with
      | some (w, h) =>
        if h.kind = .element then some (if reject then s.rejectHold w h else s.resolveHold w h) else s.rejectInImage k warp reject
      | none => s.rejectInImage k warp reject

/-- The answer to a translation or protection fault that holds a warp (R391). -/
def State.answerFault (s : State) (k : WgKey) (warp : Nat) (reject : Bool) : Option State :=
  match (s.warpNamed k warp).bind fun w => w.hold.map fun h => (w, h) with
  | some (w, h) => if h.kind = .fault then some (if reject then s.rejectHold w h else s.resolveHold w h) else none
  | none => none

/-- An image that an answer would be written to has a pending line (R298, R364). -/
def State.answerWaits (s : State) (ctx : Nat) : Bool :=
  match s.ctxAt ctx with
  | some c => c.st == .saved && (match c.buf with | some b => s.bufferPending b 0 (s.imageSpan b) | none => false)
  | none => false

/-- FAULTANS (R494). -/
def execFaultans (h : AdminHdr) (ctx wgid warp : Nat) (reject copy : Bool) (gridno : Nat) (s : State) : Out :=
  if s.accepts .ready && s.answerWaits ctx then .refused (.notEnabled "FAULTANS")
  else admin s "FAULTANS" h .ready (ctx < 64 && warp < 32) <|
    let k : WgKey := ⟨ctx, gridno, wgid⟩
    match if copy then s.answerCopy k warp reject else s.answerFault k warp reject with
    | some t => t.answer h 0
    | none => s.answer h 2

/-- BRKANS (R420). -/
def execBrkans (h : AdminHdr) (ctx wgid warp gridno : Nat) (s : State) : Out :=
  admin s "BRKANS" h .ready (ctx < 64 && warp < 32) <|
    match (s.warpNamed ⟨ctx, gridno, wgid⟩ warp).bind fun w => w.hold.map fun h => (w, h) with
    | some (w, x) => if x.kind = .brk then (s.updWarp w.key fun v => { v with hold := none }).answer h 0 else s.answer h 2
    | none => s.answer h 2

/-! ### Launch queues (R498) -/

/-- QNEW (R494, R498): bound to the port that carried it. -/
def execQnew (h : AdminHdr) (q : QueueParams) (s : State) : Out :=
  admin s "QNEW" h .ready (q.queue < 256 && q.cls < 8 && q.ctx < 64 && 4 ≤ q.k && q.k ≤ 16 && q.vector < 256) <|
    if (s.ctxAt q.ctx).isNone || (s.queues.any fun x => x.p.queue = q.queue) then s.answer h 2
    else ({ s with queues := s.queues ++ [⟨q, h.port, 0, 0, false, 0, 0, 0⟩] } : State).answer h 0

/-- QDEL (R494). -/
def execQdel (h : AdminHdr) (queue : Nat) (s : State) : Out :=
  admin s "QDEL" h .ready (queue < 256) <|
    match s.queues.find? fun x => x.p.queue = queue with
    | none => s.answer h 2
    | some q =>
      if q.closing then s.answer h 2
      else
        let t := (s.startLong h (.qdel queue)).drainQueue q
        { t with queues := t.queues.map fun (x : LQueue) => if x.p.queue = queue then { x with closing := true } else x }

/-- A queue has entries yet to be answered, or a grid of it is not complete, on the device or in an image that a context stands in. -/
def State.queueBusy (s : State) (queue : Nat) : Bool :=
  (s.queues.any fun q => q.p.queue = queue && q.head < q.drain) ||
  (s.grids.any fun g => g.queue = queue) ||
  s.ctxs.any fun c => c.awayGrids.any fun g => g.2.1 = queue

/-- QDB (R492): the tail index of a queue bound to the port; other writes are ignored, and every write in quarantine (R418). -/
def execQdb (port queue index : Nat) (s : State) : Out :=
  if !s.linkUp port then .refused (.notEnabled "QDB")
  else if s.quar then .next s
  else .next { s with queues := s.queues.map fun (q : LQueue) =>
    if q.p.queue = queue ∧ q.port = port ∧ ¬ q.closing then { q with
      tail := q.head + (2 ^ 32 + index - q.head % 2 ^ 32) % 2 ^ 32
      headAt := if q.tail ≤ q.head then s.headStamp else q.headAt } else q }

/-! ### Communicators and registrations (R444 to R447) -/

/-- An event that the device has applied already, applied to a new record (R486). -/
def State.catchUp (s : State) (comm : Nat) (e : EventKind × MemberMsg) : State :=
  match s.commAt comm with
  | none => s
  | some c =>
    if e.2.evn ≤ c.evn then s
    else match e.1 with
      | .join => if e.2.comm = comm && s.joinFits e.2 then s.applyJoin e.2 else s
      | _ => s.leaveComm e.2.subj c

/-- COMMNEW (R444, R486, R494). -/
def execCommnew (h : AdminHdr) (p : CommParams) (s : State) : Out :=
  admin s "COMMNEW" h .ready (p.comm < 2 ^ 16 && p.ctx < 64 && 1 ≤ p.nranks && p.nranks ≤ 4096 && p.rank < p.nranks &&
      p.table.length = p.nranks && p.table.all fun e => e.extractLsb' 12 3 = 0) <|
    if (s.ctxAt p.ctx).isNone || (s.commAt p.comm).isSome then s.answer h 2
    else if 256 ≤ s.comms.length then s.answer h 3
    else
      let c : Comm := ⟨p.comm, p.ctx, p.nranks, p.rank, p.gen, p.table, p.table, false, false, 0, p.evn, s.member.selfExpelled⟩
      (s.member.log.foldl (fun (t : State) e => t.catchUp p.comm e) { s with comms := s.comms ++ [c] }).answer h 0

/-- COMMDEL (R494). -/
def execCommdel (h : AdminHdr) (comm : Nat) (s : State) : Out :=
  admin s "COMMDEL" h .ready (comm < 2 ^ 16) <|
    if (s.commAt comm).isNone then s.answer h 2
    else ({ s with buffers := s.buffers.map fun (b : NamedBuffer) => if b.d.comm = comm then { b with closing := true } else b } : State).startLong
      h (.commdel comm)

/-- The pages of a range satisfy a registration: mapped in the stack of their stripe, with R, and W where it is needed (R446). -/
def State.pagesFit (s : State) (ctx : Nat) (d : BufferDesc) : Bool :=
  (List.range (d.length / 65536)).all fun n =>
    match s.rootWalk ctx (d.base + 65536 * n) with
    | .leaf base _ e =>
      let pa := leafFrame e + (d.base + 65536 * n - base)
      pa / 2 ^ 36 = bufferDie d (65536 * n) && (permFail .read e).isNone &&
        (!(d.wr || d.raddp || d.col) || (permFail .write e).isNone)
    | _ => false

/-- The pages of n bytes from an address. -/
def pagesFrom (base n : Nat) : List Nat := (List.range (n / 65536)).map fun j => base + 65536 * j

/-- Reading the tables for some pages has to wait for a walker (R389). -/
def State.walksWait (s : State) (ctx : Nat) (vas : List Nat) : Bool := vas.any fun va => s.walkersBusy newelSite ctx va

/-- A registration that the Newel refuses (R445, R446). -/
def State.badReg (s : State) (ctx : Nat) (d : BufferDesc) : Bool :=
  !d.reservedZero || (d.snap && (d.wr || d.raddp || d.col)) || 10 < d.slog || 8 ≤ d.s0 || 2 ^ 57 ≤ d.base || d.base % 65536 != 0 ||
  d.length = 0 || 2 ^ 36 < d.length || d.length % bufferStripe d != 0 || 2 ^ 57 < d.base + d.length ||
  (s.buffers.any fun b => b.d.comm = d.comm && b.d.name = d.name) ||
  (match s.commAt d.comm with | some c => c.ctx ≠ ctx | none => true) || !s.pagesFit ctx d

/-- REG (R445 to R447): the pages are walked for, and what the walks find is kept (R389). -/
def execReg (h : AdminHdr) (ctx : Nat) (d : BufferDesc) (s0 : State) : Out :=
  let pages := if d.length ≤ 2 ^ 36 then pagesFrom d.base d.length else []
  if s0.accepts .ready && s0.walksWait ctx pages then .refused (.notEnabled "REG")
  else admin s0 "REG" h .ready (ctx < 64) <|
    let s := s0.fillAll newelSite ctx pages
    if (s.ctxAt ctx).isNone then s.answer h 2
    else if s0.badReg ctx d then s.respond h false 4 0x100 0
    else if 4096 ≤ s.buffers.length then s.answer h 3
    else ({ s with buffers := s.buffers ++ [⟨ctx, d, false⟩] } : State).answer h 0

/-- DEREG (R446). -/
def execDereg (h : AdminHdr) (comm name : Nat) (s : State) : Out :=
  admin s "DEREG" h .ready (comm < 2 ^ 16 && name < 2 ^ 16) <|
    if !(s.buffers.any fun b => b.d.comm = comm && b.d.name = name && !b.closing) then s.answer h 2
    else ({ s with buffers := s.buffers.map fun (b : NamedBuffer) =>
        if b.d.comm = comm ∧ b.d.name = name then { b with closing := true } else b } : State).startLong h (.dereg comm name)

/-! ### Snapshot views (R483 to R485) -/

/-- The frames of a shadow pool, where every page of it is mapped for reading and writing. -/
def State.poolFrames (s : State) (ctx base : Nat) : Nat → Option (List Nat)
  | 0 => some []
  | n + 1 => match s.translate newelSite ctx base .both with
    | .ok pa _ => (s.poolFrames ctx (base + 65536) n).map fun l => pa / 65536 :: l
    | _ => none

/-- VIEWNEW (R483). -/
def execViewnew (h : AdminHdr) (comm source view poolBase poolBytes : Nat) (s0 : State) : Out :=
  let pages := pagesFrom poolBase poolBytes
  if s0.accepts .ready && (match s0.bufOf comm source with | some b => s0.walksWait b.ctx pages | none => false) then
    .refused (.notEnabled "VIEWNEW")
  else admin s0 "VIEWNEW" h .ready (comm < 2 ^ 16 && source < 2 ^ 16 && view < 2 ^ 16 && poolBase % 65536 = 0 && poolBase < 2 ^ 57 &&
      poolBytes % 65536 = 0 && poolBytes < 2 ^ 36) <|
    match s0.bufOf comm source with
    | none => s0.respond h false 4 0x100 0
    | some b =>
      let s := s0.fillAll newelSite b.ctx pages
      if b.d.snap || (s.buffers.any fun x => x.d.comm = comm && x.d.name = view) then s.respond h false 4 0x100 0
      else match s.poolFrames b.ctx poolBase (poolBytes / 65536) with
        | none => s.respond h false 4 0x100 0
        | some fs =>
          if 4096 ≤ s.buffers.length then s.answer h 3
          else
            let d : BufferDesc := { b.d with name := view, snap := true, rd := true, wr := false, raddp := false, col := false }
            ({ s with
              buffers := s.buffers ++ [⟨b.ctx, d, false⟩]
              views := s.views ++ [⟨comm, source, view, none, false, fs, [], []⟩] } : State).answer h 0

/-- VIEWDEL (R485). -/
def execViewdel (h : AdminHdr) (comm view : Nat) (s : State) : Out :=
  admin s "VIEWDEL" h .ready (comm < 2 ^ 16 && view < 2 ^ 16) <|
    if !(s.views.any fun v => v.comm = comm && v.name = view) then s.answer h 2 else s.startLong h (.viewdel comm view)

/-- A name, and a view of that name, are gone (R446, R485). -/
def State.dropNames (s : State) (p : BufferDesc → Bool) : State :=
  { s with
    views := s.views.filter fun v => !(s.buffers.any fun b => p b.d && b.d.comm = v.comm && b.d.name = v.name)
    buffers := s.buffers.filter fun b => !p b.d }

/-! ### The join command (R486) -/

/-- Eight bytes of a list as a number. -/
def wordAt (bs : List Byte) (i : Nat) : Nat := ofBytes ((bs.drop i).take 8)

/-- A join-list entry, none where a reserved bit is set or an address is not 64 KiB aligned (R486). -/
def parseJoin (bs : List Byte) : Option JoinEntry :=
  let a := wordAt bs 0
  let o := wordAt bs 8
  let x := wordAt bs 16
  let y := wordAt bs 24
  let bit (n i : Nat) : Bool := n.testBit i
  if a / 2 ^ 57 ≠ 0 || o / 2 ^ 36 ≠ 0 || a % 65536 ≠ 0 || o % 65536 ≠ 0 || x % 65536 ≠ 0 || 2 ≤ bitsAt x 32 4 ||
      bitsAt y 28 3 ≠ 0 || bitsAt y 12 3 ≠ 0 || y / 2 ^ 32 ≠ 0 then none
  else some ⟨a, o, x % 2 ^ 32, bitsAt x 48 16, bitsAt x 36 12, bitsAt x 32 4,
    if bit y 31 then some (bitsAt y 16 12) else none, if bit y 15 then some (bitsAt y 0 12) else none⟩

/-- The entry's ranks exist and are not the joining one (R486). -/
def JoinEntry.ranksOk (e : JoinEntry) (nranks rank : Nat) : Bool :=
  ([e.srank] ++ e.alt1.toList ++ e.alt2.toList).all fun r => r < nranks && r != rank

/-- The stripes of a list of entries, numbered from id (R487). -/
def cutStripes (id n : Nat) : List JoinEntry → List JoinStripeRec
  | [] => []
  | e :: es =>
    let k := (e.len + joinStripeBytes - 1) / joinStripeBytes
    ((List.range k).map fun j => ⟨id + j, n, joinStripeBytes * j, min joinStripeBytes (e.len - joinStripeBytes * j), 0, false, false, 0⟩) ++
      cutStripes (id + k) (n + 1) es

/-- Reading a join list has to wait: for a pending line or for a walker (R364, R389). -/
def State.listWaits (s : State) (comm list entries : Nat) : Bool :=
  match s.commAt comm with
  | some c => entries ≤ 65536 && s.vaWaits newelSite c.ctx list (32 * entries)
  | none => false

/-- JOIN (R486, R487): the list is read, once no line of it is pending, and checked, and the first stripes are asked for. -/
def execJoin (h : AdminHdr) (comm rank list entries : Nat) (s0 : State) : Out :=
  if s0.accepts .ready && s0.listWaits comm list entries then .refused (.notEnabled "JOIN")
  else admin s0 "JOIN" h .ready (comm < 2 ^ 16 && rank < 4096 && list < 2 ^ 57 && list % 32 = 0 && 1 ≤ entries && entries ≤ 65536) <|
    match s0.commAt comm with
    | none => s0.answer h 2
    | some c =>
      let s := s0.reached newelSite c.ctx list (32 * entries) false
      match s0.virtBytes c.ctx list (32 * entries) with
      | none => s.answer h 4
      | some bs => match (List.range entries).mapM fun j => parseJoin ((bs.drop (32 * j)).take 32) with
        | none => s.answer h 4
        | some es =>
          let vac := match (if c.pend then c.inactive else c.active)[rank]? with | some e => e.getLsbD 15 | none => false
          if c.frozen || !vac || !(es.all fun e => e.ranksOk c.nranks rank) then s.answer h 4
          else
            let s1 := s.startLong h (.join comm rank)
            let st := cutStripes s1.nextId 0 es
            let j : JoinRec := ⟨s1.nextId - 1, comm, rank, es, st, false⟩
            let s2 : State := { s1 with joins := s1.joins ++ [j], nextId := s1.nextId + st.length }
            if st.isEmpty then s2.finishJoin j c else State.fillJoin j.cmd st.length s2

/-- PODCFG (R440, R470, R494): a new incarnation readmits an expelled device (R479). -/
def execPodcfg (h : AdminHdr) (cfg : PodConfig) (s : State) : Out :=
  admin s "PODCFG" h .ready (cfg.podnum < 4096 && cfg.inc < 2 ^ 32 && 1 ≤ cfg.podSize && cfg.podSize ≤ 4096 && cfg.watch.length ≤ 8 &&
      cfg.coords.length ≤ 4 && (cfg.watch.all fun w => w.dev < 4096 && w.others.length ≤ 7) &&
      cfg.routes.all fun r => r.all fun e => e.2.extractLsb' 4 2 = 0) <|
    (s.updMember fun m => { m with cfg := cfg, selfExpelled := m.selfExpelled && cfg.inc = m.cfg.inc }).answer h 0

end Sys2Proof.Machine
end

