-- ==== Sys2Proof/Machine/Device.lean ====
section
/-! DEFINITION. The device as a whole: bring-up, quarantine, scrubs, rings and registers, time, snapshots, firmware, checkpoints and the
ends of long commands (R411 to R418, R491, R492, R495, R497, R502 to R510). -/

namespace Sys2Proof.Machine

/-! ### Quarantine and containment (R414, R417, R418, R510) -/

/-- Quarantine: every resident workgroup ends as killed, the hosts are told for each context, the device departs from the pod (R418,
R479). -/
def State.quarantine (s : State) : State :=
  if s.quar then s
  else
    let s1 : State := { s.trigger with quar := true }
    let s2 := (s1.wgs.map (·.key)).foldl (fun t k => (t.endWorkgroup k .kill).updWg k Workgroup.resume) s1
    let s3 := s2.ctxs.foldl (fun t c => t.postEvent { EventRec.blank with evt := 10, cause := 0x122, ctx := c.num }) s2
    let me := s3.member.cfg.podnum
    s3.request .departure { MemberMsg.blank with sender := me, subj := me, inc := s3.member.cfg.inc }

/-- The poison record or a retired-frame list is longer than the machinery holds (R417). -/
def Containment.overflows (c : Containment) : Bool :=
  65536 < c.poison.length || (List.range 8).any fun n => 16384 < (c.retired.filter fun f => f / 2 ^ 20 = n).length

/-- CONTAINMENT_COMPARE (R417). -/
def execContainmentCompare (uncorrectable : Bool) (s : State) : Out :=
  if !s.ready then .refused (.notEnabled "CONTAINMENT_COMPARE")
  else .next (if uncorrectable || s.contA ≠ s.contB || s.contA.overflows then s.quarantine else s)

/-- THERMAL_TRIP (R510): no warp issues once its workgroup has ended. -/
def execThermalTrip (s : State) : Out := .next s.quarantine

/-- The frames of a stack that hold a granule of a row (R414). -/
def framesOfRow (stack row : Nat) : List Nat :=
  (natRange (2 ^ 20 * stack) (2 ^ 20)).filter fun f => (List.range 2048).any fun j => Config.hbmRow (65536 * f + 32 * j) = row

/-- A row's granules are moved to a spare row; the frames that hold one are retired and told (R414). -/
def State.remapRow (s : State) (pa : Nat) : State :=
  let row := Config.hbmRow pa
  if s.contA.remap.contains row then s
  else
    let fs := (framesOfRow (pa / 2 ^ 36) row).filter fun f => !s.contA.retired.contains f
    let enter (c : Containment) : Containment := { c with remap := c.remap ++ [row], retired := c.retired ++ fs }
    let s1 := ({ s with contA := enter s.contA, contB := enter s.contB } : State).postEvent { EventRec.blank with evt := 6, addr := pa }
    fs.foldl (fun t f => t.postEvent { EventRec.blank with evt := 6, addr := 65536 * f }) s1

/-- A corrected error of a block is counted (R411, R503). -/
def State.countCorrected (s : State) (block : Nat) : State :=
  { s with snap := { s.snap with corrected := s.snap.corrected.put block (SMap.get 0 s.snap.corrected block + 1) } }

/-- The window in which a row's corrected errors count towards its remapping: 24 hours, in ns (R501). -/
def remapWindow : Nat := 24 * 3600 * 10 ^ 9

/-- A corrected error of an HBM row; at the threshold within the window the row is remapped (R414, R501). -/
def State.correctRow (s : State) (pa : Nat) : State :=
  let row := Config.hbmRow pa
  let ts := ((SMap.get [] s.rowErrors row).filter fun t => s.time < t + remapWindow) ++ [s.time]
  let s1 : State := { s.countCorrected (pa / 2 ^ 36) with rowErrors := s.rowErrors.put row ts }
  if Config.remapThreshold ≤ ts.length then s1.remapRow pa else s1

/-- An error in a warp's control state is a consumption by its workgroup, at once (R413). -/
def State.controlError (s : State) (k : WarpKey) : State :=
  match s.warpAt k with
  | some w => (match w.pcs, s.wgAt w.wg with
    | p :: _, some g => s.deliver w p.pc g.serCause 0
    | _, _ => s)
  | none => s

/-- Of errors in control state found together, the one of each workgroup that is delivered: its lowest warp's (R403). -/
def State.controlFirst (s : State) (l : List (Nat × Nat)) : List WarpKey :=
  let ks := (l.map fun x => (⟨x.1, x.2⟩ : WarpKey)).eraseDups
  let owner (k : WarpKey) : Option (WgKey × Nat) := (s.warpAt k).map fun w => (w.wg, w.num)
  ks.filter fun k => ks.all fun j => match owner k, owner j with
    | some x, some y => x.1 ≠ y.1 || x.2 ≤ y.2
    | _, _ => true

/-- An entry of a warp's queue storage that an error has struck (R411). -/
def Warp.strikeQueue (q group lane : Nat) (w : Warp) : Warp :=
  { w with q := w.q.map fun e => if e.1 = q then
      (e.1, { e.2 with buf := (e.2.buf.zipIdx).map fun (x : QGroup × Nat) =>
        if x.2 = group then { x.1 with poison := x.1.poison ||| maskOf [lane] } else x.1 })
    else e }

/-- Elements of a tile that an error has struck. -/
def Workgroup.strikeTile (tile elem : Nat) (g : Workgroup) : Workgroup :=
  let t := g.tile tile
  g.setTile tile { t with poison := addPoison t.poison [elem] }

/-- An entry of a core's own storage that an error has struck is counted (R411, R503). -/
def State.struck (s : State) (core : Nat) : State := s.countPoison (8 + core) 1

/-- An entry of a workgroup's storage that an error has struck: counted by its core, then poisoned (R411, R503). -/
def State.strikeWg (s : State) (k : WgKey) (f : Workgroup → Workgroup) : State :=
  match s.wgAt k with
  | some g => (s.struck g.core).updWg k f
  | none => s

/-- SCRUB (R403, R411, R413, R414): what a scrub or a check has found is corrected and counted, or poisoned; granules of HBM, L2 and
bays are recorded, and the row of an HBM granule is remapped. -/
def execScrub (r : ScrubReport) (s : State) : Out :=
  if !s.ready then .refused (.notEnabled "SCRUB")
  else
    let s1 := r.elsewhere.foldl State.countCorrected (r.corrected.foldl State.correctRow s)
    let s2 := (r.granules.foldl (fun t pa => (t.poisonMem [pa / 32]).remapRow pa) s1).poisonL2 (r.slices.map (· / 32))
    let s3 := r.bays.foldl (fun t x => t.poisonBay x.1 [x.2]) s2
    let s4 := r.scratch.foldl (fun t x => t.strikeWg x.1 fun g => { g with scratchPoison := addPoison g.scratchPoison [x.2] }) s3
    let s5 := r.tiles.foldl (fun t x => t.strikeWg x.1 fun g => g.strikeTile x.2.1 x.2.2) s4
    let s6 := r.scale.foldl (fun t x => t.strikeWg x.1 fun g => { g with scalePoison := addPoison g.scalePoison [x.2] }) s5
    let s7 := r.regs.foldl (fun t x => (t.struck x.1).updWarp ⟨x.1, x.2.1⟩ fun w => { w with regPoison := addPoison w.regPoison [x.2.2] }) s6
    let s8 := r.queues.foldl (fun t x => (t.struck x.1).updWarp ⟨x.1, x.2.1⟩ fun w => w.strikeQueue x.2.2.1 x.2.2.2.1 x.2.2.2.2) s7
    .next ((s8.controlFirst r.control).foldl State.controlError s8)

/-! ### Bring-up, reset and firmware (R418, R505, R506, R509) -/

/-- The boot ROM loads an image (R505). -/
def FwImage.verifies (f : FwImage) : Bool := f.ed25519 && f.mldsa && decide (Config.fusedMinimum ≤ f.secVersion)

/-- Bring-up after the firmware is verified: memory zeroed, a fresh table key, ports trained, READY (R509). -/
def State.bringUp (s : State) (f : FwImage) : State :=
  ({ s with
    firmware := some f
    recov := false
    mem := []
    lineKeys := []
    memPoison := []
    l2 := []
    tableKey := Config.tableKey s.freeCtr
    galPorts := s.galPorts.map fun p => { GalPort.empty with up := true, resends := p.resends, downs := p.downs }
    contA := ⟨[], [], []⟩
    contB := ⟨[], [], []⟩
    ready := true } : State).useFree 1

/-- POWER_GOOD (R506, R509): bring-up, or recovery where no image verifies. -/
def execPowerGood (verified : Option FwImage) (s : State) : Out :=
  if s.ready || s.recov || s.quar then .refused (.notEnabled "POWER_GOOD")
  else match verified with
    | some f => .next (if Sys2Proof.Machine.FwImage.verifies f then s.bringUp f else { s with recov := true })
    | none => .next { s with recov := true }

/-- RESET (R418): everything is as at power-on again; what the model has written out and its own counters go on. -/
def execResetDevice (s : State) : Out :=
  .next { State.reset with
    agenda := s.agenda, freeCtr := s.freeCtr, nextId := s.nextId, hostOut := s.hostOut, netOut := s.netOut }

/-- FWLOAD (R494, R505, R506). -/
def execFwload (h : AdminHdr) (image : FwImage) (s : State) : Out :=
  admin s "FWLOAD" h .load true <|
    if !s.ctxs.isEmpty then s.answer h 2 else s.startLong h (.fwload image)

/-- ATTEST (R507). -/
def execAttest (h : AdminHdr) (nonce : List (BitVec 8)) (s : State) : Out :=
  admin s "ATTEST" h .early (nonce.length = 32) <|
    let f := s.firmware.getD ⟨false, false, 0, 0, []⟩
    let x : Attestation := ⟨nonce, Config.deviceSerial, f.digest, f.secVersion, Config.fusedMinimum, s.quar⟩
    let msg := nonce ++ toBytes x.serial 8 ++ f.digest ++ toBytes f.secVersion 4 ++ toBytes x.fusedMin 4 ++ [if s.quar then 1 else 0]
    (s.tellHost h.port [.report h.port h.data x (Config.signEd25519 msg ++ Config.signMldsa65 msg)]).answer h 0

/-! ### Summary, snapshots and checkpoints (R503, R504, R508) -/

/-- What the summary says (R504). -/
def State.summary (s : State) : Summary where
  firmware := s.firmware.map fun f => (f.secVersion, f.build)
  quar := s.quar
  recov := s.recov
  ports := s.ports.map (·.up)
  time := s.time
  evn := s.member.evn
  ctxs := s.ctxs.map fun c => (c.num, c.st, s.ownCores c, c.slots, c.dbg)
  queues := s.queues.map fun q => (q.p.queue, q.p.ctx, q.p.cls, q.port, q.head, q.tail)
  comms := s.comms
  regs := s.buffers.map fun b => (b.d.name, b.d.comm, b.d.bgen, [b.d.snap, b.d.col, b.d.raddp, b.d.wr, b.d.rd])
  undelivered := s.ports.map fun p => match p.ring with | some r => r.held | none => []
  retired := s.contA.retired
  poison := s.contA.poison.length

/-- RESYNC (R504): the summary says what holds when the command is answered. -/
def execResync (h : AdminHdr) (s : State) : Out := admin s "RESYNC" h .always true (s.startLong h (.resync s.summary))

/-- SNAPCFG (R503). -/
def execSnapcfg (h : AdminHdr) (cause : BitVec 9) (rearm : Bool) (s : State) : Out :=
  admin s "SNAPCFG" h .ready true <|
    ({ s with snap := { s.snap with
        cause := if cause = 0x1FF then none else some cause
        latched := if rearm then none else s.snap.latched } } : State).answer h 0

/-- TRIG (R503): taken by a device that is READY, and not in recovery or in quarantine (R418, R506, R509). -/
def execTrig (port : Nat) (s : State) : Out :=
  if s.linkUp port then .next (if s.accepts .ready then s.trigger else s) else .refused (.notEnabled "TRIG")

/-- What a block's snapshot registers in MW1 give: those latched, or the present ones where no set is held; blocks are numbered as in
SnapSet, block 400 is the Newel (R503; log 67). -/
def State.blockRegs (s : State) (block : Nat) : BlockRegs :=
  let x := match s.snap.latched with
    | some x => x
    | none => match s.trigger.snap.latched with | some x => x | none => ⟨s.time, [], [], [], []⟩
  { time := x.time
    corrected := SMap.get 0 x.corrected block
    poison := SMap.get 0 x.poison block
    ports := if block < 8 then (x.ports.drop (4 * block)).take 4 else []
    dropped := if block = 400 then x.dropped else []
    missed := if block = 400 then s.snap.missed.toNat else 0 }

/-- The 64 KiB pages that a table below a virtual address maps, by their virtual addresses in ascending order; an entry that fails a check, or
whose key slot is not bound, maps none (R385 to R388, R508). -/
def pagesOf (word : Nat → BitVec 64) (bound : Nat → Bool) : Nat → Nat → Nat → List Nat
  | 0, _, _ => []
  | level + 1, va, table =>
    (List.range (2 ^ levelBits level)).flatMap fun n =>
      let e := word (table + 8 * n)
      let at_ := va + 2 ^ levelShift level * n
      if (entryFault level e).isSome then []
      else if e.getLsbD 1 then
        if bound (leafKey e) then (List.range (2 ^ (levelShift level - 16))).map fun j => at_ + 65536 * j else []
      else pagesOf word bound level at_ (entryTable e)

/-- The mapped pages of a context. -/
def State.pagesOf (s : State) (c : Context) : List Nat :=
  Sys2Proof.Machine.pagesOf s.tableWord (fun slot => s.keyBound slot c.num) 4 0 c.troot

/-- A page's bytes as its key shows them (R396). -/
def State.pageBytes (s : State) (key : KeyNo) (frame : Nat) : List Byte :=
  readBytes (s.seen key (65536 * frame) 65536) (65536 * frame) 65536

/-- A page copied while it was written: each 16-byte granule with its old or its new value, unpredictably (R508). -/
def State.halfNew (s : State) (old new : List Byte) : List Byte :=
  (List.range 4096).flatMap fun i =>
    let part (bs : List Byte) : List Byte := (bs.drop (16 * i)).take 16
    if (s.freeVal (i / 64)).getLsbD (i % 64) then part new else part old

/-- A page re-encrypted under a key slot of the Newel, the tweak the byte offset in the checkpoint ÷ 128 (R508). -/
def sealPage (key : List Byte) (index : Nat) (bs : List Byte) : List Byte :=
  (List.range 512).flatMap fun j => xtsEncrypt key (512 * index + j) ((bs.drop (128 * j)).take 128)

/-- A page as packets to a peer's named buffer (R447, R463, R508). -/
def State.sendPage (s : State) (comm name rank index frame : Nat) (bs : List Byte) : State :=
  match s.commAt comm with
  | none => s
  | some m => (List.range 16).foldl (fun u j =>
      u.sendRank none m 0
        { op := 1, gen := m.gen, comm := comm, srcRank := m.rank, dstRank := rank, name := name, bgen := s.bgenOf comm name, seq := 0,
          ofs := 65536 * index + 4096 * j, len := 4096, sofs := 0, sname := 0, sv := false, opr := 0, kind := 0,
          data := (bs.drop (4096 * j)).take 4096,
          poison := (List.range 128).filter fun g => s.memPoison.contains (2048 * frame + 128 * j + g) }) s

/-- CKPT (R508): the pages are those the tables map when the command is accepted. -/
def execCkpt (h : AdminHdr) (ctx : Nat) (dest : CkptDest) (s : State) : Out :=
  admin s "CKPT" h .ready (ctx < 64) <|
    let key := match dest with
      | .host slot _ => (s.keys.find? fun k => k.slot = slot && k.owners = 0).map (·.key)
      | .peer comm _ rank => match s.commAt comm with | some m => if rank < m.nranks then some [] else none | none => none
    match s.ctxAt ctx, key with
    | some c, some key => s.startLong h (.ckpt ⟨dest, key, ctx, s.pagesOf c, 0, none⟩)
    | _, _ => s.answer h 2

/-- A checkpoint's next page goes out whole, without a mark for poison (R412, R508; log 73). -/
def State.copyPage (s : State) (port : Nat) (job : CkptJob) (frame : Nat) (bs : List Byte) : State :=
  match job.dest with
  | .host _ addr => s.tellHost port [.write port (addr + 65536 * job.index) (sealPage job.key job.index bs)]
  | .peer comm name rank => s.sendPage comm name rank job.index frame bs

/-- A checkpoint goes on: its next page is translated and its copy begins, or ends; a line of it that is pending is waited for, and a walker. A
page that is mapped no more has no bytes, and leaves its place in the checkpoint as it is (R364, R365, R389, R390, R508; log 68). -/
def State.workOn (s : State) (id : Nat) : Out :=
  let refused : Out := .refused (.notEnabled "LONG_COMMAND_COMPLETE")
  match (s.longs.find? fun l => l.id = id).bind fun l => match l.work with
    | .ckpt job => some (l, job)
    | _ => none with
  | none => refused
  | some (l, job) => match job.pages with
    | [] => refused
    | va :: vas =>
      let goes (t : State) (j : CkptJob) : Out :=
        .next { t with longs := t.longs.map fun (x : LongCmd) => if x.id = id then { x with work := .ckpt j } else x }
      let next : CkptJob := { job with pages := vas, index := job.index + 1, copying := none }
      match job.copying with
      | none =>
        if s.walkersBusy newelSite job.ctx va then refused
        else match s.leafFor newelSite job.ctx va with
          | .leaf b n e =>
            let pa := leafPa e b n va
            if s.paPending pa 65536 then refused
            else
              let key := keyOf job.ctx e
              goes ((s.fill newelSite job.ctx va).useLines pa 65536) { job with copying := some (pa / 65536, key, s.pageBytes key (pa / 65536)) }
          | _ => goes (s.fill newelSite job.ctx va) next
      | some (frame, key, old) =>
        if s.paPending (65536 * frame) 65536 then refused
        else goes ((s.copyPage l.h.port job frame (s.halfNew old (s.pageBytes key frame))).useFree 64) next

/-! ### Rings, registers, ports and time (R491, R492, R497, R502) -/

/-- EVRING (R497). -/
def execEvring (h : AdminHdr) (k base vector : Nat) (s : State) : Out :=
  admin s "EVRING" h .ready (4 ≤ k && k ≤ 16 && base % 64 = 0 && vector < 256) <|
    match s.ports[h.port]? with
    | some p => if p.ring.isSome then s.answer h 2
      else ({ s with ports := s.ports.set h.port { p with ring := some ⟨k, base, vector, 0, 0, [], 0⟩ } } : State).answer h 0
    | none => s.answer h 2

/-- Held records go into a ring while it has room, at most n of them (R497). -/
def EvRing.flush (port : Nat) : Nat → EvRing → EvRing × List HostMsg
  | 0, r => (r, [])
  | n + 1, r =>
    match r.held with
    | [] => (r, [])
    | e :: es =>
      if r.tail - r.head < 2 ^ r.k then
        let x := EvRing.flush port n { r with held := es, tail := r.tail + 1 }
        (x.1, [r.message port e, .msix port r.vector] ++ x.2)
      else (r, [])

/-- EVHEAD (R492, R497): records up to the index are returned; held ones take their place. A quarantined device does not take it (R418). -/
def execEvhead (port index : Nat) (s : State) : Out :=
  match s.ports[port]? with
  | none => .refused (.notEnabled "EVHEAD")
  | some p =>
    if !p.up then .refused (.notEnabled "EVHEAD")
    else match (if s.quar then none else p.ring) with
      | none => .next s
      | some r =>
        let unread := (2 ^ 32 + r.tail % 2 ^ 32 - index % 2 ^ 32) % 2 ^ 32
        if r.tail - r.head < unread then .next s
        else
          let x := EvRing.flush port r.held.length { r with head := r.tail - unread }
          .next { s with ports := s.ports.set port { p with ring := some x.1 }, hostOut := s.hostOut ++ x.2 }

/-- REGISTER_WRITE (R492): a write that no field takes is ignored. -/
def execRegisterWrite (port _offset : Nat) (_value : BitVec 64) (s : State) : Out :=
  if s.linkUp port then .next s else .refused (.notEnabled "REGISTER_WRITE")

/-- PCIE_LINK_UP (R491): host software may use the port from here on. -/
def execPcieLinkUp (port : Nat) (s : State) : Out :=
  match s.ports[port]? with
  | some p => if p.up then .refused (.notEnabled "PCIE_LINK_UP") else .next { s with ports := s.ports.set port ⟨true, none, p.admdb⟩ }
  | none => .refused (.notEnabled "PCIE_LINK_UP")

/-- A command's header once its port is down: port 2, which none is, so that no host is told (R491). -/
def cutHdr (port : Nat) (h : AdminHdr) : AdminHdr := if h.port = port then { h with port := 2 } else h

def Transition.cut (port : Nat) : Transition → Transition
  | .swout h b => .swout (cutHdr port h) b
  | .restore h b => .restore (cutHdr port h) b
  | .kill h => .kill (cutHdr port h)

/-- PCIE_PORT_DOWN (R491): the queues bound to the port end, grids of theirs have none, and its host is told nothing further. -/
def execPciePortDown (port : Nat) (s : State) : Out :=
  if s.linkUp port then
    let ended (q : Nat) : Nat := if s.queues.any fun x => x.p.queue = q && x.port = port then 256 else q
    .next { s with
      ports := s.ports.set port ⟨false, none, 0⟩
      queues := s.queues.filter fun q => q.port ≠ port
      grids := s.grids.map fun (g : Grid) => { g with queue := ended g.queue }
      longs := s.longs.map fun (l : LongCmd) => { l with h := cutHdr port l.h }
      ctxs := s.ctxs.map fun (c : Context) => { c with
        awayGrids := c.awayGrids.map fun g => (g.1, ended g.2.1, g.2.2)
        held := c.held.map (Transition.cut port) } }
  else .refused (.notEnabled "PCIE_PORT_DOWN")

/-- PRECISION_TIME_MEASUREMENT (R502); a quarantined device takes none (R418). -/
def execPrecisionTimeMeasurement (port time : Nat) (s : State) : Out :=
  if s.linkUp port then .next (if s.quar then s else { s with time := time }) else .refused (.notEnabled "PRECISION_TIME_MEASUREMENT")

/-- ADMIN_RESERVED (R494): a reserved ACMD. -/
def execAdminReserved (h : AdminHdr) (acmd : BitVec 8) (s : State) : Out :=
  if 1 ≤ acmd.toNat && acmd.toNat ≤ 0x1F then .refused (.notEnabled "ADMIN_RESERVED") else admin s "ADMIN_RESERVED" h .ready false s

/-! ### The ends of long commands (R495) -/

/-- The work of a long command at its end: the state it leaves, ASTAT, RCAUSE and RES; none while it goes on (R390, R421, R425, R434,
R437, R438, R446, R485, R494, R504, R505, R508). -/
def State.endLong (s : State) (l : LongCmd) : Option (State × Nat × Cause × Nat) :=
  match l.result with
  | some r => some (s, r)
  | none => match l.work with
    | .shrink ctx cores => if s.shrunk ctx cores then some (s.freeCores cores, 0, 0, 0) else none
    | .shoot ctx base bytes spans =>
      if s.owing ctx ((base, bytes) :: spans) l.upto then none else some (s.fireWatches ctx ((base, bytes) :: spans), 0, 0, 0)
    | .qdel q => if s.queueBusy q then none else some ({ s with queues := s.queues.filter fun x => x.p.queue ≠ q }, 0, 0, 0)
    | .swout ctx => match s.ctxAt ctx with
      | some c => (match c.buf with
        | some b => if c.st = .switching && s.saveReady c b then some ((s.completeSave c b).takeHeld ctx, 0, 0x140, 0) else none
        | none => none)
      | none => none
    | .restore ctx buf => match s.ctxAt ctx with
      | some c =>
        if s.quar then some (s.setCtxState ctx .saved, 4, 0x122, 0)
        else if s.bufferPending buf 0 (s.imageSpan buf) || (match s.restorable c buf with | some im => (s.loadImage c im).rearmPending ctx | none => false) then none
        else
          let r := s.restore c buf
          some (r.1.takeHeld ctx, r.2.1, r.2.2, 0)
      | none => some (s, 2, 0, 0)
    | .kill ctx => match s.ctxAt ctx with
      | some c =>
        if s.killReady c then some (s.completeKill c, 0, 0x141, 0) else none
      | none => none
    | .commdel n =>
      if (s.galOps.any fun o => o.comm = n) || s.arriving fun p => p.comm = n then none
      else some ({ s.dropNames fun d => d.comm = n with comms := s.comms.filter fun c => c.comm ≠ n }, 0, 0, 0)
    | .dereg n name =>
      if s.nameBusy n name then none
      else some (s.dropNames fun d => d.comm = n && d.name = name, 0, 0, 0)
    | .viewdel n name =>
      if s.nameBusy n name then none
      else some (s.dropNames fun d => d.comm = n && d.name = name, 0, 0, 0)
    | .join .. => none
    | .resync told => some (s.tellHost l.h.port [.summary l.h.port l.h.data told], 0, 0, 0)
    | .fwload f =>
      if !s.ctxs.isEmpty then some (s, 2, 0, 0)
      else if !Sys2Proof.Machine.FwImage.verifies f then some (s, 4, 0, 0)
      else some (if s.ready then { s with firmware := some f } else s.bringUp f, 0, 0, 0)
    | .ckpt job => if job.pages.isEmpty then some (s, 0, 0, 0) else none

/-- LONG_COMMAND_COMPLETE (R495): the work is finished and the second response is written. -/
def execLongCommandComplete (id : Nat) (s0 : State) : Out :=
  let s := s0.settle
  match s.longs.find? fun l => l.id = id with
  | none => .refused (.notEnabled "LONG_COMMAND_COMPLETE")
  | some l => match s.endLong l with
    | none => .refused (.notEnabled "LONG_COMMAND_COMPLETE")
    | some (t, a, c, r) =>
      .next (({ t with longs := t.longs.filter fun x => x.id ≠ id } : State).respond l.h true a c r)

end Sys2Proof.Machine
end

