-- ==== Sys2Proof/Machine/Fetch.lean ====
section
/-! DEFINITION. Fetching the words at a program counter, with what can stop a fetch, and the walks it waits for (R25, R47, R52,
R122, R388, R391, R413). -/

namespace Sys2Proof.Machine

/-- What a fetch gives: words (poison: one of them lies in a poisoned granule), a missing translation, a wait, a fault with the address
of the word that failed (R391). -/
inductive Fetched where
  | ok (ws : List Word) (poison : Bool)
  | miss (va : Nat)
  /-- a line of a word is pending (R364) -/
  | waits
  | fail (c : Cause) (va : Nat)
  deriving DecidableEq, Repr

/-- n words from an address of a context, translated by what is cached (R388, R389). -/
def State.fetchWords (s : State) (core ctx : Nat) : Nat → Pc → Fetched
  | 0, _ => .ok [] false
  | n + 1, va =>
    match s.cached core ctx va.toNat with
    | none => .miss va.toNat
    | some t =>
      match permFail .fetch t.leaf with
      | some c => .fail c va.toNat
      | none =>
        let pa := leafFrame t.leaf / t.size * t.size + (va.toNat - t.base)
        if s.paPending pa 4 then .waits
        else match s.fetchWords core ctx n (va + 4) with
        | .ok ws p => .ok (BitVec.ofNat 32 (readLE (s.seen (keyOf ctx t.leaf) pa 4) pa 4) :: ws) (p || s.memPoison.contains (pa / 32))
        | r => r

/-- The lines that fetched words are read from are used (R363, R365). -/
def State.useWords (s : State) (core ctx : Nat) : Nat → Pc → State
  | 0, _ => s
  | n + 1, va =>
    match s.cached core ctx va.toNat with
    | none => s
    | some t => (s.touchL2 (lineOf (leafFrame t.leaf / t.size * t.size + (va.toNat - t.base))) false false).useWords core ctx n (va + 4)

/-- The words of the instruction at an address; with a PFX first, those of its pair (R47). -/
def State.fetchInstr (s : State) (core ctx : Nat) (pc : Pc) (underPfx : Bool) : Fetched :=
  match s.fetchWords core ctx 1 pc with
  | .ok [w] _ =>
    if opOf w = 0x3F && !underPfx then
      match s.fetchWords core ctx 1 (pc + 4) with
      | .ok [w1] _ => s.fetchWords core ctx (1 + wordCount w1) pc
      | r => r
    else s.fetchWords core ctx (wordCount w) pc
  | r => r

/-- Starts the walk that an instruction fetch waits for, one for a warp and a 64 KiB page at a time (R388, R389). -/
def State.startWalk (s : State) (ctx va : Nat) (waiter : Option WarpKey) : State :=
  if s.walks.any fun x => x.ctx = ctx && x.va / 65536 = va / 65536 && x.waiter = waiter then s
  else { s.fresh with walks := s.walks ++ [⟨s.nextId, ctx, va, waiter, none⟩] }

/-- Brings a warp's flight to the front (log 1). -/
def State.frontFlight (s : State) (k : WarpKey) : State :=
  let mine (f : Flight) : Bool := f.core = k.core && f.warp = k.idx
  { s with flights := s.flights.filter mine ++ s.flights.filter fun f => !mine f }

/-- The line that a prefetch asked for, once its walk has given a translation that may be read (R202). -/
def State.bring (s : State) (x : Walk) : State :=
  match x.bring, s.translate x.core x.ctx x.va .read with
  | some b, .ok pa e => s.bringLine b.1 (keyOf x.ctx e) b.2 (lineOf pa)
  | _, _ => s

/-- A walk has one of the 16 walkers of its reticle: requests are served in order, those for one page by one walker (R389). -/
def State.walkServed (s : State) (x : Walk) : Bool :=
  ((s.walkPages (reticleOf x.core)).take 16).contains x.page

/-- What a walk finds: what another for its page has found already, else what its entries say (R388, R389). -/
def State.walkResult (s : State) (x : Walk) : WalkRes :=
  match s.cached x.core x.ctx x.va with
  | some t => .leaf t.base t.size t.leaf
  | none => s.walk x.core x.ctx x.va

/-- The line that a prefetch asks for is pending: it waits (R364). -/
def State.bringPending (s : State) (x : Walk) : Bool :=
  x.bring.isSome && (match s.translate x.core x.ctx x.va .read with
    | .ok pa _ => s.paPending pa 1
    | _ => false)

/-- WALK_COMPLETE of a walk that has a walker: the translation is kept; a fault holds the warp whose fetch waits, and is ignored for a prefetch (R202, R388,
R389, R391). -/
def execWalkComplete (id : Nat) (s : State) : Out :=
  match s.walks.find? fun x => x.id = id with
  | none => .refused (.notEnabled "WALK_COMPLETE")
  | some x =>
    if !s.walkServed x || s.bringPending x then .refused (.notEnabled "WALK_COMPLETE")
    else
    let s1 : State := ({ s with walks := s.walks.filter fun y => y.id ≠ id } : State).fill x.core x.ctx x.va
    let bad (c : Cause) : Out := match x.waiter with
      | none => .next s1
      | some k =>
        let s2 := s1.frontFlight k
        match s2.issuing with
        | some i => if i.w.key = k then holdFault s2 i c x.va .fetch else .next s1
        | none => .next s1
    match s.walkResult x with
    | .noMem pa => if x.waiter.isSome then .fault (.noSuchMemory pa) else .next s1
    | .fail c => bad c
    | .leaf _ _ e =>
      match (if x.waiter.isSome then permFail .fetch e else none) with
      | some c => bad c
      | none => .next (s1.bring x)

/-- The threads of every set at the flight's address join it; a flight that had begun for them is over (R122). -/
def State.merge (s : State) (i : Iss) : State :=
  match i.w.pcs.find? fun p => p.pc = i.pc with
  | some p =>
    let t := s.setFlight { i.fl with active := p.lanes }
    if i.w.begun.any fun b => b.pc = i.pc then
      t.updWarp i.w.key fun w => { w with begun := w.begun.filter fun b => b.pc ≠ i.pc }
    else t
  | none => s

/-- The instruction that words are for the issuing warp, under the PFX in force (R47, R51). -/
def Iss.decode (i : Iss) (ws : List Word) : Dec :=
  match i.fl.pfx with
  | none => Sys2Proof.decode i.env ws
  | some p => decodeUnder i.env (some (p, true, false)) ws

/-- Takes a cause recorded against the warp before the flight's first instruction (R128, R298, R453). -/
def State.takeRecorded (s : State) (i : Iss) (c : Cause) : State :=
  (s.endFlight.updWarp i.w.key fun w => { w with recorded := none }).deliver i.w i.pc c 0

end Sys2Proof.Machine
end

