-- ==== Sys2Proof/Machine/Issue.lean ====
section
/-! DEFINITION. Issue slots: which warp and which set a flight is given to, and results that become readable (R121, R127 to R132,
R148). -/

namespace Sys2Proof.Machine

/-- A set may issue: it is not blocked, or the condition it is blocked at holds (R120, R128). -/
def State.setReady (s : State) (w : Warp) (p : PcSet) : Bool :=
  match p.blocked with
  | none => true
  | some c => s.waitHolds w c

/-- The eligible sets of a warp, lowest PC first (R120, R128). -/
def State.eligible (s : State) (w : Warp) : List PcSet := w.pcs.filter (s.setReady w)

/-- A warp is ready for a flight; none of a context that is being switched out, killed or restored, but for a flight that had begun
before the switch-out (R125, R128, R339, R423, R437). A held warp is not ready, whatever is recorded against it (log 52). -/
def State.isReady (s : State) (w : Warp) : Bool :=
  w.alive && (match s.ctxAt w.wg.ctx with | some c => c.st == .resident || (c.st == .switching && !w.begun.isEmpty) | none => false) && w.hold.isNone && (w.recorded.isSome || !(s.eligible w).isEmpty) &&
  !(s.flights.any fun f => f.core = w.core && f.warp = w.idx)

/-- The priority class of a warp (R95, R129). -/
def State.classOf (s : State) (w : Warp) : Nat :=
  match s.gridAt (gridOfWg w.wg) with
  | some g => g.rec_.prio
  | none => 0

/-- Whether warp a goes before warp b on a slot, n warps being resident on the core (R129). -/
def State.before (s : State) (n : Nat) (a b : Warp) : Bool :=
  let oa := decide (7 * n ≤ a.age)
  let ob := decide (7 * n ≤ b.age)
  if oa != ob then oa
  else if !oa && s.classOf a != s.classOf b then s.classOf b < s.classOf a
  else if a.age != b.age then b.age < a.age
  else a.idx < b.idx

/-- The first of a list of ready warps (R129). -/
def State.best (s : State) (n : Nat) : List Warp → Option Warp
  | [] => none
  | w :: ws => match s.best n ws with
    | none => some w
    | some v => if s.before n v w then some v else some w

/-- The sets of a sweep still to be served as they stood when it started: one that blocked, merged or ended is skipped (R131). -/
def State.sweepLeft (s : State) (w : Warp) : List (Pc × LaneMask) :=
  w.sweep.filter fun x => (s.eligible w).any fun p => p.pc = x.1 && p.lanes = x.2

/-- The set that a warp's next flight is for, with the warp's aging count and sweep after the choice; the count stays while only one set
is eligible (R121, R128, R131; log 62). A flight that has begun goes on first (R339; log 69). -/
def State.chooseSet (s : State) (w : Warp) : Option (PcSet × Nat × List (Pc × LaneMask)) :=
  match w.pcs with
  | [] => none
  | p0 :: _ =>
    if w.recorded.isSome then some (p0, w.lowRuns, w.sweep)
    else match w.pcs.find? fun p => w.begun.any fun b => b.pc = p.pc with
    | some p => some (p, w.lowRuns, w.sweep)
    | none => match s.eligible w with
      | [] => none
      | low :: others =>
        match s.sweepLeft w with
        | x :: xs => ((s.eligible w).find? fun p => p.pc = x.1).map fun p => (p, 0, xs)
        | [] =>
          match others with
          | [] => some (low, w.lowRuns, [])
          | o :: os =>
            if 258 ≤ w.lowRuns + (s.eligible w).length then some (o, 0, os.map fun p => (p.pc, p.lanes))
            else some (low, w.lowRuns + 1, [])

/-- The set that a flight is given to is blocked no more, unless the flight is only for a recorded cause (R120, R128). -/
def Warp.wake (w : Warp) (p : PcSet) : Warp :=
  if w.recorded.isSome then w
  else { w with pcs := w.pcs.map fun q => if q.pc = p.pc then { q with blocked := none } else q }

/-- The flight that a warp gets for a set: a new one, or the one that began with an MMAT, which counts as its first instruction and whose
held values it still has (R124, R150, R339). -/
def Warp.flightFor (w : Warp) (slot : Nat) (p : PcSet) : Flight :=
  match (if w.recorded.isSome then none else w.begun.find? fun b => b.pc = p.pc) with
  | some b => ⟨w.core, slot, w.idx, p.lanes, 1, none, b.l1, b.l2, none, false⟩
  | none => ⟨w.core, slot, w.idx, p.lanes, 0, none, none, none, none, w.recorded.isSome⟩

/-- FLIGHT_START: a free slot gives its next flight to one ready warp (R121, R128, R129, R131). -/
def execFlightStart (core slot : Nat) (s0 : State) : Out :=
  let s := s0.settle
  let onCore := s.warps.filter fun w => w.core = core
  let ready := onCore.filter fun w => w.pos = slot && s.isReady w
  if s.flights.any fun f => f.core = core && f.slot = slot then .refused (.notEnabled "FLIGHT_START")
  else match s.best onCore.length ready with
    | none => .refused (.notEnabled "FLIGHT_START")
    | some w => match s.chooseSet w with
      | none => .refused (.notEnabled "FLIGHT_START")
      | some (p, runs, sweep) =>
        let warps := s.warps.map fun (v : Warp) =>
          if v.core = core ∧ v.pos = slot then
            (if v.idx = w.idx then { v.wake p with age := 0, lowRuns := runs, sweep := sweep, begun := v.begun.filter fun b => b.pc ≠ p.pc } else { v with age := v.age + 1 })
          else v
        .next { s with
          warps := warps
          flights := s.flights ++ [w.flightFor slot p] }

/-- RESULT_WRITEBACK: the oldest result of a warp that is not yet readable becomes readable (R148). -/
def execResultWriteback (core warp : Nat) (s : State) : Out :=
  let k : WarpKey := ⟨core, warp⟩
  match s.scoreboard.findIdx? fun x => x.1 = k with
  | none => .refused (.notEnabled "RESULT_WRITEBACK")
  | some n => .next { s with scoreboard := s.scoreboard.eraseIdx n }

end Sys2Proof.Machine
end

