-- ==== Sys2Proof/Machine/Registers.lean ====
section
/-! DEFINITION. Moves, identities and status registers: MOV, MOVI, RDID, RDSR, WRSR (R42, R160 to R169). -/

namespace Sys2Proof.Machine

/-- MOV without a literal copies 32 bits (R160). -/
def execMov (f : RForm) (s : State) : Out :=
  intOp s 4 (baseShape 0x01 f.toX) f.toX fun o l => (o.rd o.f.a l).setWidth 64

/-- MOV with a literal writes a pair (R42, R160). -/
def execMovLiteral (f : LForm) (s : State) : Out :=
  intOp s 12 (baseShape 0x01 f.toX) f.toX fun _ _ => f.lit

/-- MOVI (R161). -/
def execMovi (f : IForm) (s : State) : Out :=
  intOp s 4 (baseShape 0x02 f.toX) f.toX fun _ _ => f.imm.signExtend 64

/-- The logical identity of a core in its context's partition (R19). -/
def State.lcoreOf (s : State) (ctx phys : Nat) : Option LCore :=
  (s.ctxAt ctx).bind fun c => c.part.find? fun l => l.phys = phys

/-- The value that an RDID selector gives a lane. An execution that makes one value has no one thread's index: a free value (R43, R162;
log 46). -/
def rdidVal (s : State) (i : Iss) (sel lane : Nat) : Nat :=
  let r := i.gr.rec_
  let id := i.w.wg.wgid
  let tid := if lane = warpLane then (s.freeVal 0).toNat % 2 ^ 32 else i.w.num * i.w.width + lane
  let lc := s.lcoreOf i.w.wg.ctx i.w.core
  let lcf (g : LCore → Nat) : Nat := match lc with | some c => g c | none => 0
  match sel with
  | 0 => tid
  | 1 => tid % r.wgx
  | 2 => tid / r.wgx % r.wgy
  | 3 => tid / r.wgx / r.wgy
  | 4 => id
  | 5 => id % r.gx
  | 6 => id / r.gx % r.gy
  | 7 => id / r.gx / r.gy
  | 8 => r.wgx
  | 9 => r.wgy
  | 10 => r.wgz
  | 11 => r.gx
  | 12 => r.gy
  | 13 => r.gz
  | 14 => i.w.num
  | 15 => i.w.width
  | 16 => lcf (·.logical)
  | 17 => lcf (·.layer)
  | 18 => lcf (·.chip)
  | 19 => lcf (·.reti)
  | 20 => id % r.gang
  | 21 => id / r.gang
  | 22 => r.gang
  | n =>
    let j := n - 23
    if r.gang ≤ j then 0xFFFFFFFF else i.gr.placed.get 0xFFFFFFFF (id / r.gang * r.gang + j)

/-- Step 8 of RDID: an identity that depends on placement, in a deterministic grid (R162). -/
def rdidCheck (sel : Nat) (o : Opnd) : Option Cause :=
  if o.i.gr.rec_.det && ((16 ≤ sel && sel ≤ 19) || 23 ≤ sel) then some 0x02B else none

/-- RDID (R162). -/
def execRdid (f : IForm) (s : State) : Out :=
  operate s (baseShape 0x26 f.toX) f.toX (rdidCheck f.imm.toNat) fun o =>
    o.complete s 4 (some (o.lanes.map fun l => (l, BitVec.ofNat 64 (rdidVal s o.i f.imm.toNat l)))) id

/-- RDSR (R168). Every earlier instruction of the warp has set its flags before FLAGS is read (R167). -/
def execRdsr (f : XForm) (s : State) : Out :=
  operate s (shapeSys 0x02 f) f noExtra fun o =>
    if f.a = 1 && s.flagsDue o.i.w then .next s
    else o.complete s f.len (some (o.lanes.map fun l => (l, (statusReg s o.i f.a.toNat).setWidth 64))) id

/-- Step 8 of WRSR: the read-only registers (R169). -/
def wrsrCheck (f : XForm) (_ : Opnd) : Option Cause := if f.d = 3 || f.d = 5 then some 0x026 else none

/-- WRSR (R169). -/
def execWrsr (f : XForm) (s : State) : Out :=
  operate s (shapeSys 0x03 f) f (wrsrCheck f) fun o =>
    let n := f.d.toNat
    let v := wrsrValue (f.fld 1 0) (statusReg s o.i n) (o.rd f.a warpLane)
    if n = 1 && s.flagsDue o.i.w then .next s
    else if !statusValueOk n v then raise s o.i 0x027
    else
      let r := o.commit s none id
      .next ((writeStatus r.1 o.i n v).retire o.i f.len f.lnd r.2)

end Sys2Proof.Machine
end

