-- ==== Sys2Proof/Machine/Dispatch.lean ====
section
/-! DEFINITION. The one dispatch from instructions and events to their meanings. -/

namespace Sys2Proof.Machine

def exec (i : Instr) (s : State) : Host.Outcome State Fault Refusal :=
  match i with
  | .nop lnd => Sys2Proof.Machine.execNop lnd s
  | .mov f => Sys2Proof.Machine.execMov f s
  | .movLiteral f => Sys2Proof.Machine.execMovLiteral f s
  | .movi f => Sys2Proof.Machine.execMovi f s
  | .iadd f => Sys2Proof.Machine.execIadd f s
  | .iaddi f => Sys2Proof.Machine.execIaddi f s
  | .isub f => Sys2Proof.Machine.execIsub f s
  | .imul f => Sys2Proof.Machine.execImul f s
  | .imulhs f => Sys2Proof.Machine.execImulhs f s
  | .imulhn f => Sys2Proof.Machine.execImulhn f s
  | .imad f => Sys2Proof.Machine.execImad f s
  | .iand f => Sys2Proof.Machine.execIand f s
  | .ior f => Sys2Proof.Machine.execIor f s
  | .ixor f => Sys2Proof.Machine.execIxor f s
  | .iandn f => Sys2Proof.Machine.execIandn f s
  | .ishl f => Sys2Proof.Machine.execIshl f s
  | .ishr f => Sys2Proof.Machine.execIshr f s
  | .isar f => Sys2Proof.Machine.execIsar f s
  | .ishi f => Sys2Proof.Machine.execIshi f s
  | .imins f => Sys2Proof.Machine.execImins f s
  | .imaxs f => Sys2Proof.Machine.execImaxs f s
  | .iminn f => Sys2Proof.Machine.execIminn f s
  | .imaxn f => Sys2Proof.Machine.execImaxn f s
  | .isel f => Sys2Proof.Machine.execIsel f s
  | .fadd f => Sys2Proof.Machine.execFadd f s
  | .fsub f => Sys2Proof.Machine.execFsub f s
  | .fmul f => Sys2Proof.Machine.execFmul f s
  | .ffma f => Sys2Proof.Machine.execFfma f s
  | .fmin f => Sys2Proof.Machine.execFmin f s
  | .fmax f => Sys2Proof.Machine.execFmax f s
  | .ldg f => Sys2Proof.Machine.execLdg f s
  | .stg f => Sys2Proof.Machine.execStg f s
  | .lds f => Sys2Proof.Machine.execLds f s
  | .sts f => Sys2Proof.Machine.execSts f s
  | .bra lnd m imm => Sys2Proof.Machine.execBra lnd m imm s
  | .braLong lnd m target => Sys2Proof.Machine.execBraLong lnd m target s
  | .brn lnd m imm => Sys2Proof.Machine.execBrn lnd m imm s
  | .brnLong lnd m target => Sys2Proof.Machine.execBrnLong lnd m target s
  | .call lnd d imm => Sys2Proof.Machine.execCall lnd d imm s
  | .callLong lnd d target => Sys2Proof.Machine.execCallLong lnd d target s
  | .ret lnd a => Sys2Proof.Machine.execRet lnd a s
  | .exit lnd => Sys2Proof.Machine.execExit lnd s
  | .rdid f => Sys2Proof.Machine.execRdid f s
  | .tfence lnd => Sys2Proof.Machine.execTfence lnd s
  | .wsync lnd => Sys2Proof.Machine.execWsync lnd s
  | .pfx p => Sys2Proof.Machine.execPfx p s
  | .iadd64 f => Sys2Proof.Machine.execIadd64 f s
  | .isub64 f => Sys2Proof.Machine.execIsub64 f s
  | .imul64 f => Sys2Proof.Machine.execImul64 f s
  | .imadw f => Sys2Proof.Machine.execImadw f s
  | .iaddc f => Sys2Proof.Machine.execIaddc f s
  | .idivs f => Sys2Proof.Machine.execIdivs f s
  | .idivn f => Sys2Proof.Machine.execIdivn f s
  | .irems f => Sys2Proof.Machine.execIrems f s
  | .iremn f => Sys2Proof.Machine.execIremn f s
  | .iabs f => Sys2Proof.Machine.execIabs f s
  | .ineg f => Sys2Proof.Machine.execIneg f s
  | .iclz f => Sys2Proof.Machine.execIclz f s
  | .ictz f => Sys2Proof.Machine.execIctz f s
  | .ipopc f => Sys2Proof.Machine.execIpopc f s
  | .ibrev f => Sys2Proof.Machine.execIbrev f s
  | .ibfx f => Sys2Proof.Machine.execIbfx f s
  | .ibfi f => Sys2Proof.Machine.execIbfi f s
  | .ifshl f => Sys2Proof.Machine.execIfshl f s
  | .iperm f => Sys2Proof.Machine.execIperm f s
  | .iaddsat f => Sys2Proof.Machine.execIaddsat f s
  | .isubsat f => Sys2Proof.Machine.execIsubsat f s
  | .idot4 f => Sys2Proof.Machine.execIdot4 f s
  | .ishl64 f => Sys2Proof.Machine.execIshl64 f s
  | .ishr64 f => Sys2Proof.Machine.execIshr64 f s
  | .isar64 f => Sys2Proof.Machine.execIsar64 f s
  | .isel64 f => Sys2Proof.Machine.execIsel64 f s
  | .faddExt f => Sys2Proof.Machine.execFaddExt f s
  | .fsubExt f => Sys2Proof.Machine.execFsubExt f s
  | .fmulExt f => Sys2Proof.Machine.execFmulExt f s
  | .ffma4 f => Sys2Proof.Machine.execFfma4 f s
  | .fminExt f => Sys2Proof.Machine.execFminExt f s
  | .fmaxExt f => Sys2Proof.Machine.execFmaxExt f s
  | .fminm f => Sys2Proof.Machine.execFminm f s
  | .fmaxm f => Sys2Proof.Machine.execFmaxm f s
  | .fabs f => Sys2Proof.Machine.execFabs f s
  | .fneg f => Sys2Proof.Machine.execFneg f s
  | .fcopys f => Sys2Proof.Machine.execFcopys f s
  | .fclass f => Sys2Proof.Machine.execFclass f s
  | .fscale f => Sys2Proof.Machine.execFscale f s
  | .frint f => Sys2Proof.Machine.execFrint f s
  | .ffrac f => Sys2Proof.Machine.execFfrac f s
  | .fdiv f => Sys2Proof.Machine.execFdiv f s
  | .fsqrt f => Sys2Proof.Machine.execFsqrt f s
  | .frcpa f => Sys2Proof.Machine.execFrcpa f s
  | .frsqa f => Sys2Proof.Machine.execFrsqa f s
  | .fexp2a f => Sys2Proof.Machine.execFexp2a f s
  | .flog2a f => Sys2Proof.Machine.execFlog2a f s
  | .fsina f => Sys2Proof.Machine.execFsina f s
  | .fcosa f => Sys2Proof.Machine.execFcosa f s
  | .ftanha f => Sys2Proof.Machine.execFtanha f s
  | .fsigma f => Sys2Proof.Machine.execFsigma f s
  | .fdot2 f => Sys2Proof.Machine.execFdot2 f s
  | .expr f => Sys2Proof.Machine.execExpr f s
  | .cvt f => Sys2Proof.Machine.execCvt f s
  | .cvtfi f => Sys2Proof.Machine.execCvtfi f s
  | .cvtif f => Sys2Proof.Machine.execCvtif f s
  | .pack f => Sys2Proof.Machine.execPack f s
  | .unpack f => Sys2Proof.Machine.execUnpack f s
  | .rand f => Sys2Proof.Machine.execRand f s
  | .icmp f => Sys2Proof.Machine.execIcmp f s
  | .fcmp f => Sys2Proof.Machine.execFcmp f s
  | .mand f => Sys2Proof.Machine.execMand f s
  | .mor f => Sys2Proof.Machine.execMor f s
  | .mxor f => Sys2Proof.Machine.execMxor f s
  | .mandn f => Sys2Proof.Machine.execMandn f s
  | .mtor f => Sys2Proof.Machine.execMtor f s
  | .rtom f => Sys2Proof.Machine.execRtom f s
  | .mpopc f => Sys2Proof.Machine.execMpopc f s
  | .selm f => Sys2Proof.Machine.execSelm f s
  | .shfl f => Sys2Proof.Machine.execShfl f s
  | .shflup f => Sys2Proof.Machine.execShflup f s
  | .shfldn f => Sys2Proof.Machine.execShfldn f s
  | .shflx f => Sys2Proof.Machine.execShflx f s
  | .bcast f => Sys2Proof.Machine.execBcast f s
  | .vote f => Sys2Proof.Machine.execVote f s
  | .ballot f => Sys2Proof.Machine.execBallot f s
  | .redux f => Sys2Proof.Machine.execRedux f s
  | .scan f => Sys2Proof.Machine.execScan f s
  | .matchLanes f => Sys2Proof.Machine.execMatchLanes f s
  | .xset f => Sys2Proof.Machine.execXset f s
  | .xwin f => Sys2Proof.Machine.execXwin f s
  | .ldgw f => Sys2Proof.Machine.execLdgw f s
  | .stgw f => Sys2Proof.Machine.execStgw f s
  | .ldsw f => Sys2Proof.Machine.execLdsw f s
  | .stsw f => Sys2Proof.Machine.execStsw f s
  | .ldl f => Sys2Proof.Machine.execLdl f s
  | .stl f => Sys2Proof.Machine.execStl f s
  | .ldk f => Sys2Proof.Machine.execLdk f s
  | .atomg f => Sys2Proof.Machine.execAtomg f s
  | .casg f => Sys2Proof.Machine.execCasg f s
  | .fatomg f => Sys2Proof.Machine.execFatomg f s
  | .atoms f => Sys2Proof.Machine.execAtoms f s
  | .cass f => Sys2Proof.Machine.execCass f s
  | .nma f => Sys2Proof.Machine.execNma f s
  | .nmdrain f => Sys2Proof.Machine.execNmdrain f s
  | .qcfg f => Sys2Proof.Machine.execQcfg f s
  | .qdrain f => Sys2Proof.Machine.execQdrain f s
  | .pref f => Sys2Proof.Machine.execPref f s
  | .lockl f => Sys2Proof.Machine.execLockl f s
  | .unlockl f => Sys2Proof.Machine.execUnlockl f s
  | .flushl f => Sys2Proof.Machine.execFlushl f s
  | .watch f => Sys2Proof.Machine.execWatch f s
  | .park f => Sys2Proof.Machine.execPark f s
  | .kick f => Sys2Proof.Machine.execKick f s
  | .inflt f => Sys2Proof.Machine.execInflt f s
  | .drain f => Sys2Proof.Machine.execDrain f s
  | .binit f => Sys2Proof.Machine.execBinit f s
  | .barr f => Sys2Proof.Machine.execBarr f s
  | .barrd f => Sys2Proof.Machine.execBarrd f s
  | .bexp f => Sys2Proof.Machine.execBexp f s
  | .bwait f => Sys2Proof.Machine.execBwait f s
  | .btest f => Sys2Proof.Machine.execBtest f s
  | .binv f => Sys2Proof.Machine.execBinv f s
  | .tktake f => Sys2Proof.Machine.execTktake f s
  | .tkpass f => Sys2Proof.Machine.execTkpass f s
  | .depwait f => Sys2Proof.Machine.execDepwait f s
  | .depdone f => Sys2Proof.Machine.execDepdone f s
  | .mma f => Sys2Proof.Machine.execMma f s
  | .mmaz f => Sys2Proof.Machine.execMmaz f s
  | .mmas f => Sys2Proof.Machine.execMmas f s
  | .mmat f => Sys2Proof.Machine.execMmat f s
  | .scld f => Sys2Proof.Machine.execScld f s
  | .accz f => Sys2Proof.Machine.execAccz f s
  | .accld f => Sys2Proof.Machine.execAccld f s
  | .accst f => Sys2Proof.Machine.execAccst f s
  | .mcoop f => Sys2Proof.Machine.execMcoop f s
  | .mchk f => Sys2Proof.Machine.execMchk f s
  | .tbset f => Sys2Proof.Machine.execTbset f s
  | .tbget f => Sys2Proof.Machine.execTbget f s
  | .mwait f => Sys2Proof.Machine.execMwait f s
  | .fence f => Sys2Proof.Machine.execFence f s
  | .trap f => Sys2Proof.Machine.execTrap f s
  | .rdsr f => Sys2Proof.Machine.execRdsr f s
  | .wrsr f => Sys2Proof.Machine.execWrsr f s
  | .cropen f => Sys2Proof.Machine.execCropen f s
  | .crclose f => Sys2Proof.Machine.execCrclose f s
  | .live f => Sys2Proof.Machine.execLive f s
  | .tokwait f => Sys2Proof.Machine.execTokwait f s
  | .tokpass f => Sys2Proof.Machine.execTokpass f s
  | .phase f => Sys2Proof.Machine.execPhase f s
  | .puts f => Sys2Proof.Machine.execPuts f s
  | .get f => Sys2Proof.Machine.execGet f s
  | .radd f => Sys2Proof.Machine.execRadd f s
  | .coll f => Sys2Proof.Machine.execColl f s
  | .genrd f => Sys2Proof.Machine.execGenrd f s
  | .brk f => Sys2Proof.Machine.execBrk f s
  | .flightStart core slot => Sys2Proof.Machine.execFlightStart core slot s
  | .waitConditionHolds core warp pc => Sys2Proof.Machine.execWaitConditionHolds core warp pc s
  | .resultWriteback core warp => Sys2Proof.Machine.execResultWriteback core warp s
  | .loadReturn id => Sys2Proof.Machine.execLoadReturn id s
  | .accessPerformed id => Sys2Proof.Machine.execAccessPerformed id s
  | .walkComplete id => Sys2Proof.Machine.execWalkComplete id s
  | .launchEntryTaken queue hostEntry => Sys2Proof.Machine.execLaunchEntryTaken queue hostEntry s
  | .retirement wg => Sys2Proof.Machine.execRetirement wg s
  | .doneMark wg => Sys2Proof.Machine.execDoneMark wg s
  | .ticketAdvance grid t => Sys2Proof.Machine.execTicketAdvance grid t s
  | .tokenLeaves grid => Sys2Proof.Machine.execTokenLeaves grid s
  | .recordAdmission core => Sys2Proof.Machine.execRecordAdmission core s
  | .chunkIssue chiplet engine => Sys2Proof.Machine.execChunkIssue chiplet engine s
  | .chunkPerformed id => Sys2Proof.Machine.execChunkPerformed id s
  | .qsTurn core warp q => Sys2Proof.Machine.execQsTurn core warp q s
  | .groupArrival core warp q => Sys2Proof.Machine.execGroupArrival core warp q s
  | .storeGroupWritten id => Sys2Proof.Machine.execStoreGroupWritten id s
  | .matrixPassStart core => Sys2Proof.Machine.execMatrixPassStart core s
  | .matrixPassComplete core => Sys2Proof.Machine.execMatrixPassComplete core s
  | .matrixEntryStart core => Sys2Proof.Machine.execMatrixEntryStart core s
  | .matrixEntryComplete core => Sys2Proof.Machine.execMatrixEntryComplete core s
  | .nmaAtHomeSlice id => Sys2Proof.Machine.execNmaAtHomeSlice id s
  | .nmaAcknowledgement id => Sys2Proof.Machine.execNmaAcknowledgement id s
  | .scrub found => Sys2Proof.Machine.execScrub found s
  | .containmentCompare uncorrectable => Sys2Proof.Machine.execContainmentCompare uncorrectable s
  | .workgroupSaved wg => Sys2Proof.Machine.execWorkgroupSaved wg s
  | .flitReceive port flit => Sys2Proof.Machine.execFlitReceive port flit s
  | .portDown port => Sys2Proof.Machine.execPortDown port s
  | .collectiveData p => Sys2Proof.Machine.execCollectiveData p s
  | .putsPacket p => Sys2Proof.Machine.execPutsPacket p s
  | .getRequest p => Sys2Proof.Machine.execGetRequest p s
  | .getData p => Sys2Proof.Machine.execGetData p s
  | .raddPacket p => Sys2Proof.Machine.execRaddPacket p s
  | .acknowledgement p => Sys2Proof.Machine.execAcknowledgement p s
  | .refusal p => Sys2Proof.Machine.execRefusal p s
  | .heartbeat msg => Sys2Proof.Machine.execHeartbeat msg s
  | .suspect msg => Sys2Proof.Machine.execSuspect msg s
  | .confirm msg => Sys2Proof.Machine.execConfirm msg s
  | .deny msg => Sys2Proof.Machine.execDeny msg s
  | .expelRequest msg => Sys2Proof.Machine.execExpelRequest msg s
  | .eventExpel msg => Sys2Proof.Machine.execEventExpel msg s
  | .eventDeparture msg => Sys2Proof.Machine.execEventDeparture msg s
  | .eventJoin msg => Sys2Proof.Machine.execEventJoin msg s
  | .eventResendRequest msg => Sys2Proof.Machine.execEventResendRequest msg s
  | .heartbeatInterval => Sys2Proof.Machine.execHeartbeatInterval s
  | .heartbeatMiss dev => Sys2Proof.Machine.execHeartbeatMiss dev s
  | .suspicionTimeout dev => Sys2Proof.Machine.execSuspicionTimeout dev s
  | .expelRequestRepeat dev => Sys2Proof.Machine.execExpelRequestRepeat dev s
  | .coordinatorDelay => Sys2Proof.Machine.execCoordinatorDelay s
  | .heldPacketTimeout index => Sys2Proof.Machine.execHeldPacketTimeout index s
  | .collectiveComplete id => Sys2Proof.Machine.execCollectiveComplete id s
  | .joinStripe id reply => Sys2Proof.Machine.execJoinStripe id reply s
  | .gridCompletion grid => Sys2Proof.Machine.execGridCompletion grid s
  | .longCommandComplete id => Sys2Proof.Machine.execLongCommandComplete id s
  | .ctxnew h ctx troot podSize dbg => Sys2Proof.Machine.execCtxnew h ctx troot podSize dbg s
  | .ctxdel h ctx => Sys2Proof.Machine.execCtxdel h ctx s
  | .partbuild h ctx cores => Sys2Proof.Machine.execPartbuild h ctx cores s
  | .shrink h ctx cores => Sys2Proof.Machine.execShrink h ctx cores s
  | .debugEnable h ctx enable => Sys2Proof.Machine.execDebugEnable h ctx enable s
  | .keyxch h => Sys2Proof.Machine.execKeyxch h s
  | .keybind h slot owners unwrapped => Sys2Proof.Machine.execKeybind h slot owners unwrapped s
  | .keyunbind h slot => Sys2Proof.Machine.execKeyunbind h slot s
  | .shoot h ctx base bytes => Sys2Proof.Machine.execShoot h ctx base bytes s
  | .faultans h ctx wgid warp reject copy gridno => Sys2Proof.Machine.execFaultans h ctx wgid warp reject copy gridno s
  | .brkans h ctx wgid warp gridno => Sys2Proof.Machine.execBrkans h ctx wgid warp gridno s
  | .qnew h q => Sys2Proof.Machine.execQnew h q s
  | .qdel h queue => Sys2Proof.Machine.execQdel h queue s
  | .swout h ctx buf => Sys2Proof.Machine.execSwout h ctx buf s
  | .restore h ctx buf => Sys2Proof.Machine.execRestore h ctx buf s
  | .kill h ctx => Sys2Proof.Machine.execKill h ctx s
  | .commnew h c => Sys2Proof.Machine.execCommnew h c s
  | .commdel h comm => Sys2Proof.Machine.execCommdel h comm s
  | .reg h ctx d => Sys2Proof.Machine.execReg h ctx d s
  | .dereg h comm name => Sys2Proof.Machine.execDereg h comm name s
  | .viewnew h comm source view poolBase poolBytes => Sys2Proof.Machine.execViewnew h comm source view poolBase poolBytes s
  | .viewdel h comm view => Sys2Proof.Machine.execViewdel h comm view s
  | .join h comm rank list entries => Sys2Proof.Machine.execJoin h comm rank list entries s
  | .podcfg h cfg => Sys2Proof.Machine.execPodcfg h cfg s
  | .discread h ctx => Sys2Proof.Machine.execDiscread h ctx s
  | .resync h => Sys2Proof.Machine.execResync h s
  | .attest h nonce => Sys2Proof.Machine.execAttest h nonce s
  | .fwload h image => Sys2Proof.Machine.execFwload h image s
  | .ckpt h ctx dest => Sys2Proof.Machine.execCkpt h ctx dest s
  | .snapcfg h cause rearm => Sys2Proof.Machine.execSnapcfg h cause rearm s
  | .evring h k base vector => Sys2Proof.Machine.execEvring h k base vector s
  | .adminReserved h acmd => Sys2Proof.Machine.execAdminReserved h acmd s
  | .qdb port queue index => Sys2Proof.Machine.execQdb port queue index s
  | .trig port => Sys2Proof.Machine.execTrig port s
  | .evhead port index => Sys2Proof.Machine.execEvhead port index s
  | .registerWrite port offset value => Sys2Proof.Machine.execRegisterWrite port offset value s
  | .powerGood verified => Sys2Proof.Machine.execPowerGood verified s
  | .resetDevice => Sys2Proof.Machine.execResetDevice s
  | .thermalTrip => Sys2Proof.Machine.execThermalTrip s
  | .pciePortDown port => Sys2Proof.Machine.execPciePortDown port s
  | .unassignedInstruction cause => Sys2Proof.Machine.execUnassignedInstruction cause s
  | .joinRequestAtCoordinator msg => Sys2Proof.Machine.execJoinRequestAtCoordinator msg s
  | .departureRequest msg => Sys2Proof.Machine.execDepartureRequest msg s
  | .pcieLinkUp port => Sys2Proof.Machine.execPcieLinkUp port s
  | .galleryPortTrained port => Sys2Proof.Machine.execGalleryPortTrained port s
  | .precisionTimeMeasurement port time => Sys2Proof.Machine.execPrecisionTimeMeasurement port time s

end Sys2Proof.Machine
end

