-- ==== Sys2Proof/Machine/Host.lean ====
section
/-! DEFINITION. What host software writes and reads: the 256-byte admin command and its data buffers, the fields of MW0 (R445, R470, R477,
R492 to R494). -/

namespace Sys2Proof.Machine

/-! ### The register block (R492) -/

/-- What a read of MW0 gives at the offset of a field: its value, or what was last written to it; anywhere else zero (R492; log 67). -/
def State.register (s : State) (port offset : Nat) : BitVec 64 :=
  let bit (b : Bool) (n : Nat) : Nat := if b then 2 ^ n else 0
  let queue := s.queues.find? fun q => 0x100 + 8 * q.p.queue = offset && q.port = port
  if offset = 0x0000 then BitVec.ofNat 64 (0x9600 * 2 ^ 16 + Config.stepping.toNat)
  else if offset = 0x0008 then
    BitVec.ofNat 64 (bit s.recov 3 + bit s.quar 2 + bit (s.linkUp (1 - port)) 1 + bit s.ready 0)
  else if offset = 0x0010 then match s.ports[port]? with | some p => BitVec.ofNat 64 p.admdb | none => 0
  else if offset = 0x0910 then
    match s.ports[port]?.bind (·.ring) with | some r => BitVec.ofNat 64 (r.head % 2 ^ 32) | none => 0
  else match queue with | some q => BitVec.ofNat 64 (q.tail % 2 ^ 32) | none => 0

/-- A write to MW0 that is no doorbell of an admin command: what its field's row does (R492). -/
def State.writeRegister (s : State) (port offset : Nat) (value : BitVec 64) : Out :=
  if 0x100 ≤ offset ∧ offset < 0x900 ∧ offset % 8 = 0 then execQdb port ((offset - 0x100) / 8) (value.toNat % 2 ^ 32) s
  else if offset = 0x900 ∧ value.getLsbD 0 then execTrig port s
  else if offset = 0x910 then execEvhead port (value.toNat % 2 ^ 32) s
  else execRegisterWrite port offset value s

/-! ### Fields of a command (R493, R494) -/

/-- A field of a command or descriptor: its bits from lo up, in the n bytes at an offset. -/
structure Field where
  ofs : Nat
  bytes : Nat
  lo : Nat
  width : Nat

/-- A field's value, little-endian. -/
def Field.read (bs : List Byte) (f : Field) : Nat := bitsAt (ofBytes ((bs.drop f.ofs).take f.bytes)) f.lo f.width

/-- The bits of a block that fields take. -/
def Field.covers (f : Field) (n : Nat) : Bool := 8 * f.ofs + f.lo ≤ n && n < 8 * f.ofs + f.lo + f.width

/-- Every bit of a block that no field takes is zero (R493). -/
def restZero (fs : List Field) (bs : List Byte) : Bool :=
  (bs.zipIdx).all fun b => (List.range 8).all fun j => (fs.any fun f => f.covers (8 * b.2 + j)) || !b.1.getLsbD j

/-- The header's fields: ACMD, CID, RESP. -/
def headerFields : List Field := [⟨0, 4, 24, 8⟩, ⟨0, 4, 0, 16⟩, ⟨8, 8, 0, 64⟩]

/-- DATA and DLEN. -/
def bufferFields : List Field := [⟨0x10, 8, 0, 64⟩, ⟨0x18, 4, 0, 32⟩]

/-- The fields of each command's parameters (R494). -/
def paramFields : Nat → List Field
  | 0x01 => [⟨0x20, 4, 0, 6⟩, ⟨0x28, 8, 0, 46⟩, ⟨0x30, 4, 0, 13⟩, ⟨0x34, 4, 0, 1⟩]
  | 0x03 | 0x04 => [⟨0x20, 4, 0, 6⟩, ⟨0x28, 24, 0, 192⟩]
  | 0x05 => [⟨0x20, 4, 0, 6⟩, ⟨0x24, 4, 0, 1⟩]
  | 0x07 => [⟨0x20, 4, 0, 11⟩, ⟨0x28, 8, 0, 64⟩]
  | 0x08 => [⟨0x20, 4, 0, 11⟩]
  | 0x09 => [⟨0x20, 4, 0, 6⟩, ⟨0x28, 8, 0, 57⟩, ⟨0x30, 8, 0, 57⟩]
  | 0x0A => [⟨0x20, 4, 0, 6⟩, ⟨0x24, 4, 0, 32⟩, ⟨0x28, 4, 0, 5⟩, ⟨0x28, 4, 8, 1⟩, ⟨0x28, 4, 9, 1⟩, ⟨0x2C, 4, 0, 32⟩]
  | 0x0B => [⟨0x20, 4, 0, 6⟩, ⟨0x24, 4, 0, 32⟩, ⟨0x28, 4, 0, 5⟩, ⟨0x2C, 4, 0, 32⟩]
  | 0x0C => [⟨0x20, 4, 0, 8⟩, ⟨0x20, 4, 8, 3⟩, ⟨0x20, 4, 16, 6⟩, ⟨0x24, 4, 0, 5⟩, ⟨0x24, 4, 8, 1⟩, ⟨0x28, 8, 0, 64⟩, ⟨0x30, 8, 0, 64⟩,
      ⟨0x38, 4, 0, 8⟩]
  | 0x0D => [⟨0x20, 4, 0, 8⟩]
  | 0x0E | 0x0F => [⟨0x20, 4, 0, 6⟩, ⟨0x24, 4, 0, 11⟩] ++ (List.range 8).map fun n => ⟨0x28 + 8 * n, 8, 0, 36⟩
  | 0x11 => [⟨0x20, 4, 0, 16⟩, ⟨0x20, 4, 16, 6⟩, ⟨0x24, 4, 0, 13⟩, ⟨0x28, 4, 0, 12⟩, ⟨0x2C, 4, 0, 16⟩, ⟨0x30, 8, 0, 64⟩]
  | 0x12 => [⟨0x20, 4, 0, 16⟩]
  | 0x14 | 0x16 => [⟨0x20, 4, 0, 16⟩, ⟨0x24, 4, 0, 16⟩]
  | 0x15 => [⟨0x20, 4, 0, 16⟩, ⟨0x24, 4, 0, 16⟩, ⟨0x24, 4, 16, 16⟩, ⟨0x28, 8, 0, 57⟩, ⟨0x30, 8, 0, 36⟩]
  | 0x17 => [⟨0x20, 4, 0, 16⟩, ⟨0x24, 4, 0, 12⟩, ⟨0x28, 8, 0, 57⟩, ⟨0x30, 4, 0, 17⟩]
  | 0x18 => [⟨0x20, 4, 0, 12⟩, ⟨0x24, 4, 0, 32⟩, ⟨0x28, 4, 0, 13⟩]
  | 0x1B => [⟨0x20, 32, 0, 256⟩]
  | 0x1D => [⟨0x20, 4, 0, 6⟩, ⟨0x24, 4, 0, 1⟩, ⟨0x28, 4, 0, 32⟩, ⟨0x2C, 4, 0, 12⟩]
  | 0x1E => [⟨0x20, 4, 0, 9⟩, ⟨0x24, 4, 0, 1⟩]
  | 0x1F => [⟨0x20, 4, 0, 5⟩, ⟨0x28, 8, 0, 64⟩, ⟨0x30, 4, 0, 8⟩]
  | 0x02 | 0x10 | 0x13 | 0x19 => [⟨0x20, 4, 0, 6⟩]
  | _ => []

/-- The bytes that the data buffer of a command must have: none where the command names no buffer (R494, R496, R504). -/
def bufferBytes (acmd : Nat) (bs : List Byte) : Option Nat :=
  match acmd with
  | 0x06 => some 4557
  | 0x07 => some 1160
  | 0x11 => some (2 * Field.read bs ⟨0x24, 4, 0, 13⟩)
  | 0x13 => some 32
  | 0x18 => some 32904
  | 0x19 => some 256
  | 0x1A | 0x1B | 0x1C => some 0
  | 0x1D => if Field.read bs ⟨0x24, 4, 0, 1⟩ = 0 then some 0 else none
  | _ => none

/-- A checkpoint names a key slot of 11 bits, or a communicator, a name and a rank: the other's bits are reserved (R494). -/
def ckptRest (bs : List Byte) : Bool :=
  Field.read bs ⟨0x24, 4, 0, 1⟩ = 1 || (Field.read bs ⟨0x28, 4, 11, 21⟩ = 0 && Field.read bs ⟨0x2C, 4, 0, 12⟩ = 0)

/-- The reserved bits of a command are zero, and so are DATA and DLEN where it has no buffer; a buffer is long enough (R493; log 67). -/
def commandClean (acmd : Nat) (bs : List Byte) : Bool :=
  let dlen := Field.read bs ⟨0x18, 4, 0, 32⟩
  (match bufferBytes acmd bs with
   | some n => restZero (headerFields ++ bufferFields ++ paramFields acmd) bs && decide (n ≤ dlen)
   | none => restZero (headerFields ++ paramFields acmd) bs) &&
  (acmd != 0x1D || ckptRest bs) && bs.length = 256

/-! ### Data buffers -/

/-- The named-buffer descriptor of 32 bytes (R445). -/
def parseDescriptor (bs : List Byte) : BufferDesc :=
  let flag (n : Nat) : Bool := Field.read bs ⟨0x18, 4, n, 1⟩ = 1
  { reservedZero := restZero [⟨0, 8, 0, 57⟩, ⟨8, 8, 0, 37⟩, ⟨0x10, 4, 0, 32⟩, ⟨0x14, 4, 16, 16⟩, ⟨0x14, 4, 0, 7⟩, ⟨0x18, 4, 0, 5⟩] (bs.take 32)
    base := Field.read bs ⟨0, 8, 0, 57⟩
    length := Field.read bs ⟨8, 8, 0, 37⟩
    name := Field.read bs ⟨0x10, 4, 16, 16⟩
    comm := Field.read bs ⟨0x10, 4, 0, 16⟩
    bgen := BitVec.ofNat 16 (Field.read bs ⟨0x14, 4, 16, 16⟩)
    s0 := Field.read bs ⟨0x14, 4, 4, 3⟩
    slog := Field.read bs ⟨0x14, 4, 0, 4⟩
    snap := flag 4
    col := flag 3
    raddp := flag 2
    wr := flag 1
    rd := flag 0 }

/-- A 16-bit word of a buffer. -/
def half (bs : List Byte) (n : Nat) : Nat := Field.read bs ⟨2 * n, 2, 0, 16⟩

/-- An entry of PODCFG's watch list: none where it is all 0xFFFF, or its device's word is (R494). -/
def parseWatch (bs : List Byte) : Option WatchEntry :=
  if half bs 0 = 0xFFFF then none
  else some ⟨half bs 0, ((List.range 7).map fun n => half bs (1 + n)).filter fun x => x ≠ 0xFFFF⟩

/-- PODCFG's parameters and its buffer of 32,904 bytes: watch list, coordinator list, eight route tables (R470, R494). -/
def parsePod (cmd bs : List Byte) : PodConfig where
  podnum := Field.read cmd ⟨0x20, 4, 0, 12⟩
  inc := Field.read cmd ⟨0x24, 4, 0, 32⟩
  podSize := Field.read cmd ⟨0x28, 4, 0, 13⟩
  watch := (List.range 8).filterMap fun n => parseWatch ((bs.drop (16 * n)).take 16)
  coords := ((List.range 4).map fun n => half (bs.drop 128) n).filter fun x => x ≠ 0xFFFF
  routes := (List.range 8).map fun die =>
    ((((bs.drop (136 + 4096 * die)).take 4096).zipIdx).filter fun x => x.1 ≠ 0).map fun x => (x.2, x.1)

/-- A firmware image as the boot ROM finds it (R505). -/
def parseImage (bs : List Byte) : FwImage :=
  let x := Config.readImage bs
  ⟨x.1, x.2.1, x.2.2.1, x.2.2.2.1, x.2.2.2.2⟩

/-! ### Commands (R493, R494) -/

/-- The header of a command that came by a port's doorbell. -/
def parseHdr (port acmd : Nat) (bs : List Byte) : AdminHdr :=
  ⟨port, BitVec.ofNat 16 (Field.read bs ⟨0, 4, 0, 16⟩), Field.read bs ⟨8, 8, 0, 64⟩, Field.read bs ⟨0x10, 8, 0, 64⟩, commandClean acmd bs⟩

/-- The image buffer that SWOUT and RESTORE name. -/
def parseImageBuffer (bs : List Byte) : ImageBuffer :=
  ⟨Field.read bs ⟨0x24, 4, 0, 11⟩, (List.range 8).map fun n => Field.read bs ⟨0x28 + 8 * n, 8, 0, 36⟩⟩

/-- The command in 256 bytes of host memory, with its data buffer's bytes: what its row does (R493, R494). -/
def State.command (s : State) (port : Nat) (bs buffer : List Byte) : Out :=
  let acmd := Field.read bs ⟨0, 4, 24, 8⟩
  let h := parseHdr port acmd bs
  let f (ofs lo width : Nat) : Nat := Field.read bs ⟨ofs, 4, lo, width⟩
  let w (ofs width : Nat) : Nat := Field.read bs ⟨ofs, 8, 0, width⟩
  let ctx := f 0x20 0 6
  let comm := f 0x20 0 16
  match acmd with
  | 0x01 => execCtxnew h ctx (w 0x28 46) (f 0x30 0 13) (f 0x34 0 1 = 1) s
  | 0x02 => execCtxdel h ctx s
  | 0x03 => execPartbuild h ctx (BitVec.ofNat 192 (Field.read bs ⟨0x28, 24, 0, 192⟩)) s
  | 0x04 => execShrink h ctx (BitVec.ofNat 192 (Field.read bs ⟨0x28, 24, 0, 192⟩)) s
  | 0x05 => execDebugEnable h ctx (f 0x24 0 1 = 1) s
  | 0x06 => execKeyxch h s
  | 0x07 => execKeybind h (f 0x20 0 11) (BitVec.ofNat 64 (w 0x28 64)) (buffer.take 1160) s
  | 0x08 => execKeyunbind h (f 0x20 0 11) s
  | 0x09 => execShoot h ctx (w 0x28 57) (w 0x30 57) s
  | 0x0A => execFaultans h ctx (f 0x24 0 32) (f 0x28 0 5) (f 0x28 8 1 = 1) (f 0x28 9 1 = 1) (f 0x2C 0 32) s
  | 0x0B => execBrkans h ctx (f 0x24 0 32) (f 0x28 0 5) (f 0x2C 0 32) s
  | 0x0C => execQnew h ⟨f 0x20 0 8, f 0x20 8 3, f 0x20 16 6, f 0x24 0 5, f 0x24 8 1 = 1, w 0x28 64, w 0x30 64, f 0x38 0 8⟩ s
  | 0x0D => execQdel h (f 0x20 0 8) s
  | 0x0E => execSwout h ctx (parseImageBuffer bs) s
  | 0x0F => execRestore h ctx (parseImageBuffer bs) s
  | 0x10 => execKill h ctx s
  | 0x11 => execCommnew h ⟨comm, f 0x20 16 6, f 0x24 0 13, f 0x28 0 12, BitVec.ofNat 16 (f 0x2C 0 16), w 0x30 64,
      (List.range (f 0x24 0 13)).map fun n => BitVec.ofNat 16 (half buffer n)⟩ s
  | 0x12 => execCommdel h comm s
  | 0x13 => execReg h ctx (parseDescriptor buffer) s
  | 0x14 => execDereg h comm (f 0x24 0 16) s
  | 0x15 => execViewnew h comm (f 0x24 16 16) (f 0x24 0 16) (w 0x28 57) (w 0x30 36) s
  | 0x16 => execViewdel h comm (f 0x24 0 16) s
  | 0x17 => execJoin h comm (f 0x24 0 12) (w 0x28 57) (f 0x30 0 17) s
  | 0x18 => execPodcfg h (parsePod bs buffer) s
  | 0x19 => execDiscread h ctx s
  | 0x1A => execResync h s
  | 0x1B => execAttest h ((bs.drop 0x20).take 32) s
  | 0x1C => execFwload h (parseImage buffer) s
  | 0x1D => execCkpt h ctx (if f 0x24 0 1 = 0 then .host (f 0x28 0 11) (w 0x10 64) else .peer (f 0x28 0 16) (f 0x28 16 16) (f 0x2C 0 12)) s
  | 0x1E => execSnapcfg h (BitVec.ofNat 9 (f 0x20 0 9)) (f 0x24 0 1 = 1) s
  | 0x1F => execEvring h (f 0x20 0 5) (w 0x28 64) (f 0x30 0 8) s
  | n => execAdminReserved h (BitVec.ofNat 8 n) s

end Sys2Proof.Machine
end

