-- ==== Sys2Proof/Machine/Sched.lean ====
section
/-! DEFINITION. What happens next: the schedule's choice where it has one, else a fixed policy over what the part may do (log 1);
the issue of one instruction (R121 to R128, R47, R51). -/

namespace Sys2Proof.Machine

/-- The flight of the front issues its next instruction: a cause recorded when it started first, then the sets that join, the fetch, the
decoder and the instruction's meaning (R122, R128, R391, R413). -/
def State.issueNext (s : State) : Out :=
  match s.issuing with
  | none => .refused .noFlight
  | some i0 =>
    match (if i0.fl.takes && i0.fl.count = 0 && i0.fl.pfx.isNone then i0.w.recorded else none) with
    | some c => .next (s.takeRecorded i0 c)
    | none =>
      let s1 := s.merge i0
      match s1.issuing with
      | none => .refused .noFlight
      | some i =>
        match s1.fetchInstr i.w.core i.w.wg.ctx i.ipc i.fl.pfx.isSome with
        | .waits => .next s1
        | .miss va => .next (s1.startWalk i.w.wg.ctx va (some i.w.key))
        | .fail c va => holdFault s1 i c va .fetch
        | .ok ws poison =>
          if poison then raise s1 i i.wg.serCause
          else
            let s2 := s1.useWords i.w.core i.w.wg.ctx ws.length i.ipc
            match i.decode ws with
            | .ok ins _ => exec ins s2
            | .bad c => execUnassignedInstruction c s2

/-- The flight of a core's slot comes to the front. -/
def State.frontSlot (s : State) (core slot : Nat) : State :=
  let mine (f : Flight) : Bool := f.core = core && f.slot = slot
  { s with flights := s.flights.filter mine ++ s.flights.filter fun f => !mine f }

/-- A host's write to a register of MW0: the row of the field that takes it; ADMDB is written only 256-byte aligned (R492, R493; log 67). -/
def State.hostWrite (s : State) (port offset : Nat) (value : BitVec 64) (command buffer : List (BitVec 8)) : Out :=
  if offset = 0x10 ∧ value.toNat % 256 = 0 ∧ s.linkUp port then
    State.command
      { s with ports := s.ports.mapIdx fun n (p : HostPort) => if n = port then { p with admdb := value.toNat } else p }
      port command buffer
  else s.writeRegister port offset value

/-- One choice of the schedule. -/
def State.run (s : State) (c : Choice) : Out :=
  match c with
  | .issue core slot =>
    if s.flights.any fun f => f.core = core && f.slot = slot then (s.frontSlot core slot).issueNext else .refused .noFlight
  | .event e => exec e s
  | .hostWrite port offset value command buffer => s.hostWrite port offset value command buffer
  | .readMw0 port offset =>
    if s.linkUp port then .next (s.tellHost port [.mw0 port offset (s.register port offset)]) else .refused (.notEnabled "REGISTER_READ")
  | .readMw1 port block =>
    if s.linkUp port && s.accepts .always then .next (s.tellHost port [.mw1 port block (s.blockRegs block)])
    else .refused (.notEnabled "REGISTER_READ")
  | .work id => s.workOn id
  | .overtake id => s.overtake id
  | .portion id granule => s.portion id granule

/-- Whether the part takes a choice in this state. -/
def State.takes (s : State) (c : Choice) : Bool :=
  match s.run c with
  | .refused _ => false
  | _ => true

/-- Whether issuing in a slot does something: a stall leaves the flight as it was. -/
def State.progresses (s : State) (core slot : Nat) : Bool :=
  match s.run (.issue core slot) with
  | .refused _ => false
  | .fault _ => true
  | .next t =>
    t.walks.length != s.walks.length ||
    (match s.flights.find? fun f => f.core = core && f.slot = slot, t.flights.find? fun f => f.core = core && f.slot = slot with
     | some a, some b => a.count != b.count || a.pfx != b.pfx || a.warp != b.warp
     | _, _ => true)

end Sys2Proof.Machine
end

