-- ==== Sys2Proof/Machine/Pick.lean ====
section
/-! DEFINITION. The fixed policy that picks what happens next where the schedule says nothing (log 1): memory and the engines first,
then results, the ends of workgroups and commands, waits, flight starts, then the first flight that can go on. -/

namespace Sys2Proof.Machine

/-- The event that delivers a received packet of OP 0 to 6 (R443). -/
def packetInstr (p : Packet) : Instr :=
  match p.op with
  | 0 => .collectiveData p
  | 1 => .putsPacket p
  | 2 => .getRequest p
  | 3 => .getData p
  | 4 => .raddPacket p
  | 5 => .acknowledgement p
  | _ => .refusal p

/-- The event that delivers a received membership message (R476). -/
def memberInstr (kind evk : Nat) (m : MemberMsg) : Instr :=
  match kind with
  | 0 => .heartbeat m
  | 1 => .suspect m
  | 2 => .confirm m
  | 3 => .deny m
  | 4 => .expelRequest m
  | 5 => if evk = 0 then .eventExpel m else if evk = 1 then .eventDeparture m else .eventJoin m
  | _ => .eventResendRequest m

/-- What the Gallery ports have received and not yet delivered. -/
def State.received (s : State) : List Instr :=
  s.galPorts.flatMap fun p => (List.range 4).filterMap fun v =>
    match p.lane v with
    | [] => none
    | fs => match headMember fs with
      | some (k, e, m) => some (memberInstr k e m)
      | none => (headPacket fs).map fun x => packetInstr x.1

/-- Memory accesses and data on its way back. -/
def State.dueMemory (s : State) : List Instr :=
  (s.pending.flatMap fun p => match p with
    | .access a => (match a.kind with
      | .nma _ => [.nmaAtHomeSlice a.id, .nmaAcknowledgement a.id]
      | _ => [.accessPerformed a.id])
    | .fence _ => []) ++
  (s.returns.map fun r => .loadReturn r.id)

/-- The copy and queue-stream engines. -/
def State.dueCopies (s : State) : List Instr :=
  (s.chunks.map fun c => .chunkPerformed c.id) ++
  (if s.records.isEmpty then [] else
    (s.cores.map fun c => .recordAdmission c.phys) ++
    ((List.range 8).flatMap fun n => (List.range 3).map fun e => .chunkIssue n e)) ++
  (s.storeGroups.map fun g => .storeGroupWritten g.id) ++
  (s.warps.flatMap fun w => w.q.flatMap fun q => [.groupArrival w.core w.idx q.1, .qsTurn w.core w.idx q.1])

/-- The matrix arrays. -/
def State.dueMatrix (s : State) : List Instr :=
  s.cores.flatMap fun c => if c.mq.isEmpty then [] else
    [.matrixPassComplete c.phys, .matrixEntryComplete c.phys, .matrixPassStart c.phys, .matrixEntryStart c.phys]

/-- A queue goes before another by firmware's default: the higher class; within a class, the older head (R501). -/
def LQueue.before (a b : LQueue) : Bool := b.p.cls < a.p.cls || (a.p.cls = b.p.cls && a.headAt < b.headAt)

def LQueue.insert (q : LQueue) : List LQueue → List LQueue
  | [] => [q]
  | x :: xs => if q.before x then q :: x :: xs else x :: LQueue.insert q xs

/-- The queues in the order in which an eligible head is chosen by default; the schedule may choose another (R499, R501; log 53). -/
def State.queueOrder (s : State) : List LQueue := s.queues.foldr LQueue.insert []

/-- Checkpoints in progress (R508). -/
def State.works (s : State) : List Choice :=
  s.longs.filterMap fun l => match l.work with
    | .ckpt job => if job.pages.isEmpty then none else some (.work l.id)
    | _ => none

/-- Tickets, tokens, marks, ends of workgroups, grids, commands and Gallery operations, launches. -/
def State.dueEnds (s : State) : List Instr :=
  (s.grids.flatMap fun g => (g.passes.map fun p => .ticketAdvance g.key p.t) ++ (if g.rec_.det then [.tokenLeaves g.key] else [])) ++
  (s.galOps.map fun o => .collectiveComplete o.id) ++
  (s.wgs.flatMap fun g => [.doneMark g.key, .retirement g.key, .workgroupSaved g.key]) ++
  (s.grids.map fun g => .gridCompletion g.key) ++
  (s.longs.map fun l => .longCommandComplete l.id) ++
  (if s.contA.overflows && !s.quar then [.containmentCompare false] else []) ++
  (s.queueOrder.map fun q => .launchEntryTaken q.p.queue [])

/-- Blocked sets and free issue slots. -/
def State.dueIssue (s : State) : List Instr :=
  (s.warps.flatMap fun w => w.pcs.filterMap fun p => if p.blocked.isSome then some (.waitConditionHolds w.core w.idx p.pc) else none) ++
  (s.cores.flatMap fun c => (List.range 4).map fun p => .flightStart c.phys p)

/-- The events that are due in a state, in the policy's order; each is tried in turn. -/
def State.due (s : State) : List Instr :=
  s.dueMemory ++ (s.walks.map fun x => .walkComplete x.id) ++ s.dueCopies ++ s.dueMatrix ++
  (s.scoreboard.map fun x => .resultWriteback x.1.core x.1.idx) ++ s.received ++ s.dueEnds ++ s.dueIssue

/-- The policy's choice (log 1). -/
def State.pick (s : State) : Option Choice :=
  match (s.works ++ s.due.map Choice.event).find? fun c => s.takes c with
  | some c => some c
  | none => (s.flights.find? fun f => s.progresses f.core f.slot).map fun f => .issue f.core f.slot

end Sys2Proof.Machine
end

