-- ==== Sys2Proof/Machine/Placed.lean ====
section
/-! DEFINITION. A device in which one instruction is about to issue: what a launch, placement and a flight start leave behind,
written down at once (R93, R95, R119, R121, R384 to R387, R392; log 8). -/

namespace Sys2Proof.Machine

/-- The launch record of the placed grid: one workgroup of 16 threads, all registers and tiles declared (R95). -/
def placedRecord : LaunchRecord where
  entry := 0
  width := 16
  vregs := 24
  acc := 8
  carve := 14
  gang := 1
  prio := 0
  det := false
  ctx := 0
  scratch := 458752
  bays := 2097152
  wgx := 16
  wgy := 1
  wgz := 1
  patience := 0
  gx := 1
  gy := 1
  gz := 1
  compl := 0
  pred := 0
  depfn := 0
  deph := 0
  depw := 0
  pgx := 0
  pgy := 0
  pgz := 0
  slots := List.replicate 8 0
  consts := List.replicate 16 0
  reserved := false

def placedGrid : Grid where
  key := ⟨0, 0⟩
  rec_ := placedRecord
  order := 0
  queue := 0
  tag := 0
  next := 1
  lastCore := some 0
  lastLayer := none
  waiting := none
  tickets := []
  abandoned := []
  passes := []
  phase := 0
  turn := 0
  placed := [(0, 0)]
  retired := []
  gone := []
  killed := false

def placedContext : Context where
  num := 0
  st := .resident
  troot := reservedBase
  podSize := 1
  slots := [1]
  dbg := false
  part := [⟨0, 0, 0, 0, 0, false⟩]
  nextGrid := 1
  hold := none
  held := []
  buf := none
  mailbox := []
  mailSeq := 0
  away := []
  awayGrids := []
  awayIds := []
  kept := []

/-- The leaf of the page that holds the instruction: 1 GiB at frame 0 under key slot 1, R, W and X (R387). -/
def placedLeaf : BitVec 64 := BitVec.ofNat 64 (2 ^ 52 + 0x1F)

/-- A word that a PFX may precede with its fields (R48, R49). -/
def pairWords (p : PForm) : List Word :=
  let x : XForm := ⟨false, 0, 0, false, 0, 0, 0, 0, 0, 0, none⟩
  if p.cv then (Form.x 0x39 0x1A { x with mod := 5 }).encode
  else if p.sat || p.rnd != 0 then (Form.x 0x39 0x1B { x with ty := 3 }).encode
  else [0x00800000]

/-- Writes words in ascending addresses (R25). -/
def writeWords (m : List Host.Cell) (a : Nat) : List Word → List Host.Cell
  | [] => m
  | w :: ws => writeWords (writeLE m a w.toNat 4) (a + 4) ws

/-- s with a resident warp of context 0 on core 0 whose flight is about to issue the words: tables, key slot 1, the page, its
cached translation, grid, workgroup, warp and flight, and the schedule's next choice. -/
def State.placeWords (s : State) (ws : List Word) : State :=
  let ws := ws ++ (match ws with
    | [w] => if opOf w = 0x3F then pairWords (pFields w) else []
    | _ => [])
  let mem := writeWords s.mem 0 ws
  let mem := writeLE mem reservedBase (reservedBase + 0x200001) 8
  let mem := writeLE mem (reservedBase + 0x200000) placedLeaf.toNat 8
  { s with
    agenda := .issue 0 0 :: s.agenda
    freeCtr := s.freeCtr + workgroupFree
    mem := mem
    memPoison := s.memPoison.filter fun g => 1 < g
    lineKeys := s.lineKeys.filter fun x => 0 < x.1
    tlb := ⟨newelSite, 0, 0, 2 ^ 30, placedLeaf⟩ :: s.tlb.filter fun t => t.ctx ≠ 0
    flights := ⟨0, 0, 0, 0xFFFF, 0, none, none, none, none, false⟩ :: s.flights.filter fun f => f.core ≠ 0
    cores := ⟨0, 16, 14, [], [], [], [], []⟩ :: s.cores.filter fun c => c.phys ≠ 0
    warps := freshWarp ⟨0, 0, 0⟩ 0 0 0 16 0 0xFFFF 0 :: s.warps.filter fun w => w.core ≠ 0
    wgs := freshWorkgroup ⟨0, 0, 0⟩ 0 s.freeCtr [] [] :: s.wgs.filter fun g => g.key.ctx ≠ 0
    grids := placedGrid :: s.grids.filter fun g => g.key.ctx ≠ 0
    ctxs := placedContext :: s.ctxs.filter fun c => c.num ≠ 0
    keys := ⟨1, 1, []⟩ :: s.keys.filter fun k => k.slot ≠ 1 }

/-- The words of a number that has so many bits, a PFX alone where it is one word (the bits above are zero). -/
def placedWords (nbits w : Nat) : List Word :=
  match wordsOfNat (w % 2 ^ nbits) 5 with
  | [] => []
  | w0 :: rest => if opOf w0 = 0x3F then [w0] else w0 :: rest

end Sys2Proof.Machine
end

