-- ==== Sys2Proof/Machine/Step.lean ====
section
/-! DEFINITION. The step: the schedule's next choice, else the policy's. -/

namespace Sys2Proof.Machine

/-- One step of the device: the schedule's next choice where it has one, else what the policy picks, else nothing (log 1). -/
def step (s : State) : Host.Outcome State Fault Refusal :=
  match s.agenda with
  | c :: cs => ({ s with agenda := cs } : State).run c
  | [] => match s.pick with
    | some c => s.run c
    | none => .next s

/-- s with an instruction placed where step fetches its next one (log 8). -/
def State.withFetchWord (s : State) (nbits w : Nat) : State := s.placeWords (placedWords nbits w)

end Sys2Proof.Machine
end

