-- ==== Sys2Proof/Safety.lean ====
section
/-! DEFINITION. What counts as a safe state and a safe run, and the terms that claims about one instruction use: when it can
complete, and the state it then leaves. -/

namespace Sys2Proof.Machine

/-- A step that the part takes: it neither reads where no memory is nor is turned away. -/
def Taken (s t : State) : Prop := step s = .next t

/-- Global memory is in its canonical form. -/
def State.memOk (s : State) : Bool := Memory.wf s.mem

/-- Every byte of global memory reads as before. -/
def SameMemory (s t : State) : Prop := ∀ a, byteAt t.mem a = byteAt s.mem a

/-- A register instruction with fields f issues in s with the operands o and can complete: no check of R170 or of its own fails,
its operands are there, no queue element it pops has a fault, nothing it reads is poisoned, and a group it pushes can be written. -/
structure Ready (s : State) (sh : Shape) (f : XForm) (extra : Opnd → Option Cause) (o : Opnd) : Prop where
  issues : s.issuing = some o.i
  fields : o.f = f
  shape : o.sh = sh
  checks : o.check (extra o) = none
  operands : o.stalls s = false
  queues : o.popFault = none
  clean : o.poisoned = false
  push : ∃ l, o.pushTrans s = .ok l

/-- The state that a completed instruction of len bytes leaves: its result for each lane it computes, where it has one, its
flags, its pops and pushes, what it holds, and its threads at the next word. -/
def Opnd.after (o : Opnd) (s : State) (len : Nat) (res : Option (Nat → DWord)) (fl : Flags5) : State :=
  let r := o.commit s (res.map fun v => o.lanes.map fun l => (l, v l)) fun w => w.addFlags fl
  r.1.retire o.i len o.f.lnd r.2

/-- The state that a completed instruction of len bytes leaves whose only effect on its warp beside its pops is upd. -/
def Opnd.afterUpd (o : Opnd) (s : State) (len : Nat) (upd : Warp → Warp) : State :=
  let r := o.commit s none upd
  r.1.retire o.i len o.f.lnd r.2

/-- Where a thread of a warp stands: the PC of the set that holds it (R119). -/
def Warp.pcOf (w : Warp) (l : Nat) : Option Pc := (w.pcs.find? fun p => p.lanes.getLsbD l).map (·.pc)

/-- The threads of the active set stand where g says, every other thread of the warp where it stood. -/
def ThreadsGo (i : Iss) (g : Nat → Option Pc) (w : Warp) : Prop :=
  ∀ l < 64, w.pcOf l = if i.fl.active.getLsbD l then g l else i.w.pcOf l

/-- The flight goes on after a counted instruction, or ends: by LND, because the instruction ends it, or at 24 (R123, R124). -/
def FlightGoesOn (s t : State) (i : Iss) (ends : Prop) : Prop :=
  ((ends ∨ 24 ≤ i.fl.count + 1) → t.flights = s.flights.drop 1) ∧
  (¬ ends → i.fl.count + 1 < 24 → ∃ fl, t.flights = fl :: s.flights.drop 1 ∧ fl.core = i.fl.core ∧ fl.slot = i.fl.slot ∧
    fl.warp = i.fl.warp ∧ fl.active = i.fl.active ∧ fl.count = i.fl.count + 1 ∧ fl.pfx = none)

/-- The result v of each lane stands in the destination of w: in a v register (direct or by an index register) for every lane of
the mask, in an s register once; 64-bit results in the pair. NW writes nothing, and zero and an empty mask discard (R36, R42, R135). -/
def Opnd.Landed (o : Opnd) (v : Nat → DWord) (w : Warp) : Prop :=
  o.i.mask ≠ 0 → o.f.nw = false →
    (∀ n, o.vNum o.f.d = some n → o.scalar = false → ∀ l < 64, o.i.mask.getLsbD l = true →
      w.vReg n l = (v l).setWidth 32 ∧ (o.sh.d.width = 64 → w.vReg (n + 1) l = (v l).extractLsb' 32 32)) ∧
    (∀ n, clsOf o.f.d = .s n → o.scalar = true →
      w.sReg n = (v warpLane).setWidth 32 ∧ (o.sh.d.width = 64 → w.sReg (n + 1) = (v warpLane).extractLsb' 32 32))

/-- What an instruction's register result leaves alone of its warp's v and s registers: all but the destination, which is a pair for a
64-bit result only; and of a v destination the lanes that are neither in the mask nor zeroed by ZM (R42, R134). -/
def Opnd.Spared (o : Opnd) (w : Warp) : Prop :=
  (∀ m, ∀ l < 64, (∀ n, o.vNum o.f.d = some n → m ≠ n ∧ (o.sh.d.width = 64 → m ≠ n + 1)) → w.vReg m l = o.i.w.vReg m l) ∧
  (∀ n, o.vNum o.f.d = some n → ∀ l < 64, o.i.mask.getLsbD l = false → (o.i.zm = false ∨ o.i.fl.active.getLsbD l = false) →
    w.vReg n l = o.i.w.vReg n l ∧ w.vReg (n + 1) l = o.i.w.vReg (n + 1) l) ∧
  (∀ m, (∀ n, clsOf o.f.d = .s n → m ≠ n ∧ (o.sh.d.width = 64 → m ≠ n + 1)) → w.sReg m = o.i.w.sReg m) ∧
  ((o.i.mask = 0 ∨ o.f.nw = true) → w.v = o.i.w.v ∧ w.s = o.i.w.s)

/-- ZM writes zero to the other active lanes of a v destination (R134). -/
def Opnd.Zeroed (o : Opnd) (w : Warp) : Prop :=
  o.i.mask ≠ 0 → o.f.nw = false → o.i.zm = true → o.scalar = false → ∀ n, o.vNum o.f.d = some n → ∀ l < 64,
    o.i.fl.active.getLsbD l = true → o.i.mask.getLsbD l = false → w.vReg n l = 0 ∧ (o.sh.d.width = 64 → w.vReg (n + 1) l = 0)

end Sys2Proof.Machine
end

