-- ==== Sys2Proof/WellFormed.lean ====
section
/-! DEFINITION. Well-formed instructions: those that pass every encoding check of R51, check by check, alone or after a PFX; and
events whose numbers fit the fields of the commands, registers and packets that carry them. -/

namespace Sys2Proof

/-- Order 2 of R51: no literal that nothing uses (R27). -/
def Instr.literalUsed (env : DecEnv) (p : Option PForm) (i : Instr) : Bool :=
  match i.form with
  | some fm => order2 (fm.shape env (match p with | some q => q.cv | none => false)) fm.toX
  | none => true

/-- Order 4: a PFX stands only before an instruction that one may bind to (R48). -/
def Instr.prefixable (env : DecEnv) (p : Option PForm) (i : Instr) : Bool :=
  match i.form with
  | some fm => p.isNone || (fm.shape env (match p with | some q => q.cv | none => false)).pfx.isSome
  | none => p.isNone

/-- Order 5: a literal code has its literal (R27). -/
def Instr.literalPresent (env : DecEnv) (p : Option PForm) (i : Instr) : Bool :=
  match i.form with
  | some fm => order5 (fm.shape env (match p with | some q => q.cv | none => false)) fm.toX
  | none => true

/-- Order 6: no reserved field value (R41, R42, R49). -/
def Instr.valuesAssigned (env : DecEnv) (p : Option PForm) (i : Instr) : Bool :=
  match i.form with
  | some fm =>
    let sh := fm.shape env (match p with | some q => q.cv | none => false)
    (match p with | some q => pfxOrder6 env q sh fm.toX | none => true) && order6 sh fm.toX
  | none => true

/-- Order 7: no reserved bit (R32, R40, R46). -/
def Instr.reservedZero (env : DecEnv) (p : Option PForm) (i : Instr) : Bool :=
  match i.form with
  | some fm =>
    (match p with | some q => pfxOrder7 q | none => true) &&
      order7 (fm.shape env (match p with | some q => q.cv | none => false)) fm.toX
  | none => true

/-- A PFX word by itself (R46, R49). -/
def PForm.wf (p : PForm) : Bool := p.rnd != 7 && p.c != 255 && pfxOrder7 p

/-- A context number (R392). -/
def ctxFits (c : Nat) : Bool := c < 64

/-- An event's numbers fit the fields that carry them (R476, R491, R494). -/
def Instr.eventFits : Instr → Bool
  | .flitReceive port _ => port < 32
  | .portDown port => port < 32
  | .galleryPortTrained port => port < 32
  | .qdb port q _ => port < 2 && q < 256
  | .trig port => port < 2
  | .evhead port _ => port < 2
  | .registerWrite port _ _ => port < 2
  | .pciePortDown port => port < 2
  | .pcieLinkUp port => port < 2
  | .precisionTimeMeasurement port _ => port < 2
  | .ctxnew _ c troot pod _ => ctxFits c && troot < 2 ^ 46 && pod < 2 ^ 13
  | .ctxdel _ c => ctxFits c
  | .partbuild _ c _ => ctxFits c
  | .shrink _ c _ => ctxFits c
  | .debugEnable _ c _ => ctxFits c
  | .swout _ c _ => ctxFits c
  | .restore _ c _ => ctxFits c
  | .kill _ c => ctxFits c
  | .reg _ c _ => ctxFits c
  | .discread _ c => ctxFits c
  | .ckpt _ c _ => ctxFits c
  | .keybind _ slot _ _ => slot < 2048
  | .keyunbind _ slot => slot < 2048
  | .shoot _ c base bytes => ctxFits c && base < 2 ^ 57 && bytes < 2 ^ 57
  | .faultans _ c wgid warp _ _ g => ctxFits c && wgid < 2 ^ 32 && warp < 32 && g < 2 ^ 32
  | .brkans _ c wgid warp g => ctxFits c && wgid < 2 ^ 32 && warp < 32 && g < 2 ^ 32
  | .qnew _ q => q.queue < 256 && q.cls < 8 && ctxFits q.ctx && q.k < 32
  | .qdel _ q => q < 256
  | .evring _ k _ v => k < 32 && v < 256
  | _ => true

/-- A well-formed instruction where a warp of a width and with given latches meets it, alone or after a PFX. -/
def Instr.wf (env : DecEnv) (p : Option PForm) (i : Instr) : Bool :=
  (match i with | .pfx q => q.wf | _ => true) &&
  i.literalUsed env p && i.prefixable env p && i.literalPresent env p && i.valuesAssigned env p && i.reservedZero env p && i.eventFits

end Sys2Proof
end

