-- ==== Sys2Proof/Certificates/Slice0/Obligations.lean ====
section
/-! DEFINITION. The statements about this model that are left to be proved, and the tables they range over. -/

open Sys2Proof Sys2Proof.Machine

/-- For every instruction row and every value of its fields: where the instruction is well-formed alone, the decoder reads its own words as exactly that instruction, with its length; where it is well-formed after a PFX, the words of the pair read as that PFX, and then, under it, as that instruction; and every well-formed PFX word reads as itself. So no bit of an encoding is dropped. (R25, R30, R31, R36, R46, R47, R51) -/
def Obligations.decode_of_encode : Prop :=
  (∀ (env : DecEnv) (i : Instr), i.form.isSome = true → i.wf env none = true →
    decode env (encode i) = .ok i (4 * (encode i).length)) ∧
  (∀ (env : DecEnv) (i : Instr) (p : PForm), i.form.isSome = true → i.wf env (some p) = true →
    decode env (pWord p :: encode i) = .ok (.pfx p) 4 ∧
    decodeUnder env (some (p, true, false)) (encode i) = .ok i (4 * (encode i).length)) ∧
  (∀ p : PForm, p.wf = true → decodePfxWord (pWord p) = some (.pfx p))

/-- Whenever the decoder accepts words of which at least five are given, the instruction it reads is well-formed and its encoding is exactly the words it took; a PFX that it reads has exactly that word, and the words after it read as an instruction under it. Whenever it accepts words under a PFX in force, the instruction it reads is well-formed after that PFX and its encoding is exactly the words it took. So a reserved bit that is set is never accepted, and each accepted word sequence has one meaning and each instruction one word sequence. (R2, R30, R31, R36, R46, R51) -/
def Obligations.words_are_encodings : Prop :=
  (∀ (env : DecEnv) (ws : List Word) (i : Instr) (n : Nat), 5 ≤ ws.length → decode env ws = .ok i n →
    (i.form.isSome = true → i.wf env none = true ∧ encode i = ws.take (n / 4)) ∧
    (i.form = none → ∃ p, i = .pfx p ∧ n = 4 ∧ ws.head? = some (pWord p) ∧ ∃ j m, decodeUnder env (some (p, true, false)) ws.tail = .ok j m)) ∧
  (∀ (env : DecEnv) (p : PForm) (ws : List Word) (i : Instr) (n : Nat), 5 ≤ ws.length →
    decodeUnder env (some (p, true, false)) ws = .ok i n →
    i.form.isSome = true ∧ i.wf env (some p) = true ∧ encode i = ws.take (n / 4))

/-- IADD v3, v1, v2; IADDI v5, v5, -3; the literal MOV to v6; LDS v3, s4, 2; STG v7, v8, -1; LDGW.b128 v8, v2, 3; FMUL.bf16x2 v12.nw, v130.h, v13; IADD64.n64 with a literal; ICMP.s32.gt m1, s2, zero; KICK.gs k5, 1; MMA a0, v32, k2, zero; FENCE.rel.chip lsu, cp; NMDRAIN.pkg; EXIT: each of the words that the manual's tables print decodes to the instruction with the fields they name; and its eight ill-formed examples decode to the causes it gives. (R33, R51, R139, R190, R212) -/
def Obligations.words_of_the_manual_decode : Prop :=
  let x (d h ty a b c e : Nat) (nw : Bool) (md : Word) (lit : Option (BitVec 64)) : XForm :=
    ⟨false, BitVec.ofNat 8 d, BitVec.ofNat 2 h, nw, BitVec.ofNat 4 ty, BitVec.ofNat 8 a, BitVec.ofNat 8 b, BitVec.ofNat 8 c, BitVec.ofNat 8 e, md, lit⟩
  let gives (ws : List Word) (i : Instr) : Prop := decode DecEnv.default ws = .ok i (4 * ws.length)
  gives [0x01830208] (.iadd ⟨false, 3, 1, 2, false, false⟩) ∧
  gives [0x02050BFA] (.iaddi ⟨false, 5, 5, 0xFD, false, none⟩) ∧
  gives [0x4086FE00, 0x00001000, 0x00000040] (.movLiteral ⟨false, 6, false, false, 0x0000004000001000⟩) ∧
  gives [0x0F838804] (.lds ⟨false, 3, 68, 2, false, none⟩) ∧
  gives [0x0F0711FE] (.stg ⟨false, 7, 8, 0xFF, false, none⟩) ∧
  gives [0x12800000] (.exit false) ∧ gives [0x32800000] (.exit true) ∧
  gives [0x108201F6] (.bra false 2 0xFB) ∧
  gives [0x9D800406, 0x02000000, 3] (.ldgw (x 8 0 6 2 0 0 0 false 3 none)) ∧
  gives [0x9C810632, 0x820D0000, 0] (.fmulExt (x 12 1 2 130 13 0 0 true 0 none)) ∧
  gives [0xDC000A03, 0xFF160000, 0, 0, 0x100] (.iadd64 (x 20 0 3 255 22 0 0 false 0 (some 0x0000010000000000))) ∧
  gives [0x9D000080, 0xC2FB0000, 4] (.icmp (x 1 0 0 0xC2 0xFB 0 0 false 4 none)) ∧
  gives [0x9E000000, 0xE5000000, 0x110] (.kick (x 0 0 0 0xE5 0 0 0 false 0x110 none)) ∧
  gives [0x9E800000, 0x20E2FB00, 0] (.mma (x 0 0 0 0x20 0xE2 0xFB 0 false 0 none)) ∧
  gives [0x9F000000, 0, 0x1303] (.fence (x 0 0 0 0 0 0 0 false 0x1303 none)) ∧
  gives [0x9D868000, 0, 0x140] (.nmdrain (x 0 0 0 0 0 0 0 false 0x140 none)) ∧
  decode DecEnv.default [0x14800000] = .bad 0x000 ∧
  decode DecEnv.default [0x81830208, 0, 0] = .bad 0x005 ∧
  decode DecEnv.default [0x41830208, 0, 0] = .bad 0x005 ∧
  decode DecEnv.default [0x9E868000, 0, 0] = .bad 0x001 ∧
  decode DecEnv.default [0x1F800000, 0x0E810400] = .bad 0x003 ∧
  decode DecEnv.default [0x018303FC] = .bad 0x004 ∧
  decode DecEnv.default [0x018303CC] = .bad 0x002 ∧
  decode DecEnv.default [0x1F870000, 0x0B820004] = .bad 0x002 ∧
  decode DecEnv.default [0x00000001] = .bad 0x006

/-- The schedule, log 1, is the model's choice. Where its next choice is the issue of a core's slot that has a flight: the flights of that slot come to the front in their order; the threads of the warp's set at the flight's address join it; and where the flight takes no recorded cause (R128), the words at the address (of the instruction, or after its PFX) are fetched without fault and are not poisoned, the step is exec of the instruction they decode to, on that state with the lines of the words used at their home slices, and the cause of R51 is raised where they decode to none. Where the next choice is an event, the step is exec of that event. With no choice, the step is what the policy picks. (R47, R51, R52, R119, R121, R122, R128) -/
def Obligations.step_runs_the_decoded_instruction : Prop :=
  (∀ (s : State) (core slot : Nat) (cs : List Choice) (i0 i : Iss) (ws : List Word),
    s.agenda = .issue core slot :: cs → (∃ f ∈ s.flights, f.core = core ∧ f.slot = slot) →
    let u : State := ({ s with agenda := cs } : State).frontSlot core slot
    u.issuing = some i0 → (i0.fl.takes = true → i0.fl.count = 0 → i0.fl.pfx = none → i0.w.recorded = none) → (u.merge i0).issuing = some i →
    (u.merge i0).fetchInstr i.w.core i.w.wg.ctx i.ipc i.fl.pfx.isSome = .ok ws false →
    u.flights.Perm s.flights ∧ i0.fl.core = core ∧ i0.fl.slot = slot ∧
    (∀ p ∈ i0.w.pcs.find? fun p => p.pc = i0.pc, i.fl.active = p.lanes) ∧
    let v : State := (u.merge i0).useWords i.w.core i.w.wg.ctx ws.length i.ipc
    (∀ ins len, i.decode ws = .ok ins len → step s = exec ins v) ∧
    (∀ c, i.decode ws = .bad c → step s = raise v i c)) ∧
  (∀ (s : State) (e : Instr) (cs : List Choice), s.agenda = .event e :: cs → step s = exec e ({ s with agenda := cs } : State)) ∧
  (∀ (s : State) (c : Choice), s.agenda = [] → s.pick = some c → step s = s.run c)

/-- The form of memory is the model's (log 7). For every state whose memory is in canonical form (addresses strictly rising, no byte listed that reads as an unlisted one), if a step gives a next state, whatever the choice it takes, then the memory of that state is in canonical form too. (R5, R384) -/
def Obligations.memory_stays_canonical : Prop :=
  ∀ s t : State, s.memOk = true → step s = .next t → t.memOk = true

/-- At reset READY, RECOV and QUAR are 0, no firmware is loaded, both PCI Express ports are down, no context, partition, grid, workgroup, warp, flight, key slot, queue, communicator or registration exists, no record has been written and the next event number is 0, memory is in canonical form; memory reads 0 and time is 0 by the model's choice (logs 6 and 7). (R491, R492, R497, R509) -/
def Obligations.reset_state : Prop :=
  let s := State.reset
  s.memOk = true ∧ (∀ a, byteAt s.mem a = 0) ∧ s.ready = false ∧ s.recov = false ∧ s.quar = false ∧ s.firmware = none ∧
  s.ports.map (·.up) = [false, false] ∧ s.ctxs = [] ∧ s.grids = [] ∧ s.wgs = [] ∧ s.warps = [] ∧ s.flights = [] ∧ s.keys = [] ∧
  s.queues = [] ∧ s.comms = [] ∧ s.buffers = [] ∧ s.hostOut = [] ∧ s.evSeq = 0 ∧ s.time = 0 ∧ s.galPorts.length = 32

namespace Sys2Proof.Machine

/-- The base operations on two words: the instruction, its opcode, and its result as a number (R208). -/
def baseInteger : List ((RForm → Instr) × Nat × (Word → Word → Nat)) :=
  [(.iadd, 0x03, fun a b => (a.toNat + b.toNat) % 2 ^ 32),
   (.isub, 0x05, fun a b => (a.toNat + 2 ^ 32 - b.toNat) % 2 ^ 32),
   (.imul, 0x06, fun a b => a.toNat * b.toNat % 2 ^ 32),
   (.imulhs, 0x07, fun a b => (a.toInt * b.toInt / 2 ^ 32 % 2 ^ 32).toNat),
   (.imulhn, 0x08, fun a b => a.toNat * b.toNat / 2 ^ 32),
   (.iand, 0x0A, fun a b => a.toNat &&& b.toNat),
   (.ior, 0x0B, fun a b => a.toNat ||| b.toNat),
   (.ixor, 0x0C, fun a b => a.toNat ^^^ b.toNat),
   (.iandn, 0x0D, fun a b => a.toNat &&& (2 ^ 32 - 1 - b.toNat)),
   (.ishl, 0x0E, fun a b => if b.toNat < 32 then a.toNat * 2 ^ b.toNat % 2 ^ 32 else 0),
   (.ishr, 0x0F, fun a b => if b.toNat < 32 then a.toNat / 2 ^ b.toNat else 0),
   (.isar, 0x10, fun a b => (a.toInt / 2 ^ min b.toNat 32 % 2 ^ 32).toNat),
   (.imins, 0x12, fun a b => (min a.toInt b.toInt % 2 ^ 32).toNat),
   (.imaxs, 0x13, fun a b => (max a.toInt b.toInt % 2 ^ 32).toNat),
   (.iminn, 0x14, fun a b => min a.toNat b.toNat),
   (.imaxn, 0x15, fun a b => max a.toNat b.toNat)]

end Sys2Proof.Machine

/-- For IADD, ISUB, IMUL, IMULHS, IMULHN, IAND, IOR, IXOR, IANDN, ISHL, ISHR, ISAR, IMINS, IMAXS, IMINN and IMAXN: in every state where the instruction issues and is ready, exec answers the next state in which the instruction has completed with, in every lane it computes, the 32-bit number that R208 gives for the lane's operands, read as integers, and with no flag set. (R135, R204, R208) -/
def Obligations.base_integer_results : Prop :=
  ∀ row ∈ baseInteger, ∀ (s : State) (f : RForm) (o : Opnd), Ready s (baseShape row.2.1 f.toX) f.toX noExtra o →
    ∃ v : Nat → DWord, exec (row.1 f) s = .next (o.after s 4 (some v) 0) ∧
      ∀ l ∈ o.lanes, (v l).toNat = row.2.2 (o.rd o.f.a l) (o.rd o.f.b l)

/-- Where the instruction issues and is ready, exec answers the completed next state with these lane values and no flag: IMAD (a·b + d) mod 2^32 with the old D; ISEL a where the condition (the PFX C operand, else a) is not zero, else b; IADDI (a + sign-extended IMM8) mod 2^32; ISHI the shift or rotation that IMM8 names; MOV the 32 bits of A; the literal MOV its 64-bit literal; MOVI its IMM8 sign-extended. (R42, R160, R161, R208, R209, R210, R211) -/
def Obligations.base_moves_and_immediates : Prop :=
  (∀ (s : State) (f : RForm) (o : Opnd), Ready s (baseShape 0x09 f.toX) f.toX noExtra o →
    ∃ v : Nat → DWord, exec (.imad f) s = .next (o.after s 4 (some v) 0) ∧ ∀ l ∈ o.lanes,
      (v l).toNat = ((o.rd o.f.a l).toNat * (o.rd o.f.b l).toNat + (o.rd o.f.d l).toNat) % 2 ^ 32) ∧
  (∀ (s : State) (f : RForm) (o : Opnd), Ready s (baseShape 0x16 f.toX) f.toX noExtra o →
    ∃ v : Nat → DWord, exec (.isel f) s = .next (o.after s 4 (some v) 0) ∧ ∀ l ∈ o.lanes,
      (v l).toNat = if o.rd (o.i.pfxC.getD o.f.a) l = 0 then (o.rd o.f.b l).toNat else (o.rd o.f.a l).toNat) ∧
  (∀ (s : State) (f : IForm) (o : Opnd), Ready s (baseShape 0x04 f.toX) f.toX noExtra o →
    ∃ v : Nat → DWord, exec (.iaddi f) s = .next (o.after s 4 (some v) 0) ∧ ∀ l ∈ o.lanes,
      (v l).toNat = (((o.rd o.f.a l).toNat + f.imm.toInt) % 2 ^ 32).toNat) ∧
  (∀ (s : State) (f : IForm) (o : Opnd), Ready s (baseShape 0x11 f.toX) f.toX noExtra o →
    ∃ v : Nat → DWord, exec (.ishi f) s = .next (o.after s 4 (some v) 0) ∧ ∀ l ∈ o.lanes,
      let n := f.imm.toNat % 32
      let a := o.rd o.f.a l
      (v l).toNat = match f.imm.toNat / 64 with
        | 0 => a.toNat * 2 ^ n % 2 ^ 32
        | 1 => a.toNat / 2 ^ n
        | 2 => (a.toInt / 2 ^ n % 2 ^ 32).toNat
        | _ => (a.toNat * 2 ^ n + a.toNat * 2 ^ n / 2 ^ 32) % 2 ^ 32) ∧
  (∀ (s : State) (f : RForm) (o : Opnd), Ready s (baseShape 0x01 f.toX) f.toX noExtra o →
    ∃ v : Nat → DWord, exec (.mov f) s = .next (o.after s 4 (some v) 0) ∧ ∀ l ∈ o.lanes,
      (v l).toNat = (o.rd o.f.a l).toNat) ∧
  (∀ (s : State) (f : LForm) (o : Opnd), Ready s (baseShape 0x01 f.toX) f.toX noExtra o →
    exec (.movLiteral f) s = .next (o.after s 12 (some fun _ => f.lit) 0)) ∧
  (∀ (s : State) (f : IForm) (o : Opnd), Ready s (baseShape 0x02 f.toX) f.toX noExtra o →
    ∃ v : Nat → DWord, exec (.movi f) s = .next (o.after s 4 (some v) 0) ∧ ∀ l ∈ o.lanes, (v l).toInt = f.imm.toInt)

namespace Sys2Proof.Machine

/-- A w-bit code as a signed number. -/
def sval (w n : Nat) : Int := (BitVec.ofNat w n).toInt

/-- An integer as w bits. -/
def wrapTo (w : Nat) (i : Int) : Nat := (i % 2 ^ w).toNat

/-- The least of an upper bound and the greatest of a lower bound and a number. -/
def clampTo (lo hi t : Int) : Int := max lo (min hi t)

/-- Elements of k bits, by place. -/
def elemOf (k n i : Nat) : Nat := n / 2 ^ (k * i) % 2 ^ k

/-- The EXT.INT operations but for the divisions: the instruction, its XOP, and what relates a lane's result to the operands
(R214 to R225). -/
def extInteger : List ((XForm → Instr) × Nat × (Opnd → Nat → Nat → Prop)) :=
  [(.iadd64, 0x00, fun o l r => r = ((o.rd64 o.f.a l).toNat + (o.rd64 o.f.b l).toNat) % 2 ^ 64),
   (.isub64, 0x01, fun o l r => r = ((o.rd64 o.f.a l).toNat + 2 ^ 64 - (o.rd64 o.f.b l).toNat) % 2 ^ 64),
   (.imul64, 0x02, fun o l r => r = (o.rd64 o.f.a l).toNat * (o.rd64 o.f.b l).toNat % 2 ^ 64),
   (.imadw, 0x03, fun o l r =>
      let x (c : BitVec 8) : Int := if o.f.ty = 0 then (o.rd c l).toInt else (o.rd c l).toNat
      r = wrapTo 64 (x o.f.a * x o.f.b + (o.rd64 o.f.c l).toNat)),
   (.iaddc, 0x04, fun o l r => r = (o.rd o.f.a l).toNat + (o.rd o.f.b l).toNat + (o.rd o.f.c l).toNat % 2),
   (.ishl64, 0x16, fun o l r =>
      let n := (o.rd o.f.b l).toNat
      r = if n < 64 then (o.rd64 o.f.a l).toNat * 2 ^ n % 2 ^ 64 else 0),
   (.ishr64, 0x17, fun o l r =>
      let n := (o.rd o.f.b l).toNat
      r = if n < 64 then (o.rd64 o.f.a l).toNat / 2 ^ n else 0),
   (.isar64, 0x18, fun o l r => r = wrapTo 64 ((o.rd64 o.f.a l).toInt / 2 ^ min (o.rd o.f.b l).toNat 64)),
   (.isel64, 0x19, fun o l r => r = if o.rd o.f.c l = 0 then (o.rd64 o.f.b l).toNat else (o.rd64 o.f.a l).toNat),
   (.iabs, 0x09, fun o l r =>
      let w := o.f.tyW
      let x := sval w (o.rdN o.f.a l w)
      r = if o.i.sat && x = -(2 ^ (w - 1)) then 2 ^ (w - 1) - 1 else x.natAbs),
   (.ineg, 0x0A, fun o l r =>
      let w := o.f.tyW
      let x := sval w (o.rdN o.f.a l w)
      r = if o.i.sat && x = -(2 ^ (w - 1)) then 2 ^ (w - 1) - 1 else wrapTo w (-x)),
   (.iclz, 0x0B, fun o l r =>
      let n := o.rdN o.f.a l o.f.tyW
      r ≤ o.f.tyW ∧ n < 2 ^ (o.f.tyW - r) ∧ (r < o.f.tyW → 2 ^ (o.f.tyW - r - 1) ≤ n)),
   (.ictz, 0x0C, fun o l r =>
      let n := o.rdN o.f.a l o.f.tyW
      r ≤ o.f.tyW ∧ 2 ^ r ∣ n ∧ (r < o.f.tyW → ¬ 2 ^ (r + 1) ∣ n)),
   (.ipopc, 0x0D, fun o l r => r = ((List.range o.f.tyW).map fun i => o.rdN o.f.a l o.f.tyW / 2 ^ i % 2).sum),
   (.ibrev, 0x0E, fun o l r => r < 2 ^ o.f.tyW ∧
      ∀ i < o.f.tyW, r.testBit i = (o.rdN o.f.a l o.f.tyW).testBit (o.f.tyW - 1 - i)),
   (.ibfx, 0x0F, fun o l r =>
      let w := o.f.tyW
      let p := min (if o.f.bit 16 then o.f.fld 7 0 else (o.rd o.f.b l).toNat % 256) w
      let n := min (if o.f.bit 16 then o.f.fld 15 8 else (o.rd o.f.b l).toNat / 256 % 256) (w - p)
      let x := o.rdN o.f.a l w / 2 ^ p % 2 ^ n
      r = if o.f.ty = 0 ∨ o.f.ty = 2 then wrapTo w (sval n x) else x),
   (.ibfi, 0x10, fun o l r =>
      let w := o.f.tyW
      let p := min (if o.f.bit 16 then o.f.fld 7 0 else (o.rd o.f.c l).toNat % 256) w
      let n := min (if o.f.bit 16 then o.f.fld 15 8 else (o.rd o.f.c l).toNat / 256 % 256) (w - p)
      r < 2 ^ w ∧ ∀ i < w, r.testBit i =
        if p ≤ i ∧ i < p + n then (o.rdN o.f.a l w).testBit (i - p) else (o.rdN o.f.b l w).testBit i),
   (.ifshl, 0x11, fun o l r =>
      r = ((o.rd o.f.a l).toNat * 2 ^ 32 + (o.rd o.f.b l).toNat) * 2 ^ min (o.rd o.f.c l).toNat 32 / 2 ^ 32 % 2 ^ 32),
   (.iperm, 0x12, fun o l r =>
      let x := (o.rd o.f.a l).toNat + (o.rd o.f.b l).toNat * 2 ^ 32
      let sel := if o.f.bit 16 then o.f.fld 15 0 else (o.rd o.f.c l).toNat % 2 ^ 16
      r < 2 ^ 32 ∧ ∀ i < 4, elemOf 8 r i =
        let b := elemOf 8 x (elemOf 4 sel i % 8)
        if elemOf 4 sel i < 8 then b else if 128 ≤ b then 255 else 0),
   (.iaddsat, 0x13, fun o l r =>
      let k := (satElem o.f.ty.toNat).1
      let v (n : Nat) : Int := if (satElem o.f.ty.toNat).2 then sval k n else n
      r < 2 ^ 32 ∧ ∀ i < 32 / k, v (elemOf k r i) =
        clampTo (if (satElem o.f.ty.toNat).2 then -(2 ^ (k - 1)) else 0)
          (if (satElem o.f.ty.toNat).2 then 2 ^ (k - 1) - 1 else 2 ^ k - 1)
          (v (elemOf k (o.rdN o.f.a l 32) i) + v (elemOf k (o.rdN o.f.b l 32) i))),
   (.isubsat, 0x14, fun o l r =>
      let k := (satElem o.f.ty.toNat).1
      let v (n : Nat) : Int := if (satElem o.f.ty.toNat).2 then sval k n else n
      r < 2 ^ 32 ∧ ∀ i < 32 / k, v (elemOf k r i) =
        clampTo (if (satElem o.f.ty.toNat).2 then -(2 ^ (k - 1)) else 0)
          (if (satElem o.f.ty.toNat).2 then 2 ^ (k - 1) - 1 else 2 ^ k - 1)
          (v (elemOf k (o.rdN o.f.a l 32) i) - v (elemOf k (o.rdN o.f.b l 32) i))),
   (.idot4, 0x15, fun o l r =>
      let sa := o.f.ty = 6
      let sb := if o.f.bit 0 then ¬ sa else sa
      let e (s : Bool) (n : Nat) : Int := if s then sval 8 n else n
      let c : Int := if sa ∨ sb then (o.rd o.f.c l).toInt else (o.rd o.f.c l).toNat
      let t := c + ((List.range 4).map fun i =>
        e (decide sa) (elemOf 8 (o.rdN o.f.a l 32) i) * e (decide sb) (elemOf 8 (o.rdN o.f.b l 32) i)).sum
      r = wrapTo 32 (if ¬ o.i.sat then t else if sa ∨ sb then clampTo (-(2 ^ 31)) (2 ^ 31 - 1) t else clampTo 0 (2 ^ 32 - 1) t))]

end Sys2Proof.Machine

/-- For IADD64, ISUB64, IMUL64, IMADW, IADDC, IABS, INEG, ICLZ, ICTZ, IPOPC, IBREV, IBFX, IBFI, IFSHL, IPERM, IADDSAT, ISUBSAT, IDOT4, ISHL64, ISHR64, ISAR64 and ISEL64: where the instruction issues and is ready, exec answers the completed next state in which every lane it computes has the result that the rule of the instruction relates to the lane's operands (as integers: sums and products modulo 2^64; absolute value and negation wrapped or saturated; bit counts, reversal and fields bit by bit; funnel shift and byte selection; saturated packed elements; the clamped dot product), and no flag is set. (R204, R214, R215, R216, R218, R219, R220, R221, R222, R223, R224, R225) -/
def Obligations.extended_integer_results : Prop :=
  ∀ row ∈ extInteger, ∀ (s : State) (f : XForm) (o : Opnd), Ready s (shapeInt row.2.1 f) f noExtra o →
    ∃ v : Nat → DWord, exec (row.1 f) s = .next (o.after s f.len (some v) 0) ∧ ∀ l ∈ o.lanes, row.2.2 o l (v l).toNat

namespace Sys2Proof.Machine

/-- The divisions: the instruction, its XOP, signed or not, remainder or quotient (R217). -/
def divisions : List ((XForm → Instr) × Nat × Bool × Bool) :=
  [(.idivs, 0x05, true, false), (.idivn, 0x06, false, false), (.irems, 0x07, true, true), (.iremn, 0x08, false, true)]

/-- A dividend or divisor of a lane as a number. -/
def divNum (sg : Bool) (w n : Nat) : Int := if sg then sval w n else n

/-- The truncated quotient or the remainder that goes with it (R217). -/
def divValue (sg rm : Bool) (w a b : Nat) : Nat :=
  if b = 0 then (if rm then a else 2 ^ w - 1)
  else
    let q := Int.tdiv (divNum sg w a) (divNum sg w b)
    wrapTo w (if rm then divNum sg w a - q * divNum sg w b else q)

end Sys2Proof.Machine

/-- For IDIVS, IDIVN, IREMS and IREMN, where the instruction issues and is ready: if some lane of a non-empty mask has a zero divisor and NT is 0, the instruction raises cause 0x0A5 and nothing else; otherwise exec answers the completed next state with no flag set, in which every lane has the quotient truncated toward zero, wrapped to the width, or the remainder a − q·b; for a zero divisor (NT = 1) the quotient is all ones and the remainder is a. (R52, R217) -/
def Obligations.division_results_and_zero_divisor : Prop :=
  ∀ row ∈ divisions, ∀ (s : State) (f : XForm) (o : Opnd), Ready s (shapeInt row.2.1 f) f noExtra o →
    ((o.i.mask ≠ 0 ∧ f.bit 0 = false ∧ ∃ l ∈ o.lanes, o.rdN o.f.b l f.tyW = 0) → exec (row.1 f) s = raise s o.i 0x0A5) ∧
    ((o.i.mask = 0 ∨ f.bit 0 = true ∨ ∀ l ∈ o.lanes, o.rdN o.f.b l f.tyW ≠ 0) →
      ∃ v : Nat → DWord, exec (row.1 f) s = .next (o.after s f.len (some v) 0) ∧
        ∀ l ∈ o.lanes, (v l).toNat = divValue row.2.2.1 row.2.2.2 f.tyW (o.rdN o.f.a l f.tyW) (o.rdN o.f.b l f.tyW))

namespace Sys2Proof.Machine

/-- Base float operations of two operands: instruction, opcode, operation (R231, R233). -/
def baseFloat : List ((RForm → Instr) × Nat × FOp) :=
  [(.fadd, 0x17, .add), (.fsub, 0x18, .sub), (.fmul, 0x19, .mul), (.fmin, 0x1B, .min), (.fmax, 0x1C, .max)]

/-- EXT.FLOAT operations of two operands: instruction, XOP, operation (R233, R235, R240). -/
def extFloat2 : List ((XForm → Instr) × Nat × FOp) :=
  [(.faddExt, 0x00, .add), (.fsubExt, 0x01, .sub), (.fmulExt, 0x02, .mul), (.fminExt, 0x04, .min), (.fmaxExt, 0x05, .max),
   (.fminm, 0x06, .minm), (.fmaxm, 0x07, .maxm), (.fdiv, 0x0F, .div)]

/-- An instruction of len bytes has completed whose lanes have values and flags g: its result stands in its destination, FLAGS has
collected the flags, SRSEQ has advanced where it rounds stochastically, ZM has zeroed the rest of the active set, and every other
register and lane, memory and the workgroups are as before (R36, R42, R76, R80, R134, R165). -/
def Opnd.Gives (o : Opnd) (s : State) (len : Nat) (g : Nat → DWord × Flags5) (sr : Bool) (r : Out) : Prop :=
  ∃ t w, r = .next t ∧ t.warpAt o.i.w.key = some w ∧ ThreadsGo o.i (fun _ => some (o.i.nxt len)) w ∧
    FlightGoesOn s t o.i (o.f.lnd = true) ∧ o.Landed (fun l => (g l).1) w ∧
    w.flags = (if o.i.mask = 0 then o.i.w.flags else o.i.w.flags ||| (orFlags (o.lanes.map fun l => (g l).2)).setWidth 32) ∧
    w.srseq = (if sr = true ∧ o.i.mask ≠ 0 then o.i.w.srseq + 1 else o.i.w.srseq) ∧
    o.Zeroed w ∧ o.Spared w ∧ w.m = o.i.w.m ∧ w.x = o.i.w.x ∧ w.mode = o.i.w.mode ∧
    t.wgs = s.wgs ∧ t.grids = s.grids ∧ t.pending = s.pending ∧ SameMemory s t

/-- A code of 32 bits with its flags as a lane's value. -/
def codeLane (r : Rounded) : DWord × Flags5 := (BitVec.ofNat 64 r.code, r.flags)

end Sys2Proof.Machine

/-- For FADD, FSUB, FMUL, FMIN and FMAX of the base words and FADD, FSUB, FMUL, FMIN, FMAX, FMINM, FMAXM and FDIV of EXT.FLOAT: where the instruction issues and is ready, exec answers the next state in which the active threads stand at the next word and the destination holds, in every lane it computes and per element of its type (one FP32 value, or both 16-bit halves), the exact result of the operation on the decoded elements narrowed once in the effective rounding (RNE where SR is selected) under MODE.FTZ; FLAGS collects the flags of all lanes; every other register, memory and the workgroups are as before. (R73, R77, R227, R228, R231, R232, R233, R235, R240) -/
def Obligations.float_arithmetic_results : Prop :=
  (∀ row ∈ baseFloat, ∀ (s : State) (f : RForm) (o : Opnd), Ready s (baseShape row.2.1 f.toX) f.toX noExtra o →
    o.Gives s 4 (fun l => codeLane (row.2.2.elem o.i.w.ftz o.i.rndNoSr fp32 (o.rdN o.f.a l 32) (o.rdN o.f.b l 32))) false
      (exec (row.1 f) s)) ∧
  (∀ row ∈ extFloat2, ∀ (s : State) (f : XForm) (o : Opnd), Ready s (shapeFloat row.2.1 f false) f noExtra o →
    o.Gives s f.len (fun l => perElem f.ty.toNat (fun fm x => row.2.2.elem o.i.w.ftz o.i.rndNoSr fm (x 0) (x 1)) fun j =>
        if j = 0 then o.rdN f.a l 32 else if j = 1 then o.rdN f.b l 32 else o.rdN f.c l 32) false (exec (row.1 f) s))

namespace Sys2Proof.Machine

/-- EXT.FLOAT operations by elements: instruction, XOP, and the result of the element codes of A, B and C (R235 to R241, R247). -/
def extFloat : List ((XForm → Instr) × Nat × (Opnd → Fmt → (Nat → Nat) → Rounded)) :=
  [(.ffma4, 0x03, fun o fm x => fmaElem o.i.w.ftz o.i.rndNoSr fm (x 0) (x 1) (x 2)),
   (.fabs, 0x08, fun _ fm x => ⟨x 0 % 2 ^ (fm.bits - 1), 0⟩),
   (.fneg, 0x09, fun _ fm x => ⟨negCode fm (x 0), 0⟩),
   (.fcopys, 0x0A, fun _ fm x => ⟨copySign fm (x 0) (x 1), 0⟩),
   (.fclass, 0x0B, fun _ fm x => ⟨2 ^ fclassBit fm (x 0), 0⟩),
   (.fscale, 0x0C, fun o fm x => scaleElem o.i.w.ftz o.i.rndNoSr fm (x 0) (sval fm.bits (x 1))),
   (.frint, 0x0D, fun o fm x => frintElem o.i.w.ftz fm o.i.rndNoSr (x 0)),
   (.ffrac, 0x0E, fun o fm x => ffracElem o.i.w.ftz fm (x 0)),
   (.fsqrt, 0x10, fun o fm x => roundWith o.i.w.ftz fm o.i.rndNoSr (decodeElem o.i.w.ftz fm (x 0)).sqrt),
   (.frcpa, 0x11, fun o fm x => Approx.rcp.eval o.i.w.ftz fm (x 0)), (.frsqa, 0x12, fun o fm x => Approx.rsq.eval o.i.w.ftz fm (x 0)),
   (.fexp2a, 0x13, fun o fm x => Approx.exp2.eval o.i.w.ftz fm (x 0)), (.flog2a, 0x14, fun o fm x => Approx.log2.eval o.i.w.ftz fm (x 0)),
   (.fsina, 0x15, fun o fm x => Approx.sin.eval o.i.w.ftz fm (x 0)), (.fcosa, 0x16, fun o fm x => Approx.cos.eval o.i.w.ftz fm (x 0)),
   (.ftanha, 0x17, fun o fm x => Approx.tanh.eval o.i.w.ftz fm (x 0)), (.fsigma, 0x18, fun o fm x => Approx.sigma.eval o.i.w.ftz fm (x 0)),
   (.cvtfi, 0x1C, fun o fm x =>
      toIntElem o.i.w.ftz o.i.rndNoSr fm (intTy o.f.ty.toNat (o.f.fld 1 0)).1 (intTy o.f.ty.toNat (o.f.fld 1 0)).2 (x 0))]

/-- The codes of A, B and C of a lane. -/
def Opnd.codes (o : Opnd) (l : Nat) (j : Nat) : Nat :=
  if j = 0 then o.rdN o.f.a l 32 else if j = 1 then o.rdN o.f.b l 32 else o.rdN o.f.c l 32

/-- The inputs of an expression in a lane: A, B, C, E and PFX C (R243). -/
def Opnd.exprIn (o : Opnd) (l : Nat) (j : Nat) : Nat :=
  match j with
  | 0 => o.rdN o.f.a l 32
  | 1 => o.rdN o.f.b l 32
  | 2 => o.rdN o.f.c l 32
  | 3 => o.rdN o.f.e l 32
  | _ => (match o.i.pfxC with | some c => o.rdN c l 32 | none => 0)

end Sys2Proof.Machine

/-- Where the instruction issues and is ready, exec answers the next state in which the active threads stand at the next word, FLAGS collects the flags of all lanes, every other register and memory are as before, and the destination holds these element values: FFMA and FFMA4 a·b + c rounded once; FABS, FNEG, FCOPYS and FCLASS by bits; FSCALE, FRINT, FFRAC and FSQRT; the eight approximate functions truncated to their significand; FDOT2; EXPR's token program, whose pushes flush under FTZ by the model's choice; CVTFI and CVTIF; RAND's rand_arx of its 64-bit key and counter. The model's choices here: that an approximate function is found through rational bounds (log 14), the moment at which an expression flushes and the NaN that it only pushes (log 49), the C of a PFX that an expression does not push (log 64), and the invalid flag of an FDOT2 of a quiet NaN and two infinities (log 71). (R231, R235, R236, R237, R238, R239, R241, R242, R243, R247, R250) -/
def Obligations.float_unary_and_fused_results : Prop :=
  (∀ row ∈ extFloat, ∀ (s : State) (f : XForm) (o : Opnd), Ready s (shapeFloat row.2.1 f false) f noExtra o →
    o.Gives s f.len (fun l => perElem f.ty.toNat (row.2.2 o) (o.codes l)) false (exec (row.1 f) s)) ∧
  (∀ (s : State) (f : RForm) (o : Opnd), Ready s (baseShape 0x1A f.toX) f.toX noExtra o →
    o.Gives s 4 (fun l => codeLane (fmaElem o.i.w.ftz o.i.rndNoSr fp32 (o.rdN o.f.a l 32) (o.rdN o.f.b l 32) (o.rdN o.f.d l 32)))
      false (exec (.ffma f) s)) ∧
  (∀ (s : State) (f : XForm) (o : Opnd), Ready s (shapeFloat 0x19 f false) f noExtra o →
    o.Gives s f.len (fun l =>
      codeLane (dot2 o.i.w.ftz o.i.rndNoSr (typeFmt f.ty.toNat) (o.rdN f.a l 32) (o.rdN f.b l 32) (o.rdN f.c l 32))) false
      (exec (.fdot2 f) s)) ∧
  (∀ (s : State) (f : XForm) (o : Opnd), Ready s (shapeExpr f true) f noExtra o →
    o.Gives s f.len (fun l => perElem f.ty.toNat (fun fm x => exprRun o.i.w.ftz o.i.rndNoSr fm (exprToks f.mod) x) (o.exprIn l)) false
      (exec (.expr f) s)) ∧
  (∀ (s : State) (f : XForm) (o : Opnd), Ready s (shapeFloat 0x1D f false) f noExtra o →
    let k := intTy f.ty.toNat (f.fld 1 0)
    o.Gives s f.len (fun l => perElem f.ty.toNat (fun fm x => ofIntElem o.i.w.ftz o.i.rndNoSr fm k.1 k.2 (x 0)) fun _ =>
        o.rdN f.a l (if k.1 = 64 then 64 else 32)) false (exec (.cvtif f) s)) ∧
  (∀ (s : State) (f : XForm) (o : Opnd), Ready s (shapeFloat 0x20 f false) f noExtra o →
    o.Gives s f.len (fun l => (BitVec.ofNat 64 (randArx (o.rdN f.a l 64) (o.rdN f.b l 64)), 0)) false (exec (.rand f) s))

namespace Sys2Proof.Machine

/-- The conversions through slots: instruction, XOP, steps 1 to 8's fields, step 9, final fields, a lane's result, destination
format (R245, R248, R249). -/
def slotConversions : List ((XForm → Instr) × Nat × (Opnd → Shape) × (Opnd → Option Cause) × (Opnd → Shape) ×
    (Opnd → Nat → DWord × Flags5) × (Opnd → Nat)) :=
  [(.cvt, 0x1B, fun o => cvtPre o o.f, fun o => cvtCheck o.f o, fun o => cvtShape o o.f, fun o => cvtLane o.f o,
      fun o => slotFmt (o.i.slot (o.f.fld 2 0))),
   (.pack, 0x1E, fun o => shapeFloat 0x1E o.f false, fun o => packCheck o.f o, fun o => shapeFloat 0x1E o.f false, fun o => packLane o.f o,
      fun o => slotFmt (o.i.slot (o.f.fld 2 0))),
   (.unpack, 0x1F, fun o => unpackShape o o.f, fun o => unpackCheck o.f o, fun o => unpackShape o o.f, fun o => unpackLane o.f o, fun _ => 1)]

end Sys2Proof.Machine

/-- For CVT, PACK and UNPACK: where the instruction issues, no check of steps 1 to 9 fails on the fields that its slots read, and it is ready with the shape that its slots give it, exec answers the next state in which the active threads stand at the next word, the destination holds in every lane it computes the packed or unpacked elements of its rule, FLAGS collects the lanes' flags, and every other register and memory are as before; SRSEQ is one higher exactly where CVT or PACK rounds stochastically under a non-empty mask. The model's choices here: that the checks look only at the fields that the slots make the instruction read, each as wide as its N elements (log 11), and that an integer zero under a negative scale is -0 (log 58). (R80, R170, R245, R246, R248, R249) -/
def Obligations.slot_conversion_results : Prop :=
  ∀ row ∈ slotConversions, ∀ (s : State) (f : XForm) (i : Iss) (o : Opnd),
    let o0 : Opnd := ⟨i, f, shapeFloat row.2.1 f false⟩
    s.issuing = some i → (o0.withShape (row.2.2.1 o0)).check1to7 = none → row.2.2.2.1 o0 = none →
    Ready s (row.2.2.2.2.1 o0) f noExtra o →
    o.Gives s f.len (row.2.2.2.2.2.1 o) (o.i.rnd = 6 && row.2.2.2.2.2.2 o != 1 && row.2.2.2.2.2.2 o != 12) (exec (row.1 f) s)

/-- For FP32, FP16, BF16, E5M2, E4M3 and E2M1 and every code of the format that is not a NaN, round_to of the decoded value in any rounding mode, with any random word, without SAT, is the code itself with no flag set: no rounding changes a value that needs none. (R63, R74, R76) -/
def Obligations.rounding_keeps_representable_values : Prop :=
  ∀ f ∈ [fp32, fp16, bf16, e5m2, e4m3, e2m1], ∀ (c mode u b : Nat), c < 2 ^ f.bits → (decodeFmt f c).isNan = false →
    roundTo f mode false u b (decodeFmt f c) = ⟨c, 0⟩

namespace Sys2Proof.Machine

/-- A comparison by condition code on two integers (R251). -/
def ccInt (cc : Nat) (a b : Int) : Prop :=
  match cc with
  | 0 => a = b
  | 1 => a ≠ b
  | 2 => a < b
  | 3 => a ≤ b
  | 4 => b < a
  | _ => b ≤ a

/-- An integer operand of ICMP by its type (R251). -/
def icmpNum (o : Opnd) (c : BitVec 8) (l : Nat) : Int :=
  match o.f.ty.toNat with
  | 0 => (o.rd c l).toInt
  | 1 => (o.rd c l).toNat
  | 2 => (o.rd64 c l).toInt
  | _ => (o.rd64 c l).toNat

/-- Whether RTOM's source gives each lane a value of its own (R159). -/
def rtomPerLane (o : Opnd) : Bool :=
  match clsOf o.f.a with
  | .v _ | .x _ => true
  | .l n => (match o.i.fl.latch n with | some t => !t.scalar | none => false)
  | _ => false

/-- The instructions that write mask bits: instruction, XOP, the bit they give a lane, and the flags of a lane (R159, R251, R252). -/
def maskWriters : List ((XForm → Instr) × Nat × (Opnd → Nat → Bool → Prop) × (Opnd → Nat → Flags5)) :=
  let quiet : Opnd → Nat → Flags5 := fun _ _ => 0
  [(.icmp, 0x00, fun o l r => r = true ↔ ccInt (o.f.fld 2 0) (icmpNum o o.f.a l) (icmpNum o o.f.b l), quiet),
   (.fcmp, 0x01, fun o l r => r = (fcmpLane o.i.w.ftz (o.f.fld 2 0) (o.rdN o.f.a l 32) (o.rdN o.f.b l 32)).1,
      fun o l => (fcmpLane o.i.w.ftz (o.f.fld 2 0) (o.rdN o.f.a l 32) (o.rdN o.f.b l 32)).2),
   (.mand, 0x02, fun o l r => r = ((o.i.w.maskReg o.f.a.toNat).getLsbD l && (o.i.w.maskReg o.f.b.toNat).getLsbD l), quiet),
   (.mor, 0x03, fun o l r => r = ((o.i.w.maskReg o.f.a.toNat).getLsbD l || (o.i.w.maskReg o.f.b.toNat).getLsbD l), quiet),
   (.mxor, 0x04, fun o l r => r = ((o.i.w.maskReg o.f.a.toNat).getLsbD l ^^ (o.i.w.maskReg o.f.b.toNat).getLsbD l), quiet),
   (.mandn, 0x05, fun o l r => r = ((o.i.w.maskReg o.f.a.toNat).getLsbD l && !(o.i.w.maskReg o.f.b.toNat).getLsbD l), quiet),
   (.rtom, 0x07, fun o l r => r = if rtomPerLane o then o.rd o.f.a l != 0 else (o.rd64 o.f.a l).getLsbD l, quiet)]

end Sys2Proof.Machine

/-- Where the instruction issues and is ready, exec answers a next state in which the destination mask register of the issuing warp has, in every lane of a non-empty execution mask, the bit that the rule gives (the comparison of the lane's values; the mask operation; RTOM's test of the lane's value, or its bit of a 64-bit value); in the other active lanes 0 where ZM is set, and elsewhere what it had. Under an empty mask the register keeps every bit. The active threads stand at the next word; FCMP collects its lanes' flags (invalid for a signalling NaN, and for any NaN under an ordered comparison) and the others set none; the other mask registers, the v, s and index registers, MODE, SRSEQ, the workgroups and memory are as before. (R123, R134, R135, R144, R159, R165, R251, R252) -/
def Obligations.compare_and_mask_bits : Prop :=
  ∀ row ∈ maskWriters, ∀ (s : State) (f : XForm) (o : Opnd), Ready s (shapeLane row.2.1 f 64) f noExtra o → f.d.toNat < 8 →
    ∃ (t : State) (w : Warp), exec (row.1 f) s = .next t ∧ t.warpAt o.i.w.key = some w ∧
      ThreadsGo o.i (fun _ => some (o.i.nxt f.len)) w ∧ FlightGoesOn s t o.i (f.lnd = true) ∧
      (∀ n, n ≠ f.d.toNat → w.maskReg n = o.i.w.maskReg n) ∧ w.v = o.i.w.v ∧ w.s = o.i.w.s ∧ w.x = o.i.w.x ∧ w.mode = o.i.w.mode ∧
      w.srseq = o.i.w.srseq ∧
      w.flags = (if o.i.mask = 0 then o.i.w.flags else o.i.w.flags ||| (orFlags ((lanesOf o.i.mask).map (row.2.2.2 o))).setWidth 32) ∧
      t.wgs = s.wgs ∧ t.grids = s.grids ∧ t.pending = s.pending ∧ SameMemory s t ∧
      (o.i.mask = 0 → w.maskReg f.d.toNat = o.i.w.maskReg f.d.toNat) ∧
      (o.i.mask ≠ 0 → ∀ l < 64,
        (o.i.mask.getLsbD l = true → row.2.2.1 o l ((w.maskReg f.d.toNat).getLsbD l)) ∧
        (o.i.mask.getLsbD l = false → o.i.zm = true → o.i.fl.active.getLsbD l = true → (w.maskReg f.d.toNat).getLsbD l = false) ∧
        (o.i.mask.getLsbD l = false → (o.i.zm = false ∨ o.i.fl.active.getLsbD l = false) →
          (w.maskReg f.d.toNat).getLsbD l = (o.i.w.maskReg f.d.toNat).getLsbD l))

namespace Sys2Proof.Machine

/-- The lane that a shuffle of a mode reads for lane l, segments having c lanes and k the index or distance (R254). -/
def sourceLane (mode c k l : Nat) : Nat :=
  match mode with
  | 0 => l / c * c + k % c
  | 1 => if k ≤ l % c then l - k else l
  | 2 => if l % c + k < c then l + k else l
  | _ => if (l ^^^ k) / c = l / c then l ^^^ k else l

/-- The cross-lane instructions: instruction, XOP, the lanes of A they read, a lane's value (R254 to R258). -/
def crossLane : List ((XForm → Instr) × Nat × (Opnd → List Nat) × (Opnd → Nat → DWord → Prop)) :=
  let seg (o : Opnd) : Nat := segLen o.i.w.width (o.f.fld 2 0)
  let sh (mode : Nat) : (Opnd → List Nat) × (Opnd → Nat → DWord → Prop) :=
    (fun o => (lanesOf o.i.mask).map fun l => sourceLane mode (seg o) (o.shufK l) l,
     fun o l r => r = o.aAt (sourceLane mode (seg o) (o.shufK l) l))
  [(.shfl, 0x0A, sh 0), (.shflup, 0x0B, sh 1), (.shfldn, 0x0C, sh 2), (.shflx, 0x0D, sh 3),
   (.bcast, 0x0E, fun o => [o.shufK warpLane % o.i.w.width], fun o _ r => r = o.aAt (o.shufK warpLane % o.i.w.width)),
   (.vote, 0x0F, fun o => lanesOf o.i.mask, fun o _ r =>
      let vs := (lanesOf o.i.mask).map o.aAt
      let p : Prop := match o.f.fld 1 0 with
        | 0 => ∀ v ∈ vs, v ≠ 0
        | 1 => ∃ v ∈ vs, v ≠ 0
        | _ => ∀ v ∈ vs, ∀ u ∈ vs, v = u
      (p → r = 1) ∧ (¬ p → r = 0)),
   (.ballot, 0x10, fun o => lanesOf o.i.mask, fun o _ r =>
      ∀ l < 64, r.getLsbD l = (o.i.mask.getLsbD l && o.aAt l != 0)),
   (.matchLanes, 0x13, fun o => lanesOf o.i.mask, fun o l r =>
      ∀ j < 64, r.getLsbD j = (o.i.mask.getLsbD j && o.aAt j == o.aAt l))]

end Sys2Proof.Machine

/-- Where the instruction issues and is ready, and no entry that it reads of another lane is poisoned, exec answers the completed next state with no flag set and these values: MTOR the mask register's 64 bits; MPOPC the number of mask lanes whose bit is 1; SELM a or b by the lane's bit; SHFL, SHFLUP, SHFLDN and SHFLX the value of the source lane within the lane's segment; BCAST that of lane k mod width; VOTE all, any or uni as 1 or 0; BALLOT the bitmap of mask lanes with a nonzero value; MATCH the bitmap of mask lanes with an equal value. A poisoned entry raises the cause of R413. (R158, R252, R253, R254, R255, R256, R258, R413) -/
def Obligations.lane_value_results : Prop :=
  (∀ (s : State) (f : XForm) (o : Opnd), Ready s (shapeLane 0x06 f 64) f noExtra o →
    exec (.mtor f) s = .next (o.after s f.len (some fun _ => o.i.w.maskReg f.a.toNat) 0)) ∧
  (∀ (s : State) (f : XForm) (o : Opnd), Ready s (shapeLane 0x08 f 64) f noExtra o →
    exec (.mpopc f) s = .next (o.after s f.len (some fun _ => BitVec.ofNat 64
      ((List.range 64).filter fun l => o.i.mask.getLsbD l && (o.i.w.maskReg f.a.toNat).getLsbD l).length) 0)) ∧
  (∀ (s : State) (f : XForm) (o : Opnd), Ready s (shapeLane 0x09 f 64) f noExtra o →
    ∃ v : Nat → DWord, exec (.selm f) s = .next (o.after s f.len (some v) 0) ∧ ∀ l ∈ o.lanes,
      (v l).toNat = o.rdN (if (o.i.w.maskReg f.c.toNat).getLsbD l then f.a else f.b) l f.tyW) ∧
  (∀ row ∈ crossLane, ∀ (s : State) (f : XForm) (o : Opnd), Ready s (shapeLane row.2.1 f 64) f noExtra o →
    0 < segLen o.i.w.width (f.fld 2 0) →
    (o.lanesPoisoned (row.2.2.1 o) = true → exec (row.1 f) s = raise s o.i o.i.wg.serCause) ∧
    (o.lanesPoisoned (row.2.2.1 o) = false →
      ∃ v : Nat → DWord, exec (row.1 f) s = .next (o.after s f.len (some v) 0) ∧ ∀ l ∈ o.lanes, row.2.2.2 o l (v l)))

/-- For REDUX and SCAN, where the instruction issues and is ready and no entry of the mask's lanes is poisoned, exec answers the completed next state in which REDUX gives every lane it computes the value of node(0, width) over the mask's lanes, SCAN each lane that of tree_scan, and FLAGS collects the flags of the combinations. That a tree of one lane returns a NaN as it stands is the model's choice (log 72). (R76, R87, R88, R257) -/
def Obligations.reduction_trees : Prop :=
  (∀ (s : State) (f : XForm) (o : Opnd), Ready s (shapeLane 0x11 f 64) f noExtra o → o.lanesPoisoned (lanesOf o.i.mask) = false →
    exec (.redux f) s = .next (o.after s f.len
      (some fun _ => BitVec.ofNat 64 ((treeNode o.treeOp o.maskVals o.i.w.widthLog 0).1.getD 0))
      (treeNode o.treeOp o.maskVals o.i.w.widthLog 0).2)) ∧
  (∀ (s : State) (f : XForm) (o : Opnd), Ready s (shapeLane 0x12 f 64) f noExtra o → o.lanesPoisoned (lanesOf o.i.mask) = false →
    exec (.scan f) s = .next (o.after s f.len (some fun l => BitVec.ofNat 64 ((o.scanAt l).1.getD 0))
      (orFlags ((lanesOf o.i.mask).map fun l => (o.scanAt l).2)))) ∧
  (∀ (op : Nat → Nat → Nat × Flags5) (v : Nat → Option Nat) (j lo : Nat),
    (treeNode op v j lo).1.isSome = true ↔ ∃ l, lo ≤ l ∧ l < lo + 2 ^ j ∧ (v l).isSome = true)

/-- Where the instruction issues and is ready: under a non-empty mask XSET and XWIN answer a next state in which the named index register has the value of R154 (255 where out of range, the window kept) or the window and value of R155; RDID completes with the logical identity that IMM8 selects in every lane; RDSR completes with the status register's value once no ACCST of the warp has flags to set for FLAGS; WRSR, with a value that the register takes, answers a next state in which MODE, FLAGS, SRSEQ or the workgroup's INFLT-LIMIT has the written, ORed or cleared value, and with any other value it raises 0x027. (R80, R154, R155, R162, R163, R164, R165, R166, R168, R169) -/
def Obligations.status_and_index_registers : Prop :=
  (∀ (s : State) (f : XForm) (o : Opnd), Ready s (shapeLane 0x14 f 64) f noExtra o → o.i.mask ≠ 0 →
    ∃ (t : State) (w : Warp), exec (.xset f) s = .next t ∧ t.warpAt o.i.w.key = some w ∧
      let x := o.i.w.xReg f.d.toNat
      let a := o.rd f.a warpLane
      let n : Int := match f.fld 9 8 with
        | 0 => a.toNat
        | 1 => f.fld 7 0
        | 2 => x.val + a.toInt
        | _ => x.val + sval 8 (f.fld 7 0)
      w.xReg f.d.toNat = { x with val := if 0 ≤ n ∧ n ≤ 255 then n.toNat else 255 }) ∧
  (∀ (s : State) (f : XForm) (o : Opnd), Ready s (shapeLane 0x15 f 64) f noExtra o → o.i.mask ≠ 0 →
    ∃ (t : State) (w : Warp), exec (.xwin f) s = .next t ∧ t.warpAt o.i.w.key = some w ∧
      w.xReg f.d.toNat = ⟨f.fld 7 0, f.fld 7 0, f.fld 15 8⟩) ∧
  (∀ (s : State) (f : IForm) (o : Opnd), Ready s (baseShape 0x26 f.toX) f.toX (rdidCheck f.imm.toNat) o →
    exec (.rdid f) s = .next (o.after s 4 (some fun l => BitVec.ofNat 64 (rdidVal s o.i f.imm.toNat l)) 0)) ∧
  (∀ (s : State) (f : XForm) (o : Opnd), Ready s (shapeSys 0x02 f) f noExtra o → (f.a = 1 → s.flagsDue o.i.w = false) →
    exec (.rdsr f) s = .next (o.after s f.len (some fun _ => (statusReg s o.i f.a.toNat).setWidth 64) 0)) ∧
  (∀ (s : State) (f : XForm) (o : Opnd), Ready s (shapeSys 0x03 f) f (wrsrCheck f) o →
    (f.d.toNat = 1 → s.flagsDue o.i.w = false) →
    let old := statusReg s o.i f.d.toNat
    let a := o.rd f.a warpLane
    let v : Word := match f.fld 1 0 with
      | 0 => a
      | 1 => old ||| a
      | _ => old &&& ~~~a
    (statusValueOk f.d.toNat v = false → exec (.wrsr f) s = raise s o.i 0x027) ∧
    (statusValueOk f.d.toNat v = true → ∃ (t : State) (w : Warp), exec (.wrsr f) s = .next t ∧ t.warpAt o.i.w.key = some w ∧
      (f.d = 0 → w.mode = v) ∧ (f.d = 1 → w.flags = v) ∧ (f.d = 2 → w.srseq = v) ∧
      (f.d = 4 → ∃ g, t.wgAt o.i.w.wg = some g ∧ g.infltLimit = v)))

/-- For every instruction with a 32- or 64-bit register result that completes, a scalar execution having no v destination (R43): right after its step, by the model's choice (log 26), the destination v register (direct or by an index register) holds each mask lane's value, the destination s register the one value, a 64-bit value in the pair; with ZM the other active lanes of a v destination hold zero; the lanes of the destination that are neither in the mask nor zeroed by ZM keep their values, and so does every other v entry and s register of the warp (the next register is written by 64-bit results alone), as do its mask registers, index registers, MODE and SRSEQ; with NW, under an empty mask, and with zero as destination no v or s register changes. (R36, R42, R43, R134, R135, R153) -/
def Obligations.results_land_in_registers : Prop :=
  ∀ (s : State) (o : Opnd) (len : Nat) (v : Nat → DWord) (fl : Flags5), s.issuing = some o.i →
    (o.sh.d.width = 32 ∨ o.sh.d.width = 64) →
    (o.scalar = true → o.vNum o.f.d = none) →
    ∃ w, (o.after s len (some v) fl).warpAt o.i.w.key = some w ∧ o.Landed v w ∧ o.Zeroed w ∧ o.Spared w ∧
      w.m = o.i.w.m ∧ w.x = o.i.w.x ∧ w.mode = o.i.w.mode ∧ w.srseq = o.i.w.srseq

/-- For every instruction that completes with a result and flags: afterwards each thread of the active set stands at the address after the instruction (and after its PFX), every other thread of the warp where it stood; the flight has counted one more instruction, or has ended by LND or at its 24th; FLAGS has the instruction's flags set under a non-empty mask and is otherwise unchanged; the other warps of the device, the workgroups, the grids, the contexts and every byte of memory are as they were. (R47, R123, R124, R165) -/
def Obligations.completed_instruction_advances : Prop :=
  ∀ (s : State) (o : Opnd) (len : Nat) (res : Option (Nat → DWord)) (fl : Flags5), s.issuing = some o.i →
    let t := o.after s len res fl
    FlightGoesOn s t o.i (o.f.lnd = true) ∧
    (∃ w, t.warpAt o.i.w.key = some w ∧ ThreadsGo o.i (fun _ => some (o.i.nxt len)) w ∧
      w.flags = if o.i.mask = 0 then o.i.w.flags else o.i.w.flags ||| fl.setWidth 32) ∧
    (∀ k, k ≠ o.i.w.key → t.warpAt k = s.warpAt k) ∧
    t.wgs = s.wgs ∧ t.grids = s.grids ∧ t.ctxs = s.ctxs ∧ t.pending = s.pending ∧ t.records = s.records ∧ SameMemory s t

namespace Sys2Proof.Machine

/-- The threads that a conditional branch sends to its target (R137). -/
def branchTakers (i : Iss) (neg : Bool) (m : BitVec 3) : LaneMask :=
  i.fl.active &&& (if neg then ~~~(i.w.maskReg m.toNat) else i.w.maskReg m.toNat)

/-- Where a branch sends its threads, and whether they part (R137). -/
def BranchGoes (s : State) (i : Iss) (len : Nat) (lnd : Bool) (taken : LaneMask) (tgt : Pc) (r : Out) : Prop :=
  ∃ (t : State) (w : Warp), r = .next t ∧ t.warpAt i.w.key = some w ∧
    ThreadsGo i (fun l => some (if taken.getLsbD l then tgt else i.nxt len)) w ∧
    FlightGoesOn s t i (lnd = true ∨ (taken ≠ 0 ∧ taken ≠ i.fl.active ∧ tgt ≠ i.nxt len))

/-- What a short branch does (R137). -/
def ShortBranch (s : State) (i : Iss) (lnd : Bool) (taken : LaneMask) (imm : BitVec 8) (r : Out) : Prop :=
  let tgt : Int := i.ipc.toNat + 4 * imm.toInt
  (taken ≠ 0 → (tgt < 0 ∨ 2 ^ 57 ≤ tgt) → r = raise s i 0x043) ∧
  ((taken = 0 ∨ (0 ≤ tgt ∧ tgt < 2 ^ 57)) → BranchGoes s i 4 lnd taken (BitVec.ofInt 57 tgt) r)

/-- What a call does once it is ready (R138). -/
def CallGoes (s : State) (o : Opnd) (len : Nat) (lnd : Bool) (tgt : Int) (r : Out) : Prop :=
  ((tgt < 0 ∨ 2 ^ 57 ≤ tgt) → r = raise s o.i 0x043) ∧
  (0 ≤ tgt → tgt < 2 ^ 57 → ∃ (t : State) (w : Warp), r = .next t ∧ t.warpAt o.i.w.key = some w ∧
    ThreadsGo o.i (fun _ => some (BitVec.ofInt 57 tgt)) w ∧ FlightGoesOn s t o.i (lnd = true) ∧
    o.Landed (fun _ => (o.i.nxt len).setWidth 64) w)

end Sys2Proof.Machine

/-- NOP sends the active threads to the next word. BRA and BRN with a short target send the active threads whose mask bit is 1 (BRN: 0) to the instruction's own address plus four times the signed offset and the others to the next word, and raise 0x043 where a thread would leave the address space; with a long target they go to the literal's address; the flight ends where the threads part. CALL, where it is ready, sends every active thread to its target and leaves the address after it as a 64-bit link in its destination. RET, where it is ready, sends each active thread to its own 64-bit link, raising 0x040 where a link is not a multiple of 4 and else 0x041 where one has bits above 56. (R34, R136, R137, R138, R139) -/
def Obligations.control_transfers : Prop :=
  (∀ (s : State) (i : Iss) (lnd : Bool), s.issuing = some i →
    ∃ (t : State) (w : Warp), exec (.nop lnd) s = .next t ∧ t.warpAt i.w.key = some w ∧
      ThreadsGo i (fun _ => some (i.nxt 4)) w ∧ FlightGoesOn s t i (lnd = true)) ∧
  (∀ (s : State) (i : Iss) (lnd : Bool) (m : BitVec 3) (imm : BitVec 8), s.issuing = some i →
    ShortBranch s i lnd (branchTakers i false m) imm (exec (.bra lnd m imm) s) ∧
    ShortBranch s i lnd (branchTakers i true m) imm (exec (.brn lnd m imm) s)) ∧
  (∀ (s : State) (i : Iss) (lnd : Bool) (m : BitVec 3) (target : BitVec 55), s.issuing = some i →
    BranchGoes s i 12 lnd (branchTakers i false m) (target ++ (0 : BitVec 2)) (exec (.braLong lnd m target) s) ∧
    BranchGoes s i 12 lnd (branchTakers i true m) (target ++ (0 : BitVec 2)) (exec (.brnLong lnd m target) s)) ∧
  (∀ (s : State) (o : Opnd) (lnd : Bool) (d : BitVec 7) (imm : BitVec 8),
    let x := (⟨lnd, d, 0, imm, false, none⟩ : IForm).toX
    Ready s (baseShape 0x23 x) x noExtra o →
    CallGoes s o 4 lnd (o.i.ipc.toNat + 4 * imm.toInt) (exec (.call lnd d imm) s)) ∧
  (∀ (s : State) (o : Opnd) (lnd : Bool) (d : BitVec 7) (target : BitVec 55),
    let x := (⟨lnd, d, 0, 0, false, some (targetLit target)⟩ : IForm).toX
    Ready s (baseShape 0x23 x) x noExtra o →
    CallGoes s o 12 lnd (4 * target.toNat : Nat) (exec (.callLong lnd d target) s)) ∧
  (∀ (s : State) (o : Opnd) (lnd : Bool) (a : BitVec 7),
    let x := (⟨lnd, 0, a, 0, false, false⟩ : RForm).toX
    let bad (p : Nat → Bool) : Prop := ∃ l < 64, o.i.fl.active.getLsbD l = true ∧ p (o.rd64 x.a l).toNat = true
    Ready s (baseShape 0x24 x) x noExtra o →
    (bad (fun n => n % 4 != 0) → exec (.ret lnd a) s = raise s o.i 0x040) ∧
    (¬ bad (fun n => n % 4 != 0) → bad (fun n => 2 ^ 57 ≤ n) → exec (.ret lnd a) s = raise s o.i 0x041) ∧
    (¬ bad (fun n => n % 4 != 0) → ¬ bad (fun n => 2 ^ 57 ≤ n) →
      ∃ (t : State) (w : Warp), exec (.ret lnd a) s = .next t ∧ t.warpAt o.i.w.key = some w ∧
        ThreadsGo o.i (fun l => some ((o.rd64 x.a l).setWidth 57)) w))

/-- EXIT takes the active threads out of the warp's PC table and ends the flight. WSYNC completes as a NOP where the warp has one set, and otherwise blocks its set and ends the flight, unless every set is then blocked in WSYNC. TFENCE leaves the state alone while an ACCST of the warp has flags to set; then it raises 0x0A0 plus the lowest flag that MODE enables, or completes as a NOP. PFX, with none in force, leaves its fields in force for the flight's next instruction and changes nothing else; with one in force it raises 0x003. A word that is no assigned instruction raises its cause. That a TFENCE which waits is a next state equal to the present one is the model's choice (log 27). (R46, R47, R48, R51, R52, R140, R141, R404) -/
def Obligations.ends_syncs_and_prefixes : Prop :=
  (∀ (s : State) (i : Iss) (lnd : Bool), s.issuing = some i →
    ({ i.w with pcs := dropLanes i.fl.active i.w.pcs } : Warp).wsyncStuck = none →
    ∃ (t : State) (w : Warp), exec (.exit lnd) s = .next t ∧ t.warpAt i.w.key = some w ∧ ThreadsGo i (fun _ => none) w ∧
      t.flights = s.flights.drop 1 ∧ SameMemory s t) ∧
  (∀ (s : State) (i : Iss) (lnd : Bool), s.issuing = some i → i.w.pcs.length = 1 → exec (.wsync lnd) s = exec (.nop lnd) s) ∧
  (∀ (s : State) (i : Iss) (lnd : Bool), s.issuing = some i → i.w.pcs.length ≠ 1 →
    (∃ p ∈ i.w.pcs, p.lanes &&& i.fl.active = 0 ∧ p.blocked ≠ some .wsync) →
    ∃ (t : State) (w : Warp), exec (.wsync lnd) s = .next t ∧ t.warpAt i.w.key = some w ∧ t.flights = s.flights.drop 1 ∧
      w.pcs = i.w.pcs.map fun p => if p.lanes &&& i.fl.active ≠ 0 then { p with blocked := some .wsync } else p) ∧
  (∀ (s : State) (i : Iss) (lnd : Bool), s.issuing = some i →
    (s.flagsDue i.w = true → exec (.tfence lnd) s = .next s) ∧
    (s.flagsDue i.w = false → ∀ n < 5, i.w.flags.getLsbD n = true → i.w.mode.getLsbD (4 + n) = true →
      (∀ j < n, i.w.flags.getLsbD j = false ∨ i.w.mode.getLsbD (4 + j) = false) →
      exec (.tfence lnd) s = raise s i (BitVec.ofNat 9 (0x0A0 + n))) ∧
    (s.flagsDue i.w = false → (∀ j < 5, i.w.flags.getLsbD j = false ∨ i.w.mode.getLsbD (4 + j) = false) →
      exec (.tfence lnd) s = exec (.nop lnd) s)) ∧
  (∀ (s : State) (i : Iss) (p : PForm), s.issuing = some i →
    (i.fl.pfx = none → exec (.pfx p) s = .next { s with flights := { i.fl with pfx := some p } :: s.flights.drop 1 }) ∧
    (i.fl.pfx ≠ none → exec (.pfx p) s = raise s i 0x003)) ∧
  (∀ (s : State) (i : Iss) (c : BitVec 9), s.issuing = some i → exec (.unassignedInstruction c) s = raise s i c)

/-- When a workgroup is unwound to a region with a cause register for a cause that its warp of an index 0 to 23 has raised, then afterwards that register of every warp of the workgroup has the cause in bits [8:0], 0 in bit [9], the raising warp's index in bits [14:10], in bit [15] 1 in the warp that raised the event and 0 in the others, and 0 in bits [31:16]. (R407) -/
def Obligations.cause_word_layout : Prop :=
  ∀ (s : State) (k : WgKey) (r : Region) (outer : List Region) (c : Cause) (warp n : Nat), warp < 24 → r.reg = some n →
    ∀ w ∈ (s.unwind k r outer c warp).warps, w.wg = k →
      (w.sReg n).extractLsb' 0 9 = c ∧ (w.sReg n).getLsbD 9 = false ∧ ((w.sReg n).extractLsb' 10 5).toNat = warp ∧
      (w.sReg n).getLsbD 15 = decide (w.num = warp) ∧ (w.sReg n).extractLsb' 16 16 = 0

/-- A containment region catches a cause exactly where the cause is 0x120, or the bit of the cause's class (bits [8:5]) is set in the region's class mask and the cause is neither 0x121, raised only when no region is open, nor 0x122, nor of class CTX (10). (R402) -/
def Obligations.regions_catch_by_class : Prop :=
  ∀ (r : Region) (c : Cause), r.catches c = true ↔
    (c = 0x120 ∨ (r.cls.getLsbD (c.toNat / 32) = true ∧ c ≠ 0x121 ∧ c ≠ 0x122 ∧ c.toNat / 32 ≠ 10))

/-- Where an instruction raises a cause other than 0x122 (which R401 sends to quarantine): if some open region of its workgroup catches it, then afterwards the regions left are those outside the innermost such region, and every warp of the workgroup that has threads has them all in one set, not blocked, at that region's handler, holds nothing, is in no team and has the cause word in the region's cause register, if it names one; no flight of the workgroup is left. If none catches it, the workgroup has ended by fault with no region open, no warp of it has threads, and the hosts are sent one event record of kind 3 with the cause, the context, the workgroup, the warp index, the reported program counter and, for an access, the address. Memory is as before in both cases. (R52, R400, R401, R405, R406, R407, R497) -/
def Obligations.raised_causes_are_delivered : Prop :=
  ∀ (s : State) (i : Iss) (c : Cause) (addr : Nat), c ≠ 0x122 → s.issuing = some i →
    ∃ t, raiseAt s i c addr = .next t ∧ SameMemory s t ∧
      (∀ f ∈ t.flights, ∀ w, t.warpAt ⟨f.core, f.warp⟩ = some w → w.wg ≠ i.w.wg) ∧
      (∀ r outer, catching c i.wg.regions = some (r, outer) →
        (∃ g, t.wgAt i.w.wg = some g ∧ g.regions = outer ∧ g.ended = i.wg.ended) ∧
        ∀ w ∈ t.warps, w.wg = i.w.wg →
          w.hold = none ∧ w.team = none ∧
          (∀ p ∈ w.pcs, w.pcs.length = 1 ∧ p.pc = r.handler ∧ p.blocked = none) ∧
          (∀ n, r.reg = some n → w.sReg n = causeWord (w.num = i.w.num) i.w.num c)) ∧
      (catching c i.wg.regions = none →
        (∃ g, t.wgAt i.w.wg = some g ∧ g.regions = [] ∧ g.ended = some (i.wg.endsAs .fault)) ∧
        (∀ w ∈ t.warps, w.wg = i.w.wg → w.pcs = [] ∧ w.hold = none) ∧
        t.evSeq = s.evSeq + 1 ∧
        (∀ p ∈ s.ports, ∀ n, s.ports[n]? = some p → ∀ r, p.ring = some r → r.tail - r.head < 2 ^ r.k →
          r.message n
            ⟨3, c, i.w.wg.ctx, i.w.wg.wgid, 0, i.w.num, i.pc.toNat, addr, 0, i.w.wg.grid, s.time, s.evSeq⟩ ∈ t.hostOut))

/-- Where the instruction issues and is ready: TRAP raises 0x160 plus its immediate. BRK completes with no effect where the context's debug enable is off; where it is on, the warp is held for BRKANS with its threads at the next word, its flight ended, and an event record of kind 4. CROPEN raises 0x123 for a handler address that is no multiple of 4 or beyond 57 bits, else 0x124 at depth 4, else it completes with its region innermost. CRCLOSE raises 0x125 at depth 0, else it completes with the innermost region gone. LIVE completes with the warp's liveness record replaced. That a BRK under a PFX reports the PFX's address is the model's choice (log 16). (R409, R410, R419, R420, R429) -/
def Obligations.traps_regions_and_liveness : Prop :=
  (∀ (s : State) (f : XForm) (o : Opnd), Ready s (shapeSys 0x01 f) f noExtra o →
    exec (.trap f) s = raise s o.i (BitVec.ofNat 9 (0x160 + f.mod.toNat % 32))) ∧
  (∀ (s : State) (f : XForm) (o : Opnd), Ready s (shapeSys 0x0F f) f noExtra o →
    (s.debugOn o.i.w.wg.ctx = false → exec (.brk f) s = .next (o.after s f.len none 0)) ∧
    (s.debugOn o.i.w.wg.ctx = true → ∃ (t : State) (w : Warp) (h : Hold), exec (.brk f) s = .next t ∧ t.warpAt o.i.w.key = some w ∧
      w.hold = some h ∧ h.kind = .brk ∧ h.aux = f.mod.toNat % 256 ∧ h.pc = o.i.pc ∧
      ThreadsGo o.i (fun _ => some (o.i.nxt f.len)) w ∧ t.flights = s.flights.drop 1 ∧ t.evSeq = s.evSeq + 1)) ∧
  (∀ (s : State) (f : XForm) (o : Opnd), Ready s (shapeSys 0x04 f) f noExtra o →
    let h := (o.rd64 f.a warpLane).toNat
    ((h % 4 ≠ 0 ∨ 2 ^ 57 ≤ h) → exec (.cropen f) s = raise s o.i 0x123) ∧
    (h % 4 = 0 → h < 2 ^ 57 → 4 ≤ o.i.wg.regions.length → exec (.cropen f) s = raise s o.i 0x124) ∧
    (h % 4 = 0 → h < 2 ^ 57 → o.i.wg.regions.length < 4 → ∃ (t : State) (g : Workgroup), exec (.cropen f) s = .next t ∧
      t.wgAt o.i.w.wg = some g ∧ FlightGoesOn s t o.i (f.lnd = true) ∧
      g.regions = ⟨BitVec.ofNat 57 h, f.mod.setWidth 12, match clsOf f.d with | .s n => some n | _ => none⟩ :: o.i.wg.regions)) ∧
  (∀ (s : State) (f : XForm) (o : Opnd), Ready s (shapeSys 0x05 f) f noExtra o →
    (o.i.wg.regions = [] → exec (.crclose f) s = raise s o.i 0x125) ∧
    (∀ r rs, o.i.wg.regions = r :: rs → ∃ (t : State) (g : Workgroup), exec (.crclose f) s = .next t ∧
      t.wgAt o.i.w.wg = some g ∧ g.regions = rs ∧ FlightGoesOn s t o.i (f.lnd = true))) ∧
  (∀ (s : State) (f : XForm) (o : Opnd), Ready s (shapeSys 0x06 f) f noExtra o → o.i.mask ≠ 0 →
    ∃ (t : State) (w : Warp), exec (.live f) s = .next t ∧ t.warpAt o.i.w.key = some w ∧
      w.live = some (if f.ty.getLsbD 0 then .everything
        else .parts (o.rd64 f.a warpLane) (o.rd64 f.b warpLane) (o.rd f.c warpLane) (f.mod.extractLsb' 0 24) (f.mod.extractLsb' 24 8)))

namespace Sys2Proof.Machine

/-- A memory instruction: its encoding, and what it asks for. -/
structure MemAsk where
  ins : Instr
  sh : Shape
  f : XForm
  len : Nat
  /-- offset in units of the access size -/
  ofs : Int
  /-- bytes of each lane's access -/
  size : Nat
  kind : AccKind
  dst : Opnd → Option (BitVec 8)
  data : Opnd → Nat → BitVec 128
  data2 : Opnd → Nat → DWord
  signed : Bool
  ord : Nat
  scope : Nat
  hint : Nat

/-- Bytes of an access type (R37, R184). -/
def typeBytes (ty : BitVec 4) : Nat := if ty.toNat < 2 then 1 else if ty.toNat < 4 then 2 else if ty = 5 then 8 else if ty = 6 then 16 else 4

/-- Register bits of an access type (R184). -/
def typeBits (ty : BitVec 4) : Nat := if ty = 6 then 128 else if ty = 5 then 64 else 32

/-- The signed 8-bit offset in a MOD or IMM8 field (R179). -/
def modOfs (f : XForm) : Int := (BitVec.ofNat 8 (f.fld 7 0)).toInt

/-- Where a load delivers its value; a zero destination too returns it, to l0 (R187). -/
def MemAsk.load (ins : Instr) (sh : Shape) (f : XForm) (len size hint : Nat) (signed : Bool) : MemAsk :=
  ⟨ins, sh, f, len, modOfs f, size, .load, fun o => some o.dstCode, fun _ _ => 0, fun _ _ => 0, signed, 0, 0, hint⟩

/-- A store of a data field of w bits. -/
def MemAsk.store (ins : Instr) (sh : Shape) (f : XForm) (len size hint : Nat) (data : BitVec 8) (w : Nat) : MemAsk :=
  ⟨ins, sh, f, len, modOfs f, size, .store, fun _ => none, fun o l => o.rd128 data l w, fun _ _ => 0, false, 0, 0, hint⟩

/-- An atomic: operand or compare value B, new value C; a zero destination has no register result (R194). -/
def MemAsk.atomic (ins : Instr) (xop : Nat) (f : XForm) (kind : AccKind) : MemAsk :=
  ⟨ins, shapeMem xop f, f, f.len, 0, typeBytes f.ty, kind, fun o => if clsOf o.f.d = .zero then none else some o.dstCode,
    fun o l => o.rd128 f.b l (typeBits f.ty), fun o l => (o.rd128 f.c l (typeBits f.ty)).setWidth 64, false, f.fld 5 4, f.fld 8 6, 0⟩

/-- Whether a type is sign-extended when loaded (R184). -/
def typeSigned (ty : BitVec 4) : Bool := ty = 0 || ty = 2

/-- The global accesses with the permission that each needs and its access kind in reports (R388, R497). -/
def globalAsks (f : XForm) (g : IForm) : List (MemAsk × Perm × Acc) :=
  let n : Nat := if g.lit.isSome then 12 else 4
  [(.load (.ldg g) (baseShape 0x1D g.toX) g.toX n 4 0 false, .read, .load),
   (.store (.stg g) (baseShape 0x1E g.toX) g.toX n 4 0 g.toX.d 32, .write, .store),
   (.load (.ldgw f) (shapeMem 0x00 f) f f.len (typeBytes f.ty) (f.fld 9 8) (typeSigned f.ty), .read, .load),
   (.store (.stgw f) (shapeMem 0x01 f) f f.len (typeBytes f.ty) (f.fld 9 8) f.b (typeBits f.ty), .write, .store),
   (.atomic (.atomg f) 0x07 f (.atom (f.fld 3 0)), .both, .atomic),
   (.atomic (.casg f) 0x08 f .cas, .both, .atomic),
   (.atomic (.fatomg f) 0x09 f (.fatom (f.fld 3 0)), .both, .atomic),
   (⟨.nma f, shapeMem 0x0C f, f, f.len, modOfs f, typeBytes f.ty, .nma (f.fld 11 8), fun _ => none,
      fun o l => o.rd128 f.b l (typeBits f.ty), fun _ _ => 0, false, 0, 0, 0⟩, .both, .nma)]

/-- A lane's global address (R179). -/
def MemAsk.ea (x : MemAsk) (o : Opnd) (l : Nat) : Int := ((o.rd64 x.f.a l).toNat : Int) + x.ofs * x.size

/-- A lane's scratchpad offset (R176). -/
def MemAsk.eo (x : MemAsk) (o : Opnd) (l : Nat) : Int := ((o.rd x.f.a l).toNat : Int) + x.ofs * x.size

/-- The access that a memory instruction asks for, with its lanes and its phase as a commit operation. -/
def MemAsk.access (x : MemAsk) (s : State) (o : Opnd) (glob : Bool) (commit : Option Nat) (lanes : List LaneAcc) : Access :=
  ⟨s.nextId, o.i.w.key, o.i.w.wg, o.i.pc, o.i.mask, o.i.w.phase, x.kind, glob, x.size, x.signed, x.dst o, o.scalar, lanes,
    x.ord, x.scope, x.hint, commit, match commit with | some p => !s.turnAt o.i.w.wg p | none => false, none, [], o.i.w.relLanes &&& o.i.mask != 0⟩

/-- An access may be issued: nothing is full, and a commit operation's turn is not over (R273, R276, R277, R372). -/
def Room (s : State) (o : Opnd) (a : Access) : Prop :=
  s.noRoom a = none ∧ ∀ p, a.commit = some p → s.turnEnded o.i p = false

/-- An instruction of len bytes has completed in its warp. -/
def Goes (s t : State) (i : Iss) (len : Nat) (lnd : Bool) (w : Warp) : Prop :=
  t.warpAt i.w.key = some w ∧ ThreadsGo i (fun _ => some (i.nxt len)) w ∧ FlightGoesOn s t i (lnd = true)

/-- The registers of a warp are as they were. -/
def RegsKept (i : Iss) (w : Warp) : Prop :=
  w.v = i.w.v ∧ w.s = i.w.s ∧ w.m = i.w.m ∧ w.x = i.w.x ∧ w.mode = i.w.mode ∧ w.flags = i.w.flags ∧ w.srseq = i.w.srseq

/-- A memory instruction has issued its access and completed; what it asked for is still to be performed. -/
def IssuesAccess (s : State) (o : Opnd) (len : Nat) (a : Access) (r : Out) : Prop :=
  ∃ t w, r = .next t ∧ Goes s t o.i len o.f.lnd w ∧ RegsKept o.i w ∧ t.pending = s.pending ++ [.access a] ∧
    t.returns = s.returns ∧ t.wgs = s.wgs ∧ t.grids = s.grids ∧ SameMemory s t

end Sys2Proof.Machine

/-- LDG, LDGW, STG, STGW, ATOMG, CASG, FATOMG and NMA: where the instruction is ready, every lane's 64-bit address plus its signed offset times the access size is aligned, lies in the 57-bit space and is translated with the permission the access needs, no lane waits for a walker, and there is room for the access, it completes: one access joins those outstanding, with each lane's address, physical address and data, its kind, size, destination, order, scope and hint, in a deterministic grid as a commit operation where its kind or page asks for it, marked where a releasing FENCE of one of its threads stands before it; the active threads go on to the next word; no register, mask, index or status register, no workgroup and no byte of memory changes. Without room its set is blocked instead. While a lane has to walk and every walker of the reticle serves another page (R389), the instruction waits, a next state equal to the present one by the model's choice (log 27). (R150, R179, R180, R184, R187, R188, R189, R194, R195, R196, R369, R389) -/
def Obligations.global_accesses_issue : Prop :=
  ∀ (f : XForm) (g : IForm), ∀ x ∈ globalAsks f g, ∀ (s : State) (o : Opnd) (pa : Nat → Nat) (leaf : Nat → BitVec 64),
    Ready s x.1.sh x.1.f noExtra o →
    (∀ l ∈ o.lanes, x.1.ea o l % x.1.size = 0 ∧ 0 ≤ x.1.ea o l ∧ x.1.ea o l + x.1.size ≤ 2 ^ 57) →
    ((∃ l ∈ o.lanes, s.walkersBusy o.i.w.core o.i.w.wg.ctx (x.1.ea o l).toNat = true) → exec x.1.ins s = .next s) ∧
    ((∀ l ∈ o.lanes, s.walkersBusy o.i.w.core o.i.w.wg.ctx (x.1.ea o l).toNat = false ∧
      s.translate o.i.w.core o.i.w.wg.ctx (x.1.ea o l).toNat x.2.1 = .ok (pa l) (leaf l)) →
    let shared : Bool := match x.1.kind with
      | .load => false
      | .store => o.lanes.any fun l => (leaf l).getLsbD 5
      | _ => true
    let a := x.1.access s o true (if o.i.gr.rec_.det && shared then some o.i.w.phase else none)
      (o.lanes.map fun l => ⟨l, (x.1.ea o l).toNat, pa l, 0, x.1.data o l, x.1.data2 o l, keyOf o.i.w.wg.ctx (leaf l)⟩)
    (Room s o a → IssuesAccess s o x.1.len a (exec x.1.ins s)) ∧
    (∀ why, (∀ p, a.commit = some p → s.turnEnded o.i p = false) → s.noRoom a = some why →
      ∃ t w, exec x.1.ins s = .next t ∧ t.warpAt o.i.w.key = some w ∧ t.flights = s.flights.drop 1 ∧ t.pending = s.pending ∧
        w.pcs = o.i.w.pcs.map fun p => if p.lanes &&& o.i.fl.active ≠ 0 then { p with blocked := some why } else p))

namespace Sys2Proof.Machine

/-- The gang index that each lane names (R177): by a member field, or the own one. -/
def memberOf (field : Option (BitVec 8)) (o : Opnd) (l : Nat) : Nat :=
  match field with
  | some c => (o.rd c l).toNat
  | none => o.i.w.wg.wgid % o.i.gr.rec_.gang

/-- The scratchpad accesses with their member fields. -/
def scratchAsks (f : XForm) (g : IForm) : List (MemAsk × Option (BitVec 8)) :=
  let n : Nat := if g.lit.isSome then 12 else 4
  [(.load (.lds g) (baseShape 0x1F g.toX) g.toX n 4 0 false, none),
   (.store (.sts g) (baseShape 0x20 g.toX) g.toX n 4 0 g.toX.d 32, none),
   (.load (.ldsw f) (shapeMem 0x02 f) f f.len (typeBytes f.ty) 0 (typeSigned f.ty), none),
   (.store (.stsw f) (shapeMem 0x03 f) f f.len (typeBytes f.ty) 0 f.b (typeBits f.ty), none),
   (.load (.ldl f) (shapeMem 0x04 f) f f.len (typeBytes f.ty) 0 (typeSigned f.ty), some f.b),
   (.store (.stl f) (shapeMem 0x05 f) f f.len (typeBytes f.ty) 0 f.c (typeBits f.ty), some f.b),
   (.atomic (.atoms f) 0x0A f (.atom (f.fld 3 0)), if f.bit 9 then some f.e else none),
   (.atomic (.cass f) 0x0B f .cas, if f.bit 9 then some f.e else none)]

/-- Bytes of one number at an address, seen one by one. -/
def numByte (v : Nat) (j : Nat) : Byte := BitVec.ofNat 8 (v / 256 ^ j)

end Sys2Proof.Machine

/-- LDS, LDSW, STS, STSW, LDL, STL, ATOMS and CASS: where the instruction is ready, every lane's member index (its own workgroup's for a direct access) is below the gang size and names a member that has not retired, every offset is aligned and inside SCRATCH, and there is room, it completes: the access joins those outstanding, each lane's part naming its member's workgroup and offset; or, by the model's choice (log 9), a direct access of a warp with nothing outstanding is performed as it issues: a load's values are on their way and no scratchpad changes, a store leaves each lane's data at its offset (where lanes overlap the highest one's), every other byte of the scratchpad as it was. The active threads go on, registers other than a later destination and every byte of global memory are as before. (R150, R176, R177, R184, R187, R189, R194, R195, R263) -/
def Obligations.scratchpad_accesses_issue : Prop :=
  ∀ (f : XForm) (g : IForm), ∀ x ∈ scratchAsks f g, ∀ (s : State) (o : Opnd), Ready s x.1.sh x.1.f noExtra o →
    let own := o.i.w.wg.wgid % o.i.gr.rec_.gang
    let target (l : Nat) : Nat := o.i.w.wg.wgid / o.i.gr.rec_.gang * o.i.gr.rec_.gang + memberOf x.2 o l
    (∀ l ∈ o.lanes, memberOf x.2 o l < o.i.gr.rec_.gang ∧ (∀ r ∈ o.i.gr.retired, r.1 ≠ target l) ∧ x.1.eo o l % x.1.size = 0 ∧
      0 ≤ x.1.eo o l ∧ x.1.eo o l + x.1.size ≤ o.i.gr.rec_.scratch) →
    let shared : Bool := x.2.isSome && x.1.kind != .load && o.lanes.any fun l => memberOf x.2 o l != own
    let a := x.1.access s o false (if o.i.gr.rec_.det && shared then some o.i.w.phase else none)
      (o.lanes.map fun l => ⟨l, (x.1.eo o l).toNat, (x.1.eo o l).toNat, target l, x.1.data o l, x.1.data2 o l, ⟨0, 0⟩⟩)
    Room s o a →
    ((x.2.isSome = true ∨ (∃ p ∈ s.pending, match p with | .access b => b.warp = o.i.w.key | .fence b => b.warp = o.i.w.key)) →
      IssuesAccess s o x.1.len a (exec x.1.ins s)) ∧
    (x.2 = none → (∀ p ∈ s.pending, match p with | .access b => b.warp ≠ o.i.w.key | .fence b => b.warp ≠ o.i.w.key) →
      ∃ t w, exec x.1.ins s = .next t ∧ Goes s t o.i x.1.len o.f.lnd w ∧ RegsKept o.i w ∧ SameMemory s t ∧
        (x.1.kind = .load → o.i.wg.scratchPoison = [] →
          t.wgs = s.wgs ∧ ∃ vals : SMap (BitVec 128), t.returns = s.returns ++ [⟨a.id, o.i.w.key, o.i.w.wg, o.i.pc, o.dstCode, o.scalar, sizeRegs x.1.size,
            o.i.mask, vals, [], false⟩] ∧ ∀ l ∈ o.lanes, (SMap.get 0 vals l).toNat % 256 ^ x.1.size = readLE o.i.wg.scratch (x.1.eo o l).toNat x.1.size) ∧
        (x.1.kind = .store → t.returns = s.returns ∧ ∃ g', t.wgAt o.i.w.wg = some g' ∧
          (∀ b : Nat, (∀ l ∈ o.lanes, (b : Int) < x.1.eo o l ∨ x.1.eo o l + x.1.size ≤ b) → byteAt g'.scratch b = byteAt o.i.wg.scratch b) ∧
          (∀ l ∈ o.lanes, ∀ j < x.1.size,
            (∀ l' ∈ o.lanes, l < l' → x.1.eo o l + j < x.1.eo o l' ∨ x.1.eo o l' + x.1.size ≤ x.1.eo o l + j) →
            byteAt g'.scratch ((x.1.eo o l).toNat + j) = numByte (x.1.data o l).toNat j)))

namespace Sys2Proof.Machine

/-- The lowest lane of a list that fails a check. -/
def lowestFailing (ls : List Nat) (bad : Nat → Bool) : Option Nat := (ls.filter bad).head?

end Sys2Proof.Machine

/-- For every global load, store, atomic and near-memory atomic that is ready: a lane whose address is not aligned makes it raise 0x090 with the address of the lowest such lane; with all aligned, an address outside the 57-bit space makes it raise 0x095; with both passed and no lane waiting for a walker, a translation that fails holds the warp, with a record of kind 1, by the earliest failing check's cause, and the tables keep what the walks read. For every scratchpad access that is ready: a member index at or beyond the gang size raises 0x092, else a retired member 0x093, else a misaligned offset 0x090, else bytes outside SCRATCH 0x091, each for the lowest failing lane. Nothing else takes place. That an address below zero is reported as its 64-bit two's complement is the model's choice (log 63). (R176, R177, R179, R180, R181, R391, R401) -/
def Obligations.accesses_are_checked_in_order : Prop :=
  (∀ (f : XForm) (g : IForm), ∀ x ∈ globalAsks f g, ∀ (s : State) (o : Opnd), Ready s x.1.sh x.1.f noExtra o →
    let align := lowestFailing o.lanes fun l => decide (x.1.ea o l % x.1.size ≠ 0)
    let range := lowestFailing o.lanes fun l => decide (x.1.ea o l < 0 ∨ 2 ^ 57 < x.1.ea o l + x.1.size)
    let addr (l : Nat) : Nat := (x.1.ea o l % 2 ^ 64).toNat
    (∀ l, align = some l → exec x.1.ins s = raiseAt s o.i 0x090 (addr l)) ∧
    (∀ l, align = none → range = some l → exec x.1.ins s = raiseAt s o.i 0x095 (addr l)) ∧
    (align = none → range = none → ∀ c va,
      let vas := o.lanes.map fun l => (x.1.ea o l).toNat
      (∀ v ∈ vas, s.walkersBusy o.i.w.core o.i.w.wg.ctx v = false) → s.translateAll o.i.w.core o.i.w.wg.ctx x.2.1 vas = .fail c va →
      exec x.1.ins s = .next ((s.fillAll o.i.w.core o.i.w.wg.ctx vas).hold o.i 1 ⟨.fault, c, va, x.2.2.code, 0, o.i.pc⟩))) ∧
  (∀ (f : XForm) (g : IForm), ∀ x ∈ scratchAsks f g, ∀ (s : State) (o : Opnd), Ready s x.1.sh x.1.f noExtra o →
    let target (l : Nat) : Nat := o.i.w.wg.wgid / o.i.gr.rec_.gang * o.i.gr.rec_.gang + memberOf x.2 o l
    let member := lowestFailing o.lanes fun l => decide (o.i.gr.rec_.gang ≤ memberOf x.2 o l)
    let retired := lowestFailing o.lanes fun l => o.i.gr.retired.any fun r => r.1 == target l
    let align := lowestFailing o.lanes fun l => decide (x.1.eo o l % x.1.size ≠ 0)
    let range := lowestFailing o.lanes fun l => decide (x.1.eo o l < 0 ∨ (o.i.gr.rec_.scratch : Int) < x.1.eo o l + x.1.size)
    let addr (l : Nat) : Nat := (x.1.eo o l % 2 ^ 64).toNat
    (∀ l, member = some l → exec x.1.ins s = raiseAt s o.i 0x092 (addr l)) ∧
    (∀ l, member = none → retired = some l → exec x.1.ins s = raiseAt s o.i 0x093 (addr l)) ∧
    (∀ l, member = none → retired = none → align = some l → exec x.1.ins s = raiseAt s o.i 0x090 (addr l)) ∧
    (∀ l, member = none → retired = none → align = none → range = some l → exec x.1.ins s = raiseAt s o.i 0x091 (addr l)))

namespace Sys2Proof.Machine

/-- A number below 2^w read as signed. -/
def signedOf (w n : Nat) : Int := if n < 2 ^ (w - 1) then n else (n : Int) - 2 ^ w

/-- The new value of an integer atomic of w bits, from the old value o and the operand v (R194). -/
def atomicRule (opc w o v : Nat) : Nat :=
  match opc with
  | 0 => (o + v) % 2 ^ w
  | 1 => if signedOf w v < signedOf w o then v else o
  | 2 => if signedOf w o < signedOf w v then v else o
  | 3 => if v < o then v else o
  | 4 => if o < v then v else o
  | 5 => o &&& v
  | 6 => o ||| v
  | 7 => o ^^^ v
  | 8 => v
  | 9 => if v ≤ o then 0 else o + 1
  | _ => if o = 0 ∨ v < o then v else o - 1

/-- Two 16-bit sums, round to nearest even, subnormals kept (R196). -/
def twoSums (f : Fmt) (o v : Nat) : Nat :=
  (FOp.add.elem false 1 f (o % 65536) (v % 65536)).code + 65536 * (FOp.add.elem false 1 f (o / 65536) (v / 65536)).code

/-- What the n bytes at an address are after one lane of an access (R184, R194, R195, R196, R369). -/
def laneRule (k : AccKind) (n o : Nat) (d : BitVec 128) (d2 : DWord) : Nat :=
  let v := d.toNat % 256 ^ n
  let fl (opc : Nat) : Nat := match opc with
    | 0 => (FOp.add.elem false 1 fp32 o v).code
    | 1 => (FOp.min.elem false 1 fp32 o v).code
    | 2 => (FOp.max.elem false 1 fp32 o v).code
    | 3 => twoSums bf16 o v
    | _ => twoSums fp16 o v
  match k with
  | .load | .watch _ | .bar _ => o
  | .store => v
  | .atom opc => atomicRule opc (8 * n) o v
  | .cas => if o = v then d2.toNat % 256 ^ n else o
  | .fatom opc => fl opc
  | .nma opc => if opc < 8 then atomicRule opc (8 * n) o v else fl (opc - 8)

/-- Two byte ranges that do not overlap. -/
def Apart (a n b m : Nat) : Prop := a + n ≤ b ∨ b + m ≤ a

/-- A lane of an access whose bytes and lane number no other of its lanes has. -/
def Alone (a : Access) (x : LaneAcc) : Prop :=
  ∃ pre post, a.lanes = pre ++ x :: post ∧ ∀ y ∈ pre ++ post, y.lane ≠ x.lane ∧
    (Apart y.pa a.size x.pa a.size ∨ (a.glob = false ∧ y.target ≠ x.target))

/-- With an access out of what is outstanding, no operation of another path meets it on a lane's bytes, and none has without order since
(R192, R269). -/
def Unraced (s : State) (k : Rival) (a : Access) (x : LaneAcc) : Prop :=
  ({ s.settle with pending := s.settle.pending.filter fun p => match p with
    | .access b => b.id ≠ a.id
    | .fence _ => true } : State).raced k a.id (a.spaceOf x) x.pa a.size = false

/-- No snapshot view keeps bytes in the frame of an address. -/
def NoKeptFrame (s : State) (b : Nat) : Prop := ∀ v ∈ s.views, b / 65536 ∉ v.pool

/-- Ranges of n bytes, each with the key slot of its page: their lines have been written under no other key, and ranges of one line have
one key (R396). -/
def OneKey (s : State) (n : Nat) (l : List (Nat × KeyNo)) : Prop :=
  ∀ e ∈ l, s.keysAgree e.2 e.1 n = true ∧ ∀ d ∈ l, ∀ k ∈ linesOf e.1 n, k ∈ linesOf d.1 n → s.keyIn e.2 = s.keyIn d.2

/-- So are the lines of an access's global lanes. -/
def Keyed (s : State) (a : Access) : Prop := a.glob = true → OneKey s a.size (a.lanes.map fun x => (x.pa, x.key))

/-- A size that an access can have, with its address aligned (R180). -/
def Aligned (a : Access) (x : LaneAcc) : Prop := a.size ∈ [1, 2, 4, 8, 16] ∧ x.pa % a.size = 0

end Sys2Proof.Machine

/-- ACCESS_PERFORMED, for an LSU access that nothing holds and that reads no poison, answers a next state: the access is outstanding no more; a global access changes no byte of memory outside its lanes' bytes (and outside the frames kept for snapshot views); where no line was written under another key than its page's (log 34), no other lane overlaps a lane's bytes, and for an atomic no operation of another path meets it on them, under way or performed with no order since (what two such leave is a free value, logs 2 and 37), they then hold the new value that the load, store, compare and swap or atomic gives for the old one, and the returned value, widened for its type, is the old one, for a load whose line has no copy in the core's L1 or is read past it. A scratchpad access does the same to the scratchpad of the member each lane names, an atomic under the same condition. (R184, R185, R189, R192, R194, R195, R196, R263, R371) -/
def Obligations.a_performed_access_leaves : Prop :=
  ∀ (s : State) (a : Access), s.settle.accessById a.id = some a → (∀ opc, a.kind ≠ .nma opc) →
    (∀ n, a.kind ≠ .watch n) → (∀ op, a.kind ≠ .bar op) → (∀ opc, a.kind = .fatom opc → a.size = 4 ∧ ∀ x ∈ a.lanes, x.data.toNat < 2 ^ 32) → s.settle.mayPerform a = true → (∀ x ∈ a.lanes, s.settle.lanePoison a x = false) →
    ∃ t, exec (.accessPerformed a.id) s = .next t ∧ t.accessById a.id = none ∧
      (Keyed s a → ∀ b, (a.glob = false ∨ ∀ x ∈ a.lanes, b < x.pa ∨ x.pa + a.size ≤ b) → NoKeptFrame s b → byteAt t.mem b = byteAt s.mem b) ∧
      (a.glob = true → Keyed s a → ∀ x, Alone a x → Aligned a x → NoKeptFrame s x.pa → (a.kind.atomic = true → Unraced s .lsu a x) →
        readLE t.mem x.pa a.size = laneRule a.kind a.size (readLE s.mem x.pa a.size) x.data x.data2) ∧
      (a.glob = false → ∀ x, Alone a x → ∀ g, s.wgAt { a.wg with wgid := x.target } = some g →
        ∃ g', t.wgAt { a.wg with wgid := x.target } = some g' ∧
          ((a.kind.atomic = true → Unraced s .lsu a x) →
            readLE g'.scratch x.pa a.size = laneRule a.kind a.size (readLE g.scratch x.pa a.size) x.data x.data2) ∧
          ∀ b, (∀ y ∈ a.lanes, b < y.pa ∨ y.pa + a.size ≤ b) → byteAt g'.scratch b = byteAt g.scratch b) ∧
      (∀ d, a.dst = some d → ∃ r ∈ t.returns, r.id = a.id ∧ r.warp = a.warp ∧ r.dst = d ∧ r.regs = sizeRegs a.size ∧ r.poisoned = [] ∧
        ∀ x, Keyed s a → Alone a x → Aligned a x → a.kind ≠ .store → (a.kind.atomic = true → Unraced s .lsu a x) →
          (a.glob = true → NoKeptFrame s x.pa ∧ (a.kind = .load → a.hint = 2 ∨ ∀ y ∈ a.lanes, s.l1Copy a.warp.core y.key (y.pa / 128) = none)) →
          ∀ old, (a.glob = true → old = readLE s.mem x.pa a.size) →
            (a.glob = false → ∃ g, s.wgAt { a.wg with wgid := x.target } = some g ∧ old = readLE g.scratch x.pa a.size) →
            (SMap.get 0 r.vals x.lane).toNat =
              if a.signed = true ∧ a.size < 4 ∧ 2 ^ (8 * a.size - 1) ≤ old then 2 ^ 32 - 2 ^ (8 * a.size) + old else old)

namespace Sys2Proof.Machine

/-- A byte of a table of LDK (R191). -/
def tableByte (s : State) (i : Iss) (tbl b : Nat) : Byte :=
  match tbl with
  | 0 => (match s.ctxAt i.w.wg.ctx with | some c => (discTable c).getD b 0 | none => 0)
  | 1 => numByte (i.kReg (b / 8)).toNat (b % 8)
  | _ => numByte (i.slot (b / 4)).toNat (b % 4)

/-- Bytes of a table of LDK (R191). -/
def tableBytesOf (tbl : Nat) : Nat := if tbl = 0 then 256 else if tbl = 1 then 128 else 32

end Sys2Proof.Machine

/-- LOAD_RETURN for data on its way to a resident warp: where it is not poisoned, each returned value of a thread still there stands in its 1, 2 or 4 registers of the v destination, lowest bytes first, every other register, lane and byte of memory as before, and the data is no longer on its way; where it is poisoned and the workgroup has not ended by a fault or a kill (it may still be retiring), cause 0x120 or 0x121 is delivered at the load's program counter, with the address of the lowest lane that read it. LDK, where it is ready and every lane's bytes lie aligned in its table, completes with the table's bytes on their way: for the constants byte b of the table is byte b mod 8 of constant b ÷ 8, for the slots byte b mod 4 of slot b ÷ 4. (R149, R184, R191, R413) -/
def Obligations.loaded_values_arrive : Prop :=
  (∀ (s : State) (r : LoadRet) (w : Warp), (s.returns.find? fun x => x.id = r.id) = some r → s.warpAt r.warp = some w →
    r.poisoned = [] → ∃ t w', exec (.loadReturn r.id) s = .next t ∧ t.warpAt r.warp = some w' ∧ SameMemory s t ∧
      (∀ x ∈ t.returns, x.id ≠ r.id) ∧ w'.m = w.m ∧ w'.x = w.x ∧ w'.pcs = w.pcs ∧
      ∀ n, clsOf r.dst = .v n → r.scalar = false → r.regs ∈ [1, 2, 4] → (∀ e ∈ r.vals, e.1 < 64) →
        w'.s = w.s ∧
        (∀ l x, (r.vals.filter fun e => e.1 = l) = [(l, x)] → w.liveLanes.getLsbD l = true →
          ∀ j < r.regs, w'.vReg (n + j) l = x.extractLsb' (32 * j) 32) ∧
        (∀ m, ∀ l < 64, (m < n ∨ n + r.regs ≤ m ∨ w.liveLanes.getLsbD l = false ∨ ∀ e ∈ r.vals, e.1 ≠ l) →
          w'.vReg m l = w.vReg m l)) ∧
  (∀ (s : State) (r : LoadRet) (w : Warp) (g : Workgroup), (s.returns.find? fun x => x.id = r.id) = some r →
    s.warpAt r.warp = some w → ∀ lane va rest, r.poisoned = (lane, va) :: rest → s.wgAt r.wg = some g →
    g.ended ≠ some .fault → g.ended ≠ some .kill →
    exec (.loadReturn r.id) s =
      .next (({ s with returns := s.returns.filter fun x => x.id ≠ r.id } : State).deliver w r.pc
        (if g.regions = [] then 0x121 else 0x120) va)) ∧
  (∀ (s : State) (f : XForm) (o : Opnd), Ready s (shapeMem 0x06 f) f noExtra o → f.fld 9 8 < 3 → (s.ctxAt o.i.w.wg.ctx).isSome = true →
    let n := typeBytes f.ty
    let at_ (l : Nat) : Int := ((o.rd f.a l).toNat : Int) + modOfs f * n
    (∀ l ∈ o.lanes, at_ l % n = 0 ∧ 0 ≤ at_ l ∧ at_ l + n ≤ tableBytesOf (f.fld 9 8)) →
    ∃ t w, exec (.ldk f) s = .next t ∧ Goes s t o.i f.len f.lnd w ∧ RegsKept o.i w ∧ SameMemory s t ∧ t.wgs = s.wgs ∧
      ∃ r : LoadRet, t.returns = s.returns ++ [r] ∧ r.warp = o.i.w.key ∧ r.dst = o.dstCode ∧ r.regs = sizeRegs n ∧ r.poisoned = [] ∧
        ∀ l ∈ o.lanes, ∀ j < n, numByte (SMap.get 0 r.vals l).toNat j = tableByte s o.i (f.fld 9 8) ((at_ l).toNat + j))

namespace Sys2Proof.Machine

/-- The set of the issuing instruction is blocked at it, and its flight has ended (R120, R123). -/
def Blocks (s : State) (i : Iss) (why : Wait) (r : Out) : Prop :=
  ∃ t w, r = .next t ∧ t.warpAt i.w.key = some w ∧ t.flights = s.flights.drop 1 ∧ SameMemory s t ∧ RegsKept i w ∧
    w.pcs = i.w.pcs.map fun p => if p.lanes &&& i.fl.active ≠ 0 then { p with blocked := some why } else p

/-- An instruction without a result has completed, its registers, its workgroup and memory as before. -/
def OnlyGoes (s : State) (i : Iss) (len : Nat) (lnd : Bool) (r : Out) : Prop :=
  ∃ t w, r = .next t ∧ Goes s t i len lnd w ∧ RegsKept i w ∧ SameMemory s t ∧ t.wgs = s.wgs

end Sys2Proof.Machine

/-- NMA_AT_HOME_SLICE, for an access that may reach it and is not yet sent, with nothing in transit on its pinned words and, where it was buffered, within the limit of 256: lanes on pinned lines are applied there and then; the lines of the others leave L2, their bytes are as before and the access is sent with those lanes, or done where there are none. NMA_ACKNOWLEDGEMENT, for a sent access with no one to its words that came to its home slice earlier: every lane is applied and the access is done. Where its lines were written under no other key (log 34), no other lane overlaps it, no operation of another path meets it there, under way or performed with no order since (logs 2 and 37), and it is not poisoned, an applied lane's bytes hold the new value of R369 for the old one; no byte outside the lanes' changes. NMDRAIN goes on where no near-memory atomic of its warp is outstanding; else its set is blocked. (R369, R371, R374) -/
def Obligations.near_memory_atomics_are_performed : Prop :=
  (∀ (s : State) (a : Access) (opc : Nat), s.settle.accessById a.id = some a → a.kind = .nma opc → (8 ≤ opc → a.size = 4) →
    a.sent = none → s.settle.mayPerform a = true →
    let pins (x : LaneAcc) : Bool := s.settle.pinned (x.pa / 128)
    (∀ p ∈ s.settle.pending, match p with
      | .access b => b.sent = none ∨ ∀ y ∈ b.lanes, ∀ x ∈ a.lanes, pins x = true → x.pa / 8 ≠ y.pa / 8
      | .fence _ => True) →
    (a.buffered = true → s.settle.nmaOpen a.warp.core + a.lanes.length ≤ 256) →
    ∃ t, exec (.nmaAtHomeSlice a.id) s = .next t ∧
      (Keyed s a → ∀ b, (∀ x ∈ a.lanes, pins x = true → b < x.pa ∨ x.pa + a.size ≤ b) → NoKeptFrame s b → byteAt t.mem b = byteAt s.mem b) ∧
      (Keyed s a → ∀ x, Alone a x → Aligned a x → NoKeptFrame s x.pa → s.settle.raced .near a.id none x.pa a.size = false → pins x = true → s.poisonedAt x.pa a.size = false →
        readLE t.mem x.pa a.size = laneRule a.kind a.size (readLE s.mem x.pa a.size) x.data x.data2) ∧
      (∀ x ∈ a.lanes, pins x = false → ∀ y ∈ t.l2, y.line ≠ x.pa / 128) ∧
      if a.lanes.all pins then t.accessById a.id = none
      else ∃ n, t.accessById a.id = some { a with sent := some n, lanes := a.lanes.filter fun x => !pins x }) ∧
  (∀ (s : State) (a : Access) (opc n : Nat), s.accessById a.id = some a → a.kind = .nma opc → (8 ≤ opc → a.size = 4) →
    a.sent = some n →
    (∀ p ∈ s.pending, match p with
      | .access b => (∀ m, b.sent = some m → n ≤ m) ∨ ∀ y ∈ b.lanes, ∀ x ∈ a.lanes, x.pa / 8 ≠ y.pa / 8
      | .fence _ => True) →
    ∃ t, exec (.nmaAcknowledgement a.id) s = .next t ∧ t.accessById a.id = none ∧
      (Keyed s a → ∀ b, (∀ x ∈ a.lanes, b < x.pa ∨ x.pa + a.size ≤ b) → NoKeptFrame s b → byteAt t.mem b = byteAt s.mem b) ∧
      (Keyed s a → ∀ x, Alone a x → Aligned a x → NoKeptFrame s x.pa → s.raced .near a.id none x.pa a.size = false → s.poisonedAt x.pa a.size = false →
        readLE t.mem x.pa a.size = laneRule a.kind a.size (readLE s.mem x.pa a.size) x.data x.data2)) ∧
  (∀ (s : State) (i : Iss) (f : XForm), s.issuing = some i →
    ((∀ p ∈ s.pending, match p with | .access a => a.warp = i.w.key → ∀ opc, a.kind ≠ .nma opc | .fence _ => True) →
      OnlyGoes s i f.len f.lnd (exec (.nmdrain f) s)) ∧
    ((∃ p ∈ s.pending, match p with | .access a => a.warp = i.w.key ∧ ∃ opc, a.kind = .nma opc | .fence _ => False) →
      Blocks s i .nearMemory (exec (.nmdrain f) s)))

/-- PREF, where it is ready, completes and changes no register and no byte. LOCKL and UNLOCKL, where they are ready, every lane's address is translated with R or W without waiting for a walker and no lane's line is pending, complete with 1 in each lane whose line its workgroup has pinned afterwards (LOCKL), or had pinned until then and no lower lane has named (UNLOCKL), else 0; LOCKL with one lane pins its line unless the workgroup already has 64 or 12 ways of the line's set are pinned; UNLOCKL leaves none of the lanes' lines pinned by it and the other pins as they were. FLUSHL, where besides, for kinds 1 and 2, no lane's line is pending, completes; kind 0 or 2 drops the core's L1 copies of the lines. Memory keeps every byte. (R202, R375, R378) -/
def Obligations.line_operations : Prop :=
  (∀ (s : State) (f : XForm) (o : Opnd), Ready s (shapeMem 0x10 f) f noExtra o → OnlyGoes s o.i f.len f.lnd (exec (.pref f) s)) ∧
  (∀ (s : State) (f : XForm) (o : Opnd) (pa : Nat → Nat) (leaf : Nat → BitVec 64),
    let good : Prop := ∀ l ∈ o.lanes, (o.rd64 f.a l).toNat + 1 ≤ 2 ^ 57 ∧
      s.walkersBusy o.i.w.core o.i.w.wg.ctx (o.rd64 f.a l).toNat = false ∧
      s.translate o.i.w.core o.i.w.wg.ctx (o.rd64 f.a l).toNat .either = .ok (pa l) (leaf l)
    let has (g : Workgroup) (l : Nat) : Prop := ∃ x ∈ g.locks, x.1 = pa l / 128
    let clear : Prop := ∀ l ∈ o.lanes, s.paPending (pa l) 1 = false
    (Ready s (shapeMem 0x11 f) f noExtra o → good → clear →
      ∃ t w g', exec (.lockl f) s = .next t ∧ Goes s t o.i f.len f.lnd w ∧ SameMemory s t ∧ t.wgAt o.i.w.wg = some g' ∧
        (∀ x ∈ o.i.wg.locks, x ∈ g'.locks) ∧ (∀ x ∈ g'.locks, x ∈ o.i.wg.locks ∨ ∃ l ∈ o.lanes, x.1 = pa l / 128) ∧
        (∀ v : Nat → DWord, (∀ l ∈ o.lanes, (has g' l → v l = 1) ∧ (¬ has g' l → v l = 0)) → o.Landed v w) ∧
        (∀ l, o.lanes = [l] → (has g' l ↔ has o.i.wg l ∨
          (o.i.wg.locks.length < 64 ∧ s.pinnedWays (pa l / 128) < 12)))) ∧
    (Ready s (shapeMem 0x12 f) f noExtra o → good → clear →
      ∃ t w g', exec (.unlockl f) s = .next t ∧ Goes s t o.i f.len f.lnd w ∧ SameMemory s t ∧ t.wgAt o.i.w.wg = some g' ∧
        (∀ x, x ∈ g'.locks ↔ x ∈ o.i.wg.locks ∧ ∀ l ∈ o.lanes, x.1 ≠ pa l / 128) ∧
        (∀ v : Nat → DWord, (∀ l ∈ o.lanes,
            ((has o.i.wg l ∧ ∀ k ∈ o.lanes, k < l → pa k / 128 ≠ pa l / 128) → v l = 1) ∧
            (¬ (has o.i.wg l ∧ ∀ k ∈ o.lanes, k < l → pa k / 128 ≠ pa l / 128) → v l = 0)) → o.Landed v w)) ∧
    (Ready s (shapeMem 0x13 f) f noExtra o → good → (f.fld 1 0 ≠ 0 → clear) →
      ∃ t w, exec (.flushl f) s = .next t ∧ Goes s t o.i f.len f.lnd w ∧ RegsKept o.i w ∧ SameMemory s t ∧ t.wgs = s.wgs ∧
        (f.fld 1 0 ≠ 1 → ∀ l ∈ o.lanes, ∀ key, t.l1Copy o.i.w.core key (pa l / 128) = none) ∧
        (f.fld 1 0 = 1 → ∀ l ∈ o.lanes, ∀ y ∈ t.l2, y.line = pa l / 128 → y.dirty = false)))

namespace Sys2Proof.Machine

/-- Whether a word of w bits meets a predicate (R379). -/
def watchMeets (pred w x v : Nat) : Prop :=
  match pred with
  | 0 => x = v
  | 1 => x ≠ v
  | 2 => v ≤ x
  | _ => signedOf w v ≤ signedOf w x

end Sys2Proof.Machine

/-- WATCH, where it is ready and its mask is not empty: with DIS it disarms the slot; else, for a word that is aligned and inside SCRATCH, or aligned, inside the address space, readable and waiting for no walker, and with room for an access, it arms the slot with the word, the predicate and the compared value, not fired, its arming read outstanding; a scratchpad word of a warp with nothing outstanding is read at once, which is the model's choice (log 9). The arming read, when performed, leaves the slot fired exactly where the word's value then meets the predicate (equal, not equal, unsigned or signed at least). WATCH completes, every other slot, every register and every byte of memory as before. PARK goes on where no slot is armed or one has fired; else its set is blocked. (R379, R380, R381) -/
def Obligations.watches_and_parking : Prop :=
  (∀ (s : State) (f : XForm) (o : Opnd), Ready s (shapeMem 0x14 f) f noExtra o → o.i.mask ≠ 0 →
    let n : Nat := if f.ty = 5 then 8 else 4
    let slot := f.fld 9 8
    let done (t : State) (w : Warp) : Prop := exec (.watch f) s = .next t ∧ Goes s t o.i f.len f.lnd w ∧ RegsKept o.i w ∧
      SameMemory s t ∧ t.wgs = s.wgs ∧ ∀ k, k ≠ slot → w.watch.find k = o.i.w.watch.find k
    let armed (x : Watch) (glob : Bool) (addr : Nat) : Prop :=
      x.glob = glob ∧ x.addr = addr ∧ x.wide = decide (f.ty = 5) ∧ x.pred = f.fld 1 0 ∧ x.value = o.rd64 f.b warpLane
    let ask (glob : Bool) (va pa target : Nat) (key : KeyNo) : Access :=
      o.newAccess s (.watch slot) glob n none [⟨warpLane, va, pa, target, 0, 0, key⟩]
    let waits (t : State) (x : Watch) (a : Access) : Prop :=
      x.fired = false ∧ x.arming = some a.id ∧ t.pending = s.pending ++ [.access a]
    (f.bit 3 = true → ∃ t w, done t w ∧ w.watch.find slot = none) ∧
    (f.bit 3 = false → f.bit 4 = true →
      let ea := (o.rd64 f.a warpLane).toNat
      ∀ pa leaf, ea % n = 0 → ea + n ≤ 2 ^ 57 → s.walkersBusy o.i.w.core o.i.w.wg.ctx ea = false →
        s.translate o.i.w.core o.i.w.wg.ctx ea .read = .ok pa leaf → s.noRoom (ask true ea pa 0 (keyOf o.i.w.wg.ctx leaf)) = none →
        ∃ t w x, done t w ∧ w.watch.find slot = some x ∧ armed x true ea ∧ x.pa = pa ∧ waits t x (ask true ea pa 0 (keyOf o.i.w.wg.ctx leaf))) ∧
    (f.bit 3 = false → f.bit 4 = false →
      let eo := (o.rd f.a warpLane).toNat
      let a := ask false eo eo o.i.w.wg.wgid ⟨0, 0⟩
      eo % n = 0 → eo + n ≤ o.i.gr.rec_.scratch → s.noRoom a = none →
        ∃ t w x, done t w ∧ w.watch.find slot = some x ∧ armed x false eo ∧
          if ∀ p ∈ s.pending, (match p with | .access b => b.warp | .fence b => b.warp) ≠ o.i.w.key then
            x.arming = none ∧
            (x.fired = true ↔ watchMeets (f.fld 1 0) (8 * n) (readLE o.i.wg.scratch eo n) ((o.rd64 f.b warpLane).toNat % 256 ^ n))
          else waits t x a)) ∧
  (∀ (s : State) (a : Access) (x : LaneAcc) (w : Warp) (slot : Nat) (m : Watch) (g : Workgroup), s.settle.accessById a.id = some a →
    a.kind = .watch slot → a.lanes = [x] → s.settle.mayPerform a = true → s.warpAt a.warp = some w → w.watch.find slot = some m →
    m.arming = some a.id → a.size = (if m.wide then 8 else 4) → s.wgAt { a.wg with wgid := x.target } = some g →
    ∃ t w' m', exec (.accessPerformed a.id) s = .next t ∧ t.accessById a.id = none ∧ SameMemory s t ∧ t.wgs = s.wgs ∧
      t.warpAt a.warp = some w' ∧ w'.watch.find slot = some m' ∧ m' = { m with fired := m'.fired, arming := none } ∧
      (Keyed s a → (m'.fired = true ↔ watchMeets m.pred (8 * a.size) (readLE (if a.glob then s.mem else g.scratch) x.pa a.size)
        (m.value.toNat % 256 ^ a.size))) ∧
      ∀ k, k ≠ slot → w'.watch.find k = w.watch.find k) ∧
  (∀ (s : State) (i : Iss) (f : XForm), s.issuing = some i →
    ((i.w.watch = [] ∨ ∃ e ∈ i.w.watch, e.2.fired = true) → OnlyGoes s i f.len f.lnd (exec (.park f) s)) ∧
    (i.w.watch ≠ [] → (∀ e ∈ i.w.watch, e.2.fired = false) → Blocks s i .park (exec (.park f) s)))

namespace Sys2Proof.Machine

/-- The stream that a descriptor of 32 bytes describes (R198). -/
def streamOf (m : List Host.Cell) (off : Nat) (t : Stream) : Prop :=
  let flags := readLE m (off + 20) 4
  t.base = readLE m off 8 ∧ t.groups = readLE m (off + 8) 4 ∧ t.gstr = signedOf 32 (readLE m (off + 12) 4) ∧
    t.lstr = signedOf 32 (readLE m (off + 16) 4) ∧ t.store = flags.testBit 0 ∧ t.wide = flags.testBit 2

/-- A descriptor that QCFG accepts for a warp of a width (R199). -/
def StreamLegal (m : List Host.Cell) (off width : Nat) : Prop :=
  let flags := readLE m (off + 20) 4
  let e : Nat := if flags.testBit 2 then 8 else 4
  let base : Int := readLE m off 8
  let gstr := signedOf 32 (readLE m (off + 12) 4)
  let lstr := signedOf 32 (readLE m (off + 16) 4)
  flags < 8 ∧ flags.testBit 1 = false ∧ readLE m (off + 24) 8 = 0 ∧ readLE m (off + 8) 4 ≠ 0 ∧
    base % e = 0 ∧ gstr % e = 0 ∧ lstr % e = 0 ∧
    ∀ g < readLE m (off + 8) 4, ∀ l < width, 0 ≤ base + g * gstr + l * lstr ∧ base + g * gstr + l * lstr + e ≤ 2 ^ 57

/-- Bytes of a stream's element (R197). -/
def Stream.elemBytes (t : Stream) : Nat := if t.wide then 8 else 4

/-- The addresses of a group's elements, lane by lane (R197, R198). -/
def groupVas (t : Stream) (index width : Nat) : List Nat :=
  (List.range width).map fun l => ((t.base : Int) + index * t.gstr + l * t.lstr).toNat

end Sys2Proof.Machine

/-- QCFG, where it is ready, no scratchpad store or atomic of the warp and no access or fence that its descriptor read would wait for is outstanding and its mask is not empty: a misaligned or outlying descriptor raises 0x090 or 0x091; a descriptor with a reserved bit, no group, a base or stride that is no multiple of the element size or any element outside the address space raises 0x0E0; else it completes with the queue register bound to the stream of the descriptor's fields, other bindings, registers and memory as before. QDRAIN goes on at an unbound queue, and at an idle one releases the binding; at a store stream with groups still to be written, or a load stream with a group being read, it blocks; a fault on a pushed group holds the warp, and that a fault on a group read ahead does not is the model's choice (log 48). A turn of the stream whose turn it is, waiting for no walker: of a load stream it reads the next group, lane l from element (group, l), or takes it with the fault of its translation; of a store stream it takes the oldest pushed group to be written at its elements' addresses, or leaves it with its fault, which by the model's choice (log 12) is reported where the warp has ended. A group read then arrives in queue storage. A written store group that no LSU atomic meets, under way or performed with no order since (log 37), leaves each element at its address. (R197, R198, R199, R200, R201, R288) -/
def Obligations.queue_streams : Prop :=
  (∀ (s : State) (f : XForm) (o : Opnd), Ready s (shapeMem 0x0E f) f noExtra o → o.i.mask ≠ 0 → 1 ≤ o.i.w.width →
    let off := (o.rd f.a warpLane).toNat
    s.scratchDue o.i.w.key = false →
    s.waitsFor (o.newAccess s .load false 4 none [⟨warpLane, off, off, o.i.w.wg.wgid, 0, 0, ⟨0, 0⟩⟩]) = false →
    (off % 32 ≠ 0 → exec (.qcfg f) s = raiseAt s o.i 0x090 off) ∧
    (off % 32 = 0 → o.i.gr.rec_.scratch < off + 32 → exec (.qcfg f) s = raiseAt s o.i 0x091 off) ∧
    (off % 32 = 0 → off + 32 ≤ o.i.gr.rec_.scratch → ¬ StreamLegal o.i.wg.scratch off o.i.w.width →
      exec (.qcfg f) s = raise s o.i 0x0E0) ∧
    (off % 32 = 0 → off + 32 ≤ o.i.gr.rec_.scratch → StreamLegal o.i.wg.scratch off o.i.w.width →
      ∃ t w q, exec (.qcfg f) s = .next t ∧ Goes s t o.i f.len f.lnd w ∧ RegsKept o.i w ∧ SameMemory s t ∧ t.wgs = s.wgs ∧
        w.q.find f.d.toNat = some q ∧ streamOf o.i.wg.scratch off q ∧ q.used = 0 ∧ q.next = 0 ∧ q.buf = [] ∧ q.reading = [] ∧
        ∀ k, k ≠ f.d.toNat → w.q.find k = o.i.w.q.find k)) ∧
  (∀ (s : State) (i : Iss) (f : XForm), s.issuing = some i →
    (i.w.q.find f.d.toNat = none → OnlyGoes s i f.len f.lnd (exec (.qdrain f) s)) ∧
    (∀ q, i.w.q.find f.d.toNat = some q →
      (if q.store then q.buf = [] ∧ ∀ g ∈ s.storeGroups, g.warp = i.w.key → g.queue ≠ some f.d.toNat else q.reading = []) →
      ∃ t w, exec (.qdrain f) s = .next t ∧ Goes s t i f.len f.lnd w ∧ RegsKept i w ∧ SameMemory s t ∧ w.q.find f.d.toNat = none) ∧
    (∀ q, i.w.q.find f.d.toNat = some q → q.store = true → (∀ g ∈ q.buf, g.fault = none) →
      (q.buf ≠ [] ∨ ∃ g ∈ s.storeGroups, g.warp = i.w.key ∧ g.queue = some f.d.toNat) →
      Blocks s i (.queueDrain f.d.toNat) (exec (.qdrain f) s)) ∧
    (∀ q, i.w.q.find f.d.toNat = some q → q.store = false → q.reading ≠ [] → Blocks s i (.queueDrain f.d.toNat) (exec (.qdrain f) s)) ∧
    (∀ q c va, i.w.q.find f.d.toNat = some q → q.store = true → q.buf.findSome? (·.fault) = some (c, va) →
      exec (.qdrain f) s = .next (s.hold i 2 ⟨.element, c, va, 8, 0, i.pc⟩))) ∧
  (∀ (s : State) (core warp q : Nat) (w : Warp) (t : Stream),
    s.warpAt ⟨core, warp⟩ = some w → w.q.find q = some t → s.qsNext (core / 24) = some (qsCode core warp q) →
    (t.store = false →
      let vas := groupVas t t.next w.width
      (∀ va ∈ vas, s.walkersBusy (engineSite core) w.wg.ctx va = false) →
      (∀ pas, s.translateAll (engineSite core) w.wg.ctx .read vas = .ok pas → (pas.any fun p => s.paPending p.1 t.elemBytes) = false →
        ∃ t' w' q' g, exec (.qsTurn core warp q) s = .next t' ∧ t'.warpAt ⟨core, warp⟩ = some w' ∧ w'.q.find q = some q' ∧
          q'.next = t.next + 1 ∧ q'.buf = t.buf ∧ q'.reading = t.reading ++ [g] ∧ q'.asks = t.asks.drop 1 ∧ g.index = t.next ∧
          g.fault = none ∧ SameMemory s t' ∧ ∀ l p, pas[l]? = some p → s.keysAgree (keyOf w.wg.ctx p.2) p.1 t.elemBytes = true →
            (SMap.get 0 g.vals l).toNat = readLE s.mem p.1 t.elemBytes) ∧
      (∀ c va, s.translateAll (engineSite core) w.wg.ctx .read vas = .fail c va →
        ∃ t' w' q' g, exec (.qsTurn core warp q) s = .next t' ∧ t'.warpAt ⟨core, warp⟩ = some w' ∧ w'.q.find q = some q' ∧
          q'.next = t.next + 1 ∧ q'.buf = t.buf ∧ q'.reading = t.reading ++ [g] ∧ q'.asks = t.asks.drop 1 ∧ g.index = t.next ∧
          g.fault = some (c, va) ∧ SameMemory s t')) ∧
    (∀ g gs, t.store = true → t.buf = g :: gs →
      let vas := groupVas t g.index w.width
      (∀ va ∈ vas, s.walkersBusy (engineSite core) w.wg.ctx va = false) →
      (∀ pas, s.translateAll (engineSite core) w.wg.ctx .write vas = .ok pas →
        ∃ t' w' x, exec (.qsTurn core warp q) s = .next t' ∧ t'.warpAt ⟨core, warp⟩ = some w' ∧ SameMemory s t' ∧
          w'.q.find q = some { t with buf := gs } ∧ t'.storeGroups = s.storeGroups ++ [x] ∧ x.id = g.id ∧ x.queue = some q ∧
          x.warp = ⟨core, warp⟩ ∧ x.wg = w.wg ∧ x.wide = t.wide ∧ x.poison = g.poison ∧ x.elems.length = pas.length ∧
          ∀ l p, pas[l]? = some p → x.elems[l]? = some (l, p.1, SMap.get 0 g.vals l, keyOf w.wg.ctx p.2)) ∧
      (∀ c va, s.translateAll (engineSite core) w.wg.ctx .write vas = .fail c va →
        ∃ t' w', exec (.qsTurn core warp q) s = .next t' ∧ t'.warpAt ⟨core, warp⟩ = some w' ∧ SameMemory s t' ∧
          t'.storeGroups = s.storeGroups ∧
          (w.pcs ≠ [] → w'.q.find q = some { t with buf := { g with fault := some (c, va) } :: gs }) ∧
          (w.pcs = [] → w'.q.find q = some { t with buf := gs } ∧ t'.evSeq = s.evSeq + 1)))) ∧
  (∀ (s : State) (core warp q : Nat) (w : Warp) (t : Stream) (g : QGroup) (gs : List QGroup),
    s.warpAt ⟨core, warp⟩ = some w → w.q.find q = some t → t.reading = g :: gs →
    ∃ t' w', exec (.groupArrival core warp q) s = .next t' ∧ t'.warpAt ⟨core, warp⟩ = some w' ∧
      w'.q.find q = some { t with reading := gs, buf := t.buf ++ [g] } ∧ SameMemory s t') ∧
  (∀ (s : State) (g : StoreGroup), (s.storeGroups.find? fun x => x.id = g.id) = some g →
    (∀ x ∈ s.storeGroups.takeWhile fun x => x.id ≠ g.id, ¬ (x.warp = g.warp ∧ x.queue = g.queue)) →
    s.isSaved g.wg = false → (g.fences.any s.fenceIdOpen) = false → (g.elems.any fun e => s.paPending e.2.1 8) = false →
    let n : Nat := if g.wide then 8 else 4
    let keyed : Prop := OneKey s n (g.elems.map fun e => (e.2.1, e.2.2.2))
    let calm : Prop := ∀ e ∈ g.elems, s.raced .plain g.id none e.2.1 n = false
    ∃ t, exec (.storeGroupWritten g.id) s = .next t ∧ (∀ x ∈ t.storeGroups, x.id ≠ g.id) ∧
      (keyed → ∀ b, (∀ e ∈ g.elems, b < e.2.1 ∨ e.2.1 + n ≤ b) → NoKeptFrame s b → byteAt t.mem b = byteAt s.mem b) ∧
      (keyed → calm → ∀ pre e post, g.elems = pre ++ e :: post → (∀ y ∈ post, Apart y.2.1 n e.2.1 n) → e.2.1 % n = 0 → NoKeptFrame s e.2.1 →
        readLE t.mem e.2.1 n = e.2.2.1.toNat % 256 ^ n))

namespace Sys2Proof.Machine

/-- An ARG record for rows of a number of scale bytes (R291, R294). -/
abbrev ArgLegal (m : List Host.Cell) (off rows scales : Nat) : Prop :=
  let src : Nat := readLE m off 8 % 2 ^ 57
  let sstr := signedOf 32 (readLE m (off + 20) 4)
  readLE m off 8 / 2 ^ 57 = 120 ∧ readLE m (off + 8) 8 = 0 ∧ readLE m (off + 16) 4 = 0 ∧ readLE m (off + 24) 4 = 0 ∧
    readLE m (off + 28) 4 = 0 ∧ src % 16 = 0 ∧ sstr % 16 = 0 ∧
    ∀ k < rows, 0 ≤ (src : Int) + k * sstr ∧ (src : Int) + k * sstr + scales ≤ 2 ^ 57

/-- A request record's own fields pass the checks of KICK for a class: reserved bits, OP, row bytes, alignments, object, operator and slot
(R289, R290, R291, R293). -/
def recordForm (i : Iss) (cls off : Nat) : Bool :=
  let m := i.wg.scratch
  let op : Nat := readLE m off 8 / 2 ^ 60
  let rowb : Nat := readLE m (off + 16) 4 % 2 ^ 20
  let last : Nat := readLE m (off + 28) 4
  let slot := i.slot (last / 2 ^ 12 % 8)
  decide <| (readLE m off 8 / 2 ^ 57 % 8 = 0 ∧ readLE m (off + 8) 8 < 2 ^ 57 ∧ last / 2 ^ 8 % 16 = 0 ∧ (op ≠ 7 → last % 256 = 0)) ∧
    ((cls = 0 ∧ op < 4) ∨ (cls = 1 ∧ (op = 4 ∨ op = 5)) ∨ (2 ≤ cls ∧ (op = 6 ∨ op = 7))) ∧
    (rowb ≠ 0 ∧ rowb % 16 = 0 ∧ readLE m off 8 % 16 = 0 ∧ readLE m (off + 8) 8 % 16 = 0 ∧ readLE m (off + 20) 4 % 16 = 0 ∧
      readLE m (off + 24) 4 % 16 = 0) ∧
    (last.testBit 15 = true → 16 * (last / 2 ^ 16) + 16 ≤ i.gr.rec_.scratch) ∧
    (op = 2 → slotFmt slot = 7) ∧ (op = 3 → slotFmt slot = 10) ∧ (op = 7 → last % 256 ≤ 5) ∧ (op = 4 ∨ op = 5 → slotFmt slot ≠ 1)

/-- A request record's rows lie in their spaces and are not too many bytes, a dequantising one's scales too (R290, R291, R293, R294). -/
def recordRows (i : Iss) (off : Nat) (arg : Option Nat) : Bool :=
  let m := i.wg.scratch
  let op : Nat := readLE m off 8 / 2 ^ 60
  let src : Nat := readLE m off 8 % 2 ^ 57
  let dst : Nat := readLE m (off + 8) 8
  let rows : Nat := readLE m (off + 16) 4 / 2 ^ 20 + 1
  let rowb : Nat := readLE m (off + 16) 4 % 2 ^ 20
  let sstr := signedOf 32 (readLE m (off + 20) 4)
  let dstr := signedOf 32 (readLE m (off + 24) 4)
  let slot := i.slot (readLE m (off + 28) 4 / 2 ^ 12 % 8)
  let wide : Nat := if op = 2 ∨ op = 3 then 4 else 1
  let scr := i.gr.rec_.scratch
  let srcEnd : Nat := if op = 1 ∨ op = 5 then scr else 2 ^ 57
  let dstEnd : Nat := if op = 1 ∨ op = 6 ∨ op = 7 then 2 ^ 57 else if op = 4 ∨ op = 5 then i.gr.rec_.bays else scr
  decide <| (∀ k < rows, 0 ≤ (src : Int) + k * sstr ∧ (src : Int) + k * sstr + rowb ≤ srcEnd) ∧
    (∀ k < rows, 0 ≤ (dst : Int) + k * dstr ∧ (dst : Int) + k * dstr + wide * rowb ≤ dstEnd) ∧
    (wide * rowb * rows ≤ 2 ^ 20 ∧ wide * rowb * rows ≤ 4096 * i.wg.infltLimit.toNat) ∧
    (op = 2 ∨ op = 3 → ∃ a ∈ arg.toList, ArgLegal m a rows (2 * rowb / max 1 (blockOf slot)))

/-- A request record, with the record that is its ARG, that passes the checks of KICK for a class. -/
abbrev RecordLegal (i : Iss) (cls off : Nat) (arg : Option Nat) : Prop := recordForm i cls off = true ∧ recordRows i off arg = true

/-- The transfers of a batch: a dequantising record takes the record after it as its own (R294). -/
def transfers (m : List Host.Cell) : List Nat → List (Nat × Option Nat)
  | [] => []
  | [r] => [(r, none)]
  | r :: a :: rest =>
    if readLE m r 8 / 2 ^ 60 = 2 ∨ readLE m r 8 / 2 ^ 60 = 3 then (r, some a) :: transfers m rest
    else (r, none) :: transfers m (a :: rest)

/-- A batch of n records that passes the checks of KICK. -/
abbrev BatchLegal (i : Iss) (cls base n : Nat) : Prop :=
  ∀ p ∈ transfers i.wg.scratch ((List.range n).map fun j => base + 32 * j), RecordLegal i cls p.1 p.2

end Sys2Proof.Machine

/-- KICK, where it is ready and nothing of the warp's scratchpad stores is due: a count of 0 or above 64 raises 0x0E0, a base not 32-byte aligned 0x090, a batch outside SCRATCH 0x091, a record that fails its checks 0x0E0, with nothing queued. A record passes where no reserved bit is set, its class takes its OP, its row is not empty, row bytes, addresses and strides are multiples of 16, all rows lie inside their spaces, its object lies in SCRATCH, its bytes exceed neither 1 MiB nor INFLT-LIMIT, a dequantising one's slot has its format and an ARG record follows with only SRC and SSTR, multiples of 16 with their scale rows in the address space, a reduce names an operator and a fill's slot is not of 1-bit elements; without room among the core's 256 entries its set is blocked; else it completes with the batch's records appended in order, fields as read, queued and not admitted, registers and memory as before. INFLT, where it is ready, writes the number of its warp's records, or their bytes saturated at 2^32 - 1. DRAIN goes on where no record and no pushed group of its warp is outstanding, else blocks. Admission takes the first record of a core's queue that may be admitted; afterwards the core's bytes in flight are at most 1 MiB. (R289, R291, R295, R296, R299, R300) -/
def Obligations.copy_records_are_queued_and_admitted : Prop :=
  (∀ (s : State) (f : XForm) (o : Opnd), Ready s (shapeAsync 0x00 f) f noExtra o → s.scratchDue o.i.w.key = false →
    let n := o.countIB
    let base := (o.rd f.a warpLane).toNat
    let m := o.i.wg.scratch
    let l := transfers m ((List.range n).map fun j => base + 32 * j)
    ((n = 0 ∨ 64 < n) → exec (.kick f) s = raise s o.i 0x0E0) ∧
    (0 < n → n ≤ 64 → base % 32 ≠ 0 → exec (.kick f) s = raiseAt s o.i 0x090 base) ∧
    (0 < n → n ≤ 64 → base % 32 = 0 → o.i.gr.rec_.scratch < base + 32 * n → exec (.kick f) s = raiseAt s o.i 0x091 base) ∧
    (0 < n → n ≤ 64 → base % 32 = 0 → base + 32 * n ≤ o.i.gr.rec_.scratch →
      (¬ BatchLegal o.i (f.fld 1 0) base n → exec (.kick f) s = raise s o.i 0x0E0) ∧
      (BatchLegal o.i (f.fld 1 0) base n →
        (256 < s.queueUsed o.i.w.core + n → Blocks s o.i (.requestRoom n) (exec (.kick f) s)) ∧
        (s.queueUsed o.i.w.core + n ≤ 256 →
          ∃ (t : State) (w : Warp) (rs : List CopyRec), exec (.kick f) s = .next t ∧ Goes s t o.i f.len f.lnd w ∧ RegsKept o.i w ∧ SameMemory s t ∧ t.wgs = s.wgs ∧
            t.records = s.records ++ rs ∧ rs.length = l.length ∧
            ∀ (j at_ : Nat) (a : Option Nat), l[j]? = some (at_, a) → let r := readRec m at_; ∃ c : CopyRec, rs[j]? = some c ∧ c.warp = o.i.w.key ∧ c.wg = o.i.w.wg ∧ c.op = r.op ∧
              c.src = r.src ∧ c.dst = r.dst ∧ c.rows = r.rows ∧ c.rowb = r.rowb ∧ c.sstr = r.sstr ∧ c.dstr = r.dstr ∧
              c.bar = (if r.bv then some (16 * r.bar) else none) ∧ c.slot = r.slot ∧ c.aux = r.aux ∧
              c.arg = a.map (fun y => ((readRec m y).src, (readRec m y).sstr)) ∧ c.admitted = false ∧ c.row = 0 ∧ c.ofs = 0 ∧ c.open_ = 0)))) ∧
  (∀ (s : State) (f : XForm) (o : Opnd), Ready s (shapeAsync 0x01 f) f noExtra o →
    let mine := s.records.filter fun r => decide (r.warp = o.i.w.key)
    ∃ t w, exec (.inflt f) s = .next t ∧ Goes s t o.i f.len f.lnd w ∧ SameMemory s t ∧ t.records = s.records ∧
      o.Landed (fun _ => BitVec.ofNat 64 (if f.bit 0 then min (mine.map CopyRec.bytes).sum (2 ^ 32 - 1)
        else (mine.map CopyRec.entries).sum)) w) ∧
  (∀ (s : State) (f : XForm) (o : Opnd), Ready s (shapeAsync 0x02 f) f noExtra o →
    let due : Prop := (∃ r ∈ s.records, r.warp = o.i.w.key) ∨ (∃ g ∈ s.storeGroups, g.warp = o.i.w.key) ∨
      (∃ q ∈ o.i.w.q, q.2.store = true ∧ q.2.buf ≠ [])
    (¬ due → OnlyGoes s o.i f.len f.lnd (exec (.drain f) s)) ∧ (due → Blocks s o.i .drain (exec (.drain f) s))) ∧
  (∀ (s : State) (core : Nat) (r : CopyRec), (s.records.find? fun r => r.warp.core = core && s.mayAdmit r) = some r →
    (∀ x ∈ s.records, x.id = r.id → x = r) → (s.records.filter fun x => x.id = r.id).length = 1 →
    ∃ t, exec (.recordAdmission core) s = .next t ∧ SameMemory s t ∧
      t.records = (s.records.map fun x => if x.id = r.id then { x with admitted := true } else x) ∧
      t.inFlight (fun x => x.warp.core = core) = s.inFlight (fun x => x.warp.core = core) + r.bytes ∧
      t.inFlight (fun x => x.warp.core = core) ≤ 2 ^ 20)

namespace Sys2Proof.Machine

/-- The 16 bytes at an address are an object with these fields (R301). -/
def ObjIs (m : List Host.Cell) (pa : Nat) (b : Bar) : Prop :=
  readLE m pa 2 = b.pend ∧ readLE m (pa + 2) 2 = b.init ∧ readLE m (pa + 4) 4 = b.xgr ∧ readLE m (pa + 8) 4 = b.dgr ∧
    readLE m (pa + 12) 2 = b.phase ∧ b.resv < 2 ^ 11 ∧ b.scope < 8 ∧ b.st < 4 ∧
    readLE m (pa + 14) 2 = b.resv + 2 ^ 11 * b.scope + 2 ^ 14 * b.st

/-- An object after a count-down of delivered bytes; only a live one takes it (R297, R303). -/
def deliverRule (bytes : Nat) (b : Bar) : Bar :=
  let dgr := (b.dgr + bytes / 16) % 2 ^ 32
  if b.st ≠ 1 then b
  else if b.pend = 0 ∧ dgr = b.xgr ∧ dgr ≠ b.dgr then { b with pend := b.init, xgr := 0, dgr := 0, phase := (b.phase + 1) % 2 ^ 16 }
  else { b with dgr := dgr }

/-- Element k of 4-bit elements, two in a byte, the lower first (R66). -/
def nibble (byte : Nat → Byte) (k : Nat) : Nat := (byte (k / 2)).toNat / 16 ^ (k % 2) % 16

/-- The global addresses of a chunk (R287, R294, R298). -/
def chunkVas (r : CopyRec) (src dst : Nat) (scales : List Nat) : List Nat :=
  (if srcGlobal r.op then [src] else []) ++ scales ++ (if dstGlobal r.op then [dst] else [])

end Sys2Proof.Machine

/-- CHUNK_ISSUE: where the engine's turn is a record whose next chunk waits for no walker and is translated, one chunk of at most 4 KiB of destination within the row is issued and the record goes on behind it; where a translation fails, the record is suspended with the fault and memory is as before. CHUNK_PERFORMED, for a chunk of a record with no line pending: a copy to global memory leaves source byte j at destination byte j, an inline reduce combines the words, a copy to a scratchpad or a bay leaves the source's bytes there, a dequantise-on-fill leaves at BF16 element k the value of 4-bit source element k under the scale byte of its block and the tensor scale of its slot; overlapping bytes, words that an atomic of another path meets, under way or performed with no order since (logs 2 and 37), and lines written under another key, which the manual leaves open (log 2), excepted; no other byte of global memory changes; a chunk of a record with a barrier object adds its bytes in granules of 16 to the object's delivered count, with the test of R303, where the object is live; a record whose last chunk this is has completed. The size of a chunk within the rule's bounds is the model's choice (log 13). (R66, R89, R287, R290, R292, R293, R294, R297, R298, R303) -/
def Obligations.copy_chunks_move_bytes : Prop :=
  (∀ (s : State) (chiplet engine : Nat) (r : CopyRec), s.engineTurn chiplet engine = some r → r.ofs < r.rowb →
    let next := r.nextChunk
    let vas := r.scaleVas (s.slotOf r.wg r.slot) next.2.2
    (∀ va ∈ chunkVas r next.1 next.2.1 vas, s.walkersBusy (engineSite r.warp.core) r.wg.ctx va = false) →
    (∀ ps pd scs, s.chunkTrans r next.1 next.2.1 vas = .ok ps pd scs →
      ∃ t c, exec (.chunkIssue chiplet engine) s = .next t ∧ t.chunks = s.chunks ++ [c] ∧ c.rec_ = r.id ∧ c.src = ps.1 ∧ c.dst = pd.1 ∧
        c.srcKey = keyOf r.wg.ctx ps.2 ∧ c.dstKey = keyOf r.wg.ctx pd.2 ∧ c.scales = scs ∧ c.elem = 2 * r.ofs ∧ c.dstVa = next.2.1 ∧
        0 < c.bytes ∧ widening r.op * c.bytes ≤ 4096 ∧ r.ofs + c.bytes ≤ r.rowb ∧ SameMemory s t ∧
        (∃ r' ∈ t.records, r'.id = r.id ∧ (r'.row, r'.ofs) = (if r.ofs + c.bytes = r.rowb then (r.row + 1, 0) else (r.row, r.ofs + c.bytes)))) ∧
    (∀ c va acc, s.chunkTrans r next.1 next.2.1 vas = .fail c va acc →
      ∃ t, exec (.chunkIssue chiplet engine) s = .next t ∧ SameMemory s t ∧ t.chunks = s.chunks ∧ t.evSeq = s.evSeq + 1 ∧
        ∃ r' ∈ t.records, r'.id = r.id ∧ r'.suspended = some (c, va, acc.code))) ∧
  (∀ (s : State) (c : Chunk) (r : CopyRec), (s.chunks.find? fun x => x.id = c.id) = some c →
    (s.records.find? fun x => x.id = c.rec_) = some r →
    (srcGlobal r.op = true → s.paPending c.src c.bytes = false ∧ ∀ x ∈ c.scales, s.paPending x.1 1 = false) → (dstGlobal r.op = true → s.paPending c.dst c.bytes = false) →
    let source : Prop := srcGlobal r.op = true → s.keysAgree c.srcKey c.src c.bytes = true
    let target : Prop := dstGlobal r.op = true → s.keysAgree c.dstKey c.dst (widening r.op * c.bytes) = true
    let calm (k : Rival) (j : Nat) : Prop :=
      s.raced k c.id (if dstGlobal r.op then none else some r.wg) (c.dst + j / 4 * 4) 4 = false
    let bar (b : Nat) : Prop := ∃ x, r.bar = some x ∧ x ≤ b ∧ b < x + 16
    ∃ t, exec (.chunkPerformed c.id) s = .next t ∧ (∀ x ∈ t.chunks, x.id ≠ c.id) ∧
      (target → ∀ b, (dstGlobal r.op = true → b < c.dst ∨ c.dst + widening r.op * c.bytes ≤ b) → NoKeptFrame s b → byteAt t.mem b = byteAt s.mem b) ∧
      (target → ∀ j < c.bytes, (∀ k < c.bytes, NoKeptFrame s (c.dst + k)) → calm .plain j → r.op = 1 → ∀ g, s.wgAt r.wg = some g →
        byteAt t.mem (c.dst + j) = byteAt g.scratch (c.src + j)) ∧
      (source → target → ∀ j < c.bytes, (∀ k < c.bytes, NoKeptFrame s (c.dst + k)) → calm .plain j → r.op = 6 → r.inSource (c.dstVa + j / 16 * 16) = false →
        byteAt t.mem (c.dst + j) = byteAt s.mem (c.src + j)) ∧
      (source → target → ∀ j, 4 * j + 4 ≤ c.bytes → (∀ k < c.bytes, NoKeptFrame s (c.dst + k)) → calm .reduce (4 * j) → r.op = 7 → r.inSource (c.dstVa + j / 4 * 16) = false →
        readLE t.mem (c.dst + 4 * j) 4 = reduceWord r.aux (readLE s.mem (c.dst + 4 * j) 4) (readLE s.mem (c.src + 4 * j) 4) % 2 ^ 32) ∧
      (source → ∀ j < c.bytes, calm .plain j → r.op = 0 → ¬ bar (c.dst + j) → ∀ g, s.wgAt r.wg = some g →
        ∃ g', t.wgAt r.wg = some g' ∧ byteAt g'.scratch (c.dst + j) = byteAt s.mem (c.src + j)) ∧
      (source → ∀ j < c.bytes, (r.op = 4 ∨ r.op = 5) → ∀ g, s.wgAt r.wg = some g →
        ∃ g', t.wgAt r.wg = some g' ∧
          g'.bayByte (c.dst + j) = if r.op = 4 then byteAt s.mem (c.src + j) else byteAt g.scratch (c.src + j)) ∧
      (source → (∀ x ∈ c.scales, s.keysAgree x.2 x.1 1 = true) → ∀ k < 2 * c.bytes, calm .plain (2 * k) → (r.op = 2 ∨ r.op = 3) →
        ¬ bar (c.dst + 2 * k) → ¬ bar (c.dst + 2 * k + 1) → ∀ g x, s.wgAt r.wg = some g →
        let sl := s.slotOf r.wg r.slot
        let block := max 1 (blockOf sl)
        c.scales[(c.elem + k) / block - c.elem / block]? = some x →
        ∃ g', t.wgAt r.wg = some g' ∧ readLE g'.scratch (c.dst + 2 * k) 2 =
          dequantBf16 (elemVal (slotFmt sl) 0 (nibble (fun j => byteAt s.mem (c.src + j)) k)) (scaleVal (slotBscale sl) (byteAt s.mem x.1).toNat)
            (s.tensorScale r.wg sl) % 2 ^ 16) ∧
      (∀ at_ b g, r.bar = some at_ → s.wgAt r.wg = some g → ObjIs g.scratch at_ b →
        ((r.op = 0 ∨ r.op = 2 ∨ r.op = 3) → Apart c.dst (widening r.op * c.bytes) at_ 16) →
        ∃ g', t.wgAt r.wg = some g' ∧ ObjIs g'.scratch at_ (deliverRule (widening r.op * c.bytes) b)) ∧
      (r.open_ = 1 → r.row = r.rows → ∀ x ∈ t.records, x.id ≠ r.id))

namespace Sys2Proof.Machine

/-- The memory that an object lies in. -/
def objMem (s : State) (r : BarRef) : List Host.Cell :=
  if r.glob then s.mem
  else match s.wgAt r.wg with
    | some g => g.scratch
    | none => []

/-- The object that A names can be used: aligned, in bounds, and a global one translated, on no pending line and under its own key
(R304, R364, R396). -/
def Opnd.ObjAt (o : Opnd) (s : State) (p : Perm) (r : BarRef) : Prop :=
  r.wg = o.i.w.wg ∧ r.glob = o.f.bit 0 ∧
    if o.f.bit 0 = true then
      let ea := (o.rd64 o.f.a warpLane).toNat
      ea % 16 = 0 ∧ ea + 16 ≤ 2 ^ 57 ∧ s.walkersBusy o.i.w.core o.i.w.wg.ctx ea = false ∧
        (∃ leaf, s.translate o.i.w.core o.i.w.wg.ctx ea p = .ok r.pa leaf ∧ r.key = keyOf o.i.w.wg.ctx leaf) ∧ s.paPending r.pa 16 = false ∧
        s.keysAgree r.key r.pa 16 = true ∧ NoKeptFrame s r.pa ∧ r.pa % 16 = 0
    else r.key = ⟨0, 0⟩ ∧ r.pa = (o.rd o.f.a warpLane).toNat ∧ r.pa % 16 = 0 ∧ r.pa + 16 ≤ o.i.gr.rec_.scratch

/-- No access or fence of a warp is outstanding. -/
def NoneOut (s : State) (k : WarpKey) : Prop := ∀ p ∈ s.pending, (match p with | .access a => a.warp | .fence a => a.warp) ≠ k

/-- An instruction raises a cause; memory, warps and workgroups are as they were until it is delivered. -/
def Raises (s : State) (i : Iss) (c : Cause) (r : Out) : Prop :=
  ∃ u, r = raise u i c ∧ SameMemory s u ∧ u.warps = s.warps ∧ u.wgs = s.wgs

/-- An update of counts, with the test of R303. -/
def countRule (n bytes : Nat) (drop : Bool) (b : Bar) : Bar :=
  let init := if drop then (b.init + 2 ^ 16 - n) % 2 ^ 16 else b.init
  let xgr := b.xgr + bytes / 16
  if b.pend = n ∧ b.dgr = xgr ∧ (0 < n ∨ 16 ≤ bytes) then { b with init := init, pend := init, xgr := 0, dgr := 0, phase := (b.phase + 1) % 2 ^ 16 }
  else { b with init := init, pend := b.pend - n, xgr := xgr }

/-- What stops an update of a live object alone. -/
def stateStop (b : Bar) (c : Option Cause) : Option Cause := if b.st = 2 then some 0x0E2 else if b.st ≠ 1 then some 0x0E3 else c

/-- Expected bytes that an object does not take (R306, R307). -/
abbrev BadBytes (b : Bar) (bytes : Nat) : Prop := bytes % 16 ≠ 0 ∨ 2 ^ 31 - 1 < b.xgr + bytes / 16

/-- n of BARR and BARRD, and their expected bytes (R306). -/
def Opnd.count (o : Opnd) : Nat :=
  match o.f.fld 2 1 with
  | 0 => (lanesOf o.i.fl.active).length
  | 1 => 1
  | _ => (o.rd o.f.b warpLane).toNat
def Opnd.expected (o : Opnd) : Nat := if o.f.bit 3 then (o.rd o.f.c warpLane).toNat else 0

/-- The causes of an arrival in their order (R306). -/
def Opnd.arrivalStop (o : Opnd) (drop : Bool) (va : Nat) (b : Bar) : Option Cause :=
  stateStop b <|
    if o.f.fld 2 1 = 2 ∧ (o.count = 0 ∨ 65535 < o.count) then some 0x0E6
    else if o.f.bit 3 = true ∧ BadBytes b o.expected then some 0x0E6
    else if b.pend < o.count then some 0x0E1
    else if o.f.bit 0 = true ∧ drop = false ∧ va ∉ o.i.wg.owed ∧ 16 ≤ o.i.wg.owed.length then some 0x0EB
    else none

/-- One row of the five updates: instruction, XOP, what stops it, the object's fields after it, the owed list after it. -/
structure UpdateRow where
  run : Instr
  xop : Nat
  stop : Opnd → Nat → Bar → Option Cause
  after : Opnd → Bar → Bar
  owed : Opnd → Nat → List Nat → List Nat

/-- The updates of objects (R305, R306, R307, R309, R310). -/
def barUpdates (f : XForm) : List UpdateRow :=
  [⟨.binit f, 0x03, fun o _ _ => if 65535 < (if f.bit 4 then f.fld 15 8 else (o.rd f.b warpLane).toNat) then some 0x0E6 else none,
     fun o _ => let n := if f.bit 4 then f.fld 15 8 else (o.rd f.b warpLane).toNat
                ⟨n, n, 0, 0, 1, f.fld 3 1, 0, 0⟩, fun _ _ l => l⟩,
   ⟨.barr f, 0x04, fun o va b => o.arrivalStop false va b, fun o b => countRule o.count o.expected false b,
     fun _ va l => if f.bit 0 = true ∧ va ∉ l then l ++ [va] else l⟩,
   ⟨.barrd f, 0x05, fun o va b => o.arrivalStop true va b, fun o b => countRule o.count o.expected true b,
     fun _ va l => if f.bit 0 = true then l.filter fun x => x ≠ va else l⟩,
   ⟨.bexp f, 0x06, fun o _ b => stateStop b (if BadBytes b (o.rd f.b warpLane).toNat then some 0x0E6 else none),
     fun o b => countRule 0 (o.rd f.b warpLane).toNat false b, fun _ _ l => l⟩,
   ⟨.binv f, 0x09, fun _ _ b => if b.st = 1 ∨ b.st = 2 then none else some 0x0E3, fun _ b => { b with st := 0 }, fun _ _ l => l⟩]

end Sys2Proof.Machine

/-- For BINIT, BARR, BARRD, BEXP and BINV, where the instruction is ready, its scratchpad or global object is aligned, in bounds, translated without waiting for a walker and on no pending line, nothing of the warp and no update of the object is outstanding: where the object's state, the count, the expected bytes, an over-arrival or a full owed list stops it, it raises that cause and the object keeps its fields; else it completes, and the object has the fields of R305, of R303 and R306 (a complete phase giving way to the next), of R307 or of R309; BARR adds a global object to the owed list, BARRD takes it off; no other byte of global memory or of the scratchpad, and no register, changes. (R301, R302, R303, R304, R305, R306, R307, R309, R310) -/
def Obligations.barrier_updates : Prop :=
  ∀ (f : XForm), ∀ x ∈ barUpdates f, ∀ (s : State) (o : Opnd) (r : BarRef) (b : Bar), Ready s (shapeAsync x.xop f) f noExtra o →
    (x.xop = 0x04 ∨ x.xop = 0x05 → f.fld 2 1 < 3) → o.ObjAt s .both r → ObjIs (objMem s r) r.pa b → NoneOut s o.i.w.key → s.barQueue r = [] →
    let va := if f.bit 0 then (o.rd64 f.a warpLane).toNat else r.pa
    (∀ c, x.stop o va b = some c → Raises s o.i c (exec x.run s)) ∧
    (x.stop o va b = none → ∃ t w g, exec x.run s = .next t ∧ Goes s t o.i f.len f.lnd w ∧ RegsKept o.i w ∧
      t.wgAt o.i.w.wg = some g ∧ ObjIs (objMem t r) r.pa (x.after o b) ∧ g.owed = x.owed o va o.i.wg.owed ∧ t.pending = s.pending ∧
      (∀ a, (f.bit 0 = false ∨ a < r.pa ∨ r.pa + 16 ≤ a) → NoKeptFrame s a → byteAt t.mem a = byteAt s.mem a) ∧
      (∀ a, (f.bit 0 = true ∨ a < r.pa ∨ r.pa + 16 ≤ a) → byteAt g.scratch a = byteAt o.i.wg.scratch a))

namespace Sys2Proof.Machine

/-- An object after an update (R303, R305 to R307, R309). -/
def opRule (b : Bar) : BarOp → Bar
  | .init n scope => ⟨n, n, 0, 0, 1, scope, 0, 0⟩
  | .arrive drop n bytes => countRule n bytes drop b
  | .expect bytes => countRule 0 bytes false b
  | .abandon => if b.st = 1 then { b with st := 2 } else b
  | .invalidate => { b with st := 0 }

/-- An object can take an update (R305 to R307, R309). -/
def OpTaken (b : Bar) : BarOp → Prop
  | .init n scope => n < 2 ^ 16 ∧ scope < 8
  | .arrive _ n bytes => b.st = 1 ∧ n ≤ b.pend ∧ n < 2 ^ 16 ∧ ¬ BadBytes b bytes
  | .expect bytes => b.st = 1 ∧ ¬ BadBytes b bytes
  | .abandon => True
  | .invalidate => b.st = 1 ∨ b.st = 2

end Sys2Proof.Machine

/-- That an update of a barrier object may be made after its instruction has issued, its causes found at issue, is the model's choice (log 28). BARR and BARRD, where they are ready, their object is as in barrier_updates, no update of it is outstanding, nothing stops them and the warp has an access or a releasing fence outstanding that the arrival releases: they complete, the owed list changed, the object and memory as before, and the update joins what is outstanding as an access at the object's place. ACCESS_PERFORMED of such an update, of any of the five kinds or of an abandonment, that nothing holds, that is the only one of its object and that the object can take: the object then has the fields of the rule of the update, the update is outstanding no more, and no other byte of global memory or of the scratchpad changes. (R266, R271, R301, R302, R303, R304, R305, R306, R307, R309) -/
def Obligations.late_barrier_updates : Prop :=
  (∀ (f : XForm) (drop : Bool) (s : State) (o : Opnd) (r : BarRef) (b : Bar),
    let xop : Nat := if drop then 0x05 else 0x04
    Ready s (shapeAsync xop f) f noExtra o → f.fld 2 1 < 3 → o.ObjAt s .both r → ObjIs (objMem s r) r.pa b → s.barQueue r = [] →
    let va := if f.bit 0 then (o.rd64 f.a warpLane).toNat else r.pa
    o.arrivalStop drop va b = none → s.releaseDue o.i.w.key o.i.mask s.nextId = true →
    ∃ t w g a x, exec (if drop then .barrd f else .barr f) s = .next t ∧ Goes s t o.i f.len f.lnd w ∧ RegsKept o.i w ∧ SameMemory s t ∧
      t.wgAt o.i.w.wg = some g ∧ g.scratch = o.i.wg.scratch ∧
      g.owed = (if f.bit 0 = false then o.i.wg.owed else if drop then o.i.wg.owed.filter fun x => x ≠ va
        else if va ∈ o.i.wg.owed then o.i.wg.owed else o.i.wg.owed ++ [va]) ∧
      t.pending = s.pending ++ [.access a] ∧ a.kind = .bar (.arrive drop o.count o.expected) ∧ a.warp = o.i.w.key ∧ a.wg = o.i.w.wg ∧
      a.glob = f.bit 0 ∧ a.lanes = [x] ∧ x.pa = r.pa ∧ x.key = r.key) ∧
  (∀ (s : State) (a : Access) (op : BarOp) (x : LaneAcc) (b : Bar) (g : Workgroup), s.settle.accessById a.id = some a →
    a.kind = .bar op → a.lanes = [x] → s.settle.mayPerform a = true → s.wgAt a.wg = some g →
    let r : BarRef := ⟨a.glob, a.wg, x.pa, x.key⟩
    s.settle.barQueue r = [(a.id, op)] → ObjIs (objMem s r) r.pa b → OpTaken b op →
    (a.glob = true → s.keysAgree r.key r.pa 16 = true ∧ NoKeptFrame s r.pa ∧ r.pa % 16 = 0) →
    ∃ t g', exec (.accessPerformed a.id) s = .next t ∧ t.accessById a.id = none ∧ t.wgAt a.wg = some g' ∧
      ObjIs (objMem t r) r.pa (opRule b op) ∧ g'.owed = g.owed ∧
      (∀ m, (a.glob = false ∨ m < r.pa ∨ r.pa + 16 ≤ m) → NoKeptFrame s m → byteAt t.mem m = byteAt s.mem m) ∧
      (∀ m, (a.glob = true ∨ m < r.pa ∨ r.pa + 16 ≤ m) → byteAt g'.scratch m = byteAt g.scratch m))

/-- BWAIT and BTEST, where they are ready and their object can be read: an object that is not live and not abandoned raises 0x0E3; where its phase's parity is not that of B, BWAIT completes and BTEST writes 1, and the core's L1 holds no line; else an abandoned object raises 0x0E2, and BWAIT blocks its set, on the address or offset that A gives, while BTEST completes with 0; memory and the workgroups are as before. WAIT_CONDITION_HOLDS, for a live warp with a blocked set whose condition holds, answers a next state in which that set is blocked no more, its threads where they stood. (R120, R264, R266, R308) -/
def Obligations.barrier_waits_and_conditions : Prop :=
  (∀ (f : XForm), ∀ x ∈ [(Instr.bwait f, 0x07), (Instr.btest f, 0x08)], ∀ (s : State) (o : Opnd) (r : BarRef) (b : Bar),
    Ready s (shapeAsync x.2 f) f noExtra o → o.ObjAt s .read r → ObjIs (objMem s r) r.pa b →
    let parity := (o.rd f.b warpLane).toNat.testBit 0
    let met : Prop := b.phase.testBit 0 ≠ parity
    ((b.st = 0 ∨ b.st = 3) → Raises s o.i 0x0E3 (exec x.1 s)) ∧
    (b.st = 2 → ¬ met → Raises s o.i 0x0E2 (exec x.1 s)) ∧
    ((b.st = 1 ∨ b.st = 2) → met → ∃ t w, exec x.1 s = .next t ∧ Goes s t o.i f.len f.lnd w ∧ SameMemory s t ∧ t.wgs = s.wgs ∧
      (∀ key l, t.l1Copy o.i.w.core key l = none) ∧ (x.2 = 0x07 → RegsKept o.i w) ∧ (x.2 = 0x08 → o.Landed (fun _ => 1) w)) ∧
    (b.st = 1 → ¬ met → x.2 = 0x08 →
      ∃ t w, exec x.1 s = .next t ∧ Goes s t o.i f.len f.lnd w ∧ SameMemory s t ∧ t.wgs = s.wgs ∧ o.Landed (fun _ => 0) w) ∧
    (b.st = 1 → ¬ met → x.2 = 0x07 →
      Blocks s o.i (.barrier r.glob (if f.bit 0 then (o.rd64 f.a warpLane).toNat else r.pa) parity) (exec x.1 s))) ∧
  (∀ (s : State) (core warp : Nat) (pc : Pc) (w : Warp) (p : PcSet) (c : Wait), s.settle.warpAt ⟨core, warp⟩ = some w →
    (w.pcs.find? fun p => p.pc = pc) = some p → p.blocked = some c → s.settle.waitHolds w c = true →
    ∃ t w', exec (.waitConditionHolds core warp pc) s = .next t ∧ t.warpAt ⟨core, warp⟩ = some w' ∧ SameMemory s t ∧
      w'.pcs = w.pcs.map fun q => if q.pc = pc then { q with blocked := none } else q)

namespace Sys2Proof.Machine

/-- A ticket counter has moved on (R314). -/
def TicketMoved (g g' : Grid) (t : Nat) : Prop :=
  let v := SMap.get 0 g.tickets t
  let next := g.retiredHow ((v + 1) % (g.rec_.gx * g.rec_.gy * g.rec_.gz))
  (v = 2 ^ 32 - 1 → t ∈ g'.abandoned) ∧
  (v < 2 ^ 32 - 1 → next = none → SMap.get 0 g'.tickets t = v + 1 ∧ (t ∈ g'.abandoned ↔ t ∈ g.abandoned)) ∧
  (v < 2 ^ 32 - 1 → ∀ e, next = some e → e ≠ .exit → t ∈ g'.abandoned) ∧
  (v < 2 ^ 32 - 1 → next = some .exit → v + 2 ≤ SMap.get 0 g'.tickets t ∨ t ∈ g'.abandoned) ∧
  ∀ u, u ≠ t → SMap.get 0 g'.tickets u = SMap.get 0 g.tickets u ∧ (u ∈ g'.abandoned ↔ u ∈ g.abandoned)

end Sys2Proof.Machine

/-- TKTAKE, where it is ready: an abandoned counter raises 0x0E4; a value that is not its workgroup's or is already passed raises 0x0E7; a value still to come blocks its set; else it completes with the core's L1 empty. TKPASS, where it is ready, nothing of its warp is outstanding and no pass of the counter is under way: an abandoned counter raises 0x0E4, a counter that its workgroup does not hold 0x0E7; else it completes and the counter has moved on. TICKET_ADVANCE moves a counter on by its oldest pass once nothing of that pass's warp is outstanding. Moved on: one higher where the next owner has not retired, further where that owner retired by EXIT, abandoned at the last value and where that owner ended otherwise; the other counters are as before. (R120, R266, R312, R313, R314) -/
def Obligations.tickets_pass_in_order : Prop :=
  (∀ (s : State) (f : XForm) (o : Opnd), Ready s (shapeAsync 0x0A f) f noExtra o →
    let t := f.fld 5 0
    let v := (o.rd f.a warpLane).toNat
    let now := SMap.get 0 o.i.gr.tickets t
    let owner := v % (o.i.gr.rec_.gx * o.i.gr.rec_.gy * o.i.gr.rec_.gz)
    (t ∈ o.i.gr.abandoned → exec (.tktake f) s = raise s o.i 0x0E4) ∧
    (t ∉ o.i.gr.abandoned → (owner ≠ o.i.w.wg.wgid ∨ v < now) → exec (.tktake f) s = raise s o.i 0x0E7) ∧
    (t ∉ o.i.gr.abandoned → owner = o.i.w.wg.wgid → now < v → Blocks s o.i (.ticket t v) (exec (.tktake f) s)) ∧
    (t ∉ o.i.gr.abandoned → owner = o.i.w.wg.wgid → now = v →
      ∃ u w, exec (.tktake f) s = .next u ∧ Goes s u o.i f.len f.lnd w ∧ RegsKept o.i w ∧ SameMemory s u ∧ u.wgs = s.wgs ∧
        u.grids = s.grids ∧ ∀ key l, u.l1Copy o.i.w.core key l = none)) ∧
  (∀ (s : State) (f : XForm) (o : Opnd), Ready s (shapeAsync 0x0B f) f noExtra o → NoneOut s o.i.w.key →
    let t := f.fld 5 0
    let now := SMap.get 0 o.i.gr.tickets t
    (∀ p ∈ o.i.gr.passes, p.t ≠ t) → now < 2 ^ 32 →
    let owner := now % (o.i.gr.rec_.gx * o.i.gr.rec_.gy * o.i.gr.rec_.gz)
    (t ∈ o.i.gr.abandoned → exec (.tkpass f) s = raise s o.i 0x0E4) ∧
    (t ∉ o.i.gr.abandoned → owner ≠ o.i.w.wg.wgid → exec (.tkpass f) s = raise s o.i 0x0E7) ∧
    (t ∉ o.i.gr.abandoned → owner = o.i.w.wg.wgid →
      ∃ u w g, exec (.tkpass f) s = .next u ∧ Goes s u o.i f.len f.lnd w ∧ RegsKept o.i w ∧ SameMemory s u ∧ u.wgs = s.wgs ∧
        u.gridAt (gridOfWg o.i.w.wg) = some g ∧ TicketMoved o.i.gr g t)) ∧
  (∀ (s : State) (k : GridKey) (t : Nat) (g : Grid) (p : TicketPass), s.gridAt k = some g → (g.passes.find? fun x => x.t = t) = some p →
    NoneOut s p.warp →
    ∃ u g', exec (.ticketAdvance k t) s = .next u ∧ u.gridAt k = some g' ∧ g'.passes = g.passes.erase p ∧ TicketMoved g g' t ∧
      SameMemory s u ∧ u.warps = s.warps ∧ u.wgs = s.wgs)

/-- DEPDONE, where it is ready, completes; without a completion area nothing else changes; with one its warp is noted, and once every warp of the workgroup is noted or has ended the workgroup's mark is due. DONE_MARK, for a due mark that is not made, of a workgroup with nothing outstanding of what it issued before, however it has ended since, no walker to wait for, sets bit WGID of the area at the address that translates and changes no other byte, and the mark is made. DEPWAIT, where it is ready, completes with no dependency function; else, its needed bits readable, with no walker to wait for: a set fault bit raises 0x0E5; all done bits set, it completes with the core's L1 empty; else its set is blocked. (R116, R117, R120, R266, R315, R316) -/
def Obligations.dependences_and_marks : Prop :=
  (∀ (s : State) (f : XForm) (o : Opnd), Ready s (shapeAsync 0x0D f) f noExtra o →
    (o.i.gr.rec_.compl = 0 → OnlyGoes s o.i f.len f.lnd (exec (.depdone f) s)) ∧
    (o.i.gr.rec_.compl ≠ 0 → ∃ t w g, exec (.depdone f) s = .next t ∧ Goes s t o.i f.len f.lnd w ∧ RegsKept o.i w ∧ SameMemory s t ∧
      w.depDone = true ∧ t.wgAt o.i.w.wg = some g ∧
      ((∀ v ∈ s.warps, v.wg = o.i.w.wg → v.key = o.i.w.key ∨ v.depDone = true ∨ v.pcs = []) → g.doneAt.isSome = true))) ∧
  (∀ (s : State) (k : WgKey) (g : Workgroup) (gr : Grid) (u pa : Nat) (leaf : BitVec 64), s.wgAt k = some g →
    s.gridAt (gridOfWg k) = some gr → g.doneAt = some u → g.doneMade = false → gr.rec_.compl ≠ 0 → s.workOpen k (2 ^ 64) (some u) = false →
    s.walkersBusy newelSite k.ctx (gr.rec_.compl + k.wgid / 8) = false →
    s.translate newelSite k.ctx (gr.rec_.compl + k.wgid / 8) .write = .ok pa leaf → s.paPending pa 1 = false → NoKeptFrame s pa →
    (∀ x, s.lineKeys.find (pa / 128) = some x → x = s.keyIn (keyOf k.ctx leaf)) →
    ∃ t g', exec (.doneMark k) s = .next t ∧ t.wgAt k = some g' ∧ g'.doneMade = true ∧
      (∀ b, b ≠ pa → NoKeptFrame s b → byteAt t.mem b = byteAt s.mem b) ∧
      ∀ j < 8, (byteAt t.mem pa).getLsbD j = ((byteAt s.mem pa).getLsbD j || j == k.wgid % 8)) ∧
  (∀ (s : State) (f : XForm) (o : Opnd) (done bad : Nat → Bool), Ready s (shapeAsync 0x0C f) f noExtra o →
    let r := o.i.gr.rec_
    let area := 8 * ((r.pgx * r.pgy * r.pgz + 63) / 64)
    let bit (base j : Nat) (x : Bool) : Prop := s.walkersBusy o.i.w.core o.i.w.wg.ctx (base + j / 8) = false ∧ ∃ pa leaf, s.translate o.i.w.core o.i.w.wg.ctx (base + j / 8) .read = .ok pa leaf ∧
      s.paPending pa 1 = false ∧ (∀ y, s.lineKeys.find (pa / 128) = some y → y = s.keyIn (keyOf o.i.w.wg.ctx leaf)) ∧
      x = (byteAt s.mem pa).getLsbD (j % 8)
    let need := r.needed o.i.w.wg.wgid
    (r.depfn = 0 → OnlyGoes s o.i f.len f.lnd (exec (.depwait f) s)) ∧
    (r.depfn ≠ 0 → (∀ j ∈ need, bit r.pred j (done j) ∧ bit (r.pred + area) j (bad j)) →
      ((∃ j ∈ need, bad j = true) → Raises s o.i 0x0E5 (exec (.depwait f) s)) ∧
      ((∀ j ∈ need, bad j = false ∧ done j = true) →
        ∃ t w, exec (.depwait f) s = .next t ∧ Goes s t o.i f.len f.lnd w ∧ RegsKept o.i w ∧ SameMemory s t ∧ t.wgs = s.wgs ∧
          ∀ key l, t.l1Copy o.i.w.core key l = none) ∧
      ((∀ j ∈ need, bad j = false) → (∃ j ∈ need, done j = false) → Blocks s o.i .depwait (exec (.depwait f) s))))

namespace Sys2Proof.Machine

/-- A warp's sets in ascending order of their PCs (R119). -/
def SetsRise (w : Warp) : Prop := w.pcs.Pairwise fun a b => a.pc.toNat < b.pc.toNat

/-- The set that a flight of a warp is given to, with the warp's count and sweep after it (R121, R128, R131). -/
def SetChosen (u : State) (v : Warp) (p : PcSet) (runs : Nat) (sweep : List (Pc × LaneMask)) : Prop :=
  let el := u.eligible v
  let left := v.sweep.filter fun x => el.any fun p => p.pc = x.1 && p.lanes = x.2
  let began (q : PcSet) : Prop := ∃ b ∈ v.begun, b.pc = q.pc
  let plain : Prop := v.recorded = none ∧ ∀ q ∈ v.pcs, ¬ began q
  (v.recorded.isSome = true → (∀ q ∈ v.pcs, p.pc.toNat ≤ q.pc.toNat) ∧ runs = v.lowRuns ∧ sweep = v.sweep) ∧
  (v.recorded = none → (∃ q ∈ v.pcs, began q) → began p ∧ (∀ q ∈ v.pcs, began q → p.pc.toNat ≤ q.pc.toNat) ∧ runs = v.lowRuns ∧ sweep = v.sweep) ∧
  (plain → ∀ x xs, left = x :: xs → p.pc = x.1 ∧ p.lanes = x.2 ∧ runs = 0 ∧ sweep = xs) ∧
  (plain → left = [] → (el.length = 1 ∨ v.lowRuns + el.length < 258) →
    p ∈ el ∧ (∀ q ∈ el, p.pc.toNat ≤ q.pc.toNat) ∧ runs = (if el.length = 1 then v.lowRuns else v.lowRuns + 1) ∧ sweep = []) ∧
  (plain → left = [] → 2 ≤ el.length → 258 ≤ v.lowRuns + el.length →
    ∃ low rest, el = low :: p :: rest ∧ runs = 0 ∧ sweep = rest.map fun q => (q.pc, q.lanes))

/-- Warp a goes before warp b on their slot, n warps being resident on the core (R129). -/
def GoesBefore (u : State) (n : Nat) (a b : Warp) : Prop :=
  let older : Prop := b.age < a.age ∨ (a.age = b.age ∧ a.idx < b.idx)
  (7 * n ≤ a.age ∧ b.age < 7 * n) ∨ (7 * n ≤ a.age ∧ 7 * n ≤ b.age ∧ older) ∨
    (a.age < 7 * n ∧ b.age < 7 * n ∧ (u.classOf b < u.classOf a ∨ (u.classOf a = u.classOf b ∧ older)))

end Sys2Proof.Machine

/-- FLIGHT_START, on a slot without a flight and with a ready warp: a flight starts for a ready warp of the slot that no other ready warp goes before: the overdue first, oldest first, else by priority class, then age, then lowest index; its age is 0 and every other warp of the slot has aged by one. The flight has no instruction counted, no prefix and no latch; where the set's flight had begun with an MMAT that waited for its team, it goes on with that one counted and what it holds (log 69). The flight's set is blocked no more, unless the warp has a recorded cause, and is: for a warp with a recorded cause its lowest-PC set, blocked or not, and the flight takes the cause; else a set whose flight has begun; else the next set of a sweep under way; else the lowest-PC eligible set, whose consecutive flights are counted while there is another, until the count is 258 less the eligible sets, when the next higher set is served and the others after it are the sweep. RESULT_WRITEBACK makes the oldest unreadable result of a warp readable. WALK_COMPLETE of a walk that has one of its reticle's 16 walkers, its prefetched line not pending: a leaf that its fetch may execute, or that a prefetch asked for, is kept in a table of its core or chiplet; a failing walk of a prefetch keeps no leaf; one of a fetch that is issuing holds its warp with the fault. Memory keeps every byte. The model's choices here: which agent acts when (log 1), which entry a full table gives up (log 4), that fetches and prefetches walk in steps of their own (log 25), when a result is readable (log 26), and what one eligible set alone does to the count (log 62). (R121, R128, R129, R131, R148, R202, R389, R391) -/
def Obligations.flights_walks_and_results : Prop :=
  (∀ (s : State) (core slot : Nat), let u := s.settle
    let ready (v : Warp) : Prop := v ∈ u.warps ∧ v.core = core ∧ v.pos = slot ∧ u.isReady v = true
    let n := (u.warps.filter fun v => v.core = core).length
    (∀ f ∈ u.flights, ¬ (f.core = core ∧ f.slot = slot)) → (∃ v, ready v) →
    ∃ t fl v p runs sweep, exec (.flightStart core slot) s = .next t ∧ t.flights = u.flights ++ [fl] ∧ ready v ∧ (∀ x, ready x → ¬ GoesBefore u n x v) ∧
      fl.core = core ∧ fl.slot = slot ∧ fl.warp = v.idx ∧ p ∈ v.pcs ∧ fl.active = p.lanes ∧ (SetsRise v → SetChosen u v p runs sweep) ∧
      fl.takes = v.recorded.isSome ∧ fl.pfx = none ∧ fl.l0 = none ∧
      (∀ b, v.recorded = none → (v.begun.find? fun b => b.pc = p.pc) = some b → fl.count = 1 ∧ fl.l1 = b.l1 ∧ fl.l2 = b.l2) ∧
      ((v.recorded.isSome = true ∨ ∀ b ∈ v.begun, b.pc ≠ p.pc) → fl.count = 0 ∧ fl.l1 = none ∧ fl.l2 = none) ∧
      (∀ x ∈ t.warps, x.core = core → x.pos = slot → ∃ y ∈ u.warps, y.key = x.key ∧
        x = if x.idx = v.idx then
            { y with age := 0, lowRuns := runs, sweep := sweep, begun := y.begun.filter (fun b => b.pc ≠ p.pc),
                     pcs := if y.recorded.isSome then y.pcs else y.pcs.map fun q => if q.pc = p.pc then { q with blocked := none } else q }
          else { y with age := y.age + 1 }) ∧ SameMemory s t) ∧
  (∀ (s : State) (core warp : Nat), (∃ x ∈ s.scoreboard, x.1 = ⟨core, warp⟩) →
    ∃ (t : State) (pre post : List (WarpKey × List Nat)), ∃ n, exec (.resultWriteback core warp) s = .next t ∧
      s.scoreboard = pre ++ (⟨core, warp⟩, n) :: post ∧ (∀ x ∈ pre, x.1 ≠ ⟨core, warp⟩) ∧ t.scoreboard = pre ++ post ∧
      t.warps = s.warps ∧ t.wgs = s.wgs ∧ SameMemory s t) ∧
  (∀ (s : State) (x : Walk), (s.walks.find? fun y => y.id = x.id) = some x → s.walkServed x = true → s.bringPending x = false →
    (∀ b n leaf, s.walkResult x = .leaf b n leaf → (x.waiter.isSome = true → permFail .fetch leaf = none) →
      ∃ t e, exec (.walkComplete x.id) s = .next t ∧ t.cached x.core x.ctx x.va = some e ∧ e.ctx = x.ctx ∧ e.base ≤ x.va ∧ x.va < e.base + e.size ∧
        (∀ y ∈ t.walks, y.id ≠ x.id) ∧ t.warps = s.warps ∧ SameMemory s t) ∧
    (∀ c, s.walkResult x = .fail c → x.waiter = none →
      ∃ t, exec (.walkComplete x.id) s = .next t ∧ (∀ y ∈ t.walks, y.id ≠ x.id) ∧ t.warps = s.warps ∧
        (∀ e ∈ t.tlb, e ∈ s.tlb ∨ e.isLeaf = false) ∧ SameMemory s t) ∧
    (∀ c k i, s.walkResult x = .fail c → x.waiter = some k → (s.frontFlight k).issuing = some i → i.w.key = k →
      ∃ t w, exec (.walkComplete x.id) s = .next t ∧ t.warpAt k = some w ∧ w.hold = some ⟨.fault, c, x.va, 3, 0, i.pc⟩ ∧
        t.evSeq = s.evSeq + 1 ∧ SameMemory s t))

namespace Sys2Proof.Machine

/-- What taking an entry reads, by address and length (R498, R499). -/
def entryReads (q : LQueue) (e : QEntry) : List (Nat × Nat) :=
  (if q.p.hostRing then [] else [(q.p.ring + 64 * (q.head % 2 ^ q.p.k), 64)]) ++ e.waits.flatMap EntryWait.reads ++
    (if e.opc = 1 then [(e.record, 256)] else [])

/-- A wait that no completion area can meet (R498, R499). -/
def WaitBad (w : EntryWait) : Prop :=
  w.waddr % 64 ≠ 0 ∨ w.wn = 0 ∨ 2 ^ 31 < w.wn ∨ w.wtot = 0 ∨ 2 ^ 31 < w.wtot ∨ w.wtot < w.wn

/-- Bit i of bytes. -/
def bitAt (bs : List Byte) (i : Nat) : Prop := (bs.getD (i / 8) 0).getLsbD (i % 8) = true

/-- The bytes with the done bits and with the fault bits of a wait (R117, R498). -/
def WaitBits (s : State) (ctx : Nat) (w : EntryWait) (d f : List Byte) : Prop :=
  s.virtBytes ctx w.waddr ((w.wn + 7) / 8) = some d ∧ s.virtBytes ctx (w.waddr + 8 * ((w.wtot + 63) / 64)) ((w.wn + 7) / 8) = some f

/-- Nothing of a workgroup is outstanding that its retirement waits for (R100, R175, R298, R310, R317, R372). -/
def NoneOpen (u : State) (k : WgKey) (g : Workgroup) (gr : Grid) : Prop :=
  let last : Prop := g.owed ≠ [] ∨ (gr.rec_.compl ≠ 0 ∧ g.doneMade = false)
  (∀ a, Pending.access a ∈ u.pending →
    (a.wg = k → a.kind.near = true ∧ a.buffered = false ∧ ¬ last ∧ (g.locks = [] ∨ a.sent.isSome = true)) ∧
    (a.glob = true ∨ gridOfWg a.wg ≠ gridOfWg k ∨ ∀ x ∈ a.lanes, x.target ≠ k.wgid)) ∧
  (∀ r ∈ u.records, r.wg ≠ k) ∧ (∀ x ∈ u.storeGroups, x.wg ≠ k) ∧
  (∀ w ∈ u.warps, w.wg = k → ∀ q ∈ w.q, (w.pcs ≠ [] ∨ q.2.store = true) → q.2.open_ = []) ∧
  (∀ x ∈ u.cores, ∀ e ∈ x.mq, e.wg ≠ k ∧ ∀ t a b ob sb r z l oa st sa ts ms, e.work = .team t a b ob sb r z l oa st sa ts ms → l ≠ k) ∧
  (last → ∀ o ∈ u.galOps, o.wg = k → o.doneHere = true)

end Sys2Proof.Machine

/-- LAUNCH_ENTRY_TAKEN, at the readable head entry of an open queue of a resident context, with no line or walker to wait for: an entry that a kill or QDEL has answered for completes with status 0x22; a reserved entry completes with status 0x0A; so does one with a wait or a record's address that R498 does not allow; one of whose waits' bits or whose record cannot be read completes with 0x0B; one with a wait that is not over is not taken; one whose waits are all over and one of them has a fault completes with 0x20; with none faulted, one that launches nothing with 0; one whose record names another context or fails a check of R96 completes with that check's code; else a grid with record, queue and tag is admitted under the context's next number. RETIREMENT, of a workgroup that has ended by EXIT or a fault with no flight of it, once, a faulted one's queued and suspended records dropped, none of its accesses, transfers, groups and matrix entries and no access into its scratchpad is outstanding, but for near-memory atomics where it has nothing left to mark or abandon and no pins they are to home, and no Gallery access where it has, counts it among its grid's retired; in a grid without a completion area, or once it is marked, no byte of memory changes but that a live object it owes is abandoned; in a grid with one, its done bit, or its fault bit where a fault ended it before its done mark was due, is set and no other byte changes. GRID_COMPLETION, of a grid of a context that is not away with every workgroup retired, or killed, none of it left and none of its accesses or Gallery accesses here outstanding, writes its completion with status 0, or 0x21 where one was killed or faulted, and the grid is gone. The model's choices here: which values of an entry are reserved and what a retirement waits for (logs 15 and 19), the patience of a grid (log 53), the code for a nonzero KEY without KEYV (log 60), the time of a completion (log 6) and when each step is taken (log 1). (R96, R100, R103, R314, R317, R498, R499, R500) -/
def Obligations.launches_retirements_and_completions : Prop :=
  (∀ (s : State) (q : LQueue) (c : Context) (host bs : List Byte), (s.queues.find? fun x => x.p.queue = q.p.queue) = some q →
    s.ctxAt q.p.ctx = some c → s.headEntry q host = some bs → s.ready = true → s.quar = false → q.closing = false → q.head < q.tail →
    q.drain ≤ q.head → c.st = .resident →
    let e := parseEntry bs
    (∀ x ∈ entryReads q e, s.vaWaits newelSite c.num x.1 x.2 = false) →
    let misplaced : Prop := (∃ w ∈ e.waits, WaitBad w) ∨ (e.opc = 1 ∧ e.record % 64 ≠ 0)
    let allEnded (w : EntryWait) : Prop := ∃ d f, WaitBits s c.num w d f ∧ ((∀ i < w.wn, bitAt d i) ∨ ∃ i < w.wn, bitAt f i)
    let faulted (w : EntryWait) : Prop := ∃ d f, WaitBits s c.num w d f ∧ ∃ i < w.wn, bitAt f i
    let free : Prop := e.reserved = false ∧ ¬ misplaced ∧ ∀ w ∈ e.waits, allEnded w ∧ ¬ faulted w
    let readable : Prop := (∀ w ∈ e.waits, ∃ d f, WaitBits s c.num w d f) ∧ (e.opc = 1 → ∃ rb, s.virtBytes c.num e.record 256 = some rb)
    let done (status : Nat) : Prop := ∃ t, exec (.launchEntryTaken q.p.queue host) s = .next t ∧ SameMemory s t ∧ t.grids = s.grids ∧
      t.hostOut = s.hostOut ++ [q.message e.tag status s.time, .msix q.port q.p.vector]
    (e.reserved = true ∨ misplaced → done 0x0A) ∧
    (e.reserved = false → ¬ misplaced → ¬ readable → done 0x0B) ∧
    (e.reserved = false → ¬ misplaced → readable → (∃ w ∈ e.waits, ¬ allEnded w) →
      exec (.launchEntryTaken q.p.queue host) s = .refused (.notEnabled "LAUNCH_ENTRY_TAKEN")) ∧
    (e.reserved = false → ¬ misplaced → readable → (∀ w ∈ e.waits, allEnded w) → (∃ w ∈ e.waits, faulted w) → done 0x20) ∧
    (free → e.opc ≠ 1 → done 0) ∧
    (free → e.opc = 1 → ∀ rb, s.virtBytes c.num e.record 256 = some rb →
      let r := parseRecord rb
      (r.ctx ≠ c.num → done 0x0C) ∧
      (r.ctx = c.num → s.checkRecord r ≠ 0 → done (s.checkRecord r)) ∧
      (r.ctx = c.num → s.checkRecord r = 0 → ∃ t g, exec (.launchEntryTaken q.p.queue host) s = .next t ∧ SameMemory s t ∧
        t.admitted = s.admitted + 1 ∧ g ∈ t.grids ∧ g.key = ⟨c.num, c.nextGrid⟩ ∧ g.rec_ = { r with patience := Config.patience } ∧
        g.queue = q.p.queue ∧ g.tag = e.tag ∧ g.order = s.admitted ∧ t.hostOut = s.hostOut))) ∧
  (∀ (s : State) (q : LQueue) (host bs : List Byte), (s.queues.find? fun x => x.p.queue = q.p.queue) = some q →
    s.headEntry q host = some bs → q.head < q.drain →
    ∃ t, exec (.launchEntryTaken q.p.queue host) s = .next t ∧ SameMemory s t ∧ t.grids = s.grids ∧
      t.hostOut = s.hostOut ++ [q.message (parseEntry bs).tag 0x22 s.time, .msix q.port q.p.vector]) ∧
  (∀ (s : State) (k : WgKey) (g : Workgroup) (gr : Grid) (how : EndKind), s.wgAt k = some g → s.gridAt (gridOfWg k) = some gr →
    g.ended = some how → how ≠ .kill → (∀ c, s.ctxAt k.ctx = some c → c.st ≠ .killing) → g.saved = false →
    (∀ f ∈ s.flights, ∀ w, s.warpAt ⟨f.core, f.warp⟩ = some w → w.wg ≠ k) →
    let u := if how = .exit then s else s.dropRecords k
    NoneOpen u k g gr →
    let retired (t : State) : Prop := exec (.retirement k) s = .next t ∧ ∃ gr', t.gridAt (gridOfWg k) = some gr' ∧
      gr'.retired = gr.retired ++ [(k.wgid, how)]
    ((gr.rec_.compl = 0 ∨ g.doneMade = true) → g.owed = [] → ∃ t, retired t ∧ SameMemory s t) ∧
    (∀ va pa leaf b, (gr.rec_.compl = 0 ∨ g.doneMade = true) → g.owed = [va] → u.vaWaits newelSite k.ctx va 16 = false →
      u.translate newelSite k.ctx va .both = .ok pa leaf → pa % 16 = 0 → NoKeptFrame u pa → u.keysAgree (keyOf k.ctx leaf) pa 16 = true →
      ObjIs s.mem pa b → ∃ t, retired t ∧ ObjIs t.mem pa { b with st := if b.st = 1 then 2 else b.st } ∧
        ∀ a, (a < pa ∨ pa + 16 ≤ a) → NoKeptFrame u a → byteAt t.mem a = byteAt s.mem a) ∧
    (let bad : Bool := decide (how ≠ .exit) && g.doneAt.isNone
     let va := gr.rec_.compl + (if bad then 8 * ((gr.rec_.gx * gr.rec_.gy * gr.rec_.gz + 63) / 64) else 0) + k.wgid / 8
     ∀ pa leaf, gr.rec_.compl ≠ 0 → g.doneMade = false → g.owed = [] → u.walkersBusy newelSite k.ctx va = false →
      u.translate newelSite k.ctx va .write = .ok pa leaf → u.paPending pa 1 = false → NoKeptFrame u pa →
      u.keysAgree (keyOf k.ctx leaf) pa 1 = true →
      ∃ t, retired t ∧ (∀ a, a ≠ pa → NoKeptFrame u a → byteAt t.mem a = byteAt s.mem a) ∧
        ∀ j < 8, (byteAt t.mem pa).getLsbD j = ((byteAt s.mem pa).getLsbD j || j == k.wgid % 8))) ∧
  (∀ (s : State) (k : GridKey) (g : Grid), s.gridAt k = some g → (∀ c, s.ctxAt k.ctx = some c → c.st ≠ .saved ∧ c.st ≠ .restoring) →
    (g.killed = true ∨ g.rec_.gx * g.rec_.gy * g.rec_.gz ≤ g.retired.length) → (∀ w ∈ s.wgs, gridOfWg w.key ≠ k) →
    (∀ a, Pending.access a ∈ s.pending → gridOfWg a.wg ≠ k) → (∀ o ∈ s.galOps, gridOfWg o.wg = k → o.doneHere = true) →
    ∃ t, exec (.gridCompletion k) s = .next t ∧ SameMemory s t ∧ t.gridAt k = none ∧
      ∀ q, (s.queues.find? fun x => x.p.queue = g.queue) = some q →
        q.message g.tag
          (if g.killed = true ∨ ∃ r ∈ g.retired, r.2 ≠ .exit then 0x21 else 0) s.time ∈ t.hostOut)

namespace Sys2Proof.Machine

/-- What a fence of the issuing warp's active threads waits for (R271). -/
def FenceOrders (s : State) (i : Iss) (ord : Nat) (paths : BitVec 5) (id : Nat) : Prop :=
  (∃ a : Access, .access a ∈ s.pending ∧ a.id = id ∧ a.warp = i.w.key ∧ a.threads &&& i.fl.active ≠ 0 ∧ a.kind.onBar = false ∧
    (paths.getLsbD (if a.kind.near then 3 else 0) = true ∨ (ord ≠ 2 ∧ a.kind.atomic = true ∧ a.kind.near = false)) ∧ ¬ (ord = 1 ∧ paths = 1 ∧ a.kind = .store)) ∨
  (paths.getLsbD 1 = true ∧ ((∃ r ∈ s.records, r.id = id ∧ r.warp = i.w.key) ∨ (∃ g ∈ s.storeGroups, g.id = id ∧ g.warp = i.w.key) ∨
    ∃ q ∈ i.w.q, id ∈ q.2.open_)) ∨
  (paths.getLsbD 2 = true ∧ ∃ c ∈ s.cores, c.phys = i.w.core ∧ ∃ e ∈ c.mq, e.id = id ∧ e.ofWarp i.w.idx = true) ∨
  (paths.getLsbD 4 = true ∧ ∃ g ∈ s.galOps, g.id = id ∧ g.warp = i.w.key ∧ g.wg = i.w.wg ∧ g.doneHere = false)

/-- A FENCE at POD that releases and names gl: it freezes views (R483). -/
def freezing (f : XForm) : Prop := f.fld 10 8 = 6 ∧ 2 ≤ f.fld 12 11 ∧ f.bit 4 = true

/-- What a FENCE that names LSU alone does to an access that its threads have outstanding there (R271). -/
def fencedBy (i : Iss) (paths : BitVec 5) : Pending → Pending
  | .access a => if paths = 1 ∧ a.warp = i.w.key ∧ a.threads &&& i.fl.active ≠ 0 ∧ a.kind.near = false ∧ a.kind.onBar = false then
      .access { a with fenced := a.fenced ++ [i.fl.active] } else .access a
  | .fence m => .fence m

end Sys2Proof.Machine

/-- FENCE, where it is ready, completes; where one that freezes views has no walker to wait for, besides its warp, its flight and what it has put in order only the following changes, and translations, lines and free values that finding frozen views' pages uses. A releasing one marks its threads for atomics after it. An acquire that names LSU empties the core's L1, and so does a fence with nothing to wait for that names LSU and another path. At POD with gl every pending rank table of the context becomes active; and one that releases claims the context's views that no fence has claimed, and freezes them at once, on their pages' frames, where it has nothing to wait for. One that names LSU alone marks what its threads have outstanding there (an acquire too, by the model's choice, log 29). Where something that it orders is outstanding, one fence joins it, with its order, scope and paths, waiting for exactly that; once nothing of it is open, nor a walker busy where it freezes views, it is gone, and has acted on L1 and views as above. TOKWAIT, TOKPASS and PHASE raise 0x0E9 but in a deterministic grid. There: TOKWAIT.phase completes once the grid has reached the warp's phase, TOKWAIT.tok once the workgroup's turn has begun and what it buffered is performed, each with the core's L1 empty, and else blocks; where the turn has ended TOKWAIT.tok raises 0x0E8; TOKPASS ends the turn of the warp's phase once; PHASE counts the phase up. TOKEN_LEAVES, where no commit operation of the phase is left to the workgroup at the token and it has ended its turn with nothing outstanding of what it issued before, or a fault or a kill ended it before its turn had ended, or it has retired with nothing outstanding, or has ended and holds only operations of later phases, gives the token to the next workgroup, or to 0 of the next phase; where something issued before the end of the turn is outstanding it does not; what is asked of a retired or ended workgroup's turn is the model's choice (log 19). (R264, R271, R273, R275, R276, R278, R281, R283, R482, R483) -/
def Obligations.fences_and_commit_tokens : Prop :=
  (∀ (s : State) (f : XForm) (o : Opnd), Ready s (shapeSys 0x00 f) f noExtra o →
    let paths : BitVec 5 := f.mod.setWidth 5
    let ord := f.fld 12 11
    let ctx := o.i.w.wg.ctx
    let waits : Prop := ∃ id, FenceOrders s o.i ord paths id
    let mark (w : Warp) : Warp := if 2 ≤ ord then { w with relLanes := w.relLanes ||| o.i.fl.active } else w
    (∃ t w, exec (.fence f) s = .next t ∧ Goes s t o.i f.len f.lnd w ∧ RegsKept o.i w ∧ SameMemory s t) ∧
    ((freezing f → ∀ c va, s.walkersBusy newelSite c va = false) →
    ∃ (u t : State) (w : Warp), exec (.fence f) s = .next t ∧ t = o.afterUpd u f.len mark ∧ Goes s t o.i f.len f.lnd w ∧ RegsKept o.i w ∧
      u = { s with cores := u.cores, pending := u.pending, comms := u.comms, views := u.views, nextId := u.nextId, spent := u.spent,
                   tlb := u.tlb, l2 := u.l2, freeCtr := u.freeCtr } ∧
      ((¬ freezing f ∨ waits) → u.tlb = s.tlb ∧ u.l2 = s.l2 ∧ u.freeCtr = s.freeCtr) ∧
      (∀ e, e ∈ u.spent ↔ e ∈ s.spent ∧ ¬ (e.warp = o.i.w.key ∧ e.threads &&& o.i.fl.active ≠ 0 ∧ e.id < s.nextId ∧
        paths.getLsbD (match e.kind with | .lsu => 0 | .near => 3 | .reduce => 1 | .plain => 1) = true)) ∧
      (paths.getLsbD 0 = true → (ord ≠ 2 ∨ (paths ≠ 1 ∧ ¬ waits)) →
        u.cores = s.cores.map fun (c : Core) => if c.phys = o.i.w.core then { c with l1 := [] } else c) ∧
      (¬ (paths.getLsbD 0 = true ∧ (ord ≠ 2 ∨ (paths ≠ 1 ∧ ¬ waits))) → u.cores = s.cores) ∧
      (f.fld 10 8 = 6 → paths.getLsbD 4 = true →
        u.comms = s.comms.map fun (c : Comm) => if c.ctx = ctx ∧ c.pend = true ∧ c.frozen = false then { c with act := !c.act, pend := false } else c) ∧
      (¬ (f.fld 10 8 = 6 ∧ paths.getLsbD 4 = true) → u.comms = s.comms) ∧
      (¬ freezing f → u.views = s.views) ∧
      (freezing f → u.views.length = s.views.length ∧ ∀ (j : Nat) (v : View), s.views[j]? = some v → ∃ v', u.views[j]? = some v' ∧
        (∀ b, v.fence = none → v.frozen = false → s.sourceOf v = some b → b.ctx = ctx →
          (waits → v' = { v with fence := some s.nextId }) ∧
          (¬ waits → v' = { v with fence := some s.nextId, frozen := true, frames := u.sourceFrames b.ctx b.d.base (b.d.length / 65536) })) ∧
        ((∃ n, v.fence = some n ∧ n ≠ s.nextId) → v' = v) ∧
        ((∀ b, s.sourceOf v = some b → b.ctx ≠ ctx) → v.fence = none → v' = v)) ∧
      (¬ waits → u.pending = s.pending.map (fencedBy o.i paths) ∧ u.nextId = s.nextId) ∧
      (waits → u.nextId = s.nextId + 1 ∧ ∃ m : FenceMark, u.pending = s.pending.map (fencedBy o.i paths) ++ [.fence m] ∧ m.id = s.nextId ∧
        m.warp = o.i.w.key ∧ m.lanes = o.i.fl.active ∧ m.ord = ord ∧ m.scope = f.fld 10 8 ∧ m.paths = paths ∧
        ∀ id, id ∈ m.waits ↔ FenceOrders s o.i ord paths id))) ∧
  (∀ (s : State) (m : FenceMark), .fence m ∈ s.pending → (∀ id ∈ m.waits, s.idOpen id = false) →
    (m.scope = 6 → 2 ≤ m.ord → m.paths.getLsbD 4 = true → ∀ c va, s.walkersBusy newelSite c va = false) →
    .fence m ∉ s.settle.pending ∧ SameMemory s s.settle ∧ s.settle.warps = s.warps ∧ s.settle.wgs = s.wgs ∧
    (m.paths.getLsbD 0 = true → (m.ord ≠ 2 ∨ m.paths ≠ 1) → ∀ key l, s.settle.l1Copy m.warp.core key l = none) ∧
    (m.scope = 6 → 2 ≤ m.ord → m.paths.getLsbD 4 = true → ∀ v ∈ s.settle.views, v.fence = some m.id → (s.sourceOf v).isSome = true →
      v.frozen = true)) ∧
  (∀ (f : XForm), ∀ x ∈ [(Instr.tokwait f, 0x07), (Instr.tokpass f, 0x08), (Instr.phase f, 0x09)], ∀ (s : State) (o : Opnd),
    Ready s (shapeSys x.2 f) f noExtra o → o.i.gr.rec_.det = false → exec x.1 s = raise s o.i 0x0E9) ∧
  (∀ (s : State) (f : XForm) (o : Opnd), Ready s (shapeSys 0x07 f) f noExtra o → o.i.gr.rec_.det = true →
    let p := o.i.w.phase
    let goes : Prop := ∃ t w, exec (.tokwait f) s = .next t ∧ Goes s t o.i f.len f.lnd w ∧ RegsKept o.i w ∧ SameMemory s t ∧ t.wgs = s.wgs ∧
      ∀ key l, t.l1Copy o.i.w.core key l = none
    let begun : Prop := p < o.i.gr.phase ∨ (p = o.i.gr.phase ∧ o.i.w.wg.wgid ≤ o.i.gr.turn)
    let held : Prop := ∃ a : Access, .access a ∈ s.pending ∧ a.wg = o.i.w.wg ∧ a.commit = some p ∧ a.buffered = true
    (f.bit 0 = true → p ≤ o.i.gr.phase → goes) ∧
    (f.bit 0 = true → o.i.gr.phase < p → Blocks s o.i .tokenPhase (exec (.tokwait f) s)) ∧
    (f.bit 0 = false → s.turnEnded o.i p = true → exec (.tokwait f) s = raise s o.i 0x0E8) ∧
    (f.bit 0 = false → s.turnEnded o.i p = false → begun → ¬ held → goes) ∧
    (f.bit 0 = false → s.turnEnded o.i p = false → (¬ begun ∨ held) → Blocks s o.i .token (exec (.tokwait f) s))) ∧
  (∀ (s : State) (f : XForm) (o : Opnd), Ready s (shapeSys 0x08 f) f noExtra o → o.i.gr.rec_.det = true →
    ∃ t w g, exec (.tokpass f) s = .next t ∧ Goes s t o.i f.len f.lnd w ∧ RegsKept o.i w ∧ SameMemory s t ∧ t.wgAt o.i.w.wg = some g ∧
      (g.ends.find o.i.w.phase).isSome = true ∧ (∀ u, o.i.wg.ends.find o.i.w.phase = some u → g.ends = o.i.wg.ends ∧ g.endedIn = o.i.wg.endedIn) ∧
      (o.i.wg.ends.find o.i.w.phase = none → o.i.gr.turnBegun o.i.w.wg.wgid o.i.w.phase = true → o.i.w.phase ∈ g.endedIn)) ∧
  (∀ (s : State) (f : XForm) (o : Opnd), Ready s (shapeSys 0x09 f) f noExtra o → o.i.gr.rec_.det = true →
    ∃ t w, exec (.phase f) s = .next t ∧ Goes s t o.i f.len f.lnd w ∧ RegsKept o.i w ∧ SameMemory s t ∧ w.phase = o.i.w.phase + 1) ∧
  (∀ (s : State) (k : GridKey) (g : Grid), s.gridAt k = some g → g.rec_.det = true →
    g.retired.length ≠ g.rec_.gx * g.rec_.gy * g.rec_.gz →
    let at_ : WgKey := ⟨g.key.ctx, g.key.grid, g.turn⟩
    let left := (g.gone.find? fun x => x.1 = g.turn).bind fun x => x.2.find g.phase
    let over_ : Prop := s.commitDue at_ g.phase = false ∧
      ((s.wgAt at_ = none ∧ ∃ r ∈ g.retired, r.1 = g.turn ∧ (s.workOpen at_ g.phase left = false ∨ (r.2 ≠ .exit ∧ left = none))) ∨
      (∃ wg u, s.wgAt at_ = some wg ∧ wg.ends.find g.phase = some u ∧ s.workOpen at_ g.phase (some u) = false) ∨
      (∃ wg, s.wgAt at_ = some wg ∧ wg.ends.find g.phase = none ∧ (wg.ended = some .kill ∨ wg.ended = some .fault)) ∨
      (∃ wg, s.wgAt at_ = some wg ∧ wg.ends.find g.phase = none ∧ wg.ended.isSome = true ∧ s.workOpen at_ g.phase none = false ∧
        ∃ a p, Pending.access a ∈ s.pending ∧ a.wg = at_ ∧ a.commit = some p ∧ g.phase < p))
    (∀ wg u, s.wgAt at_ = some wg → wg.ends.find g.phase = some u → s.workOpen at_ g.phase (some u) = true →
      exec (.tokenLeaves k) s = .refused (.notEnabled "TOKEN_LEAVES")) ∧
    (over_ →
    ∃ t g', exec (.tokenLeaves k) s = .next t ∧ t.gridAt k = some g' ∧ SameMemory s t ∧ t.wgs = s.wgs ∧ t.warps = s.warps ∧
      (g'.phase, g'.turn) = if g.turn + 1 = g.rec_.gx * g.rec_.gy * g.rec_.gz then (g.phase + 1, 0) else (g.phase, g.turn + 1)))

namespace Sys2Proof.Machine

/-- Quarter q of a pass instruction as the queue holds it (R323, R324, R329). -/
def Opnd.QuarterIs (o : Opnd) (zero regs : Bool) (q : Nat) (y : Quarter) : Prop :=
  y.warp = o.i.w.idx ∧ y.tile = o.f.d.toNat + (qbOf o.f + q) / 4 ∧ y.band = (qbOf o.f + q) % 4 ∧ y.zero = zero ∧
    y.asci = asciOf o.f ∧ (∀ r, r ∈ y.rowList ↔ r < 8 ∧ o.i.mask.getLsbD (8 * q + r) = true) ∧
    (regs = false → y.src = .scratch (o.rdN o.f.a warpLane 32) (o.rdN o.f.e warpLane 32) ∧ y.row0 = 8 * q) ∧
    (regs = true → ∀ n, clsOf o.f.a = .v n → ∀ g : Workgroup, ∀ r ∈ y.rowList, ∀ b < 64,
      y.byte g r b = BitVec.ofNat 8 ((o.i.w.vReg (n + b / 4) (8 * q + r)).toNat / 2 ^ (8 * (b % 4))))

/-- The pass instructions: instruction, XOP, zero start, A from registers (R329). -/
def passForms (f : XForm) : List (Instr × Nat × Bool × Bool) :=
  [(.mma f, 0x00, false, true), (.mmaz f, 0x01, true, true), (.mmas f, 0x02, f.bit 8, false)]

/-- One entry joins the queue of the issuing core (R328). -/
def Opnd.Enters (o : Opnd) (s : State) (work : MWork) (sr : Bool) (r : Out) : Prop :=
  ∃ t w e, r = .next t ∧ Goes s t o.i o.f.len o.f.lnd w ∧ RegsKept o.i { w with srseq := o.i.w.srseq } ∧ SameMemory s t ∧ t.wgs = s.wgs ∧
    w.srseq = (if sr = true ∧ o.i.mask ≠ 0 then o.i.w.srseq + 1 else o.i.w.srseq) ∧
    t.mqOf o.i.w.core = s.mqOf o.i.w.core ++ [e] ∧ e.work = work ∧ e.id = s.nextId ∧ e.warp = o.i.w.idx ∧ e.wg = o.i.w.wg ∧ e.started = false

/-- An instruction that makes an entry raises its first cause, waits while the queue is full, or enters it. -/
def Opnd.Queues (o : Opnd) (s : State) (cause : Option Cause) (work : MWork) (sr : Bool) (x : Instr) : Prop :=
  (∀ c, cause = some c → exec x s = raise s o.i c) ∧
  (cause = none → 8 ≤ (s.mqOf o.i.w.core).length → Blocks s o.i (.matrixRoom 1) (exec x s)) ∧
  (cause = none → (s.mqOf o.i.w.core).length < 8 → o.Enters s work sr (exec x s))

/-- The first cause of rows of scratchpad bytes (R345, R346). -/
def Opnd.rowsStop (o : Opnd) (bytes : Nat) : Option Cause :=
  let ofs := o.rdN o.f.a warpLane 32
  let stride := o.rdN o.f.b warpLane 32
  if o.i.gr.rec_.acc ≤ o.f.d.toNat then some 0x0C1
  else if ofs % 16 ≠ 0 ∨ stride % 16 ≠ 0 then some 0x090
  else if ∃ r < 8 * (o.f.fld 3 2 + 1), o.i.gr.rec_.scratch < ofs + r * stride + bytes then some 0x091
  else none

end Sys2Proof.Machine

/-- The pass instructions, where ready, their slots and scales fit, QB and the tiles are in range, B's and A's bytes are aligned and in bounds, A's registers are there, not awaited and not poisoned, and the queue has room for every quarter: each completes; every quarter of the warp with a lane in the mask stands in a pass not yet started, at its tile and band, with its rows, its start and its A bytes; no started entry changes. SCLD, ACCZ, ACCLD and ACCST, where ready: a misaligned address raises 0x090, bytes out of the scratchpad 0x091, a span beyond scale memory 0x0C6, a tile out of range 0x0C1, a destination slot that is none 0x002; with a full queue the set is blocked; else each completes with one entry at the tail. Registers, workgroups and memory are as before but for the SRSEQ of an ACCST that rounds stochastically. (R323, R324, R328, R329, R330, R334, R335, R343, R344, R345, R346) -/
def Obligations.matrix_instructions_enter_the_queue : Prop :=
  (∀ (f : XForm), ∀ x ∈ passForms f, ∀ (s : State) (o : Opnd), Ready s (shapeMatrix x.2.1 f) f noExtra o →
    (s.coreAt o.i.w.core).isSome = true → passSlotsBad o.i f true = false → qbOf f + o.i.w.width / 8 ≤ 8 →
    f.d.toNat + (qbOf f + o.i.w.width / 8 - 1) / 4 < o.i.gr.rec_.acc →
    o.rdN f.b warpLane 32 % 8192 = 0 → o.rdN f.b warpLane 32 + 8192 ≤ o.i.gr.rec_.bays → scaleCause o.i f 32 (passRows (qbOf f) o.i.mask) true = none →
    (x.2.2.2 = true → ∀ n, clsOf f.a = .v n → n + 16 ≤ o.i.vregs ∧ ∀ j < 16, (s.busyKeys o.i.w.key).contains (n + j) = false ∧
      ∀ l < 64, o.i.mask.getLsbD l = true → o.i.w.regPoison.contains (64 * (n + j) + l) = false) →
    (x.2.2.2 = false → o.rdN f.a warpLane 32 % 16 = 0 ∧ o.rdN f.e warpLane 32 % 16 = 0 ∧ ∀ l < 64, o.i.mask.getLsbD l = true →
      o.rdN f.a warpLane 32 + l * o.rdN f.e warpLane 32 + 64 ≤ o.i.gr.rec_.scratch) →
    (s.mqOf o.i.w.core).length + o.quarters.length ≤ 8 →
    ∃ t w, exec x.1 s = .next t ∧ Goes s t o.i f.len f.lnd w ∧ RegsKept o.i w ∧ SameMemory s t ∧ t.wgs = s.wgs ∧
      (t.mqOf o.i.w.core).length ≤ 8 ∧
      (∀ q ∈ o.quarters, ∃ e ∈ t.mqOf o.i.w.core, e.started = false ∧ e.wg = o.i.w.wg ∧
        ∃ qs, e.work = .pass (o.rdN f.b warpLane 32) (aslotOf f) (bslotOf f) (bsciOf f) qs ∧ ∃ y ∈ qs, o.QuarterIs x.2.2.1 x.2.2.2 q y) ∧
      ∀ (k : Nat) (e : MEntry), (s.mqOf o.i.w.core)[k]? = some e → e.started = true → (t.mqOf o.i.w.core)[k]? = some e) ∧
  (∀ (s : State) (f : XForm) (o : Opnd), Ready s (shapeMatrix 0x04 f) f noExtra o → (s.coreAt o.i.w.core).isSome = true →
    let ofs := o.rdN f.a warpLane 32
    let units := f.fld 15 8 + 1
    o.Queues s (if ofs % 64 ≠ 0 then some 0x090 else if o.i.gr.rec_.scratch < ofs + 64 * units then some 0x091
      else if 2048 * o.i.gr.rec_.acc < 64 * (f.fld 7 0 + units) then some 0x0C6 else none) (.scld ofs (f.fld 7 0) units) false (.scld f)) ∧
  (∀ (s : State) (f : XForm) (o : Opnd), Ready s (shapeMatrix 0x05 f) f noExtra o → (s.coreAt o.i.w.core).isSome = true →
    o.Queues s (if (List.range 8).any fun n => f.bit n && decide (o.i.gr.rec_.acc ≤ n) then some 0x0C1 else none) (.accz (f.mod.setWidth 8)) false (.accz f)) ∧
  (∀ (s : State) (f : XForm) (o : Opnd), Ready s (shapeMatrix 0x06 f) f noExtra o → (s.coreAt o.i.w.core).isSome = true →
    o.Queues s (o.rowsStop 512) (.accld f.d.toNat (o.rdN f.a warpLane 32) (o.rdN f.b warpLane 32) (f.fld 1 0) (f.fld 3 2 + 1)) false
      (.accld f)) ∧
  (∀ (s : State) (f : XForm) (o : Opnd), Ready s (shapeMatrix 0x07 f) f noExtra o → (s.coreAt o.i.w.core).isSome = true →
    let slot := o.i.slot (f.fld 6 4)
    let bound := if f.bit 7 then some (f.fld 11 8, s.boundReg o.i.w.core (f.fld 11 8)) else none
    (f.bit 7 = true → (s.boundReg o.i.w.core (f.fld 11 8)).mode ≠ 2) →
    o.Queues s (if dstSlotOk slot then o.rowsStop (rowBytes slot) else some 0x002)
      (.accst f.d.toNat (o.rdN f.a warpLane 32) (o.rdN f.b warpLane 32) (f.fld 6 4) (f.fld 1 0) (f.fld 3 2 + 1) bound o.i.w.mode o.i.w.srseq)
      (o.i.w.modeRnd = 6 && slotFmt slot != 1 && slotFmt slot != 12) (.accst f))

namespace Sys2Proof.Machine

/-- An instruction has completed with the same value in every lane of its destination; every other register, memory and the
workgroups are as before. -/
def Opnd.GivesOne (o : Opnd) (s : State) (x : Word) (r : Out) : Prop :=
  o.Gives s o.f.len (fun _ => (x.setWidth 64, 0)) false r ∧
    ∃ t w, r = .next t ∧ t.warpAt o.i.w.key = some w ∧ ∀ n, clsOf o.f.d = .s n → o.i.mask ≠ 0 → o.f.nw = false → w.sReg n = x

end Sys2Proof.Machine

/-- Where ready: MCOOP ends its warp's membership, or makes it a member with ordinal 0, or raises 0x0C4. MMAT, its operands accepted, raises 0x0C4 without a whole team, waits while a member is missing, raises 0x0C3 where the members disagree, and else completes with one part of the team pass at the tail of every member's queue and one more on its ordinal; each other member's threads then stand at the next word, its ordinal is one more, and unless LND ends it its flight has begun, with the values that its H2 holds (log 69). MCHK raises 0x0C1 for a tile out of range, waits while an entry names the tile, and else gives its status, which raises 0x0C0 where a check fails unless not trapped. TBSET sets an assay register or raises 0x0C7; TBGET gives its bounds or its state, or raises 0x0C8 for the state in a deterministic grid. MWAIT goes on where no earlier entry of its warp names its tiles, else waits. (R332, R335, R338, R339, R341, R342, R352, R355, R356, R357) -/
def Obligations.teams_checks_and_bounds : Prop :=
  (∀ (s : State) (f : XForm) (o : Opnd), Ready s (shapeMatrix 0x08 f) f noExtra o → o.i.mask ≠ 0 →
    let lead := f.fld 3 0
    let size := f.fld 5 4
    let own := o.i.ownIndex
    let alone : Prop := ∀ v ∈ s.warps, v.wg = o.i.w.wg → v.idx ≠ o.i.w.idx → v.team = none
    let legal : Prop := lead + size ≤ o.i.gr.rec_.gang ∧ lead ≤ own ∧ own < lead + size ∧ alone
    (size = 0 → ∃ t w, exec (.mcoop f) s = .next t ∧ Goes s t o.i f.len f.lnd w ∧ RegsKept o.i w ∧ SameMemory s t ∧ t.wgs = s.wgs ∧
      w.team = none) ∧
    (size ≠ 0 → legal → ∃ t w, exec (.mcoop f) s = .next t ∧ Goes s t o.i f.len f.lnd w ∧ RegsKept o.i w ∧ SameMemory s t ∧ t.wgs = s.wgs ∧
      w.team = some ⟨lead, size, 0, false⟩) ∧
    (size ≠ 0 → ¬ legal → exec (.mcoop f) s = raise s o.i 0x0C4)) ∧
  (∀ (s : State) (f : XForm) (o : Opnd), Ready s (shapeMatrix 0x03 f) f noExtra o → o.i.mask ≠ 0 →
    teamCause o.i f o.i.leads (o.rdN f.a warpLane 32) (o.rdN f.e warpLane 32) (o.rdN f.b warpLane 32) = none →
    (o.i.w.team = none → exec (.mmat f) s = raise s o.i 0x0C4) ∧
    (∀ t, o.i.w.team = some t → t.broken = true → exec (.mmat f) s = raise s o.i 0x0C4) ∧
    (∀ t, o.i.w.team = some t → t.broken = false → s.teamAsks o.i.w t = none → Blocks s o.i (.team f) (exec (.mmat f) s)) ∧
    (∀ t (others : List TeamAsk), o.i.w.team = some t → t.broken = false → s.stopping o.i.w.wg.ctx = false →
      s.teamAsks o.i.w t = some others → (∀ a ∈ others, a.warp.key ≠ o.i.w.key) →
      ((∃ a ∈ others, teamKey a.f.d a.f.mod ≠ teamKey f.d f.mod) → exec (.mmat f) s =
        .next (others.foldl (fun u a => u.deliver a.warp a.pc 0x0C3 0) (s.endFlight.deliver o.i.w o.i.pc 0x0C3 0))) ∧
      ((∀ a ∈ others, teamKey a.f.d a.f.mod = teamKey f.d f.mod ∧ (s.mqOf a.warp.core).length < 8 ∧ (s.coreAt a.warp.core).isSome = true) →
        (s.mqOf o.i.w.core).length < 8 → (s.coreAt o.i.w.core).isSome = true →
        let queued (u : State) (w : Warp) (bofs : Nat) : Prop := ∃ e ∈ u.mqOf w.core, e.warp = w.idx ∧ e.wg = w.wg ∧ e.started = false ∧
          ∃ bsci lead aofs stride asci ts ids, e.work = .team f.d.toNat (aslotOf f) (bslotOf f) bofs bsci (qbOf f) (f.bit 8) lead aofs stride asci ts ids ∧
            s.nextId ∈ ids ∧ e.id ∈ ids
        ∃ u w, exec (.mmat f) s = .next u ∧ Goes s u o.i f.len f.lnd w ∧ RegsKept o.i w ∧ SameMemory s u ∧ u.wgs = s.wgs ∧
          w.team = some { t with ordinal := t.ordinal + 1 } ∧ queued u o.i.w (o.rdN f.b warpLane 32) ∧
          (∀ a ∈ others, queued u a.warp a.bofs) ∧
          ((others.map fun a => a.warp.key).Nodup → ∀ a ∈ others, s.warpAt a.warp.key = some a.warp →
            let holds (l : Option Latch) (x : Nat) : Prop := ∃ y, l = some y ∧ y.scalar = true ∧ SMap.get 0 y.vals 0 = BitVec.ofNat 64 x
            ∃ v, u.warpAt a.warp.key = some v ∧ RegsKept { o.i with w := a.warp } v ∧
              v.team = a.warp.team.map (fun t => { t with ordinal := t.ordinal + 1 }) ∧
              (∀ l < 64, v.pcOf l = if a.lanes.getLsbD l then some (a.pc + 12) else a.warp.pcOf l) ∧
              (a.f.lnd = true → v.begun = a.warp.begun) ∧
              (a.f.lnd = false → ∃ b, v.begun = a.warp.begun ++ [b] ∧ b.pc = a.pc + 12 ∧
                (a.f.h2 = 0 → b.l1 = none ∧ b.l2 = none) ∧ (a.f.h2 = 1 → holds b.l1 a.aofs ∧ b.l2 = none) ∧
                (a.f.h2 = 2 → holds b.l1 a.bofs ∧ b.l2 = none) ∧ (a.f.h2 = 3 → holds b.l1 a.aofs ∧ holds b.l2 a.bofs)))))) ∧
  (∀ (s : State) (f : XForm) (o : Opnd), Ready s (shapeMatrix 0x09 f) f noExtra o →
    let n := f.fld 2 0
    let named : Prop := ∃ e ∈ s.mqOf o.i.w.core, e.wg = o.i.w.wg ∧ e.id < s.nextId ∧ n ∈ e.tiles
    let st := (o.i.wg.tile n).status
    (o.i.gr.rec_.acc ≤ n → exec (.mchk f) s = raise s o.i 0x0C1) ∧
    (n < o.i.gr.rec_.acc → named → Blocks s o.i (.tileBusy n s.nextId) (exec (.mchk f) s)) ∧
    (n < o.i.gr.rec_.acc → ¬ named → (o.i.wg.tile n).poison = [] →
      (st.2 = true → f.bit 3 = false → exec (.mchk f) s = raise s o.i 0x0C0) ∧
      ((st.2 = false ∨ f.bit 3 = true) → o.GivesOne s st.1 (exec (.mchk f) s)))) ∧
  (∀ (s : State) (f : XForm) (o : Opnd), Ready s (shapeMatrix 0x0A f) f noExtra o →
    let lo := decodeFmt fp32 (o.rd f.a warpLane).toNat
    let hi := decodeFmt fp32 (o.rd f.b warpLane).toNat
    let bad : Prop := lo.isNan = true ∨ hi.isNan = true ∨ fp32Less hi lo = true
    (bad → exec (.tbset f) s = raise s o.i 0x0C7) ∧
    (¬ bad → (s.coreAt o.i.w.core).isSome = true → ∃ t w, exec (.tbset f) s = .next t ∧ Goes s t o.i f.len f.lnd w ∧ RegsKept o.i w ∧
      SameMemory s t ∧ t.wgs = s.wgs ∧
      t.boundReg o.i.w.core f.d.toNat = ⟨o.rd f.a warpLane, o.rd f.b warpLane, f.fld 1 0, 0⟩ ∧
      ∀ n, n ≠ f.d.toNat → t.boundReg o.i.w.core n = s.boundReg o.i.w.core n)) ∧
  (∀ (s : State) (f : XForm) (o : Opnd), Ready s (shapeMatrix 0x0B f) f noExtra o →
    let b := s.boundReg o.i.w.core f.a.toNat
    (f.fld 1 0 = 2 → o.i.gr.rec_.det = true → exec (.tbget f) s = raise s o.i 0x0C8) ∧
    (f.fld 1 0 = 0 → o.GivesOne s b.lo (exec (.tbget f) s)) ∧
    (f.fld 1 0 = 1 → o.GivesOne s b.hi (exec (.tbget f) s)) ∧
    (f.fld 1 0 = 2 → o.i.gr.rec_.det = false →
      o.GivesOne s (BitVec.ofNat 32 (b.hit % 65536 * 65536 + b.mode % 4)) (exec (.tbget f) s))) ∧
  (∀ (s : State) (f : XForm) (o : Opnd), Ready s (shapeMatrix 0x0C f) f noExtra o →
    let m : BitVec 8 := f.mod.setWidth 8
    let open_ : Prop := ∃ e ∈ s.mqOf o.i.w.core, e.id < s.nextId ∧ e.ofWarp o.i.w.idx = true ∧ (m = 0 ∨ ∃ n ∈ e.tiles, m.getLsbD n = true)
    ((∃ n < 8, o.i.gr.rec_.acc ≤ n ∧ m.getLsbD n = true) → exec (.mwait f) s = raise s o.i 0x0C1) ∧
    ((∀ n < 8, m.getLsbD n = true → n < o.i.gr.rec_.acc) →
      (¬ open_ → OnlyGoes s o.i f.len f.lnd (exec (.mwait f) s)) ∧
      (open_ → Blocks s o.i (.matrix m s.nextId) (exec (.mwait f) s))))

namespace Sys2Proof.Machine

/-- The event that starts, and the one that completes, a head entry. -/
def startEvent (core : Nat) (e : MEntry) : Instr := if e.isPass then .matrixPassStart core else .matrixEntryStart core
def completeEvent (core : Nat) (e : MEntry) : Instr := if e.isPass then .matrixPassComplete core else .matrixEntryComplete core

/-- The head entry has completed: it has left the queue, and its workgroup is now g'. -/
def HeadDone (s : State) (core : Nat) (e : MEntry) (rest : List MEntry) (g' : Workgroup) : Prop :=
  ∃ t, exec (completeEvent core e) s = .next t ∧ t.mqOf core = rest ∧ SameMemory s t ∧ t.wgAt e.wg = some g'

end Sys2Proof.Machine

/-- What a pass accumulates keeps the model's readings (logs 31, 41: the sign of a zero run). A start, of a head entry of its kind that nothing holds, marks it started. A completion, of a started head entry, takes it off the queue. A pass of quarters on distinct tile bands that reads no poison leaves in each row's 128 elements the accumulation of the row's and the columns' values on the old elements or on zero, and every other element as before; a team pass takes its parts off every queue. SCLD puts the scratchpad's bytes into scale memory; ACCZ zeroes its tiles; ACCLD loads its rows' words; ACCST, its rows apart, stores each row's converted elements packed; the rest of scale memory, of the tiles and of the scratchpad is as before, and global memory keeps every byte. (R84, R321, R324, R326, R331, R336, R341, R343, R344, R345, R346) -/
def Obligations.matrix_entries_complete : Prop :=
  (∀ (s : State) (core : Nat) (e : MEntry) (rest : List MEntry), s.mqOf core = e :: rest → e.id ∈ e.mateIds → s.mayStart e = true →
    ∃ t, exec (startEvent core e) s = .next t ∧ (t.mqOf core).head? = some { e with started := true } ∧ t.warps = s.warps ∧
      t.wgs = s.wgs ∧ SameMemory s t) ∧
  (∀ (s : State) (core : Nat) (e : MEntry) (rest : List MEntry) (g : Workgroup), s.mqOf core = e :: rest → e.started = true →
    s.wgAt e.wg = some g →
    (∀ bofs aslot bslot bsci qs, e.work = .pass bofs aslot bslot bsci qs → (qs.map fun q => (q.tile, q.band)).Nodup →
      let sa := s.slotOf e.wg aslot
      let sb := s.slotOf e.wg bslot
      bBad g sb bsci bofs = false → (∀ q ∈ qs, q.bad g sa = false) →
      ∃ g', HeadDone s core e rest g' ∧ g'.scratch = g.scratch ∧
        (∀ q ∈ qs, ∀ r ∈ q.rowList, ∀ j < 128,
          let key := 128 * (8 * q.band + r) + j
          let a := operandRow g sa (s.aScale e.wg sa q.ts) q.asci 32 (8 * q.band + r) fun b => q.byte g r b
          let b := operandRow g sb (s.tensorScale e.wg sb) bsci 128 j fun b => g.bayByte (bofs + 64 * j + b)
          (g'.tile q.tile).get key = BitVec.ofNat 32 (accumulate (if q.zero then 0 else ((g.tile q.tile).get key).toNat) a b)) ∧
        ∀ n key, (∀ q ∈ qs, q.tile = n → ∀ r ∈ q.rowList, key / 128 ≠ 8 * q.band + r) → (g'.tile n).get key = (g.tile n).get key) ∧
    (∀ ofs idx units, e.work = .scld ofs idx units → g.scratchBad ofs (64 * units) = false →
      ∃ g', HeadDone s core e rest g' ∧ g'.scratch = g.scratch ∧ g'.tiles = g.tiles ∧
        (∀ b < 64 * units, g'.scaleByte (64 * idx + b) = byteAt g.scratch (ofs + b)) ∧
        ∀ a, (a < 64 * idx ∨ 64 * (idx + units) ≤ a) → g'.scaleByte a = g.scaleByte a) ∧
    (∀ m, e.work = .accz m →
      ∃ g', HeadDone s core e rest g' ∧ g'.scratch = g.scratch ∧ (∀ n < 8, m.getLsbD n = true → ∀ k, (g'.tile n).get k = 0) ∧
        ∀ n, (8 ≤ n ∨ m.getLsbD n = false) → g'.tile n = g.tile n) ∧
    (∀ n ofs stride bf nb, e.work = .accld n ofs stride bf nb → (∀ r < 8 * nb, g.scratchBad (ofs + r * stride) 512 = false) →
      ∃ g', HeadDone s core e rest g' ∧ g'.scratch = g.scratch ∧ (∀ k, k ≠ n → g'.tile k = g.tile k) ∧
        (∀ r < 8 * nb, ∀ j < 128, ((g'.tile n).get (128 * (8 * bf + r) + j)).toNat = readLE g.scratch (ofs + r * stride + 4 * j) 4) ∧
        ∀ key, (key / 128 < 8 * bf ∨ 8 * (bf + nb) ≤ key / 128) → (g'.tile n).get key = (g.tile n).get key) ∧
    (∀ (n ofs stride dslot bf nb : Nat) (bound : Option (Nat × BoundReg)) (mode srseq : Word) (gr : Grid),
      e.work = .accst n ofs stride dslot bf nb bound mode srseq → s.gridAt (gridOfWg e.wg) = some gr →
      (∀ k ∈ (g.tile n).poison, k / 128 < 8 * bf ∨ 8 * (bf + nb) ≤ k / 128) →
      let slot := gr.rec_.slots.getD dslot 0
      let key := match slotKey slot with | some k => (gr.rec_.consts.getD k 0).toNat | none => 0
      let code (r j : Nat) : Nat := (accstElem slot key mode (srseq.toNat * 2 ^ 32 + (e.wg.wgid * 4096 + 128 * r + j) % 2 ^ 32) (bound.map (·.2))
        ((g.tile n).get (128 * r + j))).1.code
      let bytes (r : Nat) : List Byte := packElems (fmtBits (slotFmt slot)) ((List.range 128).map (code r))
      rowBytes slot ≤ stride →
      ∃ g', HeadDone s core e rest g' ∧ g'.tiles = g.tiles ∧ g'.scale = g.scale ∧
        (∀ r < 8 * nb, ∀ b < rowBytes slot, byteAt g'.scratch (ofs + r * stride + b) = (bytes (8 * bf + r)).getD b 0) ∧
        ∀ a, (∀ r < 8 * nb, a < ofs + r * stride ∨ ofs + r * stride + rowBytes slot ≤ a) → byteAt g'.scratch a = byteAt g.scratch a)) ∧
  (∀ (s : State) (core : Nat) (e : MEntry) (rest : List MEntry) (n aslot bslot bofs bsci rowt : Nat) (zero : Bool) (lead : WgKey)
    (aofs stride asci : Nat) (ts : Option Word) (ids : List Nat), s.mqOf core = e :: rest → e.started = true →
    e.work = .team n aslot bslot bofs bsci rowt zero lead aofs stride asci ts ids → (s.partsOf e).any (fun p => s.partBad p.2) = false →
    ∃ t, exec (.matrixPassComplete core) s = .next t ∧ t.warps = s.warps ∧ SameMemory s t ∧
      ∀ c, t.mqOf c = (s.mqOf c).filter fun x => !ids.contains x.id)

namespace Sys2Proof.Machine

/-- A Gallery instruction has put one operation beside those outstanding (R452, R453, R467). -/
def Opnd.OpIssued (o : Opnd) (s : State) (c : Comm) (name addr : Nat) (kind : GalKind) (r : Out) : Prop :=
  ∃ t w g, r = .next t ∧ Goes s t o.i o.f.len o.f.lnd w ∧ RegsKept o.i w ∧ SameMemory s t ∧ t.wgs = s.wgs ∧ t.galOps = s.galOps ++ [g] ∧
    g.warp = o.i.w.key ∧ g.wg = o.i.w.wg ∧ g.comm = c.comm ∧ g.name = name ∧ g.gen = c.gen ∧ g.objG = o.f.bit 0 ∧ g.obj = addr ∧
    g.kind = kind ∧ g.started = false ∧ g.suspended = none

/-- Operations of the issuing warp that are open (R452). -/
def Opnd.openOps (o : Opnd) (s : State) : Nat := (s.galOps.filter fun x => x.warp = o.i.w.key && x.wg = o.i.w.wg).length

/-- The address of a completion object as its instruction names it (R304, R451). -/
def Opnd.objAddr (o : Opnd) : Nat := if o.f.bit 0 then (o.rd64 o.f.a warpLane).toNat else (o.rd o.f.a warpLane).toNat

/-- One-sided instructions: instruction, XOP, what they are, and the operation of their descriptor (R461). -/
def sideForms (f : XForm) : List (Instr × Nat × Side × (SideDesc → GalKind)) :=
  [(.puts f, 0x0A, .put, fun d => .puts d.laddr d.rofs d.len d.rank d.sofs d.sname d.sv),
   (.get f, 0x0B, .get, fun d => .get d.laddr d.rofs d.len d.rank),
   (.radd f, 0x0C, .radd (f.fld 3 1), fun d => .radd (f.fld 3 1) d.laddr d.rofs d.len d.rank d.sofs d.sname d.sv)]

end Sys2Proof.Machine

/-- Where ready, the completion object aligned, in bounds and translated, and the communicator's record on this device, not expelled: a COLL on a registered, collective name that is no view, its range in the buffer, and a PUTS, GET or RADD whose descriptor lies in the scratchpad behind no pending scratchpad access, names a permitted name and is in range, completes while its warp has fewer than 16 open operations: one operation, not started, joins those outstanding with its kind, range, rank, operator and signal, the object, and the record's GEN; a COLL counts on its record. Which registration a name that two communicators of the context use stands for is the model's choice: the first registered one (log 22). With 16 open its set is blocked. Registers, workgroups and memory keep their values. GENRD gives GEN, the rank, the number of ranks or the name's BGEN, and raises 0x100 for a name that is not registered. (R304, R432, R444, R451, R452, R453, R456, R461, R462, R466, R467, R479) -/
def Obligations.gallery_instructions_issue : Prop :=
  (∀ (s : State) (f : XForm) (o : Opnd) (r : BarRef) (b : NamedBuffer) (c : Comm), Ready s (shapeSys 0x0D f) f noExtra o →
    o.ObjAt s .both r → s.member.selfExpelled = false →
    let nm := (o.rd f.b warpLane).toNat
    let ofs := 256 * (o.rd f.c warpLane).toNat
    let e := (o.rd f.e warpLane).toNat
    s.bufFor o.i.w.wg.ctx (nm % 65536) = some b → s.commAt b.d.comm = some c → b.d.col = true → b.d.snap = false →
    0 < e → e ≤ 0x7FFFFF → ofs + 256 * e ≤ b.d.length → (f.fld 9 8 ≠ 0 → e % c.nranks = 0) →
    (o.openOps s < 16 → o.OpIssued s c b.d.name o.objAddr (.coll (f.fld 9 8) (f.fld 6 4) ofs (256 * e)
        (if f.bit 10 then some (BitVec.ofNat 16 (nm / 65536)) else none) c.colls) (exec (.coll f) s) ∧
      ∃ t, exec (.coll f) s = .next t ∧ (t.commAt c.comm).map (·.colls) = some (c.colls + 1)) ∧
    (16 ≤ o.openOps s → Blocks s o.i .galleryRoom (exec (.coll f) s))) ∧
  (∀ (f : XForm), ∀ x ∈ sideForms f, ∀ (s : State) (o : Opnd) (r : BarRef) (b : NamedBuffer) (c : Comm),
    Ready s (shapeSys x.2.1 f) f noExtra o → o.ObjAt s .both r → s.member.selfExpelled = false →
    let off := (o.rd f.b warpLane).toNat
    let d := readSide o.i.wg.scratch off
    s.scratchDue o.i.w.key = false → off % 32 = 0 → off + 32 ≤ o.i.gr.rec_.scratch →
    sideNamed s x.2.2.1 o.i.w.wg.ctx d = some b → s.commAt b.d.comm = some c → sideBad s x.2.2.1 o.i.w.wg.ctx b c d = false →
    (o.openOps s < 16 → o.OpIssued s c b.d.name o.objAddr (x.2.2.2 d) (exec x.1 s)) ∧
    (16 ≤ o.openOps s → Blocks s o.i .galleryRoom (exec x.1 s))) ∧
  (∀ (s : State) (f : XForm) (o : Opnd), Ready s (shapeSys 0x0E f) f noExtra o →
    let nm := (o.rd f.a warpLane).toNat % 65536
    (s.bufFor o.i.w.wg.ctx nm = none → exec (.genrd f) s = raise s o.i 0x100) ∧
    (∀ b c, s.bufFor o.i.w.wg.ctx nm = some b → s.commAt b.d.comm = some c →
      o.GivesOne s (match f.fld 1 0 with
        | 0 => c.gen.setWidth 32
        | 1 => BitVec.ofNat 32 c.rank
        | 2 => BitVec.ofNat 32 c.nranks
        | _ => b.d.bgen.setWidth 32) (exec (.genrd f) s)))

namespace Sys2Proof.Machine

/-- The event of a packet's OP (R443). -/
def packetEvents (p : Packet) : List (Instr × Nat) :=
  [(.collectiveData p, 0), (.putsPacket p, 1), (.getRequest p, 2), (.getData p, 3), (.raddPacket p, 4), (.acknowledgement p, 5), (.refusal p, 6)]

/-- A range of a context's addresses is one run of physical bytes, whose lines were written under no other key, whose frames no
view keeps, and whose words nothing under way meets that makes them unpredictable (R192, R269). -/
def OneRun (s : State) (k : Rival) (ctx : Nat) (p : Perm) (va pa n : Nat) : Prop :=
  (∃ key, s.runsOf ctx p va n = .ok [⟨pa, n, key⟩] ∧ s.keysAgree key pa n = true) ∧ (∀ j < n, NoKeptFrame s (pa + j)) ∧
    (k = .plain → ∀ j < n, s.raced k s.nextId none (pa + j / 4 * 4) 4 = false)

/-- The value of a RADD operator on a word (R465). -/
def raddValue (opr d v : Nat) : Nat :=
  match opr with
  | 0 => fatomNew 0 d v
  | 1 => (d + v) % 2 ^ 32
  | 2 => Nat.xor d v
  | 3 => fatomNew 1 d v
  | 4 => fatomNew 2 d v
  | _ => fatomNew 3 d v

/-- An operation has taken a rank's bytes in. -/
def OpTakes (t : State) (o : GalOp) (rank ofs : Nat) (bs : List Byte) : Prop :=
  ∃ o' ∈ t.galOps, o'.id = o.id ∧ o'.got = o.got ++ [(rank, ofs, bs)]

/-- What a rank sends back for a packet (R443, R463, R464, R469). -/
def answerTo (c : Comm) (bgen : BitVec 16) (p : Packet) (op ofs len : Nat) (data : List Byte) : Packet :=
  { op := op, gen := c.gen, comm := p.comm, srcRank := c.rank, dstRank := p.srcRank, name := p.name, bgen := bgen, seq := 0, ofs := ofs,
    len := len, sofs := 0, sname := 0, sv := false, opr := 0, kind := 0, data := data, poison := [] }

/-- An object of global memory can be counted down on. -/
def CountsAt (v : State) (ctx va pa : Nat) (x : Bar) : Prop :=
  ∃ leaf, v.translate newelSite ctx va .both = .ok pa leaf ∧ pa % 16 = 0 ∧ v.keysAgree (keyOf ctx leaf) pa 16 = true ∧ NoKeptFrame v pa ∧
    ObjIs v.mem pa x

/-- What an operation's end does to a state in which its bytes are written: a count-down on its object, and it is gone (R297, R450). -/
def OpEnds (v t : State) (o : GalOp) (bytes : Nat) : Prop :=
  (∀ y ∈ t.galOps, y.id ≠ o.id) ∧
  (o.objG = false → SameMemory v t ∧ ∀ g x, v.wgAt o.wg = some g → ObjIs g.scratch o.obj x →
    ∃ g', t.wgAt o.wg = some g' ∧ ObjIs g'.scratch o.obj (deliverRule bytes x)) ∧
  (o.objG = true → ∀ pa x, CountsAt v o.wg.ctx o.obj pa x → ObjIs t.mem pa (deliverRule bytes x) ∧
    ∀ a, (a < pa ∨ pa + 16 ≤ a) → NoKeptFrame v a → byteAt t.mem a = byteAt v.mem a)

/-- An operation's object can be counted down on without waiting: its workgroup is there, or a global object is reached. -/
def OpCanEnd (v : State) (o : GalOp) : Prop :=
  (o.objG = false → v.absent o.wg = false ∧ (v.wgAt o.wg).isSome = true) ∧
  (o.objG = true → v.rangePending o.wg.ctx .both o.obj 16 = false ∧ ∃ pa leaf, v.translate newelSite o.wg.ctx o.obj .both = .ok pa leaf)

end Sys2Proof.Machine

/-- An event of a packet at the head of its lane on no pending line and no walker takes it: dropped where its record is unknown or left, its rank another or its GEN older; held where it is newer; else delivered. PUTS data is in the buffer's bytes; a RADD word holds the operator's value; either is acknowledged to its sender, and with SV its LEN is counted down on the signal object before. A GET request is answered with the buffer's bytes, in pieces of at most 4 KiB; a name or bytes that cannot be reached with a refusal of 0x105. GET data and acknowledgements join the operation that awaits them, or do nothing where that has been aborted; collective data joins its operation, waits for it, or comes too late, and ends an operation whose range differs; a refusal ends the operation that awaits it, else the collective there. Which operation an answer is for is the model's choice (log 22), as are the two packets without bytes by which ranks compare their ranges and the refusal by which a rank leaves (log 20), and that each rank sends its part to every other, so that what one may send of a collective is known (log 55). The packet of a held list's index is dropped by its timeout. An operation that may start does: a PUTS or GET of another rank is started and memory kept. A started one that has received everything completes: it is gone, a GET's bytes are in local memory, a collective's in its buffer unless its check of generations fails, which records 0x103, and its bytes are counted down on its completion object, in the scratchpad or in global memory. (R443, R448, R449, R450, R452, R453, R454, R457, R463, R464, R465, R480) -/
def Obligations.packets_and_gallery_operations : Prop :=
  (∀ (p : Packet), ∀ x ∈ packetEvents p, ∀ (s u : State), p.op = x.2 → s.packetPending p = false → s.takePacket p = some u →
    ((s.commAt p.comm = none ∨ s.member.selfExpelled = true ∨ ∃ c, s.commAt p.comm = some c ∧ (p.dstRank ≠ c.rank ∨ genOlder p.gen c.gen = true)) →
      exec x.1 s = .next u) ∧
    (∀ c, s.commAt p.comm = some c → s.member.selfExpelled = false → p.dstRank = c.rank →
      (genOlder p.gen c.gen = false → genOlder c.gen p.gen = true → ∃ t, exec x.1 s = .next t ∧ SameMemory s t ∧ t.galOps = s.galOps ∧
        t.member.heldPackets.map Prod.snd = s.member.heldPackets.map Prod.snd ++ [p]) ∧
      (p.gen = c.gen → ∃ t, exec x.1 s = .next t ∧
        ((p.op = 1 ∨ p.op = 2 ∨ p.op = 4) → s.regOf p.comm p.name = none → t = u.sendRank none c 0 (answerTo c p.bgen p 6 p.ofs 0x105 [])) ∧
        ((p.op = 1 ∨ p.op = 4) → ∀ b, s.regOf p.comm p.name = some b → ∃ v : State, v.galOps = s.galOps ∧ v.galPorts = u.galPorts ∧ v.netOut = u.netOut ∧
          t = (if p.sv = true then v.signal p.comm p.sname p.sofs p.len else v).sendRank none c (bufferDie b.d p.ofs) (answerTo c b.d.bgen p 5 p.ofs 0 []) ∧
          (p.op = 1 → ∀ pa, OneRun s .plain b.ctx .write (b.d.base + p.ofs) pa p.data.length →
            (∀ j < p.data.length, byteAt v.mem (pa + j) = p.data.getD j 0) ∧
            ∀ a, (a < pa ∨ pa + p.data.length ≤ a) → NoKeptFrame s a → byteAt v.mem a = byteAt s.mem a) ∧
          (p.op = 4 → ∀ pa, OneRun s .near b.ctx .write (b.d.base + p.ofs) pa p.data.length → pa % 4 = 0 →
            (∀ j < p.data.length / 4, s.poisonedAt (pa + 4 * j) 4 = false → s.raced .near s.nextId none (pa + 4 * j) 4 = false →
              readLE v.mem (pa + 4 * j) 4 =
                raddValue p.opr (readLE s.mem (pa + 4 * j) 4) (ofBytes ((p.data.drop (4 * j)).take 4)) % 2 ^ 32) ∧
            ∀ a, (a < pa ∨ pa + p.data.length ≤ a) → NoKeptFrame s a → byteAt v.mem a = byteAt s.mem a)) ∧
        (p.op = 2 → SameMemory s t ∧ t.galOps = s.galOps ∧ ∀ b, s.regOf p.comm p.name = some b →
          ((∃ e, s.runsOf b.ctx .read (b.d.base + p.ofs) p.len = .error e) →
            t = u.sendRank none c (bufferDie b.d p.ofs) (answerTo c b.d.bgen p 6 p.ofs 0x105 [])) ∧
          ∀ pa key, s.viewOf p.comm p.name = none → s.runsOf b.ctx .read (b.d.base + p.ofs) p.len = .ok [⟨pa, p.len, key⟩] →
            s.keysAgree key pa p.len = true → s.memPoison = [] →
            ∃ v : State, v = { u with tlb := v.tlb, l2 := v.l2, freeCtr := v.freeCtr } ∧
              t = (pieces p.ofs p.len).foldl (fun (w : State) x => w.sendRank none c (bufferDie b.d x.1)
                (answerTo c b.d.bgen p 3 x.1 x.2 (((readBytes s.mem pa p.len).drop (x.1 - p.ofs)).take x.2))) v) ∧
        ((p.op = 3 ∨ p.op = 5) → SameMemory s t ∧ (s.awaiting p = none → t = u) ∧
          ∀ o, s.awaiting p = some o → ((∀ x ∈ s.galOps, x.id ≠ o.id) → t.galOps = s.galOps) ∧
            ((∃ x ∈ s.galOps, x.id = o.id) → OpTakes t o p.srcRank p.ofs (if p.op = 3 then p.data else []))) ∧
        (p.op = 0 → (s.collOp p = none → p.seq < c.colls → t = u) ∧ (s.collOp p = none → c.colls ≤ p.seq → t = { u with ahead := u.ahead ++ [p] }) ∧
          ∀ o, s.collOp p = some o → (o.started = false → t = { u with ahead := u.ahead ++ [p] }) ∧
            ∀ kind opr ofs len gchk seq, o.started = true → o.kind = .coll kind opr ofs len gchk seq → p.name = o.name → p.kind = kind →
              p.opr = opr →
              let want := if kind = 0 then (ofs, len) else segment ofs len c.nranks (if kind = 1 then p.srcRank else c.rank)
              (0 < p.len → want.1 ≤ p.ofs → p.ofs + p.len ≤ want.1 + want.2 → SameMemory s t ∧ OpTakes t o p.srcRank p.ofs p.data) ∧
              (p.len = 0 → p.ofs ∈ collHeads ofs len gchk → SameMemory s t ∧
                ∃ o' ∈ t.galOps, o'.id = o.id ∧ o'.got = o.got ∧ o'.heads = o.heads ++ [(p.srcRank, p.ofs)]) ∧
              ((0 < p.len ∧ (p.ofs < want.1 ∨ want.1 + want.2 < p.ofs + p.len) ∨ p.len = 0 ∧ p.ofs ∉ collHeads ofs len gchk) →
                ∀ y ∈ t.galOps, y.id ≠ o.id)) ∧
        (p.op = 6 → p.ofs ≠ 2 ^ 36 - 1 → ∀ o, (s.awaiting p = some o ∧ (∃ x ∈ s.galOps, x.id = o.id) ∨ s.awaiting p = none ∧ s.lostColl p = some o) →
          ∀ y ∈ t.galOps, y.id ≠ o.id) ∧
        (p.op = 6 → p.ofs = 2 ^ 36 - 1 → ∀ o ∈ s.galOps, o.comm = p.comm → o.gen = p.gen → (o.kind.rank? = none ∨ o.kind.rank? = some p.srcRank) →
          ∀ y ∈ t.galOps, y.id ≠ o.id)))) ∧
  (∀ (v : State) (comm sname sofs len pa : Nat) (b : NamedBuffer) (x : Bar), v.regOf comm sname = some b →
    CountsAt v b.ctx (b.d.base + 16 * sofs) pa x → ObjIs (v.signal comm sname sofs len).mem pa (deliverRule len x) ∧
      ∀ a, (a < pa ∨ pa + 16 ≤ a) → NoKeptFrame v a → byteAt (v.signal comm sname sofs len).mem a = byteAt v.mem a) ∧
  (∀ (s : State) (i : Nat), i < s.member.heldPackets.length → ∃ t, exec (.heldPacketTimeout i) s = .next t ∧ SameMemory s t ∧
    t.member.heldPackets = s.member.heldPackets.eraseIdx i) ∧
  (∀ (s : State) (id : Nat) (o : GalOp) (c : Comm), (s.settle.galOps.find? fun x => x.id = id) = some o → s.settle.commAt o.comm = some c →
    let u := s.settle
    (u.mayStartOp o c = true → ∃ t, exec (.collectiveComplete id) s = .next t ∧
      ((∃ b, u.regOf o.comm o.name = some b) → o.kind.rank?.isSome = true → o.kind.rank? ≠ some c.rank → SameMemory s t ∧
        ((∀ laddr len l, (∃ rofs rank sofs sname sv, o.kind = .puts laddr rofs len rank sofs sname sv) ∨
            (∃ opr rofs rank sofs sname sv, o.kind = .radd opr laddr rofs len rank sofs sname sv) → u.runsOf o.wg.ctx .read laddr len = .ok l →
          ∃ o' ∈ t.galOps, o'.id = id ∧ o'.started = true) ∧
        (∀ laddr rofs len rank, o.kind = .get laddr rofs len rank → ∃ o' ∈ t.galOps, o'.id = id ∧ o'.started = true)))) ∧
    (o.started = true → o.suspended = none → o.received c = true → u.endPending o c = false →
      (∀ opr laddr rofs len rank sofs sname sv, (o.kind = .puts laddr rofs len rank sofs sname sv ∨ o.kind = .radd opr laddr rofs len rank sofs sname sv) →
        OpCanEnd u o → ∃ t, exec (.collectiveComplete id) s = .next t ∧ OpEnds u t o len) ∧
      (∀ laddr rofs len rank pa, o.kind = .get laddr rofs len rank → OneRun u .plain o.wg.ctx .write laddr pa len → (o.fromRank rank).length = len →
        ∃ v, (∀ j < len, byteAt v.mem (pa + j) = (o.fromRank rank).getD j 0) ∧ v.wgs = u.wgs ∧
          (∀ a, (a < pa ∨ pa + len ≤ a) → NoKeptFrame u a → byteAt v.mem a = byteAt s.mem a) ∧
          (OpCanEnd v o → ∃ t, exec (.collectiveComplete id) s = .next t ∧ OpEnds v t o len)) ∧
      (∀ kind opr ofs len gchk seq b x pa, o.kind = .coll kind opr ofs len gchk seq → u.regOf o.comm o.name = some b →
        (∀ g ∈ gchk, ∀ e ∈ o.bgens, e.2 = g) →
        collResult o c kind opr ofs len = [x] → OneRun u .plain b.ctx .write (b.d.base + x.1) pa x.2.length →
        ∃ v, (∀ j < x.2.length, byteAt v.mem (pa + j) = x.2.getD j 0) ∧ v.wgs = u.wgs ∧
          (∀ a, (a < pa ∨ pa + x.2.length ≤ a) → NoKeptFrame u a → byteAt v.mem a = byteAt s.mem a) ∧
          (OpCanEnd v o → ∃ t, exec (.collectiveComplete id) s = .next t ∧ OpEnds v t o (if kind = 2 then len / c.nranks else len))) ∧
      (∀ kind opr ofs len g seq b, o.kind = .coll kind opr ofs len (some g) seq → u.regOf o.comm o.name = some b → (∃ e ∈ o.bgens, e.2 ≠ g) →
        ∃ t, exec (.collectiveComplete id) s = .next t ∧ (∀ y ∈ t.galOps, y.id ≠ id) ∧
          ∀ w, u.absent o.wg = false → u.warpAt o.warp = some w → w.wg = o.wg → w.pcs ≠ [] →
            ∃ w', t.warpAt o.warp = some w' ∧ w'.recorded = some (w.recorded.getD 0x103))))

namespace Sys2Proof.Machine

/-- A membership message is on the link to a device, where its port's lane 0 is not stopped and nothing waits there (R442, R476). -/
def Tells (s t : State) (dev kind evk : Nat) (m : MemberMsg) : Prop :=
  ∀ n q, s.portFor 0 dev = some n → s.galPorts[n]? = some q → q.peerStop.getLsbD 0 = false → (∀ x ∈ q.waiting, x.2.lane ≠ 0) →
    ∃ f, NetMsg.flit n f ∈ t.netOut.drop s.netOut.length ∧ f.data = packMember kind evk m ∧ f.crc = flitCheck f

/-- A membership message at the head of its lane: the state without it. -/
abbrev State.MemberHere (s : State) (kind evk : Nat) (m : MemberMsg) (u : State) : Prop := s.takeMember kind evk m = some u

/-- A suspicion that this device has raised itself. -/
def Suspicion.own (q : Suspicion) (s : State) : Bool := q.from_ = s.member.cfg.podnum

/-- What a device says about another (R476). -/
def Says (s : State) (dev inc : Nat) : MemberMsg := ⟨s.member.cfg.podnum, dev, inc, 0, 0, 0, 0, 0⟩

end Sys2Proof.Machine

/-- Who the watchers are, and the moment of each timer, are the model's (logs 6, 23). HEARTBEAT_INTERVAL of a device in a pod tells every watcher. A HEARTBEAT of a watched, unexpelled device resets its count, keeps its incarnation and answers DENY to those who asked; any other changes nothing. HEARTBEAT_MISS adds one; at the third CONFIRM goes to those who asked, and without a suspicion of its own one is raised and its other watchers told. SUSPECT is answered CONFIRM at a count of three, else kept. A first CONFIRM is noted, the second asks another device's coordinator for the expel; a repeat asks again. DENY and the suspicion's timeout end the device's own suspicion and reset the count. Memory keeps every byte. (R418, R471, R472, R476, R479) -/
def Obligations.heartbeats_and_suspicions : Prop :=
  (∀ (s : State), s.quar = false → s.member.cfg.watch ≠ [] →
    ∃ t, exec .heartbeatInterval s = .next t ∧ SameMemory s t ∧ t.member = s.member ∧
      ∀ d ∈ Config.watchers s.member.cfg.podnum, Tells s t d 0 0 (Says s s.member.cfg.podnum s.member.cfg.inc)) ∧
  (∀ (s u : State) (m : MemberMsg), s.MemberHere 0 0 m u →
    ((s.member.watched m.sender = none ∨ (m.sender, m.inc) ∈ s.member.expelled) → exec (.heartbeat m) s = .next u) ∧
    ((s.member.watched m.sender).isSome = true → (m.sender, m.inc) ∉ s.member.expelled →
      ∃ t, exec (.heartbeat m) s = .next t ∧ SameMemory s t ∧ SMap.get 0 t.member.miss m.sender = 0 ∧
        t.member.incs.find m.sender = some m.inc ∧
        (∀ q, q ∈ t.member.suspicions ↔ q ∈ s.member.suspicions ∧ (q.dev = m.sender → q.own s = true)) ∧
        ∀ q ∈ s.member.suspicions, q.dev = m.sender → q.own s = false → Tells u t q.from_ 3 0 (Says s m.sender m.inc))) ∧
  (∀ (s : State) (dev : Nat) (w : WatchEntry), s.member.watched dev = some w →
    let n := SMap.get 0 s.member.miss dev + 1
    let inc := (s.member.incs.find dev).getD 0
    ∃ t, exec (.heartbeatMiss dev) s = .next t ∧ SameMemory s t ∧ SMap.get 0 t.member.miss dev = n ∧
      (n ≠ 3 → t.member.suspicions = s.member.suspicions) ∧
      (n = 3 → (∀ q ∈ t.member.suspicions, q.dev = dev → q.own s = true) ∧ (∃ q ∈ t.member.suspicions, q.dev = dev) ∧
        (∀ q ∈ s.member.suspicions, q.dev = dev → q.own s = false → Tells s t q.from_ 2 0 (Says s dev inc)) ∧
        ((∀ q ∈ s.member.suspicions, q.dev = dev → q.own s = false) → ∀ d ∈ w.others, Tells s t d 1 0 (Says s dev inc)))) ∧
  (∀ (s u : State) (m : MemberMsg), s.MemberHere 1 0 m u →
    (s.member.watched m.subj = none → exec (.suspect m) s = .next u) ∧
    ((s.member.watched m.subj).isSome = true →
      ∃ t, exec (.suspect m) s = .next t ∧ SameMemory s t ∧
        (3 ≤ SMap.get 0 s.member.miss m.subj → t.member = s.member ∧ Tells u t m.sender 2 0 (Says s m.subj ((s.member.incs.find m.subj).getD 0))) ∧
        (SMap.get 0 s.member.miss m.subj < 3 → t.member.suspicions = s.member.suspicions ++ [⟨m.subj, m.sender, [], false⟩]))) ∧
  (∀ (s u : State) (m : MemberMsg), s.MemberHere 2 0 m u →
    let mine := s.member.suspicions.find? fun q => q.dev = m.subj && q.own s
    (mine = none → exec (.confirm m) s = .next u) ∧
    (∀ q, mine = some q →
      ((q.requested = true ∨ m.sender ∈ q.confirms) → exec (.confirm m) s = .next u) ∧
      (q.requested = false → q.confirms = [] → ∃ t, exec (.confirm m) s = .next t ∧ SameMemory s t ∧
        ⟨q.dev, q.from_, [m.sender], false⟩ ∈ t.member.suspicions) ∧
      (∀ first d, q.requested = false → q.confirms = [first] → m.sender ≠ first → s.member.coordinator = some d → d ≠ s.member.cfg.podnum →
        ∃ t, exec (.confirm m) s = .next t ∧ SameMemory s t ∧ ⟨q.dev, q.from_, [first, m.sender], true⟩ ∈ t.member.suspicions ∧
          Tells u t d 4 0 { Says s q.dev ((s.member.incs.find q.dev).getD 0) with conf1 := first, conf2 := m.sender }))) ∧
  (∀ (s u : State) (m : MemberMsg), s.MemberHere 3 0 m u →
    ((∀ q ∈ s.member.suspicions, q.dev = m.subj → q.own s = false) → exec (.deny m) s = .next u) ∧
    ((∃ q ∈ s.member.suspicions, q.dev = m.subj ∧ q.own s = true) → ∃ t, exec (.deny m) s = .next t ∧ SameMemory s t ∧
      SMap.get 0 t.member.miss m.subj = 0 ∧ ∀ q, q ∈ t.member.suspicions ↔ q ∈ s.member.suspicions ∧ (q.dev = m.subj → q.own s = false))) ∧
  (∀ (s : State) (dev : Nat), (∃ q ∈ s.member.suspicions, q.dev = dev ∧ q.own s = true ∧ q.requested = false) →
    ∃ t, exec (.suspicionTimeout dev) s = .next t ∧ SameMemory s t ∧ SMap.get 0 t.member.miss dev = 0 ∧
      ∀ q, q ∈ t.member.suspicions ↔ q ∈ s.member.suspicions ∧ (q.dev = dev → q.own s = false)) ∧
  (∀ (s : State) (dev d : Nat) (q : Suspicion), (s.member.suspicions.find? fun q => q.dev = dev && q.own s && q.requested) = some q →
    s.member.coordinator = some d → d ≠ s.member.cfg.podnum →
    ∃ t, exec (.expelRequestRepeat dev) s = .next t ∧ SameMemory s t ∧ t.member = s.member ∧
      Tells s t d 4 0 { Says s dev ((s.member.incs.find dev).getD 0) with conf1 := q.confirms.getD 0 0, conf2 := q.confirms.getD 1 0 })

namespace Sys2Proof.Machine

/-- An event has been applied to a state (R473, R477, R478, R479). -/
def Applied (s t : State) (k : EventKind) (m : MemberMsg) : Prop :=
  t.member.evn = m.evn ∧ t.member.log = s.member.log ++ [(k, m)] ∧
  (k ≠ .join → (m.subj, m.inc) ∈ t.member.expelled ∧ (∀ q ∈ t.member.suspicions, q.dev ≠ m.subj) ∧
    (m.subj = s.member.cfg.podnum → t.member.selfExpelled = true ∧ (∀ c ∈ t.comms, c.frozen = true) ∧ t.galOps = []) ∧
    (m.subj ≠ s.member.cfg.podnum → (s.comms.map (·.comm)).Nodup → ∀ c ∈ s.comms, c.frozen = false → c.evn < m.evn →
      let named : Prop := (∃ e ∈ c.active, entryIs m.subj e = true) ∨ (c.pend = true ∧ ∃ e ∈ c.inactive, entryIs m.subj e = true)
      let vac (e : BitVec 16) : BitVec 16 := if entryIs m.subj e then 0x8000 else e
      let joins : Prop := ∃ (r : Nat) (a b : BitVec 16), c.inactive[r]? = some a ∧ c.active[r]? = some b ∧ entryIs m.subj a = true ∧ entryIs m.subj b = false
      (¬ named → c ∈ t.comms) ∧
      (named → ∃ c' ∈ t.comms, c' = { c with gen := c.gen + 1, colls := 0, t0 := c.t0.map vac, t1 := c.t1.map vac, pend := c'.pend } ∧
        (c'.pend = true ↔ c.pend = true ∧ ¬ joins)))) ∧
  (k = .join → (s.comms.map (·.comm)).Nodup → ∀ c ∈ s.comms, c.frozen = false → c.evn < m.evn →
    let next := if c.pend then c.inactive else c.active
    let fits : Prop := c.comm = m.comm ∧ (∃ e, next[m.rank]? = some e ∧ e.getLsbD 15 = true) ∧
      ¬ ∃ e ∈ s.member.log, e.1 ≠ .join ∧ e.2.subj = m.subj ∧ e.2.inc = m.inc ∧ e.2.evn < m.evn
    let filled := next.set m.rank (BitVec.ofNat 16 m.subj)
    let c1 : Comm := { c with gen := c.gen + 1, colls := 0 }
    (¬ fits → c ∈ t.comms) ∧
    (fits → m.subj = s.member.cfg.podnum → ({ c1 with t0 := filled, t1 := filled, pend := false } : Comm) ∈ t.comms) ∧
    (fits → m.subj ≠ s.member.cfg.podnum →
      ({ c1 with t0 := if c.act then filled else c.t0, t1 := if c.act then c.t1 else filled, pend := true } : Comm) ∈ t.comms))

/-- The requests at a coordinator: event, kind of message, kind of event (R472, R479, R489). -/
def RequestEvent (m : MemberMsg) (i : Instr) (kind : Nat) (k : EventKind) : Prop :=
  (i = .expelRequest m ∧ kind = 4 ∧ k = .expel) ∨ (i = .departureRequest m ∧ kind = 5 ∧ k = .departure) ∨
    (i = .joinRequestAtCoordinator m ∧ kind = 5 ∧ k = .join)

/-- The events received. -/
def floodEvents (m : MemberMsg) : List (Instr × EventKind) :=
  [(.eventExpel m, .expel), (.eventDeparture m, .departure), (.eventJoin m, .join)]

/-- This device is the active coordinator (R473). -/
abbrev State.Coordinates (s : State) : Prop :=
  s.member.coordinator = some s.member.cfg.podnum ∧ s.member.selfExpelled = false ∧ s.quar = false

end Sys2Proof.Machine

/-- What tells a request from an event, and what applying a leave ends, follow the model's readings (logs 22, 23). A request taken by a device that is the active coordinator: an expel of a pair already expelled changes nothing; while it waits the request is kept; else it is applied under the next EVN and told to every watched device. The end of the wait without requests clears it. An event from another than the active coordinator, or one already applied or kept, changes nothing; the next one with none kept is applied and forwarded; a later one is kept. Applied: EVN is the event's, the log ends with it; a leave of another device makes its ranks vacant in both tables of each unfrozen older record that names it in its active or pending table, ends PEND where it was the one joining there, and raises GEN by one with the count of COLLs 0; a leave of this device itself freezes every record and ends every operation; a join at a rank that is vacant in the table that takes effect next, of a device that has not left, raises GEN with the count of COLLs 0 and puts the device into that table, which is pending, or, for this device itself, into both with PEND 0. A record that an event does not concern keeps its contents. A logged event that a device asks for is told to it. (R473, R477, R478, R479, R489) -/
def Obligations.membership_events_are_applied_in_order : Prop :=
  (∀ (m : MemberMsg) (i : Instr) (kind : Nat) (k : EventKind), RequestEvent m i kind k → ∀ (s u : State),
    s.MemberHere kind (if kind = 5 then k.code else 0) m u → s.Coordinates → (kind = 5 → m.evn = 0) →
    (k ≠ .join → (m.subj, m.inc) ∈ s.member.expelled → exec i s = .next u) ∧
    ((k = .join ∨ (m.subj, m.inc) ∉ s.member.expelled) →
      ∃ t, exec i s = .next t ∧
        (s.member.delaying = true → SameMemory s t ∧ t.member.requests = s.member.requests ++ [(k, m)] ∧ t.member.evn = s.member.evn) ∧
        (s.member.delaying = false →
          let e : MemberMsg := { m with sender := s.member.cfg.podnum, evn := s.member.evn + 1 }
          Applied s t k e ∧ ∀ w ∈ s.member.cfg.watch, Tells u t w.dev 5 k.code e))) ∧
  (∀ (s u : State) (m : MemberMsg), s.MemberHere 4 0 m u → ¬ s.Coordinates → exec (.expelRequest m) s = .next u) ∧
  (∀ (s : State), s.member.delaying = true →
    ∃ t, exec .coordinatorDelay s = .next t ∧
      (s.member.requests = [] → t = { s with member := { s.member with delaying := false, requests := [] } })) ∧
  (∀ (m : MemberMsg), ∀ x ∈ floodEvents m, ∀ (s u : State), s.MemberHere 5 x.2.code m u → ¬ (m.evn = 0 ∧ s.Coordinates) →
    ((s.member.coordinator ≠ some m.sender ∨ m.evn ≤ s.member.evn ∨ ∃ e ∈ s.member.early, e.2.evn = m.evn) →
      exec x.1 s = .next u) ∧
    (s.member.coordinator = some m.sender → (∀ e ∈ s.member.early, e.2.evn ≠ m.evn) →
      (m.evn = s.member.evn + 1 → s.member.early = [] → ∃ t, exec x.1 s = .next t ∧ Applied s t x.2 m ∧
        ∀ w ∈ s.member.cfg.watch, Tells u t w.dev 5 x.2.code m) ∧
      (s.member.evn + 1 < m.evn → ∃ t, exec x.1 s = .next t ∧ SameMemory s t ∧ t.member.early = s.member.early ++ [(x.2, m)] ∧
        t.member.evn = s.member.evn ∧ ∀ w ∈ s.member.cfg.watch, Tells u t w.dev 5 x.2.code m))) ∧
  (∀ (s u : State) (m : MemberMsg), s.MemberHere 6 0 m u →
    ((∀ e ∈ s.member.log, e.2.evn ≠ m.evn) → exec (.eventResendRequest m) s = .next u) ∧
    (∀ e, (s.member.log.find? fun x => x.2.evn = m.evn) = some e → ∃ t, exec (.eventResendRequest m) s = .next t ∧ SameMemory s t ∧
      t.member = s.member ∧ Tells u t m.sender 5 e.1.code e.2))

/-- On a port in service: a flit whose CRC is wrong is dropped and the next sequence number is asked for again; one that is out of sequence changes nothing; the next one, with room in its lane, joins the lane's flits unless it is reserved, its STOP bits are kept and what waits on a lane they open is sent; a resend request sends the held flits from its number on. PORT_DOWN, of a port in service whose resends have failed (as either end counts them: the model's choice, log 24; the bit order of the CRC is too, log 18), takes it down, counts it, keeps the whole packets it has received and switches the routes of its base die that used it. A port that was down is in service once trained, its lanes keeping those packets; that its sequence numbers are then 0 is the model's choice (log 24), as no rule says where they start. Memory keeps its bytes but for those of operations that PORT_DOWN aborts. (R441, R442, R475) -/
def Obligations.links_resend_and_ports_change : Prop :=
  (∀ (s : State) (n : Nat) (p : GalPort), s.galPorts[n]? = some p → p.up = true →
    (∀ seq, ∃ t p', exec (.flitReceive n (.resend seq)) s = .next t ∧ SameMemory s t ∧ t.galPorts[n]? = some p' ∧ p'.lanes = p.lanes ∧
      p'.txSeq = p.txSeq ∧ p'.held = p.held ∧ t.netOut = s.netOut ++ (p.resendFrom seq).map (NetMsg.flit n)) ∧
    (∀ f, f.crc ≠ flitCheck f → ∃ t p', exec (.flitReceive n (.flit f)) s = .next t ∧ SameMemory s t ∧ t.galPorts[n]? = some p' ∧
      p'.lanes = p.lanes ∧ p'.rxSeq = p.rxSeq ∧ p'.discarding = true ∧ t.netOut = s.netOut ++ [.resend n p.rxSeq]) ∧
    (∀ f, f.crc = flitCheck f → f.seqno ≠ p.rxSeq → exec (.flitReceive n (.flit f)) s = .next s) ∧
    (∀ f, f.crc = flitCheck f → f.seqno = p.rxSeq → (p.lane f.vln.toNat).length + s.laneHeld n f.vln.toNat < 512 →
      ∃ t p', exec (.flitReceive n (.flit f)) s = .next t ∧ SameMemory s t ∧ t.galPorts[n]? = some p' ∧ p'.rxSeq = p.rxSeq + 1 ∧
        p'.discarding = false ∧ p'.peerStop = f.stop ∧ (∀ v, v ≠ f.vln.toNat → p'.lanes[v]? = p.lanes[v]?) ∧
        (f.vln.toNat < p.lanes.length → p'.lane f.vln.toNat = dropReserved (p.lane f.vln.toNat ++ [f])) ∧
        (p.waiting = [] → t.netOut = s.netOut) ∧ ∀ x ∈ p'.waiting, f.stop.getLsbD x.2.lane = true)) ∧
  (∀ (s : State) (n : Nat) (p : GalPort), s.galPorts[n]? = some p → p.up = true → p.failing = true →
    ∃ t p', exec (.portDown n) s = .next t ∧ t.galPorts[n]? = some p' ∧ p'.up = false ∧ p'.downs = p.downs + 1 ∧
      (p.held = [] → p.waiting = [] → ∀ v, p'.lane v = wholeFlits (p.lane v).length (p.lane v)) ∧
      s.evSeq < t.evSeq ∧ (p.held = [] → SameMemory s t) ∧
      ∀ die e dev, die = n / 4 → s.member.cfg.routes[die]?.map (SMap.get 0 · dev) = some e →
        t.member.cfg.routes[die]?.map (SMap.get 0 · dev) = some (
          if e.getLsbD 7 = true ∧ (e.extractLsb' 0 2).toNat = n % 4 then
            if e.getLsbD 6 = true ∧ (e.extractLsb' 2 2).toNat ≠ n % 4 ∧
                (s.galPorts[4 * die + (e.extractLsb' 2 2).toNat]?.map (·.up)) = some true then
              BitVec.ofNat 8 (0x80 + (e.extractLsb' 2 2).toNat)
            else 0
          else e)) ∧
  (∀ (s : State) (n : Nat) (p : GalPort), s.galPorts[n]? = some p → p.up = false →
    ∃ t p', exec (.galleryPortTrained n) s = .next t ∧ SameMemory s t ∧ t.netOut = s.netOut ∧ t.galPorts[n]? = some p' ∧ p'.up = true ∧
      p'.rxSeq = 0 ∧ p'.txSeq = 0 ∧ (∀ v, p'.lane v = wholeFlits (p.lane v).length (p.lane v)) ∧ p'.downs = p.downs)

namespace Sys2Proof.Machine

/-- A command reaches a device that takes it (R418, R492, R509). -/
def Cmd (s : State) (h : AdminHdr) : Prop :=
  s.linkUp h.port = true ∧ s.ready = true ∧ s.recov = false ∧ s.quar = false ∧ h.reservedZero = true ∧ h.resp % 64 = 0

/-- A state with some messages and the 64 bytes of the first response of a command written to its host (R495). -/
def State.replied (s : State) (h : AdminHdr) (before : List HostMsg) (astat : Nat) (rcause : Cause) (res : Nat) : State :=
  { s with hostOut := s.hostOut ++ before ++ [responseTo h h.resp astat rcause s.time res, .msix h.port 0] }

/-- A long command has begun (R495). -/
def State.began (s : State) (h : AdminHdr) (work : LongWork) : State :=
  { s.replied h [] 0 0 0 with nextId := s.nextId + 1, longs := s.longs ++ [⟨s.nextId, h, work, s.nextId, none⟩] }

/-- The other contexts are as they were. -/
def OthersSame (s t : State) (ctx : Nat) : Prop := ∀ d : Context, d.num ≠ ctx → (d ∈ t.ctxs ↔ d ∈ s.ctxs)

/-- Every context record with its mask of key slots changed (R392). -/
def State.maskSlots (s : State) (f : Context → List Nat) : State := { s with ctxs := s.ctxs.map fun (c : Context) => { c with slots := f c } }

/-- The commands on contexts, keys, translations and queues, and a reserved one. -/
def ContextCommand (i : Instr) (h : AdminHdr) (ctx n : Nat) (mask : BitVec 64) (cores : BitVec 192) (bytes : List (BitVec 8)) (a b : Nat) (dbg : Bool)
    (q : QueueParams) (acmd : BitVec 8) : Prop :=
  (i = .adminReserved h acmd ∧ (acmd = 0 ∨ 0x1F < acmd.toNat)) ∨ i ∈
  [.ctxnew h ctx a b dbg, .ctxdel h ctx, .partbuild h ctx cores, .debugEnable h ctx dbg, .discread h ctx, .keyxch h, .keybind h n mask bytes,
    .keyunbind h n, .shoot h ctx a b, .qnew h q, .qdel h n]

/-- What a context still owns of the device (R392, R438). -/
def State.Owned (s : State) (n : Nat) : Prop := ∃ d ∈ s.ctxs, s.owns d n = true

end Sys2Proof.Machine

/-- On a ready device out of recovery and quarantine, at a trained port, with zero reserved bytes: CTXNEW adds a fresh record, CTXDEL removes one that is idle, PARTBUILD numbers the named free cores of a created or saved context in order, DEBUG sets the enable, DISCREAD returns the table, KEYXCH returns a fresh key signed and keeps its number, KEYBIND binds the key that its buffer unwraps to under the first 32 bytes of the digest of the secret that its ciphertext gives (decapsulation is opaque, log 5) and KEYUNBIND unbinds a slot, in the contexts' masks (by the model's choice of those that exist, log 33), SHOOT and QDEL begin, QNEW adds a queue; each is answered with ASTAT 0, and no other context, queue, register or byte changes but for the completions that QDEL's entries get. What exists already, does not exist, or is in use is answered with 2, an unwrapping that fails with 4, a reserved ACMD, a reserved field or a misaligned RESP with 1, and any of these commands on a device that does not take it with 5, changing nothing; statuses that the manual does not give are the model's (logs 33, 43). (R19, R392, R395, R396, R420, R421, R492, R493, R494, R495, R496, R498) -/
def Obligations.context_and_key_commands_answer : Prop :=
  (∀ (s : State) (h : AdminHdr), s.linkUp h.port = true → ∀ i ctx n mask cores bytes a b dbg q acmd,
    ContextCommand i h ctx n mask cores bytes a b dbg q acmd →
      ((s.ready = false ∨ s.recov = true ∨ s.quar = true) → exec i s = .next (s.replied h [] 5 0 0)) ∧
      (s.ready = true → s.recov = false → s.quar = false → (h.reservedZero = false ∨ h.resp % 64 ≠ 0) →
        exec i s = .next (s.replied h [] 1 0 0))) ∧
  ∀ (s : State) (h : AdminHdr), Cmd s h →
    (∀ ctx troot size dbg, ctx < 64 → troot < 2 ^ 46 → 1 ≤ size → size ≤ 4096 →
      (s.ctxAt ctx = none → exec (.ctxnew h ctx troot size dbg) s = .next (({ s with
        ctxs := s.ctxs ++ [⟨ctx, .created, troot, size, [], dbg, [], 0, none, [], none, [], 0, [], [], [], []⟩] } : State).replied h [] 0 0 0)) ∧
      ((s.ctxAt ctx).isSome = true → exec (.ctxnew h ctx troot size dbg) s = .next (s.replied h [] 2 0 0))) ∧
    (∀ ctx, ctx < 64 →
      (s.ctxAt ctx = none → exec (.ctxdel h ctx) s = .next (s.replied h [] 2 0 0)) ∧
      (∀ c, s.ctxAt ctx = some c →
        let idle : Prop := c.part = [] ∧ c.st ∉ [.switching, .restoring, .killing] ∧ (∀ q ∈ s.queues, q.p.ctx ≠ ctx) ∧ ∀ x ∈ s.comms, x.ctx ≠ ctx
        (¬ idle → exec (.ctxdel h ctx) s = .next (s.replied h [] 2 0 0)) ∧
        (idle → ∃ t : State, exec (.ctxdel h ctx) s = .next (t.replied h [] 0 0 0) ∧
          t = { s with ctxs := s.ctxs.filter fun x => x.num ≠ ctx, tlb := t.tlb, walks := t.walks } ∧
          (∀ e, e ∈ t.tlb ↔ e ∈ s.tlb ∧ e.ctx ≠ ctx) ∧ ∀ e, e ∈ t.walks ↔ e ∈ s.walks ∧ e.ctx ≠ ctx))) ∧
    (∀ (ctx : Nat) (cores : BitVec 192) (c : Context), ctx < 64 → cores ≠ 0 → s.ctxAt ctx = some c →
      let named := (List.range 192).filter fun n => cores.getLsbD n
      let may : Prop := c.part = [] ∧ (c.st = .created ∨ c.st = .saved) ∧ ∀ n ∈ named, ¬ s.Owned n
      (¬ may → exec (.partbuild h ctx cores) s = .next (s.replied h [] 2 0 0)) ∧
      (may → ∃ (t : State) (c' : Context), exec (.partbuild h ctx cores) s = .next (t.replied h [] 0 0 named.length) ∧ t = { s with ctxs := t.ctxs } ∧
        t.ctxAt ctx = some c' ∧ c' = { c with part := c'.part, st := if c.st = .created then .resident else c.st } ∧
        c'.part.map (·.phys) = named ∧ c'.part.map (·.logical) = List.range named.length ∧ OthersSame s t ctx)) ∧
    (∀ ctx enable c, ctx < 64 → s.ctxAt ctx = some c → ∃ t : State, exec (.debugEnable h ctx enable) s = .next (t.replied h [] 0 0 0) ∧
      t = { s with ctxs := t.ctxs } ∧ t.ctxAt ctx = some { c with dbg := enable } ∧ OthersSame s t ctx) ∧
    (∀ ctx c, ctx < 64 → s.ctxAt ctx = some c → c.part ≠ [] →
      exec (.discread h ctx) s = .next (s.replied h [.write h.port h.data (discTable c)] 0 0 0)) ∧
    exec (.keyxch h) s = .next (({ s with kemKey := some s.freeCtr, freeCtr := s.freeCtr + 1 } : State).replied h
      [.write h.port h.data (signedKey s.freeCtr h.cid)] 0 0 0) ∧
    (∀ (slot : Nat) (owners : BitVec 64), 1 ≤ slot → slot ≤ 2047 →
      (∀ buffer, buffer.length = 1160 →
        ((∃ k ∈ s.keys, k.slot = slot) → exec (.keybind h slot owners buffer) s = .next (s.replied h [] 2 0 0)) ∧
        ((∀ k ∈ s.keys, k.slot ≠ slot) → exec (.keybind h slot owners buffer) s =
          .next (match (s.kemKey.bind (Config.decapsulate · (buffer.take 1088))).bind fun z => keyUnwrap ((sha512 z).take 32) (buffer.drop 1088) with
          | none => s.replied h [] 4 0 0
          | some key => (({ s with keys := s.keys ++ [⟨slot, owners, key⟩] } : State).maskSlots fun c =>
              if owners.getLsbD c.num then c.slots ++ [slot] else c.slots).replied h [] 0 0 0))) ∧
      ((∀ k ∈ s.keys, k.slot ≠ slot) → exec (.keyunbind h slot) s = .next (s.replied h [] 2 0 0)) ∧
      ((∃ k ∈ s.keys, k.slot = slot) → exec (.keyunbind h slot) s =
        .next ((({ s with keys := s.keys.filter fun k => k.slot ≠ slot } : State).maskSlots fun c =>
          c.slots.filter fun n => n ≠ slot).replied h [] 0 0 0))) ∧
    (∀ ctx base bytes, ctx < 64 → base % 65536 = 0 → bytes % 65536 = 0 → base < 2 ^ 57 → bytes < 2 ^ 57 →
      (s.ctxAt ctx = none → exec (.shoot h ctx base bytes) s = .next (s.replied h [] 2 0 0)) ∧
      ((s.ctxAt ctx).isSome = true → ∃ (t : State) (spans : List (Nat × Nat)), exec (.shoot h ctx base bytes) s = .next (t.began h (.shoot ctx base bytes spans)) ∧
        t = { s with tlb := t.tlb } ∧ (∀ e, e ∈ t.tlb ↔ e ∈ s.tlb ∧ (e.ctx = ctx → meets e.base e.size base bytes = false)) ∧
        ∀ x, x ∈ spans ↔ ∃ e ∈ s.tlb, e.ctx = ctx ∧ meets e.base e.size base bytes = true ∧ e.isLeaf = true ∧ x = (e.base, e.size))) ∧
    (∀ q, q.queue < 256 → q.cls < 8 → q.ctx < 64 → 4 ≤ q.k → q.k ≤ 16 → q.vector < 256 →
      ((s.ctxAt q.ctx = none ∨ ∃ x ∈ s.queues, x.p.queue = q.queue) → exec (.qnew h q) s = .next (s.replied h [] 2 0 0)) ∧
      ((s.ctxAt q.ctx).isSome = true → (∀ x ∈ s.queues, x.p.queue ≠ q.queue) → exec (.qnew h q) s =
        .next (({ s with queues := s.queues ++ [⟨q, h.port, 0, 0, false, 0, 0, 0⟩] } : State).replied h [] 0 0 0))) ∧
    (∀ n q, n < 256 → (s.queues.find? fun x => x.p.queue = n) = some q →
      (q.closing = true → exec (.qdel h n) s = .next (s.replied h [] 2 0 0)) ∧
      (q.closing = false → ∃ (t : State) (told : List HostMsg), exec (.qdel h n) s = .next t ∧
        t = { s.began h (.qdel n) with queues := t.queues, hostOut := (s.began h (.qdel n)).hostOut ++ told, freeCtr := t.freeCtr } ∧
        told.length = (if q.p.hostRing = true then 0 else 2 * (q.tail - q.head)) ∧
        (∀ x ∈ t.queues, x.p.queue = n → x.closing = true) ∧ ∀ x : LQueue, x.p.queue ≠ n → (x ∈ t.queues ↔ x ∈ s.queues))) ∧
    (∀ (acmd : BitVec 8), (acmd = 0 ∨ 0x1F < acmd.toNat) → exec (.adminReserved h acmd) s = .next (s.replied h [] 1 0 0))

/-- On a device that takes the command: COMMNEW adds a record with both tables given and PEND 0, COMMDEL, DEREG, VIEWDEL, RESYNC, FWLOAD and CKPT begin, REG adds a registration that passes its checks, VIEWNEW adds a view of a registered name with its pool's frames, JOIN of a well-formed list on a vacant rank begins with the list's entries, PODCFG replaces the pod's settings, ATTEST returns the report with its signature, SNAPCFG sets the trigger cause and re-arms, EVRING gives the port an empty ring. What does not exist or is there already is answered with 2, a table that is full with 3, a registration or view refused with 4 and 0x100, a join list refused with 4 (these statuses, and RESYNC in quarantine, are the model's reading, log 33; the parts of report and summary are records, log 35, the report's signatures opaque, log 5; how a checkpoint and a join run is log 39). (R444, R445, R446, R470, R483, R485, R486, R497, R503, R504, R505, R507) -/
def Obligations.pod_view_and_device_commands_answer : Prop :=
  (∀ (s : State) (h : AdminHdr), Cmd s h →
    (∀ p : CommParams, p.comm < 2 ^ 16 → p.ctx < 64 → 1 ≤ p.nranks → p.nranks ≤ 4096 → p.rank < p.nranks → p.table.length = p.nranks →
      (∀ e ∈ p.table, e.extractLsb' 12 3 = 0) →
      ((s.ctxAt p.ctx = none ∨ (s.commAt p.comm).isSome = true) → exec (.commnew h p) s = .next (s.replied h [] 2 0 0)) ∧
      ((s.ctxAt p.ctx).isSome = true → s.commAt p.comm = none → 256 ≤ s.comms.length → exec (.commnew h p) s = .next (s.replied h [] 3 0 0)) ∧
      ((s.ctxAt p.ctx).isSome = true → s.commAt p.comm = none → s.comms.length < 256 →
        (∃ t, exec (.commnew h p) s = .next t) ∧
        ((∀ e ∈ s.member.log, e.2.evn ≤ p.evn) → exec (.commnew h p) s = .next (({ s with comms := s.comms ++
          [⟨p.comm, p.ctx, p.nranks, p.rank, p.gen, p.table, p.table, false, false, 0, p.evn, s.member.selfExpelled⟩] } : State).replied h [] 0 0 0)))) ∧
    (∀ n, n < 2 ^ 16 →
      (s.commAt n = none → exec (.commdel h n) s = .next (s.replied h [] 2 0 0)) ∧
      ((s.commAt n).isSome = true → ∃ t : State, exec (.commdel h n) s = .next (t.began h (.commdel n)) ∧ t = { s with buffers := t.buffers } ∧
        t.buffers = s.buffers.map fun b => if b.d.comm = n then ⟨b.ctx, b.d, true⟩ else b)) ∧
    (∀ ctx d, ctx < 64 →
      let pages := if d.length ≤ 2 ^ 36 then pagesFrom d.base d.length else []
      s.walksWait ctx pages = false →
      let u := s.fillAll newelSite ctx pages
      SameMemory s u ∧ u.buffers = s.buffers ∧
      (s.ctxAt ctx = none → exec (.reg h ctx d) s = .next (u.replied h [] 2 0 0)) ∧
      ((s.ctxAt ctx).isSome = true → s.badReg ctx d = true → exec (.reg h ctx d) s = .next (u.replied h [] 4 0x100 0)) ∧
      ((s.ctxAt ctx).isSome = true → s.badReg ctx d = false → 4096 ≤ s.buffers.length → exec (.reg h ctx d) s = .next (u.replied h [] 3 0 0)) ∧
      ((s.ctxAt ctx).isSome = true → s.badReg ctx d = false → s.buffers.length < 4096 →
        exec (.reg h ctx d) s = .next (({ u with buffers := s.buffers ++ [⟨ctx, d, false⟩] } : State).replied h [] 0 0 0))) ∧
    (∀ n name, n < 2 ^ 16 → name < 2 ^ 16 →
      (s.bufOf n name = none → exec (.dereg h n name) s = .next (s.replied h [] 2 0 0)) ∧
      ((s.bufOf n name).isSome = true → ∃ t : State, exec (.dereg h n name) s = .next (t.began h (.dereg n name)) ∧ t = { s with buffers := t.buffers } ∧
        t.bufOf n name = none)) ∧
    (∀ (n source view base bytes : Nat) (b : NamedBuffer) (fs : List Nat), n < 2 ^ 16 → source < 2 ^ 16 → view < 2 ^ 16 → base % 65536 = 0 →
      base < 2 ^ 57 → bytes % 65536 = 0 → bytes < 2 ^ 36 → s.bufOf n source = some b → s.walksWait b.ctx (pagesFrom base bytes) = false →
      let u := s.fillAll newelSite b.ctx (pagesFrom base bytes)
      u.poolFrames b.ctx base (bytes / 65536) = some fs →
      ((b.d.snap = true ∨ ∃ x ∈ s.buffers, x.d.comm = n ∧ x.d.name = view) → exec (.viewnew h n source view base bytes) s = .next (u.replied h [] 4 0x100 0)) ∧
      (b.d.snap = false → (∀ x ∈ s.buffers, ¬ (x.d.comm = n ∧ x.d.name = view)) → s.buffers.length < 4096 →
        exec (.viewnew h n source view base bytes) s = .next (({ u with
          buffers := s.buffers ++ [⟨b.ctx, { b.d with name := view, snap := true, rd := true, wr := false, raddp := false, col := false }, false⟩]
          views := s.views ++ [⟨n, source, view, none, false, fs, [], []⟩] } : State).replied h [] 0 0 0))) ∧
    (∀ n view, n < 2 ^ 16 → view < 2 ^ 16 →
      ((∀ v ∈ s.views, ¬ (v.comm = n ∧ v.name = view)) → exec (.viewdel h n view) s = .next (s.replied h [] 2 0 0)) ∧
      ((∃ v ∈ s.views, v.comm = n ∧ v.name = view) → exec (.viewdel h n view) s = .next (s.began h (.viewdel n view)))) ∧
    (∀ (n rank list count : Nat) (c : Comm) (bs : List Byte), n < 2 ^ 16 → rank < 4096 → list < 2 ^ 57 → list % 32 = 0 → 1 ≤ count →
      count ≤ 65536 → s.commAt n = some c → s.listWaits n list count = false → s.virtBytes c.ctx list (32 * count) = some bs →
      let u := s.reached newelSite c.ctx list (32 * count) false
      let vacantHere : Prop := ∃ e, (if c.pend then c.inactive else c.active)[rank]? = some e ∧ e.getLsbD 15 = true
      ((∃ j < count, parseJoin ((bs.drop (32 * j)).take 32) = none) → exec (.join h n rank list count) s = .next (u.replied h [] 4 0 0)) ∧
      (∀ es : List JoinEntry, (List.range count).mapM (fun j => parseJoin ((bs.drop (32 * j)).take 32)) = some es →
        ((c.frozen = true ∨ ¬ vacantHere ∨ ∃ e ∈ es, e.ranksOk c.nranks rank = false) → exec (.join h n rank list count) s = .next (u.replied h [] 4 0 0)) ∧
        (c.frozen = false → vacantHere → (∀ e ∈ es, e.ranksOk c.nranks rank = true) → (∃ e ∈ es, 0 < e.len) →
          ∃ t, exec (.join h n rank list count) s = .next t ∧ SameMemory s t ∧
            t.longs = s.longs ++ [⟨s.nextId, h, .join n rank, s.nextId, none⟩] ∧
            ((∀ j ∈ s.joins, j.cmd ≠ s.nextId) → ∃ j ∈ t.joins, j.cmd = s.nextId ∧ j.comm = n ∧ j.rank = rank ∧ j.entries = es ∧ j.requested = false)))) ∧
    (∀ cfg : PodConfig, cfg.podnum < 4096 → cfg.inc < 2 ^ 32 → 1 ≤ cfg.podSize → cfg.podSize ≤ 4096 → cfg.watch.length ≤ 8 →
      cfg.coords.length ≤ 4 → (∀ w ∈ cfg.watch, w.dev < 4096 ∧ w.others.length ≤ 7) → (∀ r ∈ cfg.routes, ∀ e ∈ r, e.2.extractLsb' 4 2 = 0) →
      exec (.podcfg h cfg) s = .next (({ s with member := { s.member with
        cfg := cfg, selfExpelled := s.member.selfExpelled && cfg.inc = s.member.cfg.inc } } : State).replied h [] 0 0 0)) ∧
    (∀ (cause : BitVec 9) (rearm : Bool), ∃ t : State, exec (.snapcfg h cause rearm) s = .next (t.replied h [] 0 0 0) ∧ t = { s with snap := t.snap } ∧
      t.snap.cause = (if cause = 0x1FF then none else some cause) ∧ t.snap.latched = if rearm then none else s.snap.latched) ∧
    (∀ k base vector p, 4 ≤ k → k ≤ 16 → base % 64 = 0 → vector < 256 → s.ports[h.port]? = some p →
      (p.ring.isSome = true → exec (.evring h k base vector) s = .next (s.replied h [] 2 0 0)) ∧
      (p.ring = none → ∃ t : State, exec (.evring h k base vector) s = .next (t.replied h [] 0 0 0) ∧ t = { s with ports := t.ports } ∧
        (t.ports[h.port]?).map (·.ring) = some (some ⟨k, base, vector, 0, 0, [], 0⟩))) ∧
    (∀ ctx dest, ctx < 64 →
      let known : Prop := match dest with
        | .host slot _ => ∃ k ∈ s.keys, k.slot = slot ∧ k.owners = 0
        | .peer n _ rank => ∃ m, s.commAt n = some m ∧ rank < m.nranks
      ((s.ctxAt ctx = none ∨ ¬ known) → exec (.ckpt h ctx dest) s = .next (s.replied h [] 2 0 0)) ∧
      (∀ c, s.ctxAt ctx = some c → known → exec (.ckpt h ctx dest) s = .next (s.began h (.ckpt ⟨dest, match dest with
        | .host slot _ => ((s.keys.find? fun k => k.slot = slot && k.owners = 0).map (·.key)).getD []
        | .peer .. => [], ctx, s.pagesOf c, 0, none⟩))))) ∧
  (∀ (s : State) (h : AdminHdr), s.linkUp h.port = true → h.reservedZero = true → h.resp % 64 = 0 →
    ((s.ready = true ∨ s.quar = true) → exec (.resync h) s = .next (s.began h (.resync s.summary))) ∧
    (s.recov = false → s.quar = false → ∀ (nonce : List (BitVec 8)) (f : FwImage), nonce.length = 32 → s.firmware = some f →
      let msg := nonce ++ toBytes Config.deviceSerial 8 ++ f.digest ++ toBytes f.secVersion 4 ++ toBytes Config.fusedMinimum 4 ++ [0]
      exec (.attest h nonce) s = .next (s.replied h [.report h.port h.data ⟨nonce, Config.deviceSerial, f.digest, f.secVersion, Config.fusedMinimum, false⟩
        (Config.signEd25519 msg ++ Config.signMldsa65 msg)] 0 0 0)) ∧
    (s.quar = false → ∀ image : FwImage, (s.ctxs ≠ [] → exec (.fwload h image) s = .next (s.replied h [] 2 0 0)) ∧
      (s.ctxs = [] → exec (.fwload h image) s = .next (s.began h (.fwload image)))))

namespace Sys2Proof.Machine

/-- A transition is held behind the one in progress (R421). -/
def State.Holds (s : State) (ctx : Nat) (c : Context) (x : Transition) (r : Out) : Prop :=
  ∃ t : State, r = .next t ∧ t = { s with ctxs := t.ctxs } ∧ t.ctxAt ctx = some { c with held := c.held ++ [x] }

/-- A long command stands among those in progress. -/
def State.HasLong (t : State) (h : AdminHdr) (work : LongWork) (res : Option (Nat × Cause × Nat)) : Prop :=
  ∃ l ∈ t.longs, l.h = h ∧ l.work = work ∧ l.result = res

end Sys2Proof.Machine

/-- On a device that takes the command: for no such context SWOUT, RESTORE, KILL and SHRINK are answered with 2. SWOUT of a resident context begins and, its buffer accepted, the context is switching, else the command fails; SWOUT and RESTORE of a switching or restoring context are held, KILL of a restoring one too; SWOUT of a created, saved or killing context, RESTORE of a created or killing one, of a saved one without a partition and of a resident one in use, KILL of a killing one are answered with 2; RESTORE of a saved context with a partition and of an unused resident one begins. KILL of a resident or switching context begins, its grids are killed and its state is killing; of a created or saved one it ends at once and the record is gone. SHRINK of cores of the partition begins, the cores removed. That refusals which are found later come in the second response is the model's reading (log 32); what becomes of a killed saved context's grids and atomics is too (logs 17, 21). (R421, R422, R437, R438, R468, R494, R500) -/
def Obligations.context_transitions_follow_the_table : Prop :=
  ∀ (s : State) (h : AdminHdr) (ctx : Nat), Cmd s h → ctx < 64 →
    (∀ (buf : ImageBuffer), buf.slot < 2048 → buf.offsets.length = 8 →
      (s.ctxAt ctx = none → exec (.swout h ctx buf) s = .next (s.replied h [] 2 0 0) ∧ exec (.restore h ctx buf) s = .next (s.replied h [] 2 0 0)) ∧
      (∀ c, s.ctxAt ctx = some c →
        (c.st = .switching ∨ c.st = .restoring →
          s.Holds ctx c (.swout h buf) (exec (.swout h ctx buf) s) ∧ s.Holds ctx c (.restore h buf) (exec (.restore h ctx buf) s)) ∧
        (c.st = .created ∨ c.st = .killing → exec (.swout h ctx buf) s = .next (s.replied h [] 2 0 0) ∧
          exec (.restore h ctx buf) s = .next (s.replied h [] 2 0 0)) ∧
        (c.st = .saved → exec (.swout h ctx buf) s = .next (s.replied h [] 2 0 0)) ∧
        (c.st = .saved → c.part = [] → exec (.restore h ctx buf) s = .next (s.replied h [] 2 0 0)) ∧
        (c.st = .resident → (c.nextGrid ≠ 0 ∨ ∃ g ∈ s.wgs, g.key.ctx = ctx) → exec (.restore h ctx buf) s = .next (s.replied h [] 2 0 0)) ∧
        ((c.st = .saved ∧ c.part ≠ []) ∨ (c.st = .resident ∧ c.nextGrid = 0 ∧ ∀ g ∈ s.wgs, g.key.ctx ≠ ctx) →
          ∃ t, exec (.restore h ctx buf) s = .next t ∧ SameMemory s t ∧ t.HasLong h (.restore ctx buf) none ∧
            t.ctxAt ctx = some { c with st := .restoring }) ∧
        (c.st = .resident → s.bufferOk buf = true → ∃ t c', exec (.swout h ctx buf) s = .next t ∧ t.HasLong h (.swout ctx) none ∧
          t.ctxAt ctx = some c' ∧ c'.st = .switching ∧ c'.buf = some buf ∧ c'.mailbox = [] ∧ t.wgs = s.wgs ∧ t.warps = s.warps) ∧
        (c.st = .resident → s.bufferOk buf = false → ∃ t, exec (.swout h ctx buf) s = .next t ∧ SameMemory s t ∧
          t.HasLong h (.swout ctx) (some (4, 0x143, 0)) ∧ t.ctxAt ctx = some c))) ∧
    (s.ctxAt ctx = none → exec (.kill h ctx) s = .next (s.replied h [] 2 0 0)) ∧
    (∀ c, s.ctxAt ctx = some c →
      (c.st = .restoring → s.Holds ctx c (.kill h) (exec (.kill h ctx) s)) ∧
      (c.st = .killing → exec (.kill h ctx) s = .next (s.replied h [] 2 0 0)) ∧
      (c.st = .created ∨ c.st = .saved → ∃ t, exec (.kill h ctx) s = .next t ∧ t.HasLong h (.kill ctx) (some (0, 0x141, 0)) ∧ t.ctxAt ctx = none ∧
        (∀ o ∈ t.galOps, o.wg.ctx ≠ ctx) ∧ ∀ b ∈ t.buffers, b.ctx ≠ ctx) ∧
      (c.st = .resident ∨ c.st = .switching → ∃ t, exec (.kill h ctx) s = .next t ∧ t.HasLong h (.kill ctx) none ∧
        ((t.ctxAt ctx).map (·.st)) = some .killing ∧ (∀ g ∈ t.grids, g.key.ctx = ctx → g.killed = true) ∧
        (∀ o ∈ t.galOps, o.wg.ctx ≠ ctx) ∧ ∀ b ∈ t.buffers, b.ctx ≠ ctx)) ∧
    (∀ (cores : BitVec 192),
      (s.ctxAt ctx = none → exec (.shrink h ctx cores) s = .next (s.replied h [] 2 0 0)) ∧
      (∀ c, s.ctxAt ctx = some c →
        let mine : Prop := ∀ n < 192, cores.getLsbD n = true → ∃ x ∈ c.part, x.phys = n ∧ x.removed = false
        (¬ mine → exec (.shrink h ctx cores) s = .next (s.replied h [] 2 0 0)) ∧
        (mine → ∃ t : State, exec (.shrink h ctx cores) s = .next (t.began h (.shrink ctx ((List.range 192).filter fun n => cores.getLsbD n))) ∧ t = { s with ctxs := t.ctxs } ∧
          t.ctxAt ctx = some { c with part := c.part.map fun x => if cores.getLsbD x.phys then { x with removed := true } else x })))

namespace Sys2Proof.Machine

/-- The queue of a grid once a port is down: none (256) where the port had it, else as before (R491). -/
def State.QueueAfter (s : State) (port q q' : Nat) : Prop :=
  ((∃ x ∈ s.queues, x.p.queue = q ∧ x.port = port) → q' = 256) ∧ ((∀ x ∈ s.queues, x.p.queue = q → x.port ≠ port) → q' = q)

end Sys2Proof.Machine

/-- At a trained port: QDB gives the tail index to the queue of its port that is not closing and to no other; TRIG on a device that is ready, out of recovery and quarantine, latches the snapshot registers, or counts a missed one while a set is latched; EVHEAD returns records up to its index, and as many held ones as then have room follow in order, none where it passes the tail, none without a ring, and the other port's ring is as it was; a write of another register changes nothing; a Precision Time Measurement sets the time; in quarantine QDB, TRIG, EVHEAD and the measurement change nothing. A port that goes down ends its queues, whose grids, resident or saved, then have none, and loses its ring; the commands that it carried go on, answered to no host; one that was down comes up without a ring. A read of MW0 that stands next in the schedule tells the host what the field holds: STATUS, or a queue's doorbell what was last written (the model's choice, log 67). When a head entry came is the model's own (log 53), time moves only at a measurement (log 6), the snapshot's parts are records (log 35). (R418, R491, R492, R497, R502, R503) -/
def Obligations.registers_ports_and_time : Prop :=
  (∀ (s : State) (port : Nat), s.linkUp port = true →
    (∀ n index, (s.quar = true → exec (.qdb port n index) s = .next s) ∧
      (s.quar = false → exec (.qdb port n index) s = .next { s with queues := s.queues.map fun (q : LQueue) =>
        if q.p.queue = n ∧ q.port = port ∧ q.closing = false then { q with
          tail := q.head + (index + 2 ^ 32 - q.head % 2 ^ 32) % 2 ^ 32, headAt := if q.tail ≤ q.head then s.headStamp else q.headAt } else q })) ∧
    ((s.ready = false ∨ s.recov = true ∨ s.quar = true) → exec (.trig port) s = .next s) ∧
    (s.ready = true → s.recov = false → s.quar = false → ∃ t : State, exec (.trig port) s = .next t ∧ t = { s with snap := t.snap } ∧
      (∀ x, s.snap.latched = some x → t.snap = { s.snap with missed := s.snap.missed + 1 }) ∧
      (s.snap.latched = none → ∃ x, t.snap = { s.snap with latched := some x } ∧ x.time = s.time ∧ x.corrected = s.snap.corrected ∧
        x.poison = s.snap.poison ∧ x.ports = s.galPorts.map fun p => (p.up, p.resends, p.downs))) ∧
    (∀ offset value, exec (.registerWrite port offset value) s = .next s) ∧
    (∀ time, exec (.precisionTimeMeasurement port time) s = .next (if s.quar then s else { s with time := time })) ∧
    (∃ t : State, exec (.pciePortDown port) s = .next t ∧
      t = { s with ports := t.ports, queues := s.queues.filter fun q => q.port ≠ port, grids := t.grids, longs := t.longs, ctxs := t.ctxs } ∧
      t.ports[port]? = some ⟨false, none, 0⟩ ∧ (∀ j, j ≠ port → t.ports[j]? = s.ports[j]?) ∧
      (t.grids.length = s.grids.length ∧ ∀ (n : Nat) (g : Grid), s.grids[n]? = some g →
        ∃ q, t.grids[n]? = some { g with queue := q } ∧ s.QueueAfter port g.queue q) ∧
      (t.longs.length = s.longs.length ∧ ∀ (n : Nat) (l : LongCmd), s.longs[n]? = some l →
        t.longs[n]? = some (if l.h.port = port then { l with h := { l.h with port := 2 } } else l)) ∧
      t.ctxs.length = s.ctxs.length ∧ ∀ (n : Nat) (c : Context), s.ctxs[n]? = some c →
        ∃ gs, t.ctxs[n]? = some { c with awayGrids := gs, held := c.held.map (Transition.cut port) } ∧ gs.length = c.awayGrids.length ∧
          ∀ (j : Nat) (x : Nat × Nat × Word), c.awayGrids[j]? = some x → ∃ q, gs[j]? = some (x.1, q, x.2.2) ∧ s.QueueAfter port x.2.1 q) ∧
    (∀ offset value rest, s.agenda = .readMw0 port offset :: rest → value = s.register port offset →
      step s = .next { s with agenda := rest, hostOut := s.hostOut ++ [.mw0 port offset value] } ∧
      (offset = 0x0008 → ∀ n, value.getLsbD n = (n = 0 && s.ready || n = 1 && s.linkUp (1 - port) || n = 2 && s.quar || n = 3 && s.recov)) ∧
      (∀ q, (s.queues.find? fun q => 0x100 + 8 * q.p.queue = offset && q.port = port) = some q → q.p.queue < 256 →
        value = BitVec.ofNat 64 (q.tail % 2 ^ 32)))) ∧
  (∀ (s : State) (port index : Nat) (p : HostPort), s.ports[port]? = some p → p.up = true →
    ((s.quar = true ∨ p.ring = none) → exec (.evhead port index) s = .next s) ∧
    (∀ r, s.quar = false → p.ring = some r →
      let unread := (2 ^ 32 + r.tail % 2 ^ 32 - index % 2 ^ 32) % 2 ^ 32
      (r.tail - r.head < unread → exec (.evhead port index) s = .next s) ∧
      (unread ≤ r.tail - r.head → ∃ (t : State) (told : List HostMsg), exec (.evhead port index) s = .next t ∧
        let n := min r.held.length (2 ^ r.k - unread)
        t = { s with ports := t.ports, hostOut := s.hostOut ++ told } ∧ told.length = 2 * n ∧
        t.ports[port]? = some { p with ring := some { r with head := r.tail - unread, tail := r.tail + n, held := r.held.drop n } } ∧
        ∀ j, j ≠ port → t.ports[j]? = s.ports[j]?))) ∧
  (∀ (s : State) (port : Nat) (p : HostPort), s.ports[port]? = some p → p.up = false →
    ∃ t : State, exec (.pcieLinkUp port) s = .next t ∧ t = { s with ports := t.ports } ∧ t.ports[port]? = some ⟨true, none, p.admdb⟩ ∧
      ∀ j, j ≠ port → t.ports[j]? = s.ports[j]?)

/-- POWER_GOOD on a device neither ready, in recovery nor in quarantine: with an image that verifies it is ready, out of recovery, memory zeroed and clean, and every Gallery port up; with another or none it is in recovery and otherwise as it was. RESET gives every field its reset value but what the model has written out and its own counters. THERMAL_TRIP, and a comparison that finds the copies to differ or to overflow or an uncorrectable error, leave the device in quarantine with every workgroup ended and no warp of one with threads; a comparison that finds nothing changes nothing. What scrubs and compares find comes from outside (the model's choice, log 36), and so do the facts of an image (log 5). SCRUB of a ready device poisons every granule, register, element and byte that it reports, memory keeping its bytes. (R411, R414, R417, R418, R505, R506, R509, R510) -/
def Obligations.device_states_and_scrubs : Prop :=
  (∀ (s : State), s.ready = false → s.recov = false → s.quar = false →
    exec (.powerGood none) s = .next { s with recov := true } ∧
    ∀ f : FwImage, (f.ed25519 = true ∧ f.mldsa = true ∧ Config.fusedMinimum ≤ f.secVersion →
        ∃ t, exec (.powerGood (some f)) s = .next t ∧ t.ready = true ∧ t.recov = false ∧ t.quar = false ∧ t.firmware = some f ∧ t.mem = [] ∧
          t.memPoison = [] ∧ t.lineKeys = [] ∧ (∀ p ∈ t.galPorts, p.up = true) ∧ t.galPorts.length = s.galPorts.length ∧ t.ports = s.ports) ∧
      (f.ed25519 = false ∨ f.mldsa = false ∨ f.secVersion < Config.fusedMinimum → exec (.powerGood (some f)) s = .next { s with recov := true })) ∧
  (∀ (s : State), exec .resetDevice s = .next { State.reset with
    agenda := s.agenda, freeCtr := s.freeCtr, nextId := s.nextId, hostOut := s.hostOut, netOut := s.netOut }) ∧
  (∀ (s : State), let stopped (t : State) : Prop := t.quar = true ∧ (∀ g ∈ t.wgs, g.ended.isSome = true) ∧
      ∀ w ∈ t.warps, (∃ g ∈ s.wgs, w.wg = g.key) → w.pcs = []
    (s.quar = true → exec .thermalTrip s = .next s) ∧
    (s.quar = false → ∃ t, exec .thermalTrip s = .next t ∧ stopped t) ∧
    (∀ bad : Bool, s.ready = true → (bad = false ∧ s.contA = s.contB ∧ s.contA.overflows = false → exec (.containmentCompare bad) s = .next s) ∧
      (s.quar = false → (bad = true ∨ s.contA ≠ s.contB ∨ s.contA.overflows = true) → ∃ t, exec (.containmentCompare bad) s = .next t ∧ stopped t))) ∧
  (∀ (s : State) (r : ScrubReport), s.ready = true → ∃ t, exec (.scrub r) s = .next t ∧ SameMemory s t ∧
    (r.control = [] → (∀ pa ∈ r.granules ++ r.slices, pa / 32 ∈ t.memPoison) ∧
      (∀ x ∈ r.bays, ∀ g, t.wgAt x.1 = some g → x.2 ∈ g.bayPoison) ∧ (∀ x ∈ r.scratch, ∀ g, t.wgAt x.1 = some g → x.2 ∈ g.scratchPoison) ∧
      (∀ x ∈ r.tiles, ∀ g, t.wgAt x.1 = some g → x.2.2 ∈ (g.tile x.2.1).poison) ∧
      (∀ x ∈ r.scale, ∀ g, t.wgAt x.1 = some g → x.2 ∈ g.scalePoison) ∧
      ∀ x ∈ r.regs, ∀ w, t.warpAt ⟨x.1, x.2.1⟩ = some w → x.2.2 ∈ w.regPoison))

namespace Sys2Proof.Machine

/-- A long command has ended (R495). -/
def LongEnds (s t : State) (l : LongCmd) (astat : Nat) (rcause : Cause) (res : Nat) (r : Out) : Prop :=
  r = .next t ∧ (∀ x ∈ t.longs, x.id ≠ l.id) ∧ (s.linkUp l.h.port = true →
    t.hostOut = s.hostOut ++ [responseTo l.h (l.h.resp + 64) astat rcause s.time res, .msix l.h.port 0])

end Sys2Proof.Machine

/-- WORKGROUP_SAVED, of a drained workgroup of a switching context, marks it saved; a warp without a liveness record keeps its registers, other warps and memory are as before. LONG_COMMAND_COMPLETE, where its work is done, takes the command off and writes its second response 64 bytes after the first: what was fixed already, or 0 for an idle queue deleted, a name or a record without operations or packets of them dropped, a view deleted, the summary of a re-synchronising command told, and 4 for a firmware image that does not verify. A checkpoint whose pages are out ends with 0; each page that is still mapped is translated anew as its copy begins in one step, and is out in a later one, each 16-byte granule old or new as a free value says, sealed for the host (logs 2, 39, 68, 73). Which second response carries a code is the model's reading (logs 32, 33), what an image may hold is log 17. JOIN_STRIPE of a stripe that is read: a refusal tries the next source, or with none left ends the join; its data, of the stripe's length and on no pending line, is written to the spare's memory, for a parity stripe the exclusive or of its seven parts. (R412, R423, R425, R430, R446, R485, R487, R494, R495, R504, R505) -/
def Obligations.saves_long_commands_and_joins_complete : Prop :=
  (∀ (s : State) (k : WgKey) (g : Workgroup) (r : LaunchRecord), s.settle.wgAt k = some g → s.settle.recOf k = some r →
    s.settle.savable g = true →
    ∃ t, exec (.workgroupSaved k) s = .next t ∧ SameMemory s t ∧ ((t.wgAt k).map (·.saved)) = some true ∧
      (∀ w ∈ s.settle.warps, w.wg ≠ k → (∀ x ∈ s.settle.warps, x.wg = k → x.key ≠ w.key) → w ∈ t.warps) ∧
      ((s.settle.warps.map Warp.key).Nodup → ∀ w ∈ s.settle.warps, w.wg = k → w.live = none →
        ∃ v ∈ t.warps, v.key = w.key ∧ v.v = w.v ∧ v.s = w.s ∧ v.m = w.m ∧ v.pcs = w.pcs)) ∧
  (∀ (s : State) (l : LongCmd), let u := s.settle
    (u.longs.find? fun x => x.id = l.id) = some l →
    (∀ a c x, l.result = some (a, c, x) → ∃ t, LongEnds u t l a c x (exec (.longCommandComplete l.id) s) ∧ SameMemory s t) ∧
    (l.result = none →
      (∀ q, l.work = .qdel q → u.queueBusy q = false → ∃ t, LongEnds u t l 0 0 0 (exec (.longCommandComplete l.id) s) ∧ SameMemory s t ∧
        ∀ x ∈ t.queues, x.p.queue ≠ q) ∧
      (∀ n, l.work = .commdel n → (∀ o ∈ u.galOps, o.comm ≠ n) → (u.arriving fun p => p.comm = n) = false → ∃ t, LongEnds u t l 0 0 0 (exec (.longCommandComplete l.id) s) ∧ SameMemory s t ∧
        t.commAt n = none ∧ ∀ b ∈ t.buffers, b.d.comm ≠ n) ∧
      (∀ n name, l.work = .dereg n name → u.nameBusy n name = false →
        ∃ t, LongEnds u t l 0 0 0 (exec (.longCommandComplete l.id) s) ∧ SameMemory s t ∧ t.bufOf n name = none) ∧
      (∀ n name, l.work = .viewdel n name → u.nameBusy n name = false → ∃ t, LongEnds u t l 0 0 0 (exec (.longCommandComplete l.id) s) ∧ SameMemory s t ∧
        t.bufOf n name = none) ∧
      (∀ told, l.work = .resync told → u.linkUp l.h.port = true → ∃ t, exec (.longCommandComplete l.id) s = .next t ∧ SameMemory s t ∧
        t.hostOut = u.hostOut ++ [.summary l.h.port l.h.data told, responseTo l.h (l.h.resp + 64) 0 0 u.time 0, .msix l.h.port 0]) ∧
      (∀ f, l.work = .fwload f → u.ctxs = [] → (f.ed25519 = false ∨ f.mldsa = false ∨ f.secVersion < Config.fusedMinimum) →
        ∃ t, LongEnds u t l 4 0 0 (exec (.longCommandComplete l.id) s) ∧ SameMemory s t ∧ t.firmware = u.firmware) ∧
      (∀ job, l.work = .ckpt job → job.pages = [] → ∃ t, LongEnds u t l 0 0 0 (exec (.longCommandComplete l.id) s) ∧ SameMemory s t))) ∧
  (∀ (s : State) (l : LongCmd) (job : CkptJob) (va : Nat) (vas : List Nat) (rest : List Choice), s.agenda = .work l.id :: rest →
    (s.longs.find? fun x => x.id = l.id) = some l → l.work = .ckpt job → job.pages = va :: vas →
    let goesOn (t : State) (j : CkptJob) : Prop :=
      step s = .next t ∧ SameMemory s t ∧ (t.longs.find? fun x => x.id = l.id) = some { l with work := .ckpt j }
    let next : CkptJob := { job with pages := vas, index := job.index + 1, copying := none }
    (job.copying = none → s.walkersBusy newelSite job.ctx va = false →
      (∀ base n e, s.leafFor newelSite job.ctx va = .leaf base n e → s.paPending (leafPa e base n va) 65536 = false →
        let frame := leafPa e base n va / 65536
        ∃ t, goesOn t { job with copying := some (frame, keyOf job.ctx e, s.pageBytes (keyOf job.ctx e) frame) } ∧ t.hostOut = s.hostOut) ∧
      ((∀ base n e, s.leafFor newelSite job.ctx va ≠ .leaf base n e) → ∃ t, goesOn t next ∧ t.hostOut = s.hostOut)) ∧
    (∀ frame key old, job.copying = some (frame, key, old) → s.paPending (65536 * frame) 65536 = false →
      ∃ t, goesOn t next ∧ ∀ slot addr, job.dest = .host slot addr → s.linkUp l.h.port = true →
        t.hostOut = s.hostOut ++ [.write l.h.port (addr + 65536 * job.index) (sealPage job.key job.index (s.halfNew old (s.pageBytes key frame)))])) ∧
  (∀ (s : State) (id : Nat) (j : JoinRec) (x : JoinStripeRec) (c : Comm) (e : JoinEntry),
    (s.joins.find? fun j => j.stripes.any fun t => t.id = id && t.sent && !t.written) = some j →
    (j.stripes.find? fun t => t.id = id) = some x → s.commAt j.comm = some c → j.entries[x.entry]? = some e →
    (x.tried + 1 < e.sources.length → ∃ t, exec (.joinStripe id none) s = .next t ∧ SameMemory s t ∧
      ∃ j' ∈ t.joins, j'.cmd = j.cmd ∧ ∃ y ∈ j'.stripes, y.id = id ∧ y.tried = x.tried + 1) ∧
    (e.sources.length ≤ x.tried + 1 → ∃ t, exec (.joinStripe id none) s = .next t ∧ SameMemory s t ∧ ∀ y ∈ t.joins, y.cmd ≠ j.cmd) ∧
    (∀ gen bs us pa, bs.length = (if e.kind = 1 then (e.reads j.rank x.tried).length * x.len else x.len) →
      OneRun s .plain c.ctx .write (e.daddr + x.ofs) pa x.len → s.rangePending c.ctx .write (e.daddr + x.ofs) x.len = false →
      ∃ t, exec (.joinStripe id (some (gen, bs, us))) s = .next t ∧
        ((∃ y ∈ j.stripes, y.id ≠ id ∧ y.written = false) →
          (∀ n < x.len, byteAt t.mem (pa + n) = (if e.kind = 1 then xorParts x.len bs else bs).getD n 0) ∧
          ∀ a, (a < pa ∨ pa + x.len ≤ a) → NoKeptFrame s a → byteAt t.mem a = byteAt s.mem a)))

/-- On a device that takes commands: BRKANS of a warp held at BRK ends its hold. FAULTANS of a warp held at a fault (bit 9 clear) or at a queue element (bit 9 set) ends its hold when it resolves, forgets every cached translation of the address, and changes no memory, other warp or pending access, where the warp's accesses all have a translation; when it rejects, the warp's cause is delivered as a trap. FAULTANS with bit 9 set of a warp with a suspended copy record resumes the oldest of them (that order, and that translations of the address are dropped, is the model's reading, log 38). Each is answered with ASTAT 0. A warp not held, or held otherwise, is answered with 2, and nothing changes. (R200, R298, R391, R406, R420, R494) -/
def Obligations.answers_to_held_warps : Prop :=
  ∀ (s : State) (h : AdminHdr) (ctx wgid n gridno : Nat), Cmd s h → ctx < 64 → n < 32 →
    let k : WgKey := ⟨ctx, gridno, wgid⟩
    let heldBy (x : Option Hold) : Prop := ((s.warpNamed k n).bind fun w => w.hold) = x
    (∀ w x, s.warpNamed k n = some w → w.hold = some x →
      (x.kind = .brk → exec (.brkans h ctx wgid n gridno) s =
        .next ((s.updWarp w.key fun v => { v with hold := none }).replied h [] 0 0 0)) ∧
      (x.kind ≠ .brk → exec (.brkans h ctx wgid n gridno) s = .next (s.replied h [] 2 0 0)) ∧
      (∀ copy : Bool, (copy = false ∧ x.kind = .fault ∨ copy = true ∧ x.kind = .element ∧
            (∀ r ∈ s.records, r.wg = k → r.suspended = none) ∧ ∀ o ∈ s.galOps, o.wg = k → o.suspended = none) →
        (∀ p ∈ s.pending, ∀ a, p = .access a → a.warp = w.key → a.placed = true) →
        (∃ t : State, exec (.faultans h ctx wgid n false copy gridno) s = .next (t.replied h [] 0 0 0) ∧
          t = { s with warps := t.warps, tlb := t.tlb } ∧ (∀ e ∈ t.tlb, e ∈ s.tlb ∧ ¬ (e.ctx = ctx ∧ e.base ≤ x.addr ∧ x.addr < e.base + e.size)) ∧
          (∃ v, t.warpNamed k n = some v ∧ v.hold = none ∧ v = { w with hold := none, q := v.q } ∧ (copy = false → v.q = w.q)) ∧
          ∀ v ∈ s.warps, v.key ≠ w.key → v ∈ t.warps) ∧
        exec (.faultans h ctx wgid n true copy gridno) s = .next ((s.rejectHold w x).answer h 0)) ∧
      (x.kind ≠ .fault → ∀ reject, exec (.faultans h ctx wgid n reject false gridno) s = .next (s.replied h [] 2 0 0))) ∧
    (heldBy none → exec (.brkans h ctx wgid n gridno) s = .next (s.replied h [] 2 0 0) ∧
      ∀ reject, exec (.faultans h ctx wgid n reject false gridno) s = .next (s.replied h [] 2 0 0)) ∧
    (∀ r f, (s.records.find? fun r => r.wg = k && r.suspended.isSome && s.numOf r = n) = some r → r.suspended = some f →
      exec (.faultans h ctx wgid n false true gridno) s =
        .next (((s.forget ctx f.2.1).updRec r.id fun x => { x with suspended := none }).replied h [] 0 0 0))
end

