-- ==== Sys2Proof/Laws/Decode.lean ====
section
/-! SUPPORT. The decoder reads back what the encoder writes: the fields of each layout, then whole forms (R25 to R36, R51). -/

namespace Sys2Proof.Laws
open Sys2Proof

theorem extract_append_high {m n : Nat} (x : BitVec m) (y : BitVec n) (i k : Nat) (h : n ≤ i) :
    (x ++ y).extractLsb' i k = x.extractLsb' (i - n) k := by
  apply BitVec.eq_of_getLsbD_eq
  intro j hj
  simp only [BitVec.getLsbD_extractLsb', hj, decide_true, Bool.true_and, BitVec.getLsbD_append]
  rw [if_neg (by omega)]
  congr 1
  omega

theorem extract_append_low {m n : Nat} (x : BitVec m) (y : BitVec n) (i k : Nat) (h : i + k ≤ n) :
    (x ++ y).extractLsb' i k = y.extractLsb' i k := by
  apply BitVec.eq_of_getLsbD_eq
  intro j hj
  simp only [BitVec.getLsbD_extractLsb', hj, decide_true, Bool.true_and, BitVec.getLsbD_append]
  rw [if_pos (by omega)]

theorem getLsbD_append_high {m n : Nat} (x : BitVec m) (y : BitVec n) (i : Nat) (h : n ≤ i) :
    (x ++ y).getLsbD i = x.getLsbD (i - n) := by
  rw [BitVec.getLsbD_append, if_neg (by omega)]

theorem getLsbD_append_low {m n : Nat} (x : BitVec m) (y : BitVec n) (i : Nat) (h : i < n) :
    (x ++ y).getLsbD i = y.getLsbD i := by
  rw [BitVec.getLsbD_append, if_pos h]

theorem opOf_rWord (len : BitVec 2) (op : Nat) (f : RForm) (h : op < 64) : opOf (rWord len op f) = op := by
  simp (disch := omega) only [opOf, rWord, extract_append_high, extract_append_low]
  simp [BitVec.extractLsb'_eq_self]
  omega

theorem rFields_rWord (len : BitVec 2) (op : Nat) (f : RForm) : rFields (rWord len op f) = f := by
  obtain ⟨lnd, d, a, b, h, nw⟩ := f
  simp (disch := omega) only [rFields, rWord, lndOf, extract_append_high, extract_append_low, getLsbD_append_high, getLsbD_append_low]
  simp [BitVec.extractLsb'_eq_self]
theorem lenOf_rWord (len : BitVec 2) (op : Nat) (f : RForm) : lenOf (rWord len op f) = len := by
  simp (disch := omega) only [lenOf, rWord, extract_append_high, extract_append_low]
  simp [BitVec.extractLsb'_eq_self]
theorem opOf_iWord (len : BitVec 2) (op : Nat) (f : IForm) (h : op < 64) : opOf (iWord len op f) = op := by
  simp (disch := omega) only [opOf, iWord, extract_append_high, extract_append_low]
  simp [BitVec.extractLsb'_eq_self]
  omega
theorem lenOf_iWord (len : BitVec 2) (op : Nat) (f : IForm) : lenOf (iWord len op f) = len := by
  simp (disch := omega) only [lenOf, iWord, extract_append_high, extract_append_low]
  simp [BitVec.extractLsb'_eq_self]
theorem iFields_iWord (len : BitVec 2) (op : Nat) (f : IForm) : iFields (iWord len op f) f.lit = f := by
  obtain ⟨lnd, d, a, imm, h, lit⟩ := f
  simp (disch := omega) only [iFields, iWord, lndOf, extract_append_high, extract_append_low, getLsbD_append_high, getLsbD_append_low]
  simp [BitVec.extractLsb'_eq_self]
theorem opOf_xWord (len : BitVec 2) (g x : Nat) (f : XForm) (h : g < 64) : opOf (xWord0 len g x f) = g := by
  simp (disch := omega) only [opOf, xWord0, extract_append_high, extract_append_low]
  simp [BitVec.extractLsb'_eq_self]
  omega
theorem lenOf_xWord (len : BitVec 2) (g x : Nat) (f : XForm) : lenOf (xWord0 len g x f) = len := by
  simp (disch := omega) only [lenOf, xWord0, extract_append_high, extract_append_low]
  simp [BitVec.extractLsb'_eq_self]
theorem xopOf_xWord (len : BitVec 2) (g x : Nat) (f : XForm) (h : x < 256) : xopOf (xWord0 len g x f) = x := by
  simp (disch := omega) only [xopOf, xWord0, extract_append_high, extract_append_low]
  simp [BitVec.extractLsb'_eq_self]
  omega
theorem xFields_xWord (len : BitVec 2) (g x : Nat) (f : XForm) : xFields (xWord0 len g x f) (xWord1 f) f.mod f.lit = f := by
  obtain ⟨lnd, d, h2, nw, ty, a, b, c, e, mod, lit⟩ := f
  simp (disch := omega) only [xFields, xWord0, xWord1, lndOf, extract_append_high, extract_append_low, getLsbD_append_high, getLsbD_append_low]
  simp [BitVec.extractLsb'_eq_self]
theorem litOf_words (l : BitVec 64) : litOf (l.extractLsb' 0 32) (l.extractLsb' 32 32) = l := by
  apply BitVec.eq_of_getLsbD_eq
  intro j hj
  simp only [litOf, BitVec.getLsbD_append, BitVec.getLsbD_extractLsb']
  by_cases h : j < 32
  · simp [h]
  · simp only [h, if_false]
    have : 32 + (j - 32) = j := by omega
    rw [this]
    simp; omega
theorem pFields_pWord (p : PForm) : pFields (pWord p) = p := by
  obtain ⟨m, zm, rnd, c, cv, sat⟩ := p
  simp (disch := omega) only [pFields, pWord, extract_append_high, extract_append_low, getLsbD_append_high, getLsbD_append_low]
  simp [BitVec.extractLsb'_eq_self]

/-- The forms that instructions have: an assigned opcode in its own layout. -/
def knownForm : Form → Bool
  | .r op _ lit => op < 0x29 && !isIForm op && lit.isNone
  | .i op _ => isIForm op
  | .l _ => true
  | .x g x _ => 0x38 ≤ g && g < 0x3F && x ≤ lastXop g

theorem isIForm_lt {op : Nat} (h : isIForm op = true) : op < 0x29 := by
  simp [isIForm] at h; omega

theorem lastXop_lt (g : Nat) : lastXop g < 256 := by unfold lastXop; split <;> decide


/-- A word whose opcode is assigned and whose LEN agrees decodes to its form's instruction, where no check fails. -/
theorem decodeUnder_of_form {env : DecEnv} {p : Option PForm} {w : Word} {rest : List Word} {fm : Form} {i : Instr}
    (ho : opOf w < 0x29 ∨ (0x38 ≤ opOf w ∧ opOf w < 0x3F ∧ xopOf w ≤ lastXop (opOf w))) (hl : lenOk w = true)
    (hf : formOf w rest = fm) (hc : fm.check env p true = none) (hi : fm.instr = some i) :
    decodeUnder env (p.map fun q => (q, true, false)) (w :: rest) = .ok i (4 * wordCount w) := by
  have hm : (p.map fun q => (q, true, false)).map (·.1) = p := by cases p <;> rfl
  simp only [decodeUnder, hl, hf, hm, Bool.not_true, Bool.or_false]
  rw [if_neg (by simp; omega), if_neg (by cases p <;> simp), if_neg (by simp; omega), if_neg (by omega)]
  cases p <;> simp only [Option.map_none, Option.map_some, hc, hi]

theorem formOf_base {w : Word} {rest : List Word} (h : opOf w < 0x38) (hm : ¬ (opOf w = 1 ∧ lenOf w = 1 ∧ (rFields w).a = 127 ∧ (rFields w).b = 0)) :
    formOf w rest =
      let lit := if lenOf w = 1 then some (litOf (rest.getD 0 0) (rest.getD 1 0)) else none
      if isIForm (opOf w) then .i (opOf w) (iFields w lit) else .r (opOf w) (rFields w) lit := by
  simp only [formOf, h, if_true]
  rw [if_neg (by simpa [and_assoc] using hm)]

theorem formOf_ext {w : Word} {rest : List Word} (h : 0x38 ≤ opOf w) :
    formOf w rest = .x (opOf w) (xopOf w) (xFields w (rest.getD 0 0) (rest.getD 1 0)
      (if lenOf w = 3 then some (litOf (rest.getD 2 0) (rest.getD 3 0)) else none)) := by
  simp only [formOf, if_neg (show ¬ opOf w < 0x38 by omega)]

theorem decodeUnder_encode {env : DecEnv} {p : Option PForm} {fm : Form} {i : Instr} (hk : knownForm fm = true)
    (hc : fm.check env p true = none) (hi : fm.instr = some i) :
    decodeUnder env (p.map fun q => (q, true, false)) fm.encode = .ok i (4 * fm.encode.length) := by
  cases fm with
  | r op f lit =>
    simp only [knownForm, Bool.and_eq_true, decide_eq_true_eq, Bool.not_eq_true', Option.isNone_iff_eq_none] at hk
    obtain ⟨⟨h1, h2⟩, rfl⟩ := hk
    have ho := opOf_rWord 0 op f (by omega)
    have hl := lenOf_rWord 0 op f
    have hr := rFields_rWord 0 op f
    change decodeUnder env _ [rWord 0 op f] = .ok i (4 * 1)
    generalize rWord 0 op f = w at ho hl hr
    have hw : wordCount w = 1 := by simp [wordCount, lenOk, ho, hl]
    rw [← hw]
    refine decodeUnder_of_form (.inl (by omega)) (by simp [lenOk, ho, hl]; omega) ?_ hc hi
    rw [formOf_base (by omega) (by simp [hl])]
    simp [ho, hl, hr, h2]
  | i op f =>
    simp only [knownForm] at hk
    have h1 := isIForm_lt hk
    have hm : op ≠ 1 := by rintro rfl; simp [isIForm] at hk
    have ho := opOf_iWord (if f.lit.isSome then 1 else 0) op f (by omega)
    have hl := lenOf_iWord (if f.lit.isSome then 1 else 0) op f
    have hr := iFields_iWord (if f.lit.isSome then 1 else 0) op f
    rw [show Form.encode (.i op f) = iWord (if f.lit.isSome then 1 else 0) op f :: litWords f.lit from rfl]
    generalize iWord (if f.lit.isSome then 1 else 0) op f = w at ho hl hr
    have hw : wordCount w = (w :: litWords f.lit).length := by
      cases hlit : f.lit <;> simp [wordCount, lenOk, ho, hl, hlit, litWords] <;> omega
    rw [← hw]
    refine decodeUnder_of_form (.inl (by omega)) (by cases hlit : f.lit <;> simp [lenOk, ho, hl, hlit] <;> omega) ?_ hc hi
    rw [formOf_base (by omega) (by simp [ho, hm])]
    cases hlit : f.lit with
    | none => rw [hlit] at hr; simp [ho, hl, hk, hlit, hr]
    | some l => rw [hlit] at hr; simp [ho, hl, hk, hlit, litWords, litOf_words, hr]
  | l f =>
    have ho := opOf_rWord 1 0x01 ⟨f.lnd, f.d, 127, 0, f.h, f.nw⟩ (by omega)
    have hl := lenOf_rWord 1 0x01 ⟨f.lnd, f.d, 127, 0, f.h, f.nw⟩
    have hr := rFields_rWord 1 0x01 ⟨f.lnd, f.d, 127, 0, f.h, f.nw⟩
    rw [show Form.encode (.l f) = rWord 1 0x01 ⟨f.lnd, f.d, 127, 0, f.h, f.nw⟩ :: litWords (some f.lit) from rfl]
    generalize rWord 1 0x01 ⟨f.lnd, f.d, 127, 0, f.h, f.nw⟩ = w at ho hl hr
    have hw : wordCount w = (w :: litWords (some f.lit)).length := by simp [wordCount, lenOk, ho, hl, litWords]
    rw [← hw]
    refine decodeUnder_of_form (.inl (by omega)) (by simp [lenOk, ho, hl]) ?_ hc hi
    have hn : lndOf w = f.lnd := congrArg RForm.lnd hr
    simp [formOf, ho, hl, hr, hn, litWords, litOf_words]
  | x g x f =>
    simp only [knownForm, Bool.and_eq_true, decide_eq_true_eq] at hk
    obtain ⟨⟨h1, h2⟩, h3⟩ := hk
    have hx := lastXop_lt g
    have ho := opOf_xWord (if f.lit.isSome then 3 else 2) g x f (by omega)
    have hl := lenOf_xWord (if f.lit.isSome then 3 else 2) g x f
    have hp := xopOf_xWord (if f.lit.isSome then 3 else 2) g x f (by omega)
    have hr := xFields_xWord (if f.lit.isSome then 3 else 2) g x f
    rw [show Form.encode (.x g x f) = xWord0 (if f.lit.isSome then 3 else 2) g x f :: xWord1 f :: f.mod :: litWords f.lit from rfl]
    generalize xWord0 (if f.lit.isSome then 3 else 2) g x f = w at ho hl hp hr
    have hw : wordCount w = (w :: xWord1 f :: f.mod :: litWords f.lit).length := by
      cases hlit : f.lit <;> simp [wordCount, lenOk, ho, hl, hlit, litWords] <;> omega
    rw [← hw]
    refine decodeUnder_of_form (.inr ⟨by omega, by omega, by rw [hp, ho]; exact h3⟩)
      (by cases hlit : f.lit <;> simp [lenOk, ho, hl, hlit] <;> omega) ?_ hc hi
    rw [formOf_ext (by omega)]
    cases hlit : f.lit with
    | none => rw [hlit] at hr; simp [ho, hl, hp, hlit, hr]
    | some l => rw [hlit] at hr; simp [ho, hl, hp, hlit, litWords, litOf_words, hr]

theorem maskField_low (m : BitVec 3) : (maskField m).extractLsb' 0 3 = m := by
  simp (disch := omega) only [maskField, extract_append_low]
  simp [BitVec.extractLsb'_eq_self]

theorem targetLit_words (t : BitVec 55) : (targetLit t).extractLsb' 2 55 = t := by
  simp (disch := omega) only [targetLit, extract_append_high, extract_append_low]
  simp [BitVec.extractLsb'_eq_self]

/-- What WellFormed asks of an instruction is that no check of R51 fails. -/
theorem check_of_wf {env : DecEnv} {p : Option PForm} {i : Instr} {fm : Form} (hf : i.form = some fm)
    (hw : i.wf env p = true) : fm.check env p true = none := by
  simp only [Instr.wf, Bool.and_eq_true] at hw
  obtain ⟨⟨⟨⟨⟨⟨-, h2⟩, h4⟩, h5⟩, h6⟩, h7⟩, -⟩ := hw
  simp only [Instr.literalUsed, Instr.prefixable, Instr.literalPresent, Instr.valuesAssigned, Instr.reservedZero, hf] at h2 h4 h5 h6 h7
  cases p with
  | none => simp_all [Form.check]
  | some q => simp_all [Form.check, Option.isSome_iff_ne_none]

/-- An instruction with a form decodes from its words, where it is well-formed. -/
theorem decodeUnder_of_wf {env : DecEnv} {p : Option PForm} {i : Instr} {fm : Form} (he : encode i = fm.encode)
    (hf : i.form = some fm) (hk : knownForm fm = true) (hi : fm.instr = some i) (hw : i.wf env p = true) :
    decodeUnder env (p.map fun q => (q, true, false)) (encode i) = .ok i (4 * (encode i).length) := by
  rw [he]
  exact decodeUnder_encode hk (check_of_wf hf hw) hi

end Sys2Proof.Laws
end

