-- ==== Sys2Proof/Laws/Maps.lean ====
section
/-! SUPPORT. Sparse maps and bytes: what a read gives after a write, and that every write keeps the canonical form. -/

namespace Sys2Proof.Machine

variable {α : Type}

theorem SMap.get_put (d : α) (m : SMap α) (n j : Nat) (v : α) : (m.put n v).get d j = if j = n then v else m.get d j := by
  induction m with
  | nil => simp [SMap.put, SMap.get, eq_comm]
  | cons p m ih =>
    obtain ⟨k, w⟩ := p
    simp only [SMap.put]
    split
    · simp only [SMap.get, eq_comm (a := n)]
    · split
      · subst k
        by_cases h : j = n <;> simp [SMap.get, h, eq_comm (a := n)]
      · simp only [SMap.get, ih]
        by_cases h : j = n
        · subst j; simp_all
        · simp [h]

theorem SMap.get_del (d : α) (m : SMap α) (n j : Nat) : (m.del n).get d j = if j = n then d else m.get d j := by
  induction m with
  | nil => simp [SMap.del, SMap.get]
  | cons p m ih =>
    obtain ⟨k, w⟩ := p
    simp only [SMap.del]
    split
    · subst k
      rw [ih]
      by_cases h : j = n
      · simp [h]
      · simp [h, SMap.get, Ne.symm h]
    · simp only [SMap.get, ih]
      by_cases h : j = n
      · subst j; simp_all
      · simp [h]

/-- A read after a write gives what was written there and leaves every other key as it was. -/
theorem SMap.get_set [DecidableEq α] (d : α) (m : SMap α) (n j : Nat) (v : α) :
    (SMap.set d m n v).get d j = if j = n then v else m.get d j := by
  unfold SMap.set
  split
  · rw [SMap.get_del]; simp_all
  · exact SMap.get_put d m n j v

theorem SMap.find_put (m : SMap α) (n j : Nat) (v : α) : (m.put n v).find j = if j = n then some v else m.find j := by
  induction m with
  | nil => simp [SMap.put, SMap.find, eq_comm]
  | cons p m ih =>
    obtain ⟨k, w⟩ := p
    simp only [SMap.put]
    split
    · simp only [SMap.find, eq_comm (a := n)]
    · split
      · subst k
        by_cases h : j = n <;> simp [SMap.find, h, eq_comm (a := n)]
      · simp only [SMap.find, ih]
        by_cases h : j = n
        · subst j; simp_all
        · simp [h]

theorem byteAt_setByte (m : List Host.Cell) (a c : Nat) (b : Byte) :
    byteAt (setByte m a b) c = if c = a then b else byteAt m c := SMap.get_set 0 m a c b

/-- Bytes written from a up leave every other byte as it was. -/
theorem byteAt_writeBytes_other (bs : List Byte) (m : List Host.Cell) (a c : Nat) (h : c < a ∨ a + bs.length ≤ c) :
    byteAt (writeBytes m a bs) c = byteAt m c := by
  induction bs generalizing m a with
  | nil => rfl
  | cons b bs ih =>
    simp only [List.length_cons] at h
    rw [writeBytes, ih _ _ (by omega), byteAt_setByte, if_neg (by omega)]

/-- Bytes written from a up are read back. -/
theorem byteAt_writeBytes_same (bs : List Byte) (m : List Host.Cell) (a i : Nat) (h : i < bs.length) :
    byteAt (writeBytes m a bs) (a + i) = bs[i] := by
  induction bs generalizing m a i with
  | nil => simp at h
  | cons b bs ih =>
    rw [writeBytes]
    cases i with
    | zero => rw [byteAt_writeBytes_other _ _ _ _ (by omega)]; simp [byteAt_setByte]
    | succ i =>
      rw [show a + (i + 1) = a + 1 + i by omega, ih _ _ _ (by simpa using h)]
      rfl

/-! ### The canonical form -/

/-- Keys above n only. -/
def SMap.above (n : Nat) (m : SMap α) : Prop := ∀ p ∈ m, n < p.1

theorem SMap.wf_cons [DecidableEq α] {d : α} {k : Nat} {v : α} {m : SMap α} :
    SMap.wf d ((k, v) :: m) = true ↔ v ≠ d ∧ SMap.above k m ∧ SMap.wf d m = true := by
  constructor
  · intro h
    simp only [SMap.wf, Bool.and_eq_true, decide_eq_true_eq] at h
    obtain ⟨⟨h1, h2⟩, h3⟩ := h
    refine ⟨h1, ?_, h3⟩
    clear h1
    induction m generalizing k v with
    | nil => intro p hp; simp at hp
    | cons q m ih =>
      obtain ⟨j, w⟩ := q
      have hj : k < j := by simpa using h2
      simp only [SMap.wf, Bool.and_eq_true, decide_eq_true_eq] at h3
      intro p hp
      rcases List.mem_cons.1 hp with rfl | hp
      · exact hj
      · exact lt_trans hj (ih (k := j) (v := w) h3.2 h3.1.2 p hp)
  · rintro ⟨h1, h2, h3⟩
    simp only [SMap.wf, h3, Bool.and_true, Bool.and_eq_true, decide_eq_true_eq]
    refine ⟨h1, ?_⟩
    cases m with
    | nil => rfl
    | cons q m => simpa using h2 q (by simp)

theorem SMap.above_put {n k : Nat} {v : α} {m : SMap α} (h : SMap.above n m) (hk : n < k) : SMap.above n (m.put k v) := by
  induction m with
  | nil => intro p hp; simp [SMap.put] at hp; simpa [hp]
  | cons q m ih =>
    obtain ⟨j, w⟩ := q
    have hm : SMap.above n m := fun p hp => h p (by simp [hp])
    have hj : n < j := h (j, w) (by simp)
    simp only [SMap.put]
    split
    · intro p hp
      rcases List.mem_cons.1 hp with rfl | hp
      · exact hk
      · exact h p hp
    · split
      · intro p hp
        rcases List.mem_cons.1 hp with rfl | hp
        · exact hk
        · exact hm p hp
      · intro p hp
        rcases List.mem_cons.1 hp with rfl | hp
        · exact hj
        · exact ih hm p hp

theorem SMap.above_del {n k : Nat} {m : SMap α} (h : SMap.above n m) : SMap.above n (m.del k) := by
  induction m with
  | nil => intro p hp; simp [SMap.del] at hp
  | cons q m ih =>
    obtain ⟨j, w⟩ := q
    have hm : SMap.above n m := fun p hp => h p (by simp [hp])
    simp only [SMap.del]
    split
    · exact ih hm
    · intro p hp
      rcases List.mem_cons.1 hp with rfl | hp
      · exact h _ (by simp)
      · exact ih hm p hp

theorem SMap.above_weaken {n k : Nat} {m : SMap α} (h : SMap.above k m) (hn : n ≤ k) : SMap.above n m :=
  fun p hp => lt_of_le_of_lt hn (h p hp)

theorem SMap.wf_put [DecidableEq α] {d : α} {m : SMap α} {n : Nat} {v : α} (h : SMap.wf d m = true) (hv : v ≠ d) : SMap.wf d (m.put n v) = true := by
  induction m with
  | nil => exact SMap.wf_cons.2 ⟨hv, fun p hp => by simp at hp, rfl⟩
  | cons q m ih =>
    obtain ⟨j, w⟩ := q
    obtain ⟨h1, h2, h3⟩ := SMap.wf_cons.1 h
    simp only [SMap.put]
    split
    · refine SMap.wf_cons.2 ⟨hv, ?_, h⟩
      intro p hp
      rcases List.mem_cons.1 hp with rfl | hp
      · assumption
      · exact SMap.above_weaken h2 (by omega) p hp
    · split
      · subst j; exact SMap.wf_cons.2 ⟨hv, h2, h3⟩
      · exact SMap.wf_cons.2 ⟨h1, SMap.above_put h2 (by omega), ih h3⟩

theorem SMap.wf_del [DecidableEq α] {d : α} {m : SMap α} {n : Nat} (h : SMap.wf d m = true) : SMap.wf d (m.del n) = true := by
  induction m with
  | nil => rfl
  | cons q m ih =>
    obtain ⟨j, w⟩ := q
    obtain ⟨h1, h2, h3⟩ := SMap.wf_cons.1 h
    simp only [SMap.del]
    split
    · exact ih h3
    · exact SMap.wf_cons.2 ⟨h1, SMap.above_del h2, ih h3⟩

/-- A write keeps the canonical form. -/
theorem SMap.wf_set [DecidableEq α] {d : α} {m : SMap α} {n : Nat} {v : α} (h : SMap.wf d m = true) : SMap.wf d (SMap.set d m n v) = true := by
  unfold SMap.set
  split
  · exact SMap.wf_del h
  · exact SMap.wf_put h ‹_›

theorem wf_setByte {m : List Host.Cell} {a : Nat} {b : Byte} (h : Memory.wf m = true) : Memory.wf (setByte m a b) = true :=
  SMap.wf_set h

/-- Every store to memory goes through here, and keeps its canonical form. -/
theorem wf_writeBytes {m : List Host.Cell} (bs : List Byte) (a : Nat) (h : Memory.wf m = true) :
    Memory.wf (writeBytes m a bs) = true := by
  induction bs generalizing m a with
  | nil => exact h
  | cons b bs ih => exact ih _ (wf_setByte h)

theorem wf_writeLE {m : List Host.Cell} (a v n : Nat) (h : Memory.wf m = true) : Memory.wf (writeLE m a v n) = true :=
  wf_writeBytes _ _ h

theorem reset_memory_wf : Memory.wf State.reset.mem = true := rfl

end Sys2Proof.Machine
end

