-- ==== Sys2Proof/Laws/State.lean ====
section
/-! SUPPORT. What each update of a state leaves alone, field by field. -/

namespace Sys2Proof.Machine

@[simp] theorem State.useFree_agenda (s : State) (n : Nat) : (s.useFree n).agenda = s.agenda := rfl
@[simp] theorem State.useFree_nextId (s : State) (n : Nat) : (s.useFree n).nextId = s.nextId := rfl
@[simp] theorem State.useFree_mem (s : State) (n : Nat) : (s.useFree n).mem = s.mem := rfl
@[simp] theorem State.useFree_memPoison (s : State) (n : Nat) : (s.useFree n).memPoison = s.memPoison := rfl
@[simp] theorem State.useFree_lineKeys (s : State) (n : Nat) : (s.useFree n).lineKeys = s.lineKeys := rfl
@[simp] theorem State.useFree_l2 (s : State) (n : Nat) : (s.useFree n).l2 = s.l2 := rfl
@[simp] theorem State.useFree_tlb (s : State) (n : Nat) : (s.useFree n).tlb = s.tlb := rfl
@[simp] theorem State.useFree_walks (s : State) (n : Nat) : (s.useFree n).walks = s.walks := rfl
@[simp] theorem State.useFree_flights (s : State) (n : Nat) : (s.useFree n).flights = s.flights := rfl
@[simp] theorem State.useFree_cores (s : State) (n : Nat) : (s.useFree n).cores = s.cores := rfl
@[simp] theorem State.useFree_warps (s : State) (n : Nat) : (s.useFree n).warps = s.warps := rfl
@[simp] theorem State.useFree_wgs (s : State) (n : Nat) : (s.useFree n).wgs = s.wgs := rfl
@[simp] theorem State.useFree_grids (s : State) (n : Nat) : (s.useFree n).grids = s.grids := rfl
@[simp] theorem State.useFree_ctxs (s : State) (n : Nat) : (s.useFree n).ctxs = s.ctxs := rfl
@[simp] theorem State.useFree_pending (s : State) (n : Nat) : (s.useFree n).pending = s.pending := rfl
@[simp] theorem State.useFree_returns (s : State) (n : Nat) : (s.useFree n).returns = s.returns := rfl
@[simp] theorem State.useFree_scoreboard (s : State) (n : Nat) : (s.useFree n).scoreboard = s.scoreboard := rfl
@[simp] theorem State.useFree_records (s : State) (n : Nat) : (s.useFree n).records = s.records := rfl
@[simp] theorem State.useFree_chunks (s : State) (n : Nat) : (s.useFree n).chunks = s.chunks := rfl
@[simp] theorem State.useFree_turns (s : State) (n : Nat) : (s.useFree n).turns = s.turns := rfl
@[simp] theorem State.useFree_storeGroups (s : State) (n : Nat) : (s.useFree n).storeGroups = s.storeGroups := rfl
@[simp] theorem State.useFree_images (s : State) (n : Nat) : (s.useFree n).images = s.images := rfl
@[simp] theorem State.useFree_keys (s : State) (n : Nat) : (s.useFree n).keys = s.keys := rfl
@[simp] theorem State.useFree_tableKey (s : State) (n : Nat) : (s.useFree n).tableKey = s.tableKey := rfl
@[simp] theorem State.useFree_queues (s : State) (n : Nat) : (s.useFree n).queues = s.queues := rfl
@[simp] theorem State.useFree_longs (s : State) (n : Nat) : (s.useFree n).longs = s.longs := rfl
@[simp] theorem State.useFree_hostOut (s : State) (n : Nat) : (s.useFree n).hostOut = s.hostOut := rfl
@[simp] theorem State.useFree_ports (s : State) (n : Nat) : (s.useFree n).ports = s.ports := rfl
@[simp] theorem State.useFree_evSeq (s : State) (n : Nat) : (s.useFree n).evSeq = s.evSeq := rfl
@[simp] theorem State.useFree_time (s : State) (n : Nat) : (s.useFree n).time = s.time := rfl
@[simp] theorem State.useFree_ready (s : State) (n : Nat) : (s.useFree n).ready = s.ready := rfl
@[simp] theorem State.useFree_recov (s : State) (n : Nat) : (s.useFree n).recov = s.recov := rfl
@[simp] theorem State.useFree_quar (s : State) (n : Nat) : (s.useFree n).quar = s.quar := rfl
@[simp] theorem State.useFree_firmware (s : State) (n : Nat) : (s.useFree n).firmware = s.firmware := rfl
@[simp] theorem State.useFree_kemKey (s : State) (n : Nat) : (s.useFree n).kemKey = s.kemKey := rfl
@[simp] theorem State.useFree_admitted (s : State) (n : Nat) : (s.useFree n).admitted = s.admitted := rfl
@[simp] theorem State.useFree_gangWaits (s : State) (n : Nat) : (s.useFree n).gangWaits = s.gangWaits := rfl
@[simp] theorem State.useFree_comms (s : State) (n : Nat) : (s.useFree n).comms = s.comms := rfl
@[simp] theorem State.useFree_buffers (s : State) (n : Nat) : (s.useFree n).buffers = s.buffers := rfl
@[simp] theorem State.useFree_views (s : State) (n : Nat) : (s.useFree n).views = s.views := rfl
@[simp] theorem State.useFree_galOps (s : State) (n : Nat) : (s.useFree n).galOps = s.galOps := rfl
@[simp] theorem State.useFree_ahead (s : State) (n : Nat) : (s.useFree n).ahead = s.ahead := rfl
@[simp] theorem State.useFree_netOut (s : State) (n : Nat) : (s.useFree n).netOut = s.netOut := rfl
@[simp] theorem State.useFree_galPorts (s : State) (n : Nat) : (s.useFree n).galPorts = s.galPorts := rfl
@[simp] theorem State.useFree_member (s : State) (n : Nat) : (s.useFree n).member = s.member := rfl
@[simp] theorem State.useFree_joins (s : State) (n : Nat) : (s.useFree n).joins = s.joins := rfl
@[simp] theorem State.useFree_contA (s : State) (n : Nat) : (s.useFree n).contA = s.contA := rfl
@[simp] theorem State.useFree_contB (s : State) (n : Nat) : (s.useFree n).contB = s.contB := rfl
@[simp] theorem State.useFree_rowErrors (s : State) (n : Nat) : (s.useFree n).rowErrors = s.rowErrors := rfl
@[simp] theorem State.useFree_spoilt (s : State) (n : Nat) : (s.useFree n).spoilt = s.spoilt := rfl
@[simp] theorem State.useFree_spent (s : State) (n : Nat) : (s.useFree n).spent = s.spent := rfl
@[simp] theorem State.useFree_passes (s : State) (n : Nat) : (s.useFree n).passes = s.passes := rfl
@[simp] theorem State.useFree_strays (s : State) (n : Nat) : (s.useFree n).strays = s.strays := rfl
@[simp] theorem State.useFree_snap (s : State) (n : Nat) : (s.useFree n).snap = s.snap := rfl

@[simp] theorem State.fresh_agenda (s : State) : (s.fresh).agenda = s.agenda := rfl
@[simp] theorem State.fresh_freeCtr (s : State) : (s.fresh).freeCtr = s.freeCtr := rfl
@[simp] theorem State.fresh_mem (s : State) : (s.fresh).mem = s.mem := rfl
@[simp] theorem State.fresh_memPoison (s : State) : (s.fresh).memPoison = s.memPoison := rfl
@[simp] theorem State.fresh_lineKeys (s : State) : (s.fresh).lineKeys = s.lineKeys := rfl
@[simp] theorem State.fresh_l2 (s : State) : (s.fresh).l2 = s.l2 := rfl
@[simp] theorem State.fresh_tlb (s : State) : (s.fresh).tlb = s.tlb := rfl
@[simp] theorem State.fresh_walks (s : State) : (s.fresh).walks = s.walks := rfl
@[simp] theorem State.fresh_flights (s : State) : (s.fresh).flights = s.flights := rfl
@[simp] theorem State.fresh_cores (s : State) : (s.fresh).cores = s.cores := rfl
@[simp] theorem State.fresh_warps (s : State) : (s.fresh).warps = s.warps := rfl
@[simp] theorem State.fresh_wgs (s : State) : (s.fresh).wgs = s.wgs := rfl
@[simp] theorem State.fresh_grids (s : State) : (s.fresh).grids = s.grids := rfl
@[simp] theorem State.fresh_ctxs (s : State) : (s.fresh).ctxs = s.ctxs := rfl
@[simp] theorem State.fresh_pending (s : State) : (s.fresh).pending = s.pending := rfl
@[simp] theorem State.fresh_returns (s : State) : (s.fresh).returns = s.returns := rfl
@[simp] theorem State.fresh_scoreboard (s : State) : (s.fresh).scoreboard = s.scoreboard := rfl
@[simp] theorem State.fresh_records (s : State) : (s.fresh).records = s.records := rfl
@[simp] theorem State.fresh_chunks (s : State) : (s.fresh).chunks = s.chunks := rfl
@[simp] theorem State.fresh_turns (s : State) : (s.fresh).turns = s.turns := rfl
@[simp] theorem State.fresh_storeGroups (s : State) : (s.fresh).storeGroups = s.storeGroups := rfl
@[simp] theorem State.fresh_images (s : State) : (s.fresh).images = s.images := rfl
@[simp] theorem State.fresh_keys (s : State) : (s.fresh).keys = s.keys := rfl
@[simp] theorem State.fresh_tableKey (s : State) : (s.fresh).tableKey = s.tableKey := rfl
@[simp] theorem State.fresh_queues (s : State) : (s.fresh).queues = s.queues := rfl
@[simp] theorem State.fresh_longs (s : State) : (s.fresh).longs = s.longs := rfl
@[simp] theorem State.fresh_hostOut (s : State) : (s.fresh).hostOut = s.hostOut := rfl
@[simp] theorem State.fresh_ports (s : State) : (s.fresh).ports = s.ports := rfl
@[simp] theorem State.fresh_evSeq (s : State) : (s.fresh).evSeq = s.evSeq := rfl
@[simp] theorem State.fresh_time (s : State) : (s.fresh).time = s.time := rfl
@[simp] theorem State.fresh_ready (s : State) : (s.fresh).ready = s.ready := rfl
@[simp] theorem State.fresh_recov (s : State) : (s.fresh).recov = s.recov := rfl
@[simp] theorem State.fresh_quar (s : State) : (s.fresh).quar = s.quar := rfl
@[simp] theorem State.fresh_firmware (s : State) : (s.fresh).firmware = s.firmware := rfl
@[simp] theorem State.fresh_kemKey (s : State) : (s.fresh).kemKey = s.kemKey := rfl
@[simp] theorem State.fresh_admitted (s : State) : (s.fresh).admitted = s.admitted := rfl
@[simp] theorem State.fresh_gangWaits (s : State) : (s.fresh).gangWaits = s.gangWaits := rfl
@[simp] theorem State.fresh_comms (s : State) : (s.fresh).comms = s.comms := rfl
@[simp] theorem State.fresh_buffers (s : State) : (s.fresh).buffers = s.buffers := rfl
@[simp] theorem State.fresh_views (s : State) : (s.fresh).views = s.views := rfl
@[simp] theorem State.fresh_galOps (s : State) : (s.fresh).galOps = s.galOps := rfl
@[simp] theorem State.fresh_ahead (s : State) : (s.fresh).ahead = s.ahead := rfl
@[simp] theorem State.fresh_netOut (s : State) : (s.fresh).netOut = s.netOut := rfl
@[simp] theorem State.fresh_galPorts (s : State) : (s.fresh).galPorts = s.galPorts := rfl
@[simp] theorem State.fresh_member (s : State) : (s.fresh).member = s.member := rfl
@[simp] theorem State.fresh_joins (s : State) : (s.fresh).joins = s.joins := rfl
@[simp] theorem State.fresh_contA (s : State) : (s.fresh).contA = s.contA := rfl
@[simp] theorem State.fresh_contB (s : State) : (s.fresh).contB = s.contB := rfl
@[simp] theorem State.fresh_rowErrors (s : State) : (s.fresh).rowErrors = s.rowErrors := rfl
@[simp] theorem State.fresh_spoilt (s : State) : (s.fresh).spoilt = s.spoilt := rfl
@[simp] theorem State.fresh_spent (s : State) : (s.fresh).spent = s.spent := rfl
@[simp] theorem State.fresh_passes (s : State) : (s.fresh).passes = s.passes := rfl
@[simp] theorem State.fresh_strays (s : State) : (s.fresh).strays = s.strays := rfl
@[simp] theorem State.fresh_snap (s : State) : (s.fresh).snap = s.snap := rfl

@[simp] theorem State.updWarp_agenda (s : State) (k : WarpKey) (f : Warp → Warp) : (s.updWarp k f).agenda = s.agenda := rfl
@[simp] theorem State.updWarp_freeCtr (s : State) (k : WarpKey) (f : Warp → Warp) : (s.updWarp k f).freeCtr = s.freeCtr := rfl
@[simp] theorem State.updWarp_nextId (s : State) (k : WarpKey) (f : Warp → Warp) : (s.updWarp k f).nextId = s.nextId := rfl
@[simp] theorem State.updWarp_mem (s : State) (k : WarpKey) (f : Warp → Warp) : (s.updWarp k f).mem = s.mem := rfl
@[simp] theorem State.updWarp_memPoison (s : State) (k : WarpKey) (f : Warp → Warp) : (s.updWarp k f).memPoison = s.memPoison := rfl
@[simp] theorem State.updWarp_lineKeys (s : State) (k : WarpKey) (f : Warp → Warp) : (s.updWarp k f).lineKeys = s.lineKeys := rfl
@[simp] theorem State.updWarp_l2 (s : State) (k : WarpKey) (f : Warp → Warp) : (s.updWarp k f).l2 = s.l2 := rfl
@[simp] theorem State.updWarp_tlb (s : State) (k : WarpKey) (f : Warp → Warp) : (s.updWarp k f).tlb = s.tlb := rfl
@[simp] theorem State.updWarp_walks (s : State) (k : WarpKey) (f : Warp → Warp) : (s.updWarp k f).walks = s.walks := rfl
@[simp] theorem State.updWarp_flights (s : State) (k : WarpKey) (f : Warp → Warp) : (s.updWarp k f).flights = s.flights := rfl
@[simp] theorem State.updWarp_cores (s : State) (k : WarpKey) (f : Warp → Warp) : (s.updWarp k f).cores = s.cores := rfl
@[simp] theorem State.updWarp_wgs (s : State) (k : WarpKey) (f : Warp → Warp) : (s.updWarp k f).wgs = s.wgs := rfl
@[simp] theorem State.updWarp_grids (s : State) (k : WarpKey) (f : Warp → Warp) : (s.updWarp k f).grids = s.grids := rfl
@[simp] theorem State.updWarp_ctxs (s : State) (k : WarpKey) (f : Warp → Warp) : (s.updWarp k f).ctxs = s.ctxs := rfl
@[simp] theorem State.updWarp_pending (s : State) (k : WarpKey) (f : Warp → Warp) : (s.updWarp k f).pending = s.pending := rfl
@[simp] theorem State.updWarp_returns (s : State) (k : WarpKey) (f : Warp → Warp) : (s.updWarp k f).returns = s.returns := rfl
@[simp] theorem State.updWarp_scoreboard (s : State) (k : WarpKey) (f : Warp → Warp) : (s.updWarp k f).scoreboard = s.scoreboard := rfl
@[simp] theorem State.updWarp_records (s : State) (k : WarpKey) (f : Warp → Warp) : (s.updWarp k f).records = s.records := rfl
@[simp] theorem State.updWarp_chunks (s : State) (k : WarpKey) (f : Warp → Warp) : (s.updWarp k f).chunks = s.chunks := rfl
@[simp] theorem State.updWarp_turns (s : State) (k : WarpKey) (f : Warp → Warp) : (s.updWarp k f).turns = s.turns := rfl
@[simp] theorem State.updWarp_storeGroups (s : State) (k : WarpKey) (f : Warp → Warp) : (s.updWarp k f).storeGroups = s.storeGroups := rfl
@[simp] theorem State.updWarp_images (s : State) (k : WarpKey) (f : Warp → Warp) : (s.updWarp k f).images = s.images := rfl
@[simp] theorem State.updWarp_keys (s : State) (k : WarpKey) (f : Warp → Warp) : (s.updWarp k f).keys = s.keys := rfl
@[simp] theorem State.updWarp_tableKey (s : State) (k : WarpKey) (f : Warp → Warp) : (s.updWarp k f).tableKey = s.tableKey := rfl
@[simp] theorem State.updWarp_queues (s : State) (k : WarpKey) (f : Warp → Warp) : (s.updWarp k f).queues = s.queues := rfl
@[simp] theorem State.updWarp_longs (s : State) (k : WarpKey) (f : Warp → Warp) : (s.updWarp k f).longs = s.longs := rfl
@[simp] theorem State.updWarp_hostOut (s : State) (k : WarpKey) (f : Warp → Warp) : (s.updWarp k f).hostOut = s.hostOut := rfl
@[simp] theorem State.updWarp_ports (s : State) (k : WarpKey) (f : Warp → Warp) : (s.updWarp k f).ports = s.ports := rfl
@[simp] theorem State.updWarp_evSeq (s : State) (k : WarpKey) (f : Warp → Warp) : (s.updWarp k f).evSeq = s.evSeq := rfl
@[simp] theorem State.updWarp_time (s : State) (k : WarpKey) (f : Warp → Warp) : (s.updWarp k f).time = s.time := rfl
@[simp] theorem State.updWarp_ready (s : State) (k : WarpKey) (f : Warp → Warp) : (s.updWarp k f).ready = s.ready := rfl
@[simp] theorem State.updWarp_recov (s : State) (k : WarpKey) (f : Warp → Warp) : (s.updWarp k f).recov = s.recov := rfl
@[simp] theorem State.updWarp_quar (s : State) (k : WarpKey) (f : Warp → Warp) : (s.updWarp k f).quar = s.quar := rfl
@[simp] theorem State.updWarp_firmware (s : State) (k : WarpKey) (f : Warp → Warp) : (s.updWarp k f).firmware = s.firmware := rfl
@[simp] theorem State.updWarp_kemKey (s : State) (k : WarpKey) (f : Warp → Warp) : (s.updWarp k f).kemKey = s.kemKey := rfl
@[simp] theorem State.updWarp_admitted (s : State) (k : WarpKey) (f : Warp → Warp) : (s.updWarp k f).admitted = s.admitted := rfl
@[simp] theorem State.updWarp_gangWaits (s : State) (k : WarpKey) (f : Warp → Warp) : (s.updWarp k f).gangWaits = s.gangWaits := rfl
@[simp] theorem State.updWarp_comms (s : State) (k : WarpKey) (f : Warp → Warp) : (s.updWarp k f).comms = s.comms := rfl
@[simp] theorem State.updWarp_buffers (s : State) (k : WarpKey) (f : Warp → Warp) : (s.updWarp k f).buffers = s.buffers := rfl
@[simp] theorem State.updWarp_views (s : State) (k : WarpKey) (f : Warp → Warp) : (s.updWarp k f).views = s.views := rfl
@[simp] theorem State.updWarp_galOps (s : State) (k : WarpKey) (f : Warp → Warp) : (s.updWarp k f).galOps = s.galOps := rfl
@[simp] theorem State.updWarp_ahead (s : State) (k : WarpKey) (f : Warp → Warp) : (s.updWarp k f).ahead = s.ahead := rfl
@[simp] theorem State.updWarp_netOut (s : State) (k : WarpKey) (f : Warp → Warp) : (s.updWarp k f).netOut = s.netOut := rfl
@[simp] theorem State.updWarp_galPorts (s : State) (k : WarpKey) (f : Warp → Warp) : (s.updWarp k f).galPorts = s.galPorts := rfl
@[simp] theorem State.updWarp_member (s : State) (k : WarpKey) (f : Warp → Warp) : (s.updWarp k f).member = s.member := rfl
@[simp] theorem State.updWarp_joins (s : State) (k : WarpKey) (f : Warp → Warp) : (s.updWarp k f).joins = s.joins := rfl
@[simp] theorem State.updWarp_contA (s : State) (k : WarpKey) (f : Warp → Warp) : (s.updWarp k f).contA = s.contA := rfl
@[simp] theorem State.updWarp_contB (s : State) (k : WarpKey) (f : Warp → Warp) : (s.updWarp k f).contB = s.contB := rfl
@[simp] theorem State.updWarp_rowErrors (s : State) (k : WarpKey) (f : Warp → Warp) : (s.updWarp k f).rowErrors = s.rowErrors := rfl
@[simp] theorem State.updWarp_spoilt (s : State) (k : WarpKey) (f : Warp → Warp) : (s.updWarp k f).spoilt = s.spoilt := rfl
@[simp] theorem State.updWarp_spent (s : State) (k : WarpKey) (f : Warp → Warp) : (s.updWarp k f).spent = s.spent := rfl
@[simp] theorem State.updWarp_passes (s : State) (k : WarpKey) (f : Warp → Warp) : (s.updWarp k f).passes = s.passes := rfl
@[simp] theorem State.updWarp_strays (s : State) (k : WarpKey) (f : Warp → Warp) : (s.updWarp k f).strays = s.strays := rfl
@[simp] theorem State.updWarp_snap (s : State) (k : WarpKey) (f : Warp → Warp) : (s.updWarp k f).snap = s.snap := rfl

@[simp] theorem State.updWarpsOf_agenda (s : State) (k : WgKey) (f : Warp → Warp) : (s.updWarpsOf k f).agenda = s.agenda := rfl
@[simp] theorem State.updWarpsOf_freeCtr (s : State) (k : WgKey) (f : Warp → Warp) : (s.updWarpsOf k f).freeCtr = s.freeCtr := rfl
@[simp] theorem State.updWarpsOf_nextId (s : State) (k : WgKey) (f : Warp → Warp) : (s.updWarpsOf k f).nextId = s.nextId := rfl
@[simp] theorem State.updWarpsOf_mem (s : State) (k : WgKey) (f : Warp → Warp) : (s.updWarpsOf k f).mem = s.mem := rfl
@[simp] theorem State.updWarpsOf_memPoison (s : State) (k : WgKey) (f : Warp → Warp) : (s.updWarpsOf k f).memPoison = s.memPoison := rfl
@[simp] theorem State.updWarpsOf_lineKeys (s : State) (k : WgKey) (f : Warp → Warp) : (s.updWarpsOf k f).lineKeys = s.lineKeys := rfl
@[simp] theorem State.updWarpsOf_l2 (s : State) (k : WgKey) (f : Warp → Warp) : (s.updWarpsOf k f).l2 = s.l2 := rfl
@[simp] theorem State.updWarpsOf_tlb (s : State) (k : WgKey) (f : Warp → Warp) : (s.updWarpsOf k f).tlb = s.tlb := rfl
@[simp] theorem State.updWarpsOf_walks (s : State) (k : WgKey) (f : Warp → Warp) : (s.updWarpsOf k f).walks = s.walks := rfl
@[simp] theorem State.updWarpsOf_flights (s : State) (k : WgKey) (f : Warp → Warp) : (s.updWarpsOf k f).flights = s.flights := rfl
@[simp] theorem State.updWarpsOf_cores (s : State) (k : WgKey) (f : Warp → Warp) : (s.updWarpsOf k f).cores = s.cores := rfl
@[simp] theorem State.updWarpsOf_wgs (s : State) (k : WgKey) (f : Warp → Warp) : (s.updWarpsOf k f).wgs = s.wgs := rfl
@[simp] theorem State.updWarpsOf_grids (s : State) (k : WgKey) (f : Warp → Warp) : (s.updWarpsOf k f).grids = s.grids := rfl
@[simp] theorem State.updWarpsOf_ctxs (s : State) (k : WgKey) (f : Warp → Warp) : (s.updWarpsOf k f).ctxs = s.ctxs := rfl
@[simp] theorem State.updWarpsOf_pending (s : State) (k : WgKey) (f : Warp → Warp) : (s.updWarpsOf k f).pending = s.pending := rfl
@[simp] theorem State.updWarpsOf_returns (s : State) (k : WgKey) (f : Warp → Warp) : (s.updWarpsOf k f).returns = s.returns := rfl
@[simp] theorem State.updWarpsOf_scoreboard (s : State) (k : WgKey) (f : Warp → Warp) : (s.updWarpsOf k f).scoreboard = s.scoreboard := rfl
@[simp] theorem State.updWarpsOf_records (s : State) (k : WgKey) (f : Warp → Warp) : (s.updWarpsOf k f).records = s.records := rfl
@[simp] theorem State.updWarpsOf_chunks (s : State) (k : WgKey) (f : Warp → Warp) : (s.updWarpsOf k f).chunks = s.chunks := rfl
@[simp] theorem State.updWarpsOf_turns (s : State) (k : WgKey) (f : Warp → Warp) : (s.updWarpsOf k f).turns = s.turns := rfl
@[simp] theorem State.updWarpsOf_storeGroups (s : State) (k : WgKey) (f : Warp → Warp) : (s.updWarpsOf k f).storeGroups = s.storeGroups := rfl
@[simp] theorem State.updWarpsOf_images (s : State) (k : WgKey) (f : Warp → Warp) : (s.updWarpsOf k f).images = s.images := rfl
@[simp] theorem State.updWarpsOf_keys (s : State) (k : WgKey) (f : Warp → Warp) : (s.updWarpsOf k f).keys = s.keys := rfl
@[simp] theorem State.updWarpsOf_tableKey (s : State) (k : WgKey) (f : Warp → Warp) : (s.updWarpsOf k f).tableKey = s.tableKey := rfl
@[simp] theorem State.updWarpsOf_queues (s : State) (k : WgKey) (f : Warp → Warp) : (s.updWarpsOf k f).queues = s.queues := rfl
@[simp] theorem State.updWarpsOf_longs (s : State) (k : WgKey) (f : Warp → Warp) : (s.updWarpsOf k f).longs = s.longs := rfl
@[simp] theorem State.updWarpsOf_hostOut (s : State) (k : WgKey) (f : Warp → Warp) : (s.updWarpsOf k f).hostOut = s.hostOut := rfl
@[simp] theorem State.updWarpsOf_ports (s : State) (k : WgKey) (f : Warp → Warp) : (s.updWarpsOf k f).ports = s.ports := rfl
@[simp] theorem State.updWarpsOf_evSeq (s : State) (k : WgKey) (f : Warp → Warp) : (s.updWarpsOf k f).evSeq = s.evSeq := rfl
@[simp] theorem State.updWarpsOf_time (s : State) (k : WgKey) (f : Warp → Warp) : (s.updWarpsOf k f).time = s.time := rfl
@[simp] theorem State.updWarpsOf_ready (s : State) (k : WgKey) (f : Warp → Warp) : (s.updWarpsOf k f).ready = s.ready := rfl
@[simp] theorem State.updWarpsOf_recov (s : State) (k : WgKey) (f : Warp → Warp) : (s.updWarpsOf k f).recov = s.recov := rfl
@[simp] theorem State.updWarpsOf_quar (s : State) (k : WgKey) (f : Warp → Warp) : (s.updWarpsOf k f).quar = s.quar := rfl
@[simp] theorem State.updWarpsOf_firmware (s : State) (k : WgKey) (f : Warp → Warp) : (s.updWarpsOf k f).firmware = s.firmware := rfl
@[simp] theorem State.updWarpsOf_kemKey (s : State) (k : WgKey) (f : Warp → Warp) : (s.updWarpsOf k f).kemKey = s.kemKey := rfl
@[simp] theorem State.updWarpsOf_admitted (s : State) (k : WgKey) (f : Warp → Warp) : (s.updWarpsOf k f).admitted = s.admitted := rfl
@[simp] theorem State.updWarpsOf_gangWaits (s : State) (k : WgKey) (f : Warp → Warp) : (s.updWarpsOf k f).gangWaits = s.gangWaits := rfl
@[simp] theorem State.updWarpsOf_comms (s : State) (k : WgKey) (f : Warp → Warp) : (s.updWarpsOf k f).comms = s.comms := rfl
@[simp] theorem State.updWarpsOf_buffers (s : State) (k : WgKey) (f : Warp → Warp) : (s.updWarpsOf k f).buffers = s.buffers := rfl
@[simp] theorem State.updWarpsOf_views (s : State) (k : WgKey) (f : Warp → Warp) : (s.updWarpsOf k f).views = s.views := rfl
@[simp] theorem State.updWarpsOf_galOps (s : State) (k : WgKey) (f : Warp → Warp) : (s.updWarpsOf k f).galOps = s.galOps := rfl
@[simp] theorem State.updWarpsOf_ahead (s : State) (k : WgKey) (f : Warp → Warp) : (s.updWarpsOf k f).ahead = s.ahead := rfl
@[simp] theorem State.updWarpsOf_netOut (s : State) (k : WgKey) (f : Warp → Warp) : (s.updWarpsOf k f).netOut = s.netOut := rfl
@[simp] theorem State.updWarpsOf_galPorts (s : State) (k : WgKey) (f : Warp → Warp) : (s.updWarpsOf k f).galPorts = s.galPorts := rfl
@[simp] theorem State.updWarpsOf_member (s : State) (k : WgKey) (f : Warp → Warp) : (s.updWarpsOf k f).member = s.member := rfl
@[simp] theorem State.updWarpsOf_joins (s : State) (k : WgKey) (f : Warp → Warp) : (s.updWarpsOf k f).joins = s.joins := rfl
@[simp] theorem State.updWarpsOf_contA (s : State) (k : WgKey) (f : Warp → Warp) : (s.updWarpsOf k f).contA = s.contA := rfl
@[simp] theorem State.updWarpsOf_contB (s : State) (k : WgKey) (f : Warp → Warp) : (s.updWarpsOf k f).contB = s.contB := rfl
@[simp] theorem State.updWarpsOf_rowErrors (s : State) (k : WgKey) (f : Warp → Warp) : (s.updWarpsOf k f).rowErrors = s.rowErrors := rfl
@[simp] theorem State.updWarpsOf_spoilt (s : State) (k : WgKey) (f : Warp → Warp) : (s.updWarpsOf k f).spoilt = s.spoilt := rfl
@[simp] theorem State.updWarpsOf_spent (s : State) (k : WgKey) (f : Warp → Warp) : (s.updWarpsOf k f).spent = s.spent := rfl
@[simp] theorem State.updWarpsOf_passes (s : State) (k : WgKey) (f : Warp → Warp) : (s.updWarpsOf k f).passes = s.passes := rfl
@[simp] theorem State.updWarpsOf_strays (s : State) (k : WgKey) (f : Warp → Warp) : (s.updWarpsOf k f).strays = s.strays := rfl
@[simp] theorem State.updWarpsOf_snap (s : State) (k : WgKey) (f : Warp → Warp) : (s.updWarpsOf k f).snap = s.snap := rfl

@[simp] theorem State.updWg_agenda (s : State) (k : WgKey) (f : Workgroup → Workgroup) : (s.updWg k f).agenda = s.agenda := rfl
@[simp] theorem State.updWg_freeCtr (s : State) (k : WgKey) (f : Workgroup → Workgroup) : (s.updWg k f).freeCtr = s.freeCtr := rfl
@[simp] theorem State.updWg_nextId (s : State) (k : WgKey) (f : Workgroup → Workgroup) : (s.updWg k f).nextId = s.nextId := rfl
@[simp] theorem State.updWg_mem (s : State) (k : WgKey) (f : Workgroup → Workgroup) : (s.updWg k f).mem = s.mem := rfl
@[simp] theorem State.updWg_memPoison (s : State) (k : WgKey) (f : Workgroup → Workgroup) : (s.updWg k f).memPoison = s.memPoison := rfl
@[simp] theorem State.updWg_lineKeys (s : State) (k : WgKey) (f : Workgroup → Workgroup) : (s.updWg k f).lineKeys = s.lineKeys := rfl
@[simp] theorem State.updWg_l2 (s : State) (k : WgKey) (f : Workgroup → Workgroup) : (s.updWg k f).l2 = s.l2 := rfl
@[simp] theorem State.updWg_tlb (s : State) (k : WgKey) (f : Workgroup → Workgroup) : (s.updWg k f).tlb = s.tlb := rfl
@[simp] theorem State.updWg_walks (s : State) (k : WgKey) (f : Workgroup → Workgroup) : (s.updWg k f).walks = s.walks := rfl
@[simp] theorem State.updWg_flights (s : State) (k : WgKey) (f : Workgroup → Workgroup) : (s.updWg k f).flights = s.flights := rfl
@[simp] theorem State.updWg_cores (s : State) (k : WgKey) (f : Workgroup → Workgroup) : (s.updWg k f).cores = s.cores := rfl
@[simp] theorem State.updWg_warps (s : State) (k : WgKey) (f : Workgroup → Workgroup) : (s.updWg k f).warps = s.warps := rfl
@[simp] theorem State.updWg_grids (s : State) (k : WgKey) (f : Workgroup → Workgroup) : (s.updWg k f).grids = s.grids := rfl
@[simp] theorem State.updWg_ctxs (s : State) (k : WgKey) (f : Workgroup → Workgroup) : (s.updWg k f).ctxs = s.ctxs := rfl
@[simp] theorem State.updWg_pending (s : State) (k : WgKey) (f : Workgroup → Workgroup) : (s.updWg k f).pending = s.pending := rfl
@[simp] theorem State.updWg_returns (s : State) (k : WgKey) (f : Workgroup → Workgroup) : (s.updWg k f).returns = s.returns := rfl
@[simp] theorem State.updWg_scoreboard (s : State) (k : WgKey) (f : Workgroup → Workgroup) : (s.updWg k f).scoreboard = s.scoreboard := rfl
@[simp] theorem State.updWg_records (s : State) (k : WgKey) (f : Workgroup → Workgroup) : (s.updWg k f).records = s.records := rfl
@[simp] theorem State.updWg_chunks (s : State) (k : WgKey) (f : Workgroup → Workgroup) : (s.updWg k f).chunks = s.chunks := rfl
@[simp] theorem State.updWg_turns (s : State) (k : WgKey) (f : Workgroup → Workgroup) : (s.updWg k f).turns = s.turns := rfl
@[simp] theorem State.updWg_storeGroups (s : State) (k : WgKey) (f : Workgroup → Workgroup) : (s.updWg k f).storeGroups = s.storeGroups := rfl
@[simp] theorem State.updWg_images (s : State) (k : WgKey) (f : Workgroup → Workgroup) : (s.updWg k f).images = s.images := rfl
@[simp] theorem State.updWg_keys (s : State) (k : WgKey) (f : Workgroup → Workgroup) : (s.updWg k f).keys = s.keys := rfl
@[simp] theorem State.updWg_tableKey (s : State) (k : WgKey) (f : Workgroup → Workgroup) : (s.updWg k f).tableKey = s.tableKey := rfl
@[simp] theorem State.updWg_queues (s : State) (k : WgKey) (f : Workgroup → Workgroup) : (s.updWg k f).queues = s.queues := rfl
@[simp] theorem State.updWg_longs (s : State) (k : WgKey) (f : Workgroup → Workgroup) : (s.updWg k f).longs = s.longs := rfl
@[simp] theorem State.updWg_hostOut (s : State) (k : WgKey) (f : Workgroup → Workgroup) : (s.updWg k f).hostOut = s.hostOut := rfl
@[simp] theorem State.updWg_ports (s : State) (k : WgKey) (f : Workgroup → Workgroup) : (s.updWg k f).ports = s.ports := rfl
@[simp] theorem State.updWg_evSeq (s : State) (k : WgKey) (f : Workgroup → Workgroup) : (s.updWg k f).evSeq = s.evSeq := rfl
@[simp] theorem State.updWg_time (s : State) (k : WgKey) (f : Workgroup → Workgroup) : (s.updWg k f).time = s.time := rfl
@[simp] theorem State.updWg_ready (s : State) (k : WgKey) (f : Workgroup → Workgroup) : (s.updWg k f).ready = s.ready := rfl
@[simp] theorem State.updWg_recov (s : State) (k : WgKey) (f : Workgroup → Workgroup) : (s.updWg k f).recov = s.recov := rfl
@[simp] theorem State.updWg_quar (s : State) (k : WgKey) (f : Workgroup → Workgroup) : (s.updWg k f).quar = s.quar := rfl
@[simp] theorem State.updWg_firmware (s : State) (k : WgKey) (f : Workgroup → Workgroup) : (s.updWg k f).firmware = s.firmware := rfl
@[simp] theorem State.updWg_kemKey (s : State) (k : WgKey) (f : Workgroup → Workgroup) : (s.updWg k f).kemKey = s.kemKey := rfl
@[simp] theorem State.updWg_admitted (s : State) (k : WgKey) (f : Workgroup → Workgroup) : (s.updWg k f).admitted = s.admitted := rfl
@[simp] theorem State.updWg_gangWaits (s : State) (k : WgKey) (f : Workgroup → Workgroup) : (s.updWg k f).gangWaits = s.gangWaits := rfl
@[simp] theorem State.updWg_comms (s : State) (k : WgKey) (f : Workgroup → Workgroup) : (s.updWg k f).comms = s.comms := rfl
@[simp] theorem State.updWg_buffers (s : State) (k : WgKey) (f : Workgroup → Workgroup) : (s.updWg k f).buffers = s.buffers := rfl
@[simp] theorem State.updWg_views (s : State) (k : WgKey) (f : Workgroup → Workgroup) : (s.updWg k f).views = s.views := rfl
@[simp] theorem State.updWg_galOps (s : State) (k : WgKey) (f : Workgroup → Workgroup) : (s.updWg k f).galOps = s.galOps := rfl
@[simp] theorem State.updWg_ahead (s : State) (k : WgKey) (f : Workgroup → Workgroup) : (s.updWg k f).ahead = s.ahead := rfl
@[simp] theorem State.updWg_netOut (s : State) (k : WgKey) (f : Workgroup → Workgroup) : (s.updWg k f).netOut = s.netOut := rfl
@[simp] theorem State.updWg_galPorts (s : State) (k : WgKey) (f : Workgroup → Workgroup) : (s.updWg k f).galPorts = s.galPorts := rfl
@[simp] theorem State.updWg_member (s : State) (k : WgKey) (f : Workgroup → Workgroup) : (s.updWg k f).member = s.member := rfl
@[simp] theorem State.updWg_joins (s : State) (k : WgKey) (f : Workgroup → Workgroup) : (s.updWg k f).joins = s.joins := rfl
@[simp] theorem State.updWg_contA (s : State) (k : WgKey) (f : Workgroup → Workgroup) : (s.updWg k f).contA = s.contA := rfl
@[simp] theorem State.updWg_contB (s : State) (k : WgKey) (f : Workgroup → Workgroup) : (s.updWg k f).contB = s.contB := rfl
@[simp] theorem State.updWg_rowErrors (s : State) (k : WgKey) (f : Workgroup → Workgroup) : (s.updWg k f).rowErrors = s.rowErrors := rfl
@[simp] theorem State.updWg_spoilt (s : State) (k : WgKey) (f : Workgroup → Workgroup) : (s.updWg k f).spoilt = s.spoilt := rfl
@[simp] theorem State.updWg_spent (s : State) (k : WgKey) (f : Workgroup → Workgroup) : (s.updWg k f).spent = s.spent := rfl
@[simp] theorem State.updWg_passes (s : State) (k : WgKey) (f : Workgroup → Workgroup) : (s.updWg k f).passes = s.passes := rfl
@[simp] theorem State.updWg_strays (s : State) (k : WgKey) (f : Workgroup → Workgroup) : (s.updWg k f).strays = s.strays := rfl
@[simp] theorem State.updWg_snap (s : State) (k : WgKey) (f : Workgroup → Workgroup) : (s.updWg k f).snap = s.snap := rfl

@[simp] theorem State.updGrid_agenda (s : State) (k : GridKey) (f : Grid → Grid) : (s.updGrid k f).agenda = s.agenda := rfl
@[simp] theorem State.updGrid_freeCtr (s : State) (k : GridKey) (f : Grid → Grid) : (s.updGrid k f).freeCtr = s.freeCtr := rfl
@[simp] theorem State.updGrid_nextId (s : State) (k : GridKey) (f : Grid → Grid) : (s.updGrid k f).nextId = s.nextId := rfl
@[simp] theorem State.updGrid_mem (s : State) (k : GridKey) (f : Grid → Grid) : (s.updGrid k f).mem = s.mem := rfl
@[simp] theorem State.updGrid_memPoison (s : State) (k : GridKey) (f : Grid → Grid) : (s.updGrid k f).memPoison = s.memPoison := rfl
@[simp] theorem State.updGrid_lineKeys (s : State) (k : GridKey) (f : Grid → Grid) : (s.updGrid k f).lineKeys = s.lineKeys := rfl
@[simp] theorem State.updGrid_l2 (s : State) (k : GridKey) (f : Grid → Grid) : (s.updGrid k f).l2 = s.l2 := rfl
@[simp] theorem State.updGrid_tlb (s : State) (k : GridKey) (f : Grid → Grid) : (s.updGrid k f).tlb = s.tlb := rfl
@[simp] theorem State.updGrid_walks (s : State) (k : GridKey) (f : Grid → Grid) : (s.updGrid k f).walks = s.walks := rfl
@[simp] theorem State.updGrid_flights (s : State) (k : GridKey) (f : Grid → Grid) : (s.updGrid k f).flights = s.flights := rfl
@[simp] theorem State.updGrid_cores (s : State) (k : GridKey) (f : Grid → Grid) : (s.updGrid k f).cores = s.cores := rfl
@[simp] theorem State.updGrid_warps (s : State) (k : GridKey) (f : Grid → Grid) : (s.updGrid k f).warps = s.warps := rfl
@[simp] theorem State.updGrid_wgs (s : State) (k : GridKey) (f : Grid → Grid) : (s.updGrid k f).wgs = s.wgs := rfl
@[simp] theorem State.updGrid_ctxs (s : State) (k : GridKey) (f : Grid → Grid) : (s.updGrid k f).ctxs = s.ctxs := rfl
@[simp] theorem State.updGrid_pending (s : State) (k : GridKey) (f : Grid → Grid) : (s.updGrid k f).pending = s.pending := rfl
@[simp] theorem State.updGrid_returns (s : State) (k : GridKey) (f : Grid → Grid) : (s.updGrid k f).returns = s.returns := rfl
@[simp] theorem State.updGrid_scoreboard (s : State) (k : GridKey) (f : Grid → Grid) : (s.updGrid k f).scoreboard = s.scoreboard := rfl
@[simp] theorem State.updGrid_records (s : State) (k : GridKey) (f : Grid → Grid) : (s.updGrid k f).records = s.records := rfl
@[simp] theorem State.updGrid_chunks (s : State) (k : GridKey) (f : Grid → Grid) : (s.updGrid k f).chunks = s.chunks := rfl
@[simp] theorem State.updGrid_turns (s : State) (k : GridKey) (f : Grid → Grid) : (s.updGrid k f).turns = s.turns := rfl
@[simp] theorem State.updGrid_storeGroups (s : State) (k : GridKey) (f : Grid → Grid) : (s.updGrid k f).storeGroups = s.storeGroups := rfl
@[simp] theorem State.updGrid_images (s : State) (k : GridKey) (f : Grid → Grid) : (s.updGrid k f).images = s.images := rfl
@[simp] theorem State.updGrid_keys (s : State) (k : GridKey) (f : Grid → Grid) : (s.updGrid k f).keys = s.keys := rfl
@[simp] theorem State.updGrid_tableKey (s : State) (k : GridKey) (f : Grid → Grid) : (s.updGrid k f).tableKey = s.tableKey := rfl
@[simp] theorem State.updGrid_queues (s : State) (k : GridKey) (f : Grid → Grid) : (s.updGrid k f).queues = s.queues := rfl
@[simp] theorem State.updGrid_longs (s : State) (k : GridKey) (f : Grid → Grid) : (s.updGrid k f).longs = s.longs := rfl
@[simp] theorem State.updGrid_hostOut (s : State) (k : GridKey) (f : Grid → Grid) : (s.updGrid k f).hostOut = s.hostOut := rfl
@[simp] theorem State.updGrid_ports (s : State) (k : GridKey) (f : Grid → Grid) : (s.updGrid k f).ports = s.ports := rfl
@[simp] theorem State.updGrid_evSeq (s : State) (k : GridKey) (f : Grid → Grid) : (s.updGrid k f).evSeq = s.evSeq := rfl
@[simp] theorem State.updGrid_time (s : State) (k : GridKey) (f : Grid → Grid) : (s.updGrid k f).time = s.time := rfl
@[simp] theorem State.updGrid_ready (s : State) (k : GridKey) (f : Grid → Grid) : (s.updGrid k f).ready = s.ready := rfl
@[simp] theorem State.updGrid_recov (s : State) (k : GridKey) (f : Grid → Grid) : (s.updGrid k f).recov = s.recov := rfl
@[simp] theorem State.updGrid_quar (s : State) (k : GridKey) (f : Grid → Grid) : (s.updGrid k f).quar = s.quar := rfl
@[simp] theorem State.updGrid_firmware (s : State) (k : GridKey) (f : Grid → Grid) : (s.updGrid k f).firmware = s.firmware := rfl
@[simp] theorem State.updGrid_kemKey (s : State) (k : GridKey) (f : Grid → Grid) : (s.updGrid k f).kemKey = s.kemKey := rfl
@[simp] theorem State.updGrid_admitted (s : State) (k : GridKey) (f : Grid → Grid) : (s.updGrid k f).admitted = s.admitted := rfl
@[simp] theorem State.updGrid_gangWaits (s : State) (k : GridKey) (f : Grid → Grid) : (s.updGrid k f).gangWaits = s.gangWaits := rfl
@[simp] theorem State.updGrid_comms (s : State) (k : GridKey) (f : Grid → Grid) : (s.updGrid k f).comms = s.comms := rfl
@[simp] theorem State.updGrid_buffers (s : State) (k : GridKey) (f : Grid → Grid) : (s.updGrid k f).buffers = s.buffers := rfl
@[simp] theorem State.updGrid_views (s : State) (k : GridKey) (f : Grid → Grid) : (s.updGrid k f).views = s.views := rfl
@[simp] theorem State.updGrid_galOps (s : State) (k : GridKey) (f : Grid → Grid) : (s.updGrid k f).galOps = s.galOps := rfl
@[simp] theorem State.updGrid_ahead (s : State) (k : GridKey) (f : Grid → Grid) : (s.updGrid k f).ahead = s.ahead := rfl
@[simp] theorem State.updGrid_netOut (s : State) (k : GridKey) (f : Grid → Grid) : (s.updGrid k f).netOut = s.netOut := rfl
@[simp] theorem State.updGrid_galPorts (s : State) (k : GridKey) (f : Grid → Grid) : (s.updGrid k f).galPorts = s.galPorts := rfl
@[simp] theorem State.updGrid_member (s : State) (k : GridKey) (f : Grid → Grid) : (s.updGrid k f).member = s.member := rfl
@[simp] theorem State.updGrid_joins (s : State) (k : GridKey) (f : Grid → Grid) : (s.updGrid k f).joins = s.joins := rfl
@[simp] theorem State.updGrid_contA (s : State) (k : GridKey) (f : Grid → Grid) : (s.updGrid k f).contA = s.contA := rfl
@[simp] theorem State.updGrid_contB (s : State) (k : GridKey) (f : Grid → Grid) : (s.updGrid k f).contB = s.contB := rfl
@[simp] theorem State.updGrid_rowErrors (s : State) (k : GridKey) (f : Grid → Grid) : (s.updGrid k f).rowErrors = s.rowErrors := rfl
@[simp] theorem State.updGrid_spoilt (s : State) (k : GridKey) (f : Grid → Grid) : (s.updGrid k f).spoilt = s.spoilt := rfl
@[simp] theorem State.updGrid_spent (s : State) (k : GridKey) (f : Grid → Grid) : (s.updGrid k f).spent = s.spent := rfl
@[simp] theorem State.updGrid_passes (s : State) (k : GridKey) (f : Grid → Grid) : (s.updGrid k f).passes = s.passes := rfl
@[simp] theorem State.updGrid_strays (s : State) (k : GridKey) (f : Grid → Grid) : (s.updGrid k f).strays = s.strays := rfl
@[simp] theorem State.updGrid_snap (s : State) (k : GridKey) (f : Grid → Grid) : (s.updGrid k f).snap = s.snap := rfl

@[simp] theorem State.updCtx_agenda (s : State) (c : Nat) (f : Context → Context) : (s.updCtx c f).agenda = s.agenda := rfl
@[simp] theorem State.updCtx_freeCtr (s : State) (c : Nat) (f : Context → Context) : (s.updCtx c f).freeCtr = s.freeCtr := rfl
@[simp] theorem State.updCtx_nextId (s : State) (c : Nat) (f : Context → Context) : (s.updCtx c f).nextId = s.nextId := rfl
@[simp] theorem State.updCtx_mem (s : State) (c : Nat) (f : Context → Context) : (s.updCtx c f).mem = s.mem := rfl
@[simp] theorem State.updCtx_memPoison (s : State) (c : Nat) (f : Context → Context) : (s.updCtx c f).memPoison = s.memPoison := rfl
@[simp] theorem State.updCtx_lineKeys (s : State) (c : Nat) (f : Context → Context) : (s.updCtx c f).lineKeys = s.lineKeys := rfl
@[simp] theorem State.updCtx_l2 (s : State) (c : Nat) (f : Context → Context) : (s.updCtx c f).l2 = s.l2 := rfl
@[simp] theorem State.updCtx_tlb (s : State) (c : Nat) (f : Context → Context) : (s.updCtx c f).tlb = s.tlb := rfl
@[simp] theorem State.updCtx_walks (s : State) (c : Nat) (f : Context → Context) : (s.updCtx c f).walks = s.walks := rfl
@[simp] theorem State.updCtx_flights (s : State) (c : Nat) (f : Context → Context) : (s.updCtx c f).flights = s.flights := rfl
@[simp] theorem State.updCtx_cores (s : State) (c : Nat) (f : Context → Context) : (s.updCtx c f).cores = s.cores := rfl
@[simp] theorem State.updCtx_warps (s : State) (c : Nat) (f : Context → Context) : (s.updCtx c f).warps = s.warps := rfl
@[simp] theorem State.updCtx_wgs (s : State) (c : Nat) (f : Context → Context) : (s.updCtx c f).wgs = s.wgs := rfl
@[simp] theorem State.updCtx_grids (s : State) (c : Nat) (f : Context → Context) : (s.updCtx c f).grids = s.grids := rfl
@[simp] theorem State.updCtx_pending (s : State) (c : Nat) (f : Context → Context) : (s.updCtx c f).pending = s.pending := rfl
@[simp] theorem State.updCtx_returns (s : State) (c : Nat) (f : Context → Context) : (s.updCtx c f).returns = s.returns := rfl
@[simp] theorem State.updCtx_scoreboard (s : State) (c : Nat) (f : Context → Context) : (s.updCtx c f).scoreboard = s.scoreboard := rfl
@[simp] theorem State.updCtx_records (s : State) (c : Nat) (f : Context → Context) : (s.updCtx c f).records = s.records := rfl
@[simp] theorem State.updCtx_chunks (s : State) (c : Nat) (f : Context → Context) : (s.updCtx c f).chunks = s.chunks := rfl
@[simp] theorem State.updCtx_turns (s : State) (c : Nat) (f : Context → Context) : (s.updCtx c f).turns = s.turns := rfl
@[simp] theorem State.updCtx_storeGroups (s : State) (c : Nat) (f : Context → Context) : (s.updCtx c f).storeGroups = s.storeGroups := rfl
@[simp] theorem State.updCtx_images (s : State) (c : Nat) (f : Context → Context) : (s.updCtx c f).images = s.images := rfl
@[simp] theorem State.updCtx_keys (s : State) (c : Nat) (f : Context → Context) : (s.updCtx c f).keys = s.keys := rfl
@[simp] theorem State.updCtx_tableKey (s : State) (c : Nat) (f : Context → Context) : (s.updCtx c f).tableKey = s.tableKey := rfl
@[simp] theorem State.updCtx_queues (s : State) (c : Nat) (f : Context → Context) : (s.updCtx c f).queues = s.queues := rfl
@[simp] theorem State.updCtx_longs (s : State) (c : Nat) (f : Context → Context) : (s.updCtx c f).longs = s.longs := rfl
@[simp] theorem State.updCtx_hostOut (s : State) (c : Nat) (f : Context → Context) : (s.updCtx c f).hostOut = s.hostOut := rfl
@[simp] theorem State.updCtx_ports (s : State) (c : Nat) (f : Context → Context) : (s.updCtx c f).ports = s.ports := rfl
@[simp] theorem State.updCtx_evSeq (s : State) (c : Nat) (f : Context → Context) : (s.updCtx c f).evSeq = s.evSeq := rfl
@[simp] theorem State.updCtx_time (s : State) (c : Nat) (f : Context → Context) : (s.updCtx c f).time = s.time := rfl
@[simp] theorem State.updCtx_ready (s : State) (c : Nat) (f : Context → Context) : (s.updCtx c f).ready = s.ready := rfl
@[simp] theorem State.updCtx_recov (s : State) (c : Nat) (f : Context → Context) : (s.updCtx c f).recov = s.recov := rfl
@[simp] theorem State.updCtx_quar (s : State) (c : Nat) (f : Context → Context) : (s.updCtx c f).quar = s.quar := rfl
@[simp] theorem State.updCtx_firmware (s : State) (c : Nat) (f : Context → Context) : (s.updCtx c f).firmware = s.firmware := rfl
@[simp] theorem State.updCtx_kemKey (s : State) (c : Nat) (f : Context → Context) : (s.updCtx c f).kemKey = s.kemKey := rfl
@[simp] theorem State.updCtx_admitted (s : State) (c : Nat) (f : Context → Context) : (s.updCtx c f).admitted = s.admitted := rfl
@[simp] theorem State.updCtx_gangWaits (s : State) (c : Nat) (f : Context → Context) : (s.updCtx c f).gangWaits = s.gangWaits := rfl
@[simp] theorem State.updCtx_comms (s : State) (c : Nat) (f : Context → Context) : (s.updCtx c f).comms = s.comms := rfl
@[simp] theorem State.updCtx_buffers (s : State) (c : Nat) (f : Context → Context) : (s.updCtx c f).buffers = s.buffers := rfl
@[simp] theorem State.updCtx_views (s : State) (c : Nat) (f : Context → Context) : (s.updCtx c f).views = s.views := rfl
@[simp] theorem State.updCtx_galOps (s : State) (c : Nat) (f : Context → Context) : (s.updCtx c f).galOps = s.galOps := rfl
@[simp] theorem State.updCtx_ahead (s : State) (c : Nat) (f : Context → Context) : (s.updCtx c f).ahead = s.ahead := rfl
@[simp] theorem State.updCtx_netOut (s : State) (c : Nat) (f : Context → Context) : (s.updCtx c f).netOut = s.netOut := rfl
@[simp] theorem State.updCtx_galPorts (s : State) (c : Nat) (f : Context → Context) : (s.updCtx c f).galPorts = s.galPorts := rfl
@[simp] theorem State.updCtx_member (s : State) (c : Nat) (f : Context → Context) : (s.updCtx c f).member = s.member := rfl
@[simp] theorem State.updCtx_joins (s : State) (c : Nat) (f : Context → Context) : (s.updCtx c f).joins = s.joins := rfl
@[simp] theorem State.updCtx_contA (s : State) (c : Nat) (f : Context → Context) : (s.updCtx c f).contA = s.contA := rfl
@[simp] theorem State.updCtx_contB (s : State) (c : Nat) (f : Context → Context) : (s.updCtx c f).contB = s.contB := rfl
@[simp] theorem State.updCtx_rowErrors (s : State) (c : Nat) (f : Context → Context) : (s.updCtx c f).rowErrors = s.rowErrors := rfl
@[simp] theorem State.updCtx_spoilt (s : State) (c : Nat) (f : Context → Context) : (s.updCtx c f).spoilt = s.spoilt := rfl
@[simp] theorem State.updCtx_spent (s : State) (c : Nat) (f : Context → Context) : (s.updCtx c f).spent = s.spent := rfl
@[simp] theorem State.updCtx_passes (s : State) (c : Nat) (f : Context → Context) : (s.updCtx c f).passes = s.passes := rfl
@[simp] theorem State.updCtx_strays (s : State) (c : Nat) (f : Context → Context) : (s.updCtx c f).strays = s.strays := rfl
@[simp] theorem State.updCtx_snap (s : State) (c : Nat) (f : Context → Context) : (s.updCtx c f).snap = s.snap := rfl

@[simp] theorem State.updCore_agenda (s : State) (c : Nat) (f : Core → Core) : (s.updCore c f).agenda = s.agenda := rfl
@[simp] theorem State.updCore_freeCtr (s : State) (c : Nat) (f : Core → Core) : (s.updCore c f).freeCtr = s.freeCtr := rfl
@[simp] theorem State.updCore_nextId (s : State) (c : Nat) (f : Core → Core) : (s.updCore c f).nextId = s.nextId := rfl
@[simp] theorem State.updCore_mem (s : State) (c : Nat) (f : Core → Core) : (s.updCore c f).mem = s.mem := rfl
@[simp] theorem State.updCore_memPoison (s : State) (c : Nat) (f : Core → Core) : (s.updCore c f).memPoison = s.memPoison := rfl
@[simp] theorem State.updCore_lineKeys (s : State) (c : Nat) (f : Core → Core) : (s.updCore c f).lineKeys = s.lineKeys := rfl
@[simp] theorem State.updCore_l2 (s : State) (c : Nat) (f : Core → Core) : (s.updCore c f).l2 = s.l2 := rfl
@[simp] theorem State.updCore_tlb (s : State) (c : Nat) (f : Core → Core) : (s.updCore c f).tlb = s.tlb := rfl
@[simp] theorem State.updCore_walks (s : State) (c : Nat) (f : Core → Core) : (s.updCore c f).walks = s.walks := rfl
@[simp] theorem State.updCore_flights (s : State) (c : Nat) (f : Core → Core) : (s.updCore c f).flights = s.flights := rfl
@[simp] theorem State.updCore_warps (s : State) (c : Nat) (f : Core → Core) : (s.updCore c f).warps = s.warps := rfl
@[simp] theorem State.updCore_wgs (s : State) (c : Nat) (f : Core → Core) : (s.updCore c f).wgs = s.wgs := rfl
@[simp] theorem State.updCore_grids (s : State) (c : Nat) (f : Core → Core) : (s.updCore c f).grids = s.grids := rfl
@[simp] theorem State.updCore_ctxs (s : State) (c : Nat) (f : Core → Core) : (s.updCore c f).ctxs = s.ctxs := rfl
@[simp] theorem State.updCore_pending (s : State) (c : Nat) (f : Core → Core) : (s.updCore c f).pending = s.pending := rfl
@[simp] theorem State.updCore_returns (s : State) (c : Nat) (f : Core → Core) : (s.updCore c f).returns = s.returns := rfl
@[simp] theorem State.updCore_scoreboard (s : State) (c : Nat) (f : Core → Core) : (s.updCore c f).scoreboard = s.scoreboard := rfl
@[simp] theorem State.updCore_records (s : State) (c : Nat) (f : Core → Core) : (s.updCore c f).records = s.records := rfl
@[simp] theorem State.updCore_chunks (s : State) (c : Nat) (f : Core → Core) : (s.updCore c f).chunks = s.chunks := rfl
@[simp] theorem State.updCore_turns (s : State) (c : Nat) (f : Core → Core) : (s.updCore c f).turns = s.turns := rfl
@[simp] theorem State.updCore_storeGroups (s : State) (c : Nat) (f : Core → Core) : (s.updCore c f).storeGroups = s.storeGroups := rfl
@[simp] theorem State.updCore_images (s : State) (c : Nat) (f : Core → Core) : (s.updCore c f).images = s.images := rfl
@[simp] theorem State.updCore_keys (s : State) (c : Nat) (f : Core → Core) : (s.updCore c f).keys = s.keys := rfl
@[simp] theorem State.updCore_tableKey (s : State) (c : Nat) (f : Core → Core) : (s.updCore c f).tableKey = s.tableKey := rfl
@[simp] theorem State.updCore_queues (s : State) (c : Nat) (f : Core → Core) : (s.updCore c f).queues = s.queues := rfl
@[simp] theorem State.updCore_longs (s : State) (c : Nat) (f : Core → Core) : (s.updCore c f).longs = s.longs := rfl
@[simp] theorem State.updCore_hostOut (s : State) (c : Nat) (f : Core → Core) : (s.updCore c f).hostOut = s.hostOut := rfl
@[simp] theorem State.updCore_ports (s : State) (c : Nat) (f : Core → Core) : (s.updCore c f).ports = s.ports := rfl
@[simp] theorem State.updCore_evSeq (s : State) (c : Nat) (f : Core → Core) : (s.updCore c f).evSeq = s.evSeq := rfl
@[simp] theorem State.updCore_time (s : State) (c : Nat) (f : Core → Core) : (s.updCore c f).time = s.time := rfl
@[simp] theorem State.updCore_ready (s : State) (c : Nat) (f : Core → Core) : (s.updCore c f).ready = s.ready := rfl
@[simp] theorem State.updCore_recov (s : State) (c : Nat) (f : Core → Core) : (s.updCore c f).recov = s.recov := rfl
@[simp] theorem State.updCore_quar (s : State) (c : Nat) (f : Core → Core) : (s.updCore c f).quar = s.quar := rfl
@[simp] theorem State.updCore_firmware (s : State) (c : Nat) (f : Core → Core) : (s.updCore c f).firmware = s.firmware := rfl
@[simp] theorem State.updCore_kemKey (s : State) (c : Nat) (f : Core → Core) : (s.updCore c f).kemKey = s.kemKey := rfl
@[simp] theorem State.updCore_admitted (s : State) (c : Nat) (f : Core → Core) : (s.updCore c f).admitted = s.admitted := rfl
@[simp] theorem State.updCore_gangWaits (s : State) (c : Nat) (f : Core → Core) : (s.updCore c f).gangWaits = s.gangWaits := rfl
@[simp] theorem State.updCore_comms (s : State) (c : Nat) (f : Core → Core) : (s.updCore c f).comms = s.comms := rfl
@[simp] theorem State.updCore_buffers (s : State) (c : Nat) (f : Core → Core) : (s.updCore c f).buffers = s.buffers := rfl
@[simp] theorem State.updCore_views (s : State) (c : Nat) (f : Core → Core) : (s.updCore c f).views = s.views := rfl
@[simp] theorem State.updCore_galOps (s : State) (c : Nat) (f : Core → Core) : (s.updCore c f).galOps = s.galOps := rfl
@[simp] theorem State.updCore_ahead (s : State) (c : Nat) (f : Core → Core) : (s.updCore c f).ahead = s.ahead := rfl
@[simp] theorem State.updCore_netOut (s : State) (c : Nat) (f : Core → Core) : (s.updCore c f).netOut = s.netOut := rfl
@[simp] theorem State.updCore_galPorts (s : State) (c : Nat) (f : Core → Core) : (s.updCore c f).galPorts = s.galPorts := rfl
@[simp] theorem State.updCore_member (s : State) (c : Nat) (f : Core → Core) : (s.updCore c f).member = s.member := rfl
@[simp] theorem State.updCore_joins (s : State) (c : Nat) (f : Core → Core) : (s.updCore c f).joins = s.joins := rfl
@[simp] theorem State.updCore_contA (s : State) (c : Nat) (f : Core → Core) : (s.updCore c f).contA = s.contA := rfl
@[simp] theorem State.updCore_contB (s : State) (c : Nat) (f : Core → Core) : (s.updCore c f).contB = s.contB := rfl
@[simp] theorem State.updCore_rowErrors (s : State) (c : Nat) (f : Core → Core) : (s.updCore c f).rowErrors = s.rowErrors := rfl
@[simp] theorem State.updCore_spoilt (s : State) (c : Nat) (f : Core → Core) : (s.updCore c f).spoilt = s.spoilt := rfl
@[simp] theorem State.updCore_spent (s : State) (c : Nat) (f : Core → Core) : (s.updCore c f).spent = s.spent := rfl
@[simp] theorem State.updCore_passes (s : State) (c : Nat) (f : Core → Core) : (s.updCore c f).passes = s.passes := rfl
@[simp] theorem State.updCore_strays (s : State) (c : Nat) (f : Core → Core) : (s.updCore c f).strays = s.strays := rfl
@[simp] theorem State.updCore_snap (s : State) (c : Nat) (f : Core → Core) : (s.updCore c f).snap = s.snap := rfl

@[simp] theorem State.endFlight_agenda (s : State) : (s.endFlight).agenda = s.agenda := rfl
@[simp] theorem State.endFlight_freeCtr (s : State) : (s.endFlight).freeCtr = s.freeCtr := rfl
@[simp] theorem State.endFlight_nextId (s : State) : (s.endFlight).nextId = s.nextId := rfl
@[simp] theorem State.endFlight_mem (s : State) : (s.endFlight).mem = s.mem := rfl
@[simp] theorem State.endFlight_memPoison (s : State) : (s.endFlight).memPoison = s.memPoison := rfl
@[simp] theorem State.endFlight_lineKeys (s : State) : (s.endFlight).lineKeys = s.lineKeys := rfl
@[simp] theorem State.endFlight_l2 (s : State) : (s.endFlight).l2 = s.l2 := rfl
@[simp] theorem State.endFlight_tlb (s : State) : (s.endFlight).tlb = s.tlb := rfl
@[simp] theorem State.endFlight_walks (s : State) : (s.endFlight).walks = s.walks := rfl
@[simp] theorem State.endFlight_cores (s : State) : (s.endFlight).cores = s.cores := rfl
@[simp] theorem State.endFlight_warps (s : State) : (s.endFlight).warps = s.warps := rfl
@[simp] theorem State.endFlight_wgs (s : State) : (s.endFlight).wgs = s.wgs := rfl
@[simp] theorem State.endFlight_grids (s : State) : (s.endFlight).grids = s.grids := rfl
@[simp] theorem State.endFlight_ctxs (s : State) : (s.endFlight).ctxs = s.ctxs := rfl
@[simp] theorem State.endFlight_pending (s : State) : (s.endFlight).pending = s.pending := rfl
@[simp] theorem State.endFlight_returns (s : State) : (s.endFlight).returns = s.returns := rfl
@[simp] theorem State.endFlight_scoreboard (s : State) : (s.endFlight).scoreboard = s.scoreboard := rfl
@[simp] theorem State.endFlight_records (s : State) : (s.endFlight).records = s.records := rfl
@[simp] theorem State.endFlight_chunks (s : State) : (s.endFlight).chunks = s.chunks := rfl
@[simp] theorem State.endFlight_turns (s : State) : (s.endFlight).turns = s.turns := rfl
@[simp] theorem State.endFlight_storeGroups (s : State) : (s.endFlight).storeGroups = s.storeGroups := rfl
@[simp] theorem State.endFlight_images (s : State) : (s.endFlight).images = s.images := rfl
@[simp] theorem State.endFlight_keys (s : State) : (s.endFlight).keys = s.keys := rfl
@[simp] theorem State.endFlight_tableKey (s : State) : (s.endFlight).tableKey = s.tableKey := rfl
@[simp] theorem State.endFlight_queues (s : State) : (s.endFlight).queues = s.queues := rfl
@[simp] theorem State.endFlight_longs (s : State) : (s.endFlight).longs = s.longs := rfl
@[simp] theorem State.endFlight_hostOut (s : State) : (s.endFlight).hostOut = s.hostOut := rfl
@[simp] theorem State.endFlight_ports (s : State) : (s.endFlight).ports = s.ports := rfl
@[simp] theorem State.endFlight_evSeq (s : State) : (s.endFlight).evSeq = s.evSeq := rfl
@[simp] theorem State.endFlight_time (s : State) : (s.endFlight).time = s.time := rfl
@[simp] theorem State.endFlight_ready (s : State) : (s.endFlight).ready = s.ready := rfl
@[simp] theorem State.endFlight_recov (s : State) : (s.endFlight).recov = s.recov := rfl
@[simp] theorem State.endFlight_quar (s : State) : (s.endFlight).quar = s.quar := rfl
@[simp] theorem State.endFlight_firmware (s : State) : (s.endFlight).firmware = s.firmware := rfl
@[simp] theorem State.endFlight_kemKey (s : State) : (s.endFlight).kemKey = s.kemKey := rfl
@[simp] theorem State.endFlight_admitted (s : State) : (s.endFlight).admitted = s.admitted := rfl
@[simp] theorem State.endFlight_gangWaits (s : State) : (s.endFlight).gangWaits = s.gangWaits := rfl
@[simp] theorem State.endFlight_comms (s : State) : (s.endFlight).comms = s.comms := rfl
@[simp] theorem State.endFlight_buffers (s : State) : (s.endFlight).buffers = s.buffers := rfl
@[simp] theorem State.endFlight_views (s : State) : (s.endFlight).views = s.views := rfl
@[simp] theorem State.endFlight_galOps (s : State) : (s.endFlight).galOps = s.galOps := rfl
@[simp] theorem State.endFlight_ahead (s : State) : (s.endFlight).ahead = s.ahead := rfl
@[simp] theorem State.endFlight_netOut (s : State) : (s.endFlight).netOut = s.netOut := rfl
@[simp] theorem State.endFlight_galPorts (s : State) : (s.endFlight).galPorts = s.galPorts := rfl
@[simp] theorem State.endFlight_member (s : State) : (s.endFlight).member = s.member := rfl
@[simp] theorem State.endFlight_joins (s : State) : (s.endFlight).joins = s.joins := rfl
@[simp] theorem State.endFlight_contA (s : State) : (s.endFlight).contA = s.contA := rfl
@[simp] theorem State.endFlight_contB (s : State) : (s.endFlight).contB = s.contB := rfl
@[simp] theorem State.endFlight_rowErrors (s : State) : (s.endFlight).rowErrors = s.rowErrors := rfl
@[simp] theorem State.endFlight_spoilt (s : State) : (s.endFlight).spoilt = s.spoilt := rfl
@[simp] theorem State.endFlight_spent (s : State) : (s.endFlight).spent = s.spent := rfl
@[simp] theorem State.endFlight_passes (s : State) : (s.endFlight).passes = s.passes := rfl
@[simp] theorem State.endFlight_strays (s : State) : (s.endFlight).strays = s.strays := rfl
@[simp] theorem State.endFlight_snap (s : State) : (s.endFlight).snap = s.snap := rfl

@[simp] theorem State.setFlight_agenda (s : State) (fl : Flight) : (s.setFlight fl).agenda = s.agenda := rfl
@[simp] theorem State.setFlight_freeCtr (s : State) (fl : Flight) : (s.setFlight fl).freeCtr = s.freeCtr := rfl
@[simp] theorem State.setFlight_nextId (s : State) (fl : Flight) : (s.setFlight fl).nextId = s.nextId := rfl
@[simp] theorem State.setFlight_mem (s : State) (fl : Flight) : (s.setFlight fl).mem = s.mem := rfl
@[simp] theorem State.setFlight_memPoison (s : State) (fl : Flight) : (s.setFlight fl).memPoison = s.memPoison := rfl
@[simp] theorem State.setFlight_lineKeys (s : State) (fl : Flight) : (s.setFlight fl).lineKeys = s.lineKeys := rfl
@[simp] theorem State.setFlight_l2 (s : State) (fl : Flight) : (s.setFlight fl).l2 = s.l2 := rfl
@[simp] theorem State.setFlight_tlb (s : State) (fl : Flight) : (s.setFlight fl).tlb = s.tlb := rfl
@[simp] theorem State.setFlight_walks (s : State) (fl : Flight) : (s.setFlight fl).walks = s.walks := rfl
@[simp] theorem State.setFlight_cores (s : State) (fl : Flight) : (s.setFlight fl).cores = s.cores := rfl
@[simp] theorem State.setFlight_warps (s : State) (fl : Flight) : (s.setFlight fl).warps = s.warps := rfl
@[simp] theorem State.setFlight_wgs (s : State) (fl : Flight) : (s.setFlight fl).wgs = s.wgs := rfl
@[simp] theorem State.setFlight_grids (s : State) (fl : Flight) : (s.setFlight fl).grids = s.grids := rfl
@[simp] theorem State.setFlight_ctxs (s : State) (fl : Flight) : (s.setFlight fl).ctxs = s.ctxs := rfl
@[simp] theorem State.setFlight_pending (s : State) (fl : Flight) : (s.setFlight fl).pending = s.pending := rfl
@[simp] theorem State.setFlight_returns (s : State) (fl : Flight) : (s.setFlight fl).returns = s.returns := rfl
@[simp] theorem State.setFlight_scoreboard (s : State) (fl : Flight) : (s.setFlight fl).scoreboard = s.scoreboard := rfl
@[simp] theorem State.setFlight_records (s : State) (fl : Flight) : (s.setFlight fl).records = s.records := rfl
@[simp] theorem State.setFlight_chunks (s : State) (fl : Flight) : (s.setFlight fl).chunks = s.chunks := rfl
@[simp] theorem State.setFlight_turns (s : State) (fl : Flight) : (s.setFlight fl).turns = s.turns := rfl
@[simp] theorem State.setFlight_storeGroups (s : State) (fl : Flight) : (s.setFlight fl).storeGroups = s.storeGroups := rfl
@[simp] theorem State.setFlight_images (s : State) (fl : Flight) : (s.setFlight fl).images = s.images := rfl
@[simp] theorem State.setFlight_keys (s : State) (fl : Flight) : (s.setFlight fl).keys = s.keys := rfl
@[simp] theorem State.setFlight_tableKey (s : State) (fl : Flight) : (s.setFlight fl).tableKey = s.tableKey := rfl
@[simp] theorem State.setFlight_queues (s : State) (fl : Flight) : (s.setFlight fl).queues = s.queues := rfl
@[simp] theorem State.setFlight_longs (s : State) (fl : Flight) : (s.setFlight fl).longs = s.longs := rfl
@[simp] theorem State.setFlight_hostOut (s : State) (fl : Flight) : (s.setFlight fl).hostOut = s.hostOut := rfl
@[simp] theorem State.setFlight_ports (s : State) (fl : Flight) : (s.setFlight fl).ports = s.ports := rfl
@[simp] theorem State.setFlight_evSeq (s : State) (fl : Flight) : (s.setFlight fl).evSeq = s.evSeq := rfl
@[simp] theorem State.setFlight_time (s : State) (fl : Flight) : (s.setFlight fl).time = s.time := rfl
@[simp] theorem State.setFlight_ready (s : State) (fl : Flight) : (s.setFlight fl).ready = s.ready := rfl
@[simp] theorem State.setFlight_recov (s : State) (fl : Flight) : (s.setFlight fl).recov = s.recov := rfl
@[simp] theorem State.setFlight_quar (s : State) (fl : Flight) : (s.setFlight fl).quar = s.quar := rfl
@[simp] theorem State.setFlight_firmware (s : State) (fl : Flight) : (s.setFlight fl).firmware = s.firmware := rfl
@[simp] theorem State.setFlight_kemKey (s : State) (fl : Flight) : (s.setFlight fl).kemKey = s.kemKey := rfl
@[simp] theorem State.setFlight_admitted (s : State) (fl : Flight) : (s.setFlight fl).admitted = s.admitted := rfl
@[simp] theorem State.setFlight_gangWaits (s : State) (fl : Flight) : (s.setFlight fl).gangWaits = s.gangWaits := rfl
@[simp] theorem State.setFlight_comms (s : State) (fl : Flight) : (s.setFlight fl).comms = s.comms := rfl
@[simp] theorem State.setFlight_buffers (s : State) (fl : Flight) : (s.setFlight fl).buffers = s.buffers := rfl
@[simp] theorem State.setFlight_views (s : State) (fl : Flight) : (s.setFlight fl).views = s.views := rfl
@[simp] theorem State.setFlight_galOps (s : State) (fl : Flight) : (s.setFlight fl).galOps = s.galOps := rfl
@[simp] theorem State.setFlight_ahead (s : State) (fl : Flight) : (s.setFlight fl).ahead = s.ahead := rfl
@[simp] theorem State.setFlight_netOut (s : State) (fl : Flight) : (s.setFlight fl).netOut = s.netOut := rfl
@[simp] theorem State.setFlight_galPorts (s : State) (fl : Flight) : (s.setFlight fl).galPorts = s.galPorts := rfl
@[simp] theorem State.setFlight_member (s : State) (fl : Flight) : (s.setFlight fl).member = s.member := rfl
@[simp] theorem State.setFlight_joins (s : State) (fl : Flight) : (s.setFlight fl).joins = s.joins := rfl
@[simp] theorem State.setFlight_contA (s : State) (fl : Flight) : (s.setFlight fl).contA = s.contA := rfl
@[simp] theorem State.setFlight_contB (s : State) (fl : Flight) : (s.setFlight fl).contB = s.contB := rfl
@[simp] theorem State.setFlight_rowErrors (s : State) (fl : Flight) : (s.setFlight fl).rowErrors = s.rowErrors := rfl
@[simp] theorem State.setFlight_spoilt (s : State) (fl : Flight) : (s.setFlight fl).spoilt = s.spoilt := rfl
@[simp] theorem State.setFlight_spent (s : State) (fl : Flight) : (s.setFlight fl).spent = s.spent := rfl
@[simp] theorem State.setFlight_passes (s : State) (fl : Flight) : (s.setFlight fl).passes = s.passes := rfl
@[simp] theorem State.setFlight_strays (s : State) (fl : Flight) : (s.setFlight fl).strays = s.strays := rfl
@[simp] theorem State.setFlight_snap (s : State) (fl : Flight) : (s.setFlight fl).snap = s.snap := rfl

@[simp] theorem State.trigger_agenda (s : State) : (s.trigger).agenda = s.agenda := by unfold State.trigger; split <;> rfl
@[simp] theorem State.trigger_freeCtr (s : State) : (s.trigger).freeCtr = s.freeCtr := by unfold State.trigger; split <;> rfl
@[simp] theorem State.trigger_nextId (s : State) : (s.trigger).nextId = s.nextId := by unfold State.trigger; split <;> rfl
@[simp] theorem State.trigger_mem (s : State) : (s.trigger).mem = s.mem := by unfold State.trigger; split <;> rfl
@[simp] theorem State.trigger_memPoison (s : State) : (s.trigger).memPoison = s.memPoison := by unfold State.trigger; split <;> rfl
@[simp] theorem State.trigger_lineKeys (s : State) : (s.trigger).lineKeys = s.lineKeys := by unfold State.trigger; split <;> rfl
@[simp] theorem State.trigger_l2 (s : State) : (s.trigger).l2 = s.l2 := by unfold State.trigger; split <;> rfl
@[simp] theorem State.trigger_tlb (s : State) : (s.trigger).tlb = s.tlb := by unfold State.trigger; split <;> rfl
@[simp] theorem State.trigger_walks (s : State) : (s.trigger).walks = s.walks := by unfold State.trigger; split <;> rfl
@[simp] theorem State.trigger_flights (s : State) : (s.trigger).flights = s.flights := by unfold State.trigger; split <;> rfl
@[simp] theorem State.trigger_cores (s : State) : (s.trigger).cores = s.cores := by unfold State.trigger; split <;> rfl
@[simp] theorem State.trigger_warps (s : State) : (s.trigger).warps = s.warps := by unfold State.trigger; split <;> rfl
@[simp] theorem State.trigger_wgs (s : State) : (s.trigger).wgs = s.wgs := by unfold State.trigger; split <;> rfl
@[simp] theorem State.trigger_grids (s : State) : (s.trigger).grids = s.grids := by unfold State.trigger; split <;> rfl
@[simp] theorem State.trigger_ctxs (s : State) : (s.trigger).ctxs = s.ctxs := by unfold State.trigger; split <;> rfl
@[simp] theorem State.trigger_pending (s : State) : (s.trigger).pending = s.pending := by unfold State.trigger; split <;> rfl
@[simp] theorem State.trigger_returns (s : State) : (s.trigger).returns = s.returns := by unfold State.trigger; split <;> rfl
@[simp] theorem State.trigger_scoreboard (s : State) : (s.trigger).scoreboard = s.scoreboard := by unfold State.trigger; split <;> rfl
@[simp] theorem State.trigger_records (s : State) : (s.trigger).records = s.records := by unfold State.trigger; split <;> rfl
@[simp] theorem State.trigger_chunks (s : State) : (s.trigger).chunks = s.chunks := by unfold State.trigger; split <;> rfl
@[simp] theorem State.trigger_turns (s : State) : (s.trigger).turns = s.turns := by unfold State.trigger; split <;> rfl
@[simp] theorem State.trigger_storeGroups (s : State) : (s.trigger).storeGroups = s.storeGroups := by unfold State.trigger; split <;> rfl
@[simp] theorem State.trigger_images (s : State) : (s.trigger).images = s.images := by unfold State.trigger; split <;> rfl
@[simp] theorem State.trigger_keys (s : State) : (s.trigger).keys = s.keys := by unfold State.trigger; split <;> rfl
@[simp] theorem State.trigger_tableKey (s : State) : (s.trigger).tableKey = s.tableKey := by unfold State.trigger; split <;> rfl
@[simp] theorem State.trigger_queues (s : State) : (s.trigger).queues = s.queues := by unfold State.trigger; split <;> rfl
@[simp] theorem State.trigger_longs (s : State) : (s.trigger).longs = s.longs := by unfold State.trigger; split <;> rfl
@[simp] theorem State.trigger_hostOut (s : State) : (s.trigger).hostOut = s.hostOut := by unfold State.trigger; split <;> rfl
@[simp] theorem State.trigger_ports (s : State) : (s.trigger).ports = s.ports := by unfold State.trigger; split <;> rfl
@[simp] theorem State.trigger_evSeq (s : State) : (s.trigger).evSeq = s.evSeq := by unfold State.trigger; split <;> rfl
@[simp] theorem State.trigger_time (s : State) : (s.trigger).time = s.time := by unfold State.trigger; split <;> rfl
@[simp] theorem State.trigger_ready (s : State) : (s.trigger).ready = s.ready := by unfold State.trigger; split <;> rfl
@[simp] theorem State.trigger_recov (s : State) : (s.trigger).recov = s.recov := by unfold State.trigger; split <;> rfl
@[simp] theorem State.trigger_quar (s : State) : (s.trigger).quar = s.quar := by unfold State.trigger; split <;> rfl
@[simp] theorem State.trigger_firmware (s : State) : (s.trigger).firmware = s.firmware := by unfold State.trigger; split <;> rfl
@[simp] theorem State.trigger_kemKey (s : State) : (s.trigger).kemKey = s.kemKey := by unfold State.trigger; split <;> rfl
@[simp] theorem State.trigger_admitted (s : State) : (s.trigger).admitted = s.admitted := by unfold State.trigger; split <;> rfl
@[simp] theorem State.trigger_gangWaits (s : State) : (s.trigger).gangWaits = s.gangWaits := by unfold State.trigger; split <;> rfl
@[simp] theorem State.trigger_comms (s : State) : (s.trigger).comms = s.comms := by unfold State.trigger; split <;> rfl
@[simp] theorem State.trigger_buffers (s : State) : (s.trigger).buffers = s.buffers := by unfold State.trigger; split <;> rfl
@[simp] theorem State.trigger_views (s : State) : (s.trigger).views = s.views := by unfold State.trigger; split <;> rfl
@[simp] theorem State.trigger_galOps (s : State) : (s.trigger).galOps = s.galOps := by unfold State.trigger; split <;> rfl
@[simp] theorem State.trigger_ahead (s : State) : (s.trigger).ahead = s.ahead := by unfold State.trigger; split <;> rfl
@[simp] theorem State.trigger_netOut (s : State) : (s.trigger).netOut = s.netOut := by unfold State.trigger; split <;> rfl
@[simp] theorem State.trigger_galPorts (s : State) : (s.trigger).galPorts = s.galPorts := by unfold State.trigger; split <;> rfl
@[simp] theorem State.trigger_member (s : State) : (s.trigger).member = s.member := by unfold State.trigger; split <;> rfl
@[simp] theorem State.trigger_joins (s : State) : (s.trigger).joins = s.joins := by unfold State.trigger; split <;> rfl
@[simp] theorem State.trigger_contA (s : State) : (s.trigger).contA = s.contA := by unfold State.trigger; split <;> rfl
@[simp] theorem State.trigger_contB (s : State) : (s.trigger).contB = s.contB := by unfold State.trigger; split <;> rfl
@[simp] theorem State.trigger_rowErrors (s : State) : (s.trigger).rowErrors = s.rowErrors := by unfold State.trigger; split <;> rfl
@[simp] theorem State.trigger_spoilt (s : State) : (s.trigger).spoilt = s.spoilt := by unfold State.trigger; split <;> rfl
@[simp] theorem State.trigger_spent (s : State) : (s.trigger).spent = s.spent := by unfold State.trigger; split <;> rfl
@[simp] theorem State.trigger_passes (s : State) : (s.trigger).passes = s.passes := by unfold State.trigger; split <;> rfl
@[simp] theorem State.trigger_strays (s : State) : (s.trigger).strays = s.strays := by unfold State.trigger; split <;> rfl

@[simp] theorem State.triggerOn_agenda (s : State) (c : Cause) : (s.triggerOn c).agenda = s.agenda := by unfold State.triggerOn; split <;> simp
@[simp] theorem State.triggerOn_freeCtr (s : State) (c : Cause) : (s.triggerOn c).freeCtr = s.freeCtr := by unfold State.triggerOn; split <;> simp
@[simp] theorem State.triggerOn_nextId (s : State) (c : Cause) : (s.triggerOn c).nextId = s.nextId := by unfold State.triggerOn; split <;> simp
@[simp] theorem State.triggerOn_mem (s : State) (c : Cause) : (s.triggerOn c).mem = s.mem := by unfold State.triggerOn; split <;> simp
@[simp] theorem State.triggerOn_memPoison (s : State) (c : Cause) : (s.triggerOn c).memPoison = s.memPoison := by unfold State.triggerOn; split <;> simp
@[simp] theorem State.triggerOn_lineKeys (s : State) (c : Cause) : (s.triggerOn c).lineKeys = s.lineKeys := by unfold State.triggerOn; split <;> simp
@[simp] theorem State.triggerOn_l2 (s : State) (c : Cause) : (s.triggerOn c).l2 = s.l2 := by unfold State.triggerOn; split <;> simp
@[simp] theorem State.triggerOn_tlb (s : State) (c : Cause) : (s.triggerOn c).tlb = s.tlb := by unfold State.triggerOn; split <;> simp
@[simp] theorem State.triggerOn_walks (s : State) (c : Cause) : (s.triggerOn c).walks = s.walks := by unfold State.triggerOn; split <;> simp
@[simp] theorem State.triggerOn_flights (s : State) (c : Cause) : (s.triggerOn c).flights = s.flights := by unfold State.triggerOn; split <;> simp
@[simp] theorem State.triggerOn_cores (s : State) (c : Cause) : (s.triggerOn c).cores = s.cores := by unfold State.triggerOn; split <;> simp
@[simp] theorem State.triggerOn_warps (s : State) (c : Cause) : (s.triggerOn c).warps = s.warps := by unfold State.triggerOn; split <;> simp
@[simp] theorem State.triggerOn_wgs (s : State) (c : Cause) : (s.triggerOn c).wgs = s.wgs := by unfold State.triggerOn; split <;> simp
@[simp] theorem State.triggerOn_grids (s : State) (c : Cause) : (s.triggerOn c).grids = s.grids := by unfold State.triggerOn; split <;> simp
@[simp] theorem State.triggerOn_ctxs (s : State) (c : Cause) : (s.triggerOn c).ctxs = s.ctxs := by unfold State.triggerOn; split <;> simp
@[simp] theorem State.triggerOn_pending (s : State) (c : Cause) : (s.triggerOn c).pending = s.pending := by unfold State.triggerOn; split <;> simp
@[simp] theorem State.triggerOn_returns (s : State) (c : Cause) : (s.triggerOn c).returns = s.returns := by unfold State.triggerOn; split <;> simp
@[simp] theorem State.triggerOn_scoreboard (s : State) (c : Cause) : (s.triggerOn c).scoreboard = s.scoreboard := by unfold State.triggerOn; split <;> simp
@[simp] theorem State.triggerOn_records (s : State) (c : Cause) : (s.triggerOn c).records = s.records := by unfold State.triggerOn; split <;> simp
@[simp] theorem State.triggerOn_chunks (s : State) (c : Cause) : (s.triggerOn c).chunks = s.chunks := by unfold State.triggerOn; split <;> simp
@[simp] theorem State.triggerOn_turns (s : State) (c : Cause) : (s.triggerOn c).turns = s.turns := by unfold State.triggerOn; split <;> simp
@[simp] theorem State.triggerOn_storeGroups (s : State) (c : Cause) : (s.triggerOn c).storeGroups = s.storeGroups := by unfold State.triggerOn; split <;> simp
@[simp] theorem State.triggerOn_images (s : State) (c : Cause) : (s.triggerOn c).images = s.images := by unfold State.triggerOn; split <;> simp
@[simp] theorem State.triggerOn_keys (s : State) (c : Cause) : (s.triggerOn c).keys = s.keys := by unfold State.triggerOn; split <;> simp
@[simp] theorem State.triggerOn_tableKey (s : State) (c : Cause) : (s.triggerOn c).tableKey = s.tableKey := by unfold State.triggerOn; split <;> simp
@[simp] theorem State.triggerOn_queues (s : State) (c : Cause) : (s.triggerOn c).queues = s.queues := by unfold State.triggerOn; split <;> simp
@[simp] theorem State.triggerOn_longs (s : State) (c : Cause) : (s.triggerOn c).longs = s.longs := by unfold State.triggerOn; split <;> simp
@[simp] theorem State.triggerOn_hostOut (s : State) (c : Cause) : (s.triggerOn c).hostOut = s.hostOut := by unfold State.triggerOn; split <;> simp
@[simp] theorem State.triggerOn_ports (s : State) (c : Cause) : (s.triggerOn c).ports = s.ports := by unfold State.triggerOn; split <;> simp
@[simp] theorem State.triggerOn_evSeq (s : State) (c : Cause) : (s.triggerOn c).evSeq = s.evSeq := by unfold State.triggerOn; split <;> simp
@[simp] theorem State.triggerOn_time (s : State) (c : Cause) : (s.triggerOn c).time = s.time := by unfold State.triggerOn; split <;> simp
@[simp] theorem State.triggerOn_ready (s : State) (c : Cause) : (s.triggerOn c).ready = s.ready := by unfold State.triggerOn; split <;> simp
@[simp] theorem State.triggerOn_recov (s : State) (c : Cause) : (s.triggerOn c).recov = s.recov := by unfold State.triggerOn; split <;> simp
@[simp] theorem State.triggerOn_quar (s : State) (c : Cause) : (s.triggerOn c).quar = s.quar := by unfold State.triggerOn; split <;> simp
@[simp] theorem State.triggerOn_firmware (s : State) (c : Cause) : (s.triggerOn c).firmware = s.firmware := by unfold State.triggerOn; split <;> simp
@[simp] theorem State.triggerOn_kemKey (s : State) (c : Cause) : (s.triggerOn c).kemKey = s.kemKey := by unfold State.triggerOn; split <;> simp
@[simp] theorem State.triggerOn_admitted (s : State) (c : Cause) : (s.triggerOn c).admitted = s.admitted := by unfold State.triggerOn; split <;> simp
@[simp] theorem State.triggerOn_gangWaits (s : State) (c : Cause) : (s.triggerOn c).gangWaits = s.gangWaits := by unfold State.triggerOn; split <;> simp
@[simp] theorem State.triggerOn_comms (s : State) (c : Cause) : (s.triggerOn c).comms = s.comms := by unfold State.triggerOn; split <;> simp
@[simp] theorem State.triggerOn_buffers (s : State) (c : Cause) : (s.triggerOn c).buffers = s.buffers := by unfold State.triggerOn; split <;> simp
@[simp] theorem State.triggerOn_views (s : State) (c : Cause) : (s.triggerOn c).views = s.views := by unfold State.triggerOn; split <;> simp
@[simp] theorem State.triggerOn_galOps (s : State) (c : Cause) : (s.triggerOn c).galOps = s.galOps := by unfold State.triggerOn; split <;> simp
@[simp] theorem State.triggerOn_ahead (s : State) (c : Cause) : (s.triggerOn c).ahead = s.ahead := by unfold State.triggerOn; split <;> simp
@[simp] theorem State.triggerOn_netOut (s : State) (c : Cause) : (s.triggerOn c).netOut = s.netOut := by unfold State.triggerOn; split <;> simp
@[simp] theorem State.triggerOn_galPorts (s : State) (c : Cause) : (s.triggerOn c).galPorts = s.galPorts := by unfold State.triggerOn; split <;> simp
@[simp] theorem State.triggerOn_member (s : State) (c : Cause) : (s.triggerOn c).member = s.member := by unfold State.triggerOn; split <;> simp
@[simp] theorem State.triggerOn_joins (s : State) (c : Cause) : (s.triggerOn c).joins = s.joins := by unfold State.triggerOn; split <;> simp
@[simp] theorem State.triggerOn_contA (s : State) (c : Cause) : (s.triggerOn c).contA = s.contA := by unfold State.triggerOn; split <;> simp
@[simp] theorem State.triggerOn_contB (s : State) (c : Cause) : (s.triggerOn c).contB = s.contB := by unfold State.triggerOn; split <;> simp
@[simp] theorem State.triggerOn_rowErrors (s : State) (c : Cause) : (s.triggerOn c).rowErrors = s.rowErrors := by unfold State.triggerOn; split <;> simp
@[simp] theorem State.triggerOn_spoilt (s : State) (c : Cause) : (s.triggerOn c).spoilt = s.spoilt := by unfold State.triggerOn; split <;> simp
@[simp] theorem State.triggerOn_spent (s : State) (c : Cause) : (s.triggerOn c).spent = s.spent := by unfold State.triggerOn; split <;> simp
@[simp] theorem State.triggerOn_passes (s : State) (c : Cause) : (s.triggerOn c).passes = s.passes := by unfold State.triggerOn; split <;> simp
@[simp] theorem State.triggerOn_strays (s : State) (c : Cause) : (s.triggerOn c).strays = s.strays := by unfold State.triggerOn; split <;> simp

@[simp] theorem State.postEvent_agenda (s : State) (e : EventRec) : (s.postEvent e).agenda = s.agenda := by unfold State.postEvent; dsimp only; split <;> simp
@[simp] theorem State.postEvent_freeCtr (s : State) (e : EventRec) : (s.postEvent e).freeCtr = s.freeCtr := by unfold State.postEvent; dsimp only; split <;> simp
@[simp] theorem State.postEvent_nextId (s : State) (e : EventRec) : (s.postEvent e).nextId = s.nextId := by unfold State.postEvent; dsimp only; split <;> simp
@[simp] theorem State.postEvent_mem (s : State) (e : EventRec) : (s.postEvent e).mem = s.mem := by unfold State.postEvent; dsimp only; split <;> simp
@[simp] theorem State.postEvent_memPoison (s : State) (e : EventRec) : (s.postEvent e).memPoison = s.memPoison := by unfold State.postEvent; dsimp only; split <;> simp
@[simp] theorem State.postEvent_lineKeys (s : State) (e : EventRec) : (s.postEvent e).lineKeys = s.lineKeys := by unfold State.postEvent; dsimp only; split <;> simp
@[simp] theorem State.postEvent_l2 (s : State) (e : EventRec) : (s.postEvent e).l2 = s.l2 := by unfold State.postEvent; dsimp only; split <;> simp
@[simp] theorem State.postEvent_tlb (s : State) (e : EventRec) : (s.postEvent e).tlb = s.tlb := by unfold State.postEvent; dsimp only; split <;> simp
@[simp] theorem State.postEvent_walks (s : State) (e : EventRec) : (s.postEvent e).walks = s.walks := by unfold State.postEvent; dsimp only; split <;> simp
@[simp] theorem State.postEvent_flights (s : State) (e : EventRec) : (s.postEvent e).flights = s.flights := by unfold State.postEvent; dsimp only; split <;> simp
@[simp] theorem State.postEvent_cores (s : State) (e : EventRec) : (s.postEvent e).cores = s.cores := by unfold State.postEvent; dsimp only; split <;> simp
@[simp] theorem State.postEvent_warps (s : State) (e : EventRec) : (s.postEvent e).warps = s.warps := by unfold State.postEvent; dsimp only; split <;> simp
@[simp] theorem State.postEvent_wgs (s : State) (e : EventRec) : (s.postEvent e).wgs = s.wgs := by unfold State.postEvent; dsimp only; split <;> simp
@[simp] theorem State.postEvent_grids (s : State) (e : EventRec) : (s.postEvent e).grids = s.grids := by unfold State.postEvent; dsimp only; split <;> simp
@[simp] theorem State.postEvent_ctxs (s : State) (e : EventRec) : (s.postEvent e).ctxs = s.ctxs := by unfold State.postEvent; dsimp only; split <;> simp
@[simp] theorem State.postEvent_pending (s : State) (e : EventRec) : (s.postEvent e).pending = s.pending := by unfold State.postEvent; dsimp only; split <;> simp
@[simp] theorem State.postEvent_returns (s : State) (e : EventRec) : (s.postEvent e).returns = s.returns := by unfold State.postEvent; dsimp only; split <;> simp
@[simp] theorem State.postEvent_scoreboard (s : State) (e : EventRec) : (s.postEvent e).scoreboard = s.scoreboard := by unfold State.postEvent; dsimp only; split <;> simp
@[simp] theorem State.postEvent_records (s : State) (e : EventRec) : (s.postEvent e).records = s.records := by unfold State.postEvent; dsimp only; split <;> simp
@[simp] theorem State.postEvent_chunks (s : State) (e : EventRec) : (s.postEvent e).chunks = s.chunks := by unfold State.postEvent; dsimp only; split <;> simp
@[simp] theorem State.postEvent_turns (s : State) (e : EventRec) : (s.postEvent e).turns = s.turns := by unfold State.postEvent; dsimp only; split <;> simp
@[simp] theorem State.postEvent_storeGroups (s : State) (e : EventRec) : (s.postEvent e).storeGroups = s.storeGroups := by unfold State.postEvent; dsimp only; split <;> simp
@[simp] theorem State.postEvent_images (s : State) (e : EventRec) : (s.postEvent e).images = s.images := by unfold State.postEvent; dsimp only; split <;> simp
@[simp] theorem State.postEvent_keys (s : State) (e : EventRec) : (s.postEvent e).keys = s.keys := by unfold State.postEvent; dsimp only; split <;> simp
@[simp] theorem State.postEvent_tableKey (s : State) (e : EventRec) : (s.postEvent e).tableKey = s.tableKey := by unfold State.postEvent; dsimp only; split <;> simp
@[simp] theorem State.postEvent_queues (s : State) (e : EventRec) : (s.postEvent e).queues = s.queues := by unfold State.postEvent; dsimp only; split <;> simp
@[simp] theorem State.postEvent_longs (s : State) (e : EventRec) : (s.postEvent e).longs = s.longs := by unfold State.postEvent; dsimp only; split <;> simp
@[simp] theorem State.postEvent_time (s : State) (e : EventRec) : (s.postEvent e).time = s.time := by unfold State.postEvent; dsimp only; split <;> simp
@[simp] theorem State.postEvent_ready (s : State) (e : EventRec) : (s.postEvent e).ready = s.ready := by unfold State.postEvent; dsimp only; split <;> simp
@[simp] theorem State.postEvent_recov (s : State) (e : EventRec) : (s.postEvent e).recov = s.recov := by unfold State.postEvent; dsimp only; split <;> simp
@[simp] theorem State.postEvent_quar (s : State) (e : EventRec) : (s.postEvent e).quar = s.quar := by unfold State.postEvent; dsimp only; split <;> simp
@[simp] theorem State.postEvent_firmware (s : State) (e : EventRec) : (s.postEvent e).firmware = s.firmware := by unfold State.postEvent; dsimp only; split <;> simp
@[simp] theorem State.postEvent_kemKey (s : State) (e : EventRec) : (s.postEvent e).kemKey = s.kemKey := by unfold State.postEvent; dsimp only; split <;> simp
@[simp] theorem State.postEvent_admitted (s : State) (e : EventRec) : (s.postEvent e).admitted = s.admitted := by unfold State.postEvent; dsimp only; split <;> simp
@[simp] theorem State.postEvent_gangWaits (s : State) (e : EventRec) : (s.postEvent e).gangWaits = s.gangWaits := by unfold State.postEvent; dsimp only; split <;> simp
@[simp] theorem State.postEvent_comms (s : State) (e : EventRec) : (s.postEvent e).comms = s.comms := by unfold State.postEvent; dsimp only; split <;> simp
@[simp] theorem State.postEvent_buffers (s : State) (e : EventRec) : (s.postEvent e).buffers = s.buffers := by unfold State.postEvent; dsimp only; split <;> simp
@[simp] theorem State.postEvent_views (s : State) (e : EventRec) : (s.postEvent e).views = s.views := by unfold State.postEvent; dsimp only; split <;> simp
@[simp] theorem State.postEvent_galOps (s : State) (e : EventRec) : (s.postEvent e).galOps = s.galOps := by unfold State.postEvent; dsimp only; split <;> simp
@[simp] theorem State.postEvent_ahead (s : State) (e : EventRec) : (s.postEvent e).ahead = s.ahead := by unfold State.postEvent; dsimp only; split <;> simp
@[simp] theorem State.postEvent_netOut (s : State) (e : EventRec) : (s.postEvent e).netOut = s.netOut := by unfold State.postEvent; dsimp only; split <;> simp
@[simp] theorem State.postEvent_galPorts (s : State) (e : EventRec) : (s.postEvent e).galPorts = s.galPorts := by unfold State.postEvent; dsimp only; split <;> simp
@[simp] theorem State.postEvent_member (s : State) (e : EventRec) : (s.postEvent e).member = s.member := by unfold State.postEvent; dsimp only; split <;> simp
@[simp] theorem State.postEvent_joins (s : State) (e : EventRec) : (s.postEvent e).joins = s.joins := by unfold State.postEvent; dsimp only; split <;> simp
@[simp] theorem State.postEvent_contA (s : State) (e : EventRec) : (s.postEvent e).contA = s.contA := by unfold State.postEvent; dsimp only; split <;> simp
@[simp] theorem State.postEvent_contB (s : State) (e : EventRec) : (s.postEvent e).contB = s.contB := by unfold State.postEvent; dsimp only; split <;> simp
@[simp] theorem State.postEvent_rowErrors (s : State) (e : EventRec) : (s.postEvent e).rowErrors = s.rowErrors := by unfold State.postEvent; dsimp only; split <;> simp
@[simp] theorem State.postEvent_spoilt (s : State) (e : EventRec) : (s.postEvent e).spoilt = s.spoilt := by unfold State.postEvent; dsimp only; split <;> simp
@[simp] theorem State.postEvent_spent (s : State) (e : EventRec) : (s.postEvent e).spent = s.spent := by unfold State.postEvent; dsimp only; split <;> simp
@[simp] theorem State.postEvent_passes (s : State) (e : EventRec) : (s.postEvent e).passes = s.passes := by unfold State.postEvent; dsimp only; split <;> simp
@[simp] theorem State.postEvent_strays (s : State) (e : EventRec) : (s.postEvent e).strays = s.strays := by unfold State.postEvent; dsimp only; split <;> simp

@[simp] theorem State.retireAt_agenda (s : State) (i : Iss) (lnd ends : Bool) (lv : Left) : (s.retireAt i lnd ends lv).agenda = s.agenda := by unfold State.retireAt; split <;> rfl
@[simp] theorem State.retireAt_freeCtr (s : State) (i : Iss) (lnd ends : Bool) (lv : Left) : (s.retireAt i lnd ends lv).freeCtr = s.freeCtr := by unfold State.retireAt; split <;> rfl
@[simp] theorem State.retireAt_nextId (s : State) (i : Iss) (lnd ends : Bool) (lv : Left) : (s.retireAt i lnd ends lv).nextId = s.nextId := by unfold State.retireAt; split <;> rfl
@[simp] theorem State.retireAt_mem (s : State) (i : Iss) (lnd ends : Bool) (lv : Left) : (s.retireAt i lnd ends lv).mem = s.mem := by unfold State.retireAt; split <;> rfl
@[simp] theorem State.retireAt_memPoison (s : State) (i : Iss) (lnd ends : Bool) (lv : Left) : (s.retireAt i lnd ends lv).memPoison = s.memPoison := by unfold State.retireAt; split <;> rfl
@[simp] theorem State.retireAt_lineKeys (s : State) (i : Iss) (lnd ends : Bool) (lv : Left) : (s.retireAt i lnd ends lv).lineKeys = s.lineKeys := by unfold State.retireAt; split <;> rfl
@[simp] theorem State.retireAt_l2 (s : State) (i : Iss) (lnd ends : Bool) (lv : Left) : (s.retireAt i lnd ends lv).l2 = s.l2 := by unfold State.retireAt; split <;> rfl
@[simp] theorem State.retireAt_tlb (s : State) (i : Iss) (lnd ends : Bool) (lv : Left) : (s.retireAt i lnd ends lv).tlb = s.tlb := by unfold State.retireAt; split <;> rfl
@[simp] theorem State.retireAt_walks (s : State) (i : Iss) (lnd ends : Bool) (lv : Left) : (s.retireAt i lnd ends lv).walks = s.walks := by unfold State.retireAt; split <;> rfl
@[simp] theorem State.retireAt_cores (s : State) (i : Iss) (lnd ends : Bool) (lv : Left) : (s.retireAt i lnd ends lv).cores = s.cores := by unfold State.retireAt; split <;> rfl
@[simp] theorem State.retireAt_warps (s : State) (i : Iss) (lnd ends : Bool) (lv : Left) : (s.retireAt i lnd ends lv).warps = s.warps := by unfold State.retireAt; split <;> rfl
@[simp] theorem State.retireAt_wgs (s : State) (i : Iss) (lnd ends : Bool) (lv : Left) : (s.retireAt i lnd ends lv).wgs = s.wgs := by unfold State.retireAt; split <;> rfl
@[simp] theorem State.retireAt_grids (s : State) (i : Iss) (lnd ends : Bool) (lv : Left) : (s.retireAt i lnd ends lv).grids = s.grids := by unfold State.retireAt; split <;> rfl
@[simp] theorem State.retireAt_ctxs (s : State) (i : Iss) (lnd ends : Bool) (lv : Left) : (s.retireAt i lnd ends lv).ctxs = s.ctxs := by unfold State.retireAt; split <;> rfl
@[simp] theorem State.retireAt_pending (s : State) (i : Iss) (lnd ends : Bool) (lv : Left) : (s.retireAt i lnd ends lv).pending = s.pending := by unfold State.retireAt; split <;> rfl
@[simp] theorem State.retireAt_returns (s : State) (i : Iss) (lnd ends : Bool) (lv : Left) : (s.retireAt i lnd ends lv).returns = s.returns := by unfold State.retireAt; split <;> rfl
@[simp] theorem State.retireAt_scoreboard (s : State) (i : Iss) (lnd ends : Bool) (lv : Left) : (s.retireAt i lnd ends lv).scoreboard = s.scoreboard := by unfold State.retireAt; split <;> rfl
@[simp] theorem State.retireAt_records (s : State) (i : Iss) (lnd ends : Bool) (lv : Left) : (s.retireAt i lnd ends lv).records = s.records := by unfold State.retireAt; split <;> rfl
@[simp] theorem State.retireAt_chunks (s : State) (i : Iss) (lnd ends : Bool) (lv : Left) : (s.retireAt i lnd ends lv).chunks = s.chunks := by unfold State.retireAt; split <;> rfl
@[simp] theorem State.retireAt_turns (s : State) (i : Iss) (lnd ends : Bool) (lv : Left) : (s.retireAt i lnd ends lv).turns = s.turns := by unfold State.retireAt; split <;> rfl
@[simp] theorem State.retireAt_storeGroups (s : State) (i : Iss) (lnd ends : Bool) (lv : Left) : (s.retireAt i lnd ends lv).storeGroups = s.storeGroups := by unfold State.retireAt; split <;> rfl
@[simp] theorem State.retireAt_images (s : State) (i : Iss) (lnd ends : Bool) (lv : Left) : (s.retireAt i lnd ends lv).images = s.images := by unfold State.retireAt; split <;> rfl
@[simp] theorem State.retireAt_keys (s : State) (i : Iss) (lnd ends : Bool) (lv : Left) : (s.retireAt i lnd ends lv).keys = s.keys := by unfold State.retireAt; split <;> rfl
@[simp] theorem State.retireAt_tableKey (s : State) (i : Iss) (lnd ends : Bool) (lv : Left) : (s.retireAt i lnd ends lv).tableKey = s.tableKey := by unfold State.retireAt; split <;> rfl
@[simp] theorem State.retireAt_queues (s : State) (i : Iss) (lnd ends : Bool) (lv : Left) : (s.retireAt i lnd ends lv).queues = s.queues := by unfold State.retireAt; split <;> rfl
@[simp] theorem State.retireAt_longs (s : State) (i : Iss) (lnd ends : Bool) (lv : Left) : (s.retireAt i lnd ends lv).longs = s.longs := by unfold State.retireAt; split <;> rfl
@[simp] theorem State.retireAt_hostOut (s : State) (i : Iss) (lnd ends : Bool) (lv : Left) : (s.retireAt i lnd ends lv).hostOut = s.hostOut := by unfold State.retireAt; split <;> rfl
@[simp] theorem State.retireAt_ports (s : State) (i : Iss) (lnd ends : Bool) (lv : Left) : (s.retireAt i lnd ends lv).ports = s.ports := by unfold State.retireAt; split <;> rfl
@[simp] theorem State.retireAt_evSeq (s : State) (i : Iss) (lnd ends : Bool) (lv : Left) : (s.retireAt i lnd ends lv).evSeq = s.evSeq := by unfold State.retireAt; split <;> rfl
@[simp] theorem State.retireAt_time (s : State) (i : Iss) (lnd ends : Bool) (lv : Left) : (s.retireAt i lnd ends lv).time = s.time := by unfold State.retireAt; split <;> rfl
@[simp] theorem State.retireAt_ready (s : State) (i : Iss) (lnd ends : Bool) (lv : Left) : (s.retireAt i lnd ends lv).ready = s.ready := by unfold State.retireAt; split <;> rfl
@[simp] theorem State.retireAt_recov (s : State) (i : Iss) (lnd ends : Bool) (lv : Left) : (s.retireAt i lnd ends lv).recov = s.recov := by unfold State.retireAt; split <;> rfl
@[simp] theorem State.retireAt_quar (s : State) (i : Iss) (lnd ends : Bool) (lv : Left) : (s.retireAt i lnd ends lv).quar = s.quar := by unfold State.retireAt; split <;> rfl
@[simp] theorem State.retireAt_firmware (s : State) (i : Iss) (lnd ends : Bool) (lv : Left) : (s.retireAt i lnd ends lv).firmware = s.firmware := by unfold State.retireAt; split <;> rfl
@[simp] theorem State.retireAt_kemKey (s : State) (i : Iss) (lnd ends : Bool) (lv : Left) : (s.retireAt i lnd ends lv).kemKey = s.kemKey := by unfold State.retireAt; split <;> rfl
@[simp] theorem State.retireAt_admitted (s : State) (i : Iss) (lnd ends : Bool) (lv : Left) : (s.retireAt i lnd ends lv).admitted = s.admitted := by unfold State.retireAt; split <;> rfl
@[simp] theorem State.retireAt_gangWaits (s : State) (i : Iss) (lnd ends : Bool) (lv : Left) : (s.retireAt i lnd ends lv).gangWaits = s.gangWaits := by unfold State.retireAt; split <;> rfl
@[simp] theorem State.retireAt_comms (s : State) (i : Iss) (lnd ends : Bool) (lv : Left) : (s.retireAt i lnd ends lv).comms = s.comms := by unfold State.retireAt; split <;> rfl
@[simp] theorem State.retireAt_buffers (s : State) (i : Iss) (lnd ends : Bool) (lv : Left) : (s.retireAt i lnd ends lv).buffers = s.buffers := by unfold State.retireAt; split <;> rfl
@[simp] theorem State.retireAt_views (s : State) (i : Iss) (lnd ends : Bool) (lv : Left) : (s.retireAt i lnd ends lv).views = s.views := by unfold State.retireAt; split <;> rfl
@[simp] theorem State.retireAt_galOps (s : State) (i : Iss) (lnd ends : Bool) (lv : Left) : (s.retireAt i lnd ends lv).galOps = s.galOps := by unfold State.retireAt; split <;> rfl
@[simp] theorem State.retireAt_ahead (s : State) (i : Iss) (lnd ends : Bool) (lv : Left) : (s.retireAt i lnd ends lv).ahead = s.ahead := by unfold State.retireAt; split <;> rfl
@[simp] theorem State.retireAt_netOut (s : State) (i : Iss) (lnd ends : Bool) (lv : Left) : (s.retireAt i lnd ends lv).netOut = s.netOut := by unfold State.retireAt; split <;> rfl
@[simp] theorem State.retireAt_galPorts (s : State) (i : Iss) (lnd ends : Bool) (lv : Left) : (s.retireAt i lnd ends lv).galPorts = s.galPorts := by unfold State.retireAt; split <;> rfl
@[simp] theorem State.retireAt_member (s : State) (i : Iss) (lnd ends : Bool) (lv : Left) : (s.retireAt i lnd ends lv).member = s.member := by unfold State.retireAt; split <;> rfl
@[simp] theorem State.retireAt_joins (s : State) (i : Iss) (lnd ends : Bool) (lv : Left) : (s.retireAt i lnd ends lv).joins = s.joins := by unfold State.retireAt; split <;> rfl
@[simp] theorem State.retireAt_contA (s : State) (i : Iss) (lnd ends : Bool) (lv : Left) : (s.retireAt i lnd ends lv).contA = s.contA := by unfold State.retireAt; split <;> rfl
@[simp] theorem State.retireAt_contB (s : State) (i : Iss) (lnd ends : Bool) (lv : Left) : (s.retireAt i lnd ends lv).contB = s.contB := by unfold State.retireAt; split <;> rfl
@[simp] theorem State.retireAt_rowErrors (s : State) (i : Iss) (lnd ends : Bool) (lv : Left) : (s.retireAt i lnd ends lv).rowErrors = s.rowErrors := by unfold State.retireAt; split <;> rfl
@[simp] theorem State.retireAt_spoilt (s : State) (i : Iss) (lnd ends : Bool) (lv : Left) : (s.retireAt i lnd ends lv).spoilt = s.spoilt := by unfold State.retireAt; split <;> rfl
@[simp] theorem State.retireAt_spent (s : State) (i : Iss) (lnd ends : Bool) (lv : Left) : (s.retireAt i lnd ends lv).spent = s.spent := by unfold State.retireAt; split <;> rfl
@[simp] theorem State.retireAt_passes (s : State) (i : Iss) (lnd ends : Bool) (lv : Left) : (s.retireAt i lnd ends lv).passes = s.passes := by unfold State.retireAt; split <;> rfl
@[simp] theorem State.retireAt_strays (s : State) (i : Iss) (lnd ends : Bool) (lv : Left) : (s.retireAt i lnd ends lv).strays = s.strays := by unfold State.retireAt; split <;> rfl
@[simp] theorem State.retireAt_snap (s : State) (i : Iss) (lnd ends : Bool) (lv : Left) : (s.retireAt i lnd ends lv).snap = s.snap := by unfold State.retireAt; split <;> rfl

@[simp] theorem State.retire_agenda (s : State) (i : Iss) (len : Nat) (lnd : Bool) (lv : Left) : (s.retire i len lnd lv).agenda = s.agenda := by simp [State.retire]
@[simp] theorem State.retire_freeCtr (s : State) (i : Iss) (len : Nat) (lnd : Bool) (lv : Left) : (s.retire i len lnd lv).freeCtr = s.freeCtr := by simp [State.retire]
@[simp] theorem State.retire_nextId (s : State) (i : Iss) (len : Nat) (lnd : Bool) (lv : Left) : (s.retire i len lnd lv).nextId = s.nextId := by simp [State.retire]
@[simp] theorem State.retire_mem (s : State) (i : Iss) (len : Nat) (lnd : Bool) (lv : Left) : (s.retire i len lnd lv).mem = s.mem := by simp [State.retire]
@[simp] theorem State.retire_memPoison (s : State) (i : Iss) (len : Nat) (lnd : Bool) (lv : Left) : (s.retire i len lnd lv).memPoison = s.memPoison := by simp [State.retire]
@[simp] theorem State.retire_lineKeys (s : State) (i : Iss) (len : Nat) (lnd : Bool) (lv : Left) : (s.retire i len lnd lv).lineKeys = s.lineKeys := by simp [State.retire]
@[simp] theorem State.retire_l2 (s : State) (i : Iss) (len : Nat) (lnd : Bool) (lv : Left) : (s.retire i len lnd lv).l2 = s.l2 := by simp [State.retire]
@[simp] theorem State.retire_tlb (s : State) (i : Iss) (len : Nat) (lnd : Bool) (lv : Left) : (s.retire i len lnd lv).tlb = s.tlb := by simp [State.retire]
@[simp] theorem State.retire_walks (s : State) (i : Iss) (len : Nat) (lnd : Bool) (lv : Left) : (s.retire i len lnd lv).walks = s.walks := by simp [State.retire]
@[simp] theorem State.retire_cores (s : State) (i : Iss) (len : Nat) (lnd : Bool) (lv : Left) : (s.retire i len lnd lv).cores = s.cores := by simp [State.retire]
@[simp] theorem State.retire_wgs (s : State) (i : Iss) (len : Nat) (lnd : Bool) (lv : Left) : (s.retire i len lnd lv).wgs = s.wgs := by simp [State.retire]
@[simp] theorem State.retire_grids (s : State) (i : Iss) (len : Nat) (lnd : Bool) (lv : Left) : (s.retire i len lnd lv).grids = s.grids := by simp [State.retire]
@[simp] theorem State.retire_ctxs (s : State) (i : Iss) (len : Nat) (lnd : Bool) (lv : Left) : (s.retire i len lnd lv).ctxs = s.ctxs := by simp [State.retire]
@[simp] theorem State.retire_pending (s : State) (i : Iss) (len : Nat) (lnd : Bool) (lv : Left) : (s.retire i len lnd lv).pending = s.pending := by simp [State.retire]
@[simp] theorem State.retire_returns (s : State) (i : Iss) (len : Nat) (lnd : Bool) (lv : Left) : (s.retire i len lnd lv).returns = s.returns := by simp [State.retire]
@[simp] theorem State.retire_scoreboard (s : State) (i : Iss) (len : Nat) (lnd : Bool) (lv : Left) : (s.retire i len lnd lv).scoreboard = s.scoreboard := by simp [State.retire]
@[simp] theorem State.retire_records (s : State) (i : Iss) (len : Nat) (lnd : Bool) (lv : Left) : (s.retire i len lnd lv).records = s.records := by simp [State.retire]
@[simp] theorem State.retire_chunks (s : State) (i : Iss) (len : Nat) (lnd : Bool) (lv : Left) : (s.retire i len lnd lv).chunks = s.chunks := by simp [State.retire]
@[simp] theorem State.retire_turns (s : State) (i : Iss) (len : Nat) (lnd : Bool) (lv : Left) : (s.retire i len lnd lv).turns = s.turns := by simp [State.retire]
@[simp] theorem State.retire_storeGroups (s : State) (i : Iss) (len : Nat) (lnd : Bool) (lv : Left) : (s.retire i len lnd lv).storeGroups = s.storeGroups := by simp [State.retire]
@[simp] theorem State.retire_images (s : State) (i : Iss) (len : Nat) (lnd : Bool) (lv : Left) : (s.retire i len lnd lv).images = s.images := by simp [State.retire]
@[simp] theorem State.retire_keys (s : State) (i : Iss) (len : Nat) (lnd : Bool) (lv : Left) : (s.retire i len lnd lv).keys = s.keys := by simp [State.retire]
@[simp] theorem State.retire_tableKey (s : State) (i : Iss) (len : Nat) (lnd : Bool) (lv : Left) : (s.retire i len lnd lv).tableKey = s.tableKey := by simp [State.retire]
@[simp] theorem State.retire_queues (s : State) (i : Iss) (len : Nat) (lnd : Bool) (lv : Left) : (s.retire i len lnd lv).queues = s.queues := by simp [State.retire]
@[simp] theorem State.retire_longs (s : State) (i : Iss) (len : Nat) (lnd : Bool) (lv : Left) : (s.retire i len lnd lv).longs = s.longs := by simp [State.retire]
@[simp] theorem State.retire_hostOut (s : State) (i : Iss) (len : Nat) (lnd : Bool) (lv : Left) : (s.retire i len lnd lv).hostOut = s.hostOut := by simp [State.retire]
@[simp] theorem State.retire_ports (s : State) (i : Iss) (len : Nat) (lnd : Bool) (lv : Left) : (s.retire i len lnd lv).ports = s.ports := by simp [State.retire]
@[simp] theorem State.retire_evSeq (s : State) (i : Iss) (len : Nat) (lnd : Bool) (lv : Left) : (s.retire i len lnd lv).evSeq = s.evSeq := by simp [State.retire]
@[simp] theorem State.retire_time (s : State) (i : Iss) (len : Nat) (lnd : Bool) (lv : Left) : (s.retire i len lnd lv).time = s.time := by simp [State.retire]
@[simp] theorem State.retire_ready (s : State) (i : Iss) (len : Nat) (lnd : Bool) (lv : Left) : (s.retire i len lnd lv).ready = s.ready := by simp [State.retire]
@[simp] theorem State.retire_recov (s : State) (i : Iss) (len : Nat) (lnd : Bool) (lv : Left) : (s.retire i len lnd lv).recov = s.recov := by simp [State.retire]
@[simp] theorem State.retire_quar (s : State) (i : Iss) (len : Nat) (lnd : Bool) (lv : Left) : (s.retire i len lnd lv).quar = s.quar := by simp [State.retire]
@[simp] theorem State.retire_firmware (s : State) (i : Iss) (len : Nat) (lnd : Bool) (lv : Left) : (s.retire i len lnd lv).firmware = s.firmware := by simp [State.retire]
@[simp] theorem State.retire_kemKey (s : State) (i : Iss) (len : Nat) (lnd : Bool) (lv : Left) : (s.retire i len lnd lv).kemKey = s.kemKey := by simp [State.retire]
@[simp] theorem State.retire_admitted (s : State) (i : Iss) (len : Nat) (lnd : Bool) (lv : Left) : (s.retire i len lnd lv).admitted = s.admitted := by simp [State.retire]
@[simp] theorem State.retire_gangWaits (s : State) (i : Iss) (len : Nat) (lnd : Bool) (lv : Left) : (s.retire i len lnd lv).gangWaits = s.gangWaits := by simp [State.retire]
@[simp] theorem State.retire_comms (s : State) (i : Iss) (len : Nat) (lnd : Bool) (lv : Left) : (s.retire i len lnd lv).comms = s.comms := by simp [State.retire]
@[simp] theorem State.retire_buffers (s : State) (i : Iss) (len : Nat) (lnd : Bool) (lv : Left) : (s.retire i len lnd lv).buffers = s.buffers := by simp [State.retire]
@[simp] theorem State.retire_views (s : State) (i : Iss) (len : Nat) (lnd : Bool) (lv : Left) : (s.retire i len lnd lv).views = s.views := by simp [State.retire]
@[simp] theorem State.retire_galOps (s : State) (i : Iss) (len : Nat) (lnd : Bool) (lv : Left) : (s.retire i len lnd lv).galOps = s.galOps := by simp [State.retire]
@[simp] theorem State.retire_ahead (s : State) (i : Iss) (len : Nat) (lnd : Bool) (lv : Left) : (s.retire i len lnd lv).ahead = s.ahead := by simp [State.retire]
@[simp] theorem State.retire_netOut (s : State) (i : Iss) (len : Nat) (lnd : Bool) (lv : Left) : (s.retire i len lnd lv).netOut = s.netOut := by simp [State.retire]
@[simp] theorem State.retire_galPorts (s : State) (i : Iss) (len : Nat) (lnd : Bool) (lv : Left) : (s.retire i len lnd lv).galPorts = s.galPorts := by simp [State.retire]
@[simp] theorem State.retire_member (s : State) (i : Iss) (len : Nat) (lnd : Bool) (lv : Left) : (s.retire i len lnd lv).member = s.member := by simp [State.retire]
@[simp] theorem State.retire_joins (s : State) (i : Iss) (len : Nat) (lnd : Bool) (lv : Left) : (s.retire i len lnd lv).joins = s.joins := by simp [State.retire]
@[simp] theorem State.retire_contA (s : State) (i : Iss) (len : Nat) (lnd : Bool) (lv : Left) : (s.retire i len lnd lv).contA = s.contA := by simp [State.retire]
@[simp] theorem State.retire_contB (s : State) (i : Iss) (len : Nat) (lnd : Bool) (lv : Left) : (s.retire i len lnd lv).contB = s.contB := by simp [State.retire]
@[simp] theorem State.retire_rowErrors (s : State) (i : Iss) (len : Nat) (lnd : Bool) (lv : Left) : (s.retire i len lnd lv).rowErrors = s.rowErrors := by simp [State.retire]
@[simp] theorem State.retire_spoilt (s : State) (i : Iss) (len : Nat) (lnd : Bool) (lv : Left) : (s.retire i len lnd lv).spoilt = s.spoilt := by simp [State.retire]
@[simp] theorem State.retire_spent (s : State) (i : Iss) (len : Nat) (lnd : Bool) (lv : Left) : (s.retire i len lnd lv).spent = s.spent := by simp [State.retire]
@[simp] theorem State.retire_passes (s : State) (i : Iss) (len : Nat) (lnd : Bool) (lv : Left) : (s.retire i len lnd lv).passes = s.passes := by simp [State.retire]
@[simp] theorem State.retire_strays (s : State) (i : Iss) (len : Nat) (lnd : Bool) (lv : Left) : (s.retire i len lnd lv).strays = s.strays := by simp [State.retire]
@[simp] theorem State.retire_snap (s : State) (i : Iss) (len : Nat) (lnd : Bool) (lv : Left) : (s.retire i len lnd lv).snap = s.snap := by simp [State.retire]

@[simp] theorem State.block_agenda (s : State) (i : Iss) (c : Wait) : (s.block i c).agenda = s.agenda := rfl
@[simp] theorem State.block_freeCtr (s : State) (i : Iss) (c : Wait) : (s.block i c).freeCtr = s.freeCtr := rfl
@[simp] theorem State.block_nextId (s : State) (i : Iss) (c : Wait) : (s.block i c).nextId = s.nextId := rfl
@[simp] theorem State.block_mem (s : State) (i : Iss) (c : Wait) : (s.block i c).mem = s.mem := rfl
@[simp] theorem State.block_memPoison (s : State) (i : Iss) (c : Wait) : (s.block i c).memPoison = s.memPoison := rfl
@[simp] theorem State.block_lineKeys (s : State) (i : Iss) (c : Wait) : (s.block i c).lineKeys = s.lineKeys := rfl
@[simp] theorem State.block_l2 (s : State) (i : Iss) (c : Wait) : (s.block i c).l2 = s.l2 := rfl
@[simp] theorem State.block_tlb (s : State) (i : Iss) (c : Wait) : (s.block i c).tlb = s.tlb := rfl
@[simp] theorem State.block_walks (s : State) (i : Iss) (c : Wait) : (s.block i c).walks = s.walks := rfl
@[simp] theorem State.block_cores (s : State) (i : Iss) (c : Wait) : (s.block i c).cores = s.cores := rfl
@[simp] theorem State.block_wgs (s : State) (i : Iss) (c : Wait) : (s.block i c).wgs = s.wgs := rfl
@[simp] theorem State.block_grids (s : State) (i : Iss) (c : Wait) : (s.block i c).grids = s.grids := rfl
@[simp] theorem State.block_ctxs (s : State) (i : Iss) (c : Wait) : (s.block i c).ctxs = s.ctxs := rfl
@[simp] theorem State.block_pending (s : State) (i : Iss) (c : Wait) : (s.block i c).pending = s.pending := rfl
@[simp] theorem State.block_returns (s : State) (i : Iss) (c : Wait) : (s.block i c).returns = s.returns := rfl
@[simp] theorem State.block_scoreboard (s : State) (i : Iss) (c : Wait) : (s.block i c).scoreboard = s.scoreboard := rfl
@[simp] theorem State.block_records (s : State) (i : Iss) (c : Wait) : (s.block i c).records = s.records := rfl
@[simp] theorem State.block_chunks (s : State) (i : Iss) (c : Wait) : (s.block i c).chunks = s.chunks := rfl
@[simp] theorem State.block_turns (s : State) (i : Iss) (c : Wait) : (s.block i c).turns = s.turns := rfl
@[simp] theorem State.block_storeGroups (s : State) (i : Iss) (c : Wait) : (s.block i c).storeGroups = s.storeGroups := rfl
@[simp] theorem State.block_images (s : State) (i : Iss) (c : Wait) : (s.block i c).images = s.images := rfl
@[simp] theorem State.block_keys (s : State) (i : Iss) (c : Wait) : (s.block i c).keys = s.keys := rfl
@[simp] theorem State.block_tableKey (s : State) (i : Iss) (c : Wait) : (s.block i c).tableKey = s.tableKey := rfl
@[simp] theorem State.block_queues (s : State) (i : Iss) (c : Wait) : (s.block i c).queues = s.queues := rfl
@[simp] theorem State.block_longs (s : State) (i : Iss) (c : Wait) : (s.block i c).longs = s.longs := rfl
@[simp] theorem State.block_hostOut (s : State) (i : Iss) (c : Wait) : (s.block i c).hostOut = s.hostOut := rfl
@[simp] theorem State.block_ports (s : State) (i : Iss) (c : Wait) : (s.block i c).ports = s.ports := rfl
@[simp] theorem State.block_evSeq (s : State) (i : Iss) (c : Wait) : (s.block i c).evSeq = s.evSeq := rfl
@[simp] theorem State.block_time (s : State) (i : Iss) (c : Wait) : (s.block i c).time = s.time := rfl
@[simp] theorem State.block_ready (s : State) (i : Iss) (c : Wait) : (s.block i c).ready = s.ready := rfl
@[simp] theorem State.block_recov (s : State) (i : Iss) (c : Wait) : (s.block i c).recov = s.recov := rfl
@[simp] theorem State.block_quar (s : State) (i : Iss) (c : Wait) : (s.block i c).quar = s.quar := rfl
@[simp] theorem State.block_firmware (s : State) (i : Iss) (c : Wait) : (s.block i c).firmware = s.firmware := rfl
@[simp] theorem State.block_kemKey (s : State) (i : Iss) (c : Wait) : (s.block i c).kemKey = s.kemKey := rfl
@[simp] theorem State.block_admitted (s : State) (i : Iss) (c : Wait) : (s.block i c).admitted = s.admitted := rfl
@[simp] theorem State.block_gangWaits (s : State) (i : Iss) (c : Wait) : (s.block i c).gangWaits = s.gangWaits := rfl
@[simp] theorem State.block_comms (s : State) (i : Iss) (c : Wait) : (s.block i c).comms = s.comms := rfl
@[simp] theorem State.block_buffers (s : State) (i : Iss) (c : Wait) : (s.block i c).buffers = s.buffers := rfl
@[simp] theorem State.block_views (s : State) (i : Iss) (c : Wait) : (s.block i c).views = s.views := rfl
@[simp] theorem State.block_galOps (s : State) (i : Iss) (c : Wait) : (s.block i c).galOps = s.galOps := rfl
@[simp] theorem State.block_ahead (s : State) (i : Iss) (c : Wait) : (s.block i c).ahead = s.ahead := rfl
@[simp] theorem State.block_netOut (s : State) (i : Iss) (c : Wait) : (s.block i c).netOut = s.netOut := rfl
@[simp] theorem State.block_galPorts (s : State) (i : Iss) (c : Wait) : (s.block i c).galPorts = s.galPorts := rfl
@[simp] theorem State.block_member (s : State) (i : Iss) (c : Wait) : (s.block i c).member = s.member := rfl
@[simp] theorem State.block_joins (s : State) (i : Iss) (c : Wait) : (s.block i c).joins = s.joins := rfl
@[simp] theorem State.block_contA (s : State) (i : Iss) (c : Wait) : (s.block i c).contA = s.contA := rfl
@[simp] theorem State.block_contB (s : State) (i : Iss) (c : Wait) : (s.block i c).contB = s.contB := rfl
@[simp] theorem State.block_rowErrors (s : State) (i : Iss) (c : Wait) : (s.block i c).rowErrors = s.rowErrors := rfl
@[simp] theorem State.block_spoilt (s : State) (i : Iss) (c : Wait) : (s.block i c).spoilt = s.spoilt := rfl
@[simp] theorem State.block_spent (s : State) (i : Iss) (c : Wait) : (s.block i c).spent = s.spent := rfl
@[simp] theorem State.block_passes (s : State) (i : Iss) (c : Wait) : (s.block i c).passes = s.passes := rfl
@[simp] theorem State.block_strays (s : State) (i : Iss) (c : Wait) : (s.block i c).strays = s.strays := rfl
@[simp] theorem State.block_snap (s : State) (i : Iss) (c : Wait) : (s.block i c).snap = s.snap := rfl

end Sys2Proof.Machine
end

