-- ==== Sys2Proof/Laws/Operate.lean ====
section
/-! SUPPORT. The shared course of register instructions: what it can answer, and what it answers where nothing stops it. -/

namespace Sys2Proof.Machine

variable {s : State} {sh : Shape} {f : XForm} {extra : Opnd → Option Cause} {o : Opnd} {k : Opnd → Out}

/-- Where an instruction is ready, its own effect follows. -/
theorem operate_ready (h : Ready s sh f extra o) : operate s sh f extra k = k o := by
  obtain ⟨hi, hf, hs, hc, ho, hq, hp, l, hl⟩ := h
  obtain ⟨i, f', sh'⟩ := o
  dsimp only at hf hs hi
  subst hf hs
  simp [operate, issue, hi, hc, ho, hq, hp, hl]

/-- All that the shared course can answer. -/
theorem operate_cases :
    (s.issuing = none ∧ operate s sh f extra k = .refused .noFlight) ∨
    ∃ i, s.issuing = some i ∧
      ((∃ c, Opnd.check ⟨i, f, sh⟩ (extra ⟨i, f, sh⟩) = some c ∧ operate s sh f extra k = raise s i c) ∨
       operate s sh f extra k = .next s ∨
       (∃ c va, operate s sh f extra k = holdElement s i c va) ∨
       operate s sh f extra k = raise s i i.wg.serCause ∨
       (∃ pa, operate s sh f extra k = .fault (.noSuchMemory pa)) ∨
       (Ready s sh f extra ⟨i, f, sh⟩ ∧ operate s sh f extra k = k ⟨i, f, sh⟩)) := by
  cases hi : s.issuing with
  | none => exact .inl ⟨rfl, by simp [operate, issue, hi]⟩
  | some i =>
    refine .inr ⟨i, rfl, ?_⟩
    simp only [operate, issue, hi]
    cases hc : Opnd.check ⟨i, f, sh⟩ (extra ⟨i, f, sh⟩) with
    | some c => exact .inl ⟨c, rfl, rfl⟩
    | none =>
      by_cases ho : Opnd.stalls ⟨i, f, sh⟩ s = true
      · exact .inr (.inl (by simp [ho]))
      simp only [Bool.not_eq_true] at ho
      cases hq : Opnd.popFault ⟨i, f, sh⟩ with
      | some q => exact .inr (.inr (.inl ⟨q.1, q.2, by simp [ho]⟩))
      | none =>
        by_cases hp : Opnd.poisoned ⟨i, f, sh⟩ = true
        · exact .inr (.inr (.inr (.inl (by simp [ho, hp]))))
        simp only [Bool.not_eq_true] at hp
        cases hl : Opnd.pushTrans ⟨i, f, sh⟩ s with
        | fail c va => exact .inr (.inr (.inl ⟨c, va, by simp [ho, hp]⟩))
        | noMem pa => exact .inr (.inr (.inr (.inr (.inl ⟨pa, by simp [ho, hp]⟩))))
        | ok l => exact .inr (.inr (.inr (.inr (.inr ⟨⟨hi, rfl, rfl, hc, ho, hq, hp, l, hl⟩, by simp [ho, hp]⟩))))

/-- Flags that are all zero change nothing. -/
theorem Warp.addFlags_zero (w : Warp) : w.addFlags 0 = w := by simp [Warp.addFlags]

theorem orFlags_zero (ls : List Nat) : orFlags (ls.map fun _ => (0 : Flags5)) = 0 := by
  have h : ∀ (l : List Nat) (a : Flags5), (l.map fun _ => (0 : Flags5)).foldl (· ||| ·) a = a := by
    intro l
    induction l with
    | nil => intro a; rfl
    | cons x l ih => intro a; simpa using ih a
  exact h ls 0

/-- What a lane-by-lane instruction with flags leaves. -/
theorem aluOp_ready {len : Nat} {fn : Opnd → Nat → DWord × Flags5} (h : Ready s sh f noExtra o) :
    aluOp s len sh f fn =
      .next (o.after s len (some fun l => (fn o l).1) (orFlags (o.lanes.map fun l => (fn o l).2))) := by
  rw [aluOp, operate_ready h]
  simp [Opnd.complete, Opnd.after, Function.comp_def]

/-- What an integer instruction leaves. -/
theorem intOp_ready {len : Nat} {fn : Opnd → Nat → DWord} (h : Ready s sh f noExtra o) :
    intOp s len sh f fn = .next (o.after s len (some (fn o)) 0) := by
  rw [intOp, aluOp_ready h, orFlags_zero]

/-- What an instruction that writes one value for the warp leaves. -/
theorem warpVal_ready {len : Nat} {fn : Opnd → DWord × Flags5} (h : Ready s sh f extra o) :
    warpVal s len sh f extra fn = .next (o.after s len (some fun _ => (fn o).1) (fn o).2) := by
  rw [warpVal, operate_ready h]
  simp [Opnd.complete, Opnd.after]

end Sys2Proof.Machine
end

