-- ==== Sys2Proof/Laws/PerInstr.lean ====
section
/-! SUPPORT. Statements made for each instruction: its words decode to it, for every operand that the encoding admits. -/

namespace Sys2Proof.Laws.RoundTrip

/-- The words of an instruction that has some decode to it, alone or after a PFX, wherever it is well-formed (R25 to R51); a PFX
is read with the instruction it precedes. -/
def Statement (i : Instr) : Prop :=
  ∀ (env : DecEnv) (p : Option PForm), i.wf env p = true → i.form.isSome = true →
    decodeUnder env (p.map fun q => (q, true, false)) (encode i) = .ok i (4 * (encode i).length)

/-- An instruction whose form names it. -/
theorem of_form {i : Instr} (fm : Form) (hf : i.form = some fm) (he : encode i = fm.encode) (hk : knownForm fm = true)
    (hi : fm.instr = some i) : Statement i := fun _ _ hw _ => decodeUnder_of_wf he hf hk hi hw

/-- An event has no words. -/
theorem of_event {i : Instr} (h : i.form = none) : Statement i := fun _ _ _ hs => by simp [h] at hs

theorem nop (lnd : Bool) : Statement (.nop lnd) := of_form _ rfl rfl rfl rfl
theorem mov (f : RForm) : Statement (.mov f) := of_form _ rfl rfl rfl rfl
theorem movLiteral (f : LForm) : Statement (.movLiteral f) := of_form _ rfl rfl rfl rfl
theorem movi (f : IForm) : Statement (.movi f) := of_form _ rfl rfl rfl rfl
theorem iadd (f : RForm) : Statement (.iadd f) := of_form _ rfl rfl rfl rfl
theorem iaddi (f : IForm) : Statement (.iaddi f) := of_form _ rfl rfl rfl rfl
theorem isub (f : RForm) : Statement (.isub f) := of_form _ rfl rfl rfl rfl
theorem imul (f : RForm) : Statement (.imul f) := of_form _ rfl rfl rfl rfl
theorem imulhs (f : RForm) : Statement (.imulhs f) := of_form _ rfl rfl rfl rfl
theorem imulhn (f : RForm) : Statement (.imulhn f) := of_form _ rfl rfl rfl rfl
theorem imad (f : RForm) : Statement (.imad f) := of_form _ rfl rfl rfl rfl
theorem iand (f : RForm) : Statement (.iand f) := of_form _ rfl rfl rfl rfl
theorem ior (f : RForm) : Statement (.ior f) := of_form _ rfl rfl rfl rfl
theorem ixor (f : RForm) : Statement (.ixor f) := of_form _ rfl rfl rfl rfl
theorem iandn (f : RForm) : Statement (.iandn f) := of_form _ rfl rfl rfl rfl
theorem ishl (f : RForm) : Statement (.ishl f) := of_form _ rfl rfl rfl rfl
theorem ishr (f : RForm) : Statement (.ishr f) := of_form _ rfl rfl rfl rfl
theorem isar (f : RForm) : Statement (.isar f) := of_form _ rfl rfl rfl rfl
theorem ishi (f : IForm) : Statement (.ishi f) := of_form _ rfl rfl rfl rfl
theorem imins (f : RForm) : Statement (.imins f) := of_form _ rfl rfl rfl rfl
theorem imaxs (f : RForm) : Statement (.imaxs f) := of_form _ rfl rfl rfl rfl
theorem iminn (f : RForm) : Statement (.iminn f) := of_form _ rfl rfl rfl rfl
theorem imaxn (f : RForm) : Statement (.imaxn f) := of_form _ rfl rfl rfl rfl
theorem isel (f : RForm) : Statement (.isel f) := of_form _ rfl rfl rfl rfl
theorem fadd (f : RForm) : Statement (.fadd f) := of_form _ rfl rfl rfl rfl
theorem fsub (f : RForm) : Statement (.fsub f) := of_form _ rfl rfl rfl rfl
theorem fmul (f : RForm) : Statement (.fmul f) := of_form _ rfl rfl rfl rfl
theorem ffma (f : RForm) : Statement (.ffma f) := of_form _ rfl rfl rfl rfl
theorem fmin (f : RForm) : Statement (.fmin f) := of_form _ rfl rfl rfl rfl
theorem fmax (f : RForm) : Statement (.fmax f) := of_form _ rfl rfl rfl rfl
theorem ldg (f : IForm) : Statement (.ldg f) := of_form _ rfl rfl rfl rfl
theorem stg (f : IForm) : Statement (.stg f) := of_form _ rfl rfl rfl rfl
theorem lds (f : IForm) : Statement (.lds f) := of_form _ rfl rfl rfl rfl
theorem sts (f : IForm) : Statement (.sts f) := of_form _ rfl rfl rfl rfl
theorem bra (lnd : Bool) (m : BitVec 3) (imm : BitVec 8) : Statement (.bra lnd m imm) := of_form _ rfl rfl rfl (by simp [Form.instr, iInstr, maskField_low])
theorem braLong (lnd : Bool) (m : BitVec 3) (target : BitVec 55) : Statement (.braLong lnd m target) := of_form _ rfl rfl rfl (by simp [Form.instr, iInstr, maskField_low, targetLit_words])
theorem brn (lnd : Bool) (m : BitVec 3) (imm : BitVec 8) : Statement (.brn lnd m imm) := of_form _ rfl rfl rfl (by simp [Form.instr, iInstr, maskField_low])
theorem brnLong (lnd : Bool) (m : BitVec 3) (target : BitVec 55) : Statement (.brnLong lnd m target) := of_form _ rfl rfl rfl (by simp [Form.instr, iInstr, maskField_low, targetLit_words])
theorem call (lnd : Bool) (d : BitVec 7) (imm : BitVec 8) : Statement (.call lnd d imm) := of_form _ rfl rfl rfl rfl
theorem callLong (lnd : Bool) (d : BitVec 7) (target : BitVec 55) : Statement (.callLong lnd d target) := of_form _ rfl rfl rfl (by simp [Form.instr, iInstr, targetLit_words])
theorem ret (lnd : Bool) (a : BitVec 7) : Statement (.ret lnd a) := of_form _ rfl rfl rfl rfl
theorem exit (lnd : Bool) : Statement (.exit lnd) := of_form _ rfl rfl rfl rfl
theorem rdid (f : IForm) : Statement (.rdid f) := of_form _ rfl rfl rfl rfl
theorem tfence (lnd : Bool) : Statement (.tfence lnd) := of_form _ rfl rfl rfl rfl
theorem wsync (lnd : Bool) : Statement (.wsync lnd) := of_form _ rfl rfl rfl rfl
theorem pfx (p : PForm) : Statement (.pfx p) := of_event rfl
theorem iadd64 (f : XForm) : Statement (.iadd64 f) := of_form _ rfl rfl rfl rfl
theorem isub64 (f : XForm) : Statement (.isub64 f) := of_form _ rfl rfl rfl rfl
theorem imul64 (f : XForm) : Statement (.imul64 f) := of_form _ rfl rfl rfl rfl
theorem imadw (f : XForm) : Statement (.imadw f) := of_form _ rfl rfl rfl rfl
theorem iaddc (f : XForm) : Statement (.iaddc f) := of_form _ rfl rfl rfl rfl
theorem idivs (f : XForm) : Statement (.idivs f) := of_form _ rfl rfl rfl rfl
theorem idivn (f : XForm) : Statement (.idivn f) := of_form _ rfl rfl rfl rfl
theorem irems (f : XForm) : Statement (.irems f) := of_form _ rfl rfl rfl rfl
theorem iremn (f : XForm) : Statement (.iremn f) := of_form _ rfl rfl rfl rfl
theorem iabs (f : XForm) : Statement (.iabs f) := of_form _ rfl rfl rfl rfl
theorem ineg (f : XForm) : Statement (.ineg f) := of_form _ rfl rfl rfl rfl
theorem iclz (f : XForm) : Statement (.iclz f) := of_form _ rfl rfl rfl rfl
theorem ictz (f : XForm) : Statement (.ictz f) := of_form _ rfl rfl rfl rfl
theorem ipopc (f : XForm) : Statement (.ipopc f) := of_form _ rfl rfl rfl rfl
theorem ibrev (f : XForm) : Statement (.ibrev f) := of_form _ rfl rfl rfl rfl
theorem ibfx (f : XForm) : Statement (.ibfx f) := of_form _ rfl rfl rfl rfl
theorem ibfi (f : XForm) : Statement (.ibfi f) := of_form _ rfl rfl rfl rfl
theorem ifshl (f : XForm) : Statement (.ifshl f) := of_form _ rfl rfl rfl rfl
theorem iperm (f : XForm) : Statement (.iperm f) := of_form _ rfl rfl rfl rfl
theorem iaddsat (f : XForm) : Statement (.iaddsat f) := of_form _ rfl rfl rfl rfl
theorem isubsat (f : XForm) : Statement (.isubsat f) := of_form _ rfl rfl rfl rfl
theorem idot4 (f : XForm) : Statement (.idot4 f) := of_form _ rfl rfl rfl rfl
theorem ishl64 (f : XForm) : Statement (.ishl64 f) := of_form _ rfl rfl rfl rfl
theorem ishr64 (f : XForm) : Statement (.ishr64 f) := of_form _ rfl rfl rfl rfl
theorem isar64 (f : XForm) : Statement (.isar64 f) := of_form _ rfl rfl rfl rfl
theorem isel64 (f : XForm) : Statement (.isel64 f) := of_form _ rfl rfl rfl rfl
theorem faddExt (f : XForm) : Statement (.faddExt f) := of_form _ rfl rfl rfl rfl
theorem fsubExt (f : XForm) : Statement (.fsubExt f) := of_form _ rfl rfl rfl rfl
theorem fmulExt (f : XForm) : Statement (.fmulExt f) := of_form _ rfl rfl rfl rfl
theorem ffma4 (f : XForm) : Statement (.ffma4 f) := of_form _ rfl rfl rfl rfl
theorem fminExt (f : XForm) : Statement (.fminExt f) := of_form _ rfl rfl rfl rfl
theorem fmaxExt (f : XForm) : Statement (.fmaxExt f) := of_form _ rfl rfl rfl rfl
theorem fminm (f : XForm) : Statement (.fminm f) := of_form _ rfl rfl rfl rfl
theorem fmaxm (f : XForm) : Statement (.fmaxm f) := of_form _ rfl rfl rfl rfl
theorem fabs (f : XForm) : Statement (.fabs f) := of_form _ rfl rfl rfl rfl
theorem fneg (f : XForm) : Statement (.fneg f) := of_form _ rfl rfl rfl rfl
theorem fcopys (f : XForm) : Statement (.fcopys f) := of_form _ rfl rfl rfl rfl
theorem fclass (f : XForm) : Statement (.fclass f) := of_form _ rfl rfl rfl rfl
theorem fscale (f : XForm) : Statement (.fscale f) := of_form _ rfl rfl rfl rfl
theorem frint (f : XForm) : Statement (.frint f) := of_form _ rfl rfl rfl rfl
theorem ffrac (f : XForm) : Statement (.ffrac f) := of_form _ rfl rfl rfl rfl
theorem fdiv (f : XForm) : Statement (.fdiv f) := of_form _ rfl rfl rfl rfl
theorem fsqrt (f : XForm) : Statement (.fsqrt f) := of_form _ rfl rfl rfl rfl
theorem frcpa (f : XForm) : Statement (.frcpa f) := of_form _ rfl rfl rfl rfl
theorem frsqa (f : XForm) : Statement (.frsqa f) := of_form _ rfl rfl rfl rfl
theorem fexp2a (f : XForm) : Statement (.fexp2a f) := of_form _ rfl rfl rfl rfl
theorem flog2a (f : XForm) : Statement (.flog2a f) := of_form _ rfl rfl rfl rfl
theorem fsina (f : XForm) : Statement (.fsina f) := of_form _ rfl rfl rfl rfl
theorem fcosa (f : XForm) : Statement (.fcosa f) := of_form _ rfl rfl rfl rfl
theorem ftanha (f : XForm) : Statement (.ftanha f) := of_form _ rfl rfl rfl rfl
theorem fsigma (f : XForm) : Statement (.fsigma f) := of_form _ rfl rfl rfl rfl
theorem fdot2 (f : XForm) : Statement (.fdot2 f) := of_form _ rfl rfl rfl rfl
theorem expr (f : XForm) : Statement (.expr f) := of_form _ rfl rfl rfl rfl
theorem cvt (f : XForm) : Statement (.cvt f) := of_form _ rfl rfl rfl rfl
theorem cvtfi (f : XForm) : Statement (.cvtfi f) := of_form _ rfl rfl rfl rfl
theorem cvtif (f : XForm) : Statement (.cvtif f) := of_form _ rfl rfl rfl rfl
theorem pack (f : XForm) : Statement (.pack f) := of_form _ rfl rfl rfl rfl
theorem unpack (f : XForm) : Statement (.unpack f) := of_form _ rfl rfl rfl rfl
theorem rand (f : XForm) : Statement (.rand f) := of_form _ rfl rfl rfl rfl
theorem icmp (f : XForm) : Statement (.icmp f) := of_form _ rfl rfl rfl rfl
theorem fcmp (f : XForm) : Statement (.fcmp f) := of_form _ rfl rfl rfl rfl
theorem mand (f : XForm) : Statement (.mand f) := of_form _ rfl rfl rfl rfl
theorem mor (f : XForm) : Statement (.mor f) := of_form _ rfl rfl rfl rfl
theorem mxor (f : XForm) : Statement (.mxor f) := of_form _ rfl rfl rfl rfl
theorem mandn (f : XForm) : Statement (.mandn f) := of_form _ rfl rfl rfl rfl
theorem mtor (f : XForm) : Statement (.mtor f) := of_form _ rfl rfl rfl rfl
theorem rtom (f : XForm) : Statement (.rtom f) := of_form _ rfl rfl rfl rfl
theorem mpopc (f : XForm) : Statement (.mpopc f) := of_form _ rfl rfl rfl rfl
theorem selm (f : XForm) : Statement (.selm f) := of_form _ rfl rfl rfl rfl
theorem shfl (f : XForm) : Statement (.shfl f) := of_form _ rfl rfl rfl rfl
theorem shflup (f : XForm) : Statement (.shflup f) := of_form _ rfl rfl rfl rfl
theorem shfldn (f : XForm) : Statement (.shfldn f) := of_form _ rfl rfl rfl rfl
theorem shflx (f : XForm) : Statement (.shflx f) := of_form _ rfl rfl rfl rfl
theorem bcast (f : XForm) : Statement (.bcast f) := of_form _ rfl rfl rfl rfl
theorem vote (f : XForm) : Statement (.vote f) := of_form _ rfl rfl rfl rfl
theorem ballot (f : XForm) : Statement (.ballot f) := of_form _ rfl rfl rfl rfl
theorem redux (f : XForm) : Statement (.redux f) := of_form _ rfl rfl rfl rfl
theorem scan (f : XForm) : Statement (.scan f) := of_form _ rfl rfl rfl rfl
theorem matchLanes (f : XForm) : Statement (.matchLanes f) := of_form _ rfl rfl rfl rfl
theorem xset (f : XForm) : Statement (.xset f) := of_form _ rfl rfl rfl rfl
theorem xwin (f : XForm) : Statement (.xwin f) := of_form _ rfl rfl rfl rfl
theorem ldgw (f : XForm) : Statement (.ldgw f) := of_form _ rfl rfl rfl rfl
theorem stgw (f : XForm) : Statement (.stgw f) := of_form _ rfl rfl rfl rfl
theorem ldsw (f : XForm) : Statement (.ldsw f) := of_form _ rfl rfl rfl rfl
theorem stsw (f : XForm) : Statement (.stsw f) := of_form _ rfl rfl rfl rfl
theorem ldl (f : XForm) : Statement (.ldl f) := of_form _ rfl rfl rfl rfl
theorem stl (f : XForm) : Statement (.stl f) := of_form _ rfl rfl rfl rfl
theorem ldk (f : XForm) : Statement (.ldk f) := of_form _ rfl rfl rfl rfl
theorem atomg (f : XForm) : Statement (.atomg f) := of_form _ rfl rfl rfl rfl
theorem casg (f : XForm) : Statement (.casg f) := of_form _ rfl rfl rfl rfl
theorem fatomg (f : XForm) : Statement (.fatomg f) := of_form _ rfl rfl rfl rfl
theorem atoms (f : XForm) : Statement (.atoms f) := of_form _ rfl rfl rfl rfl
theorem cass (f : XForm) : Statement (.cass f) := of_form _ rfl rfl rfl rfl
theorem nma (f : XForm) : Statement (.nma f) := of_form _ rfl rfl rfl rfl
theorem nmdrain (f : XForm) : Statement (.nmdrain f) := of_form _ rfl rfl rfl rfl
theorem qcfg (f : XForm) : Statement (.qcfg f) := of_form _ rfl rfl rfl rfl
theorem qdrain (f : XForm) : Statement (.qdrain f) := of_form _ rfl rfl rfl rfl
theorem pref (f : XForm) : Statement (.pref f) := of_form _ rfl rfl rfl rfl
theorem lockl (f : XForm) : Statement (.lockl f) := of_form _ rfl rfl rfl rfl
theorem unlockl (f : XForm) : Statement (.unlockl f) := of_form _ rfl rfl rfl rfl
theorem flushl (f : XForm) : Statement (.flushl f) := of_form _ rfl rfl rfl rfl
theorem watch (f : XForm) : Statement (.watch f) := of_form _ rfl rfl rfl rfl
theorem park (f : XForm) : Statement (.park f) := of_form _ rfl rfl rfl rfl
theorem kick (f : XForm) : Statement (.kick f) := of_form _ rfl rfl rfl rfl
theorem inflt (f : XForm) : Statement (.inflt f) := of_form _ rfl rfl rfl rfl
theorem drain (f : XForm) : Statement (.drain f) := of_form _ rfl rfl rfl rfl
theorem binit (f : XForm) : Statement (.binit f) := of_form _ rfl rfl rfl rfl
theorem barr (f : XForm) : Statement (.barr f) := of_form _ rfl rfl rfl rfl
theorem barrd (f : XForm) : Statement (.barrd f) := of_form _ rfl rfl rfl rfl
theorem bexp (f : XForm) : Statement (.bexp f) := of_form _ rfl rfl rfl rfl
theorem bwait (f : XForm) : Statement (.bwait f) := of_form _ rfl rfl rfl rfl
theorem btest (f : XForm) : Statement (.btest f) := of_form _ rfl rfl rfl rfl
theorem binv (f : XForm) : Statement (.binv f) := of_form _ rfl rfl rfl rfl
theorem tktake (f : XForm) : Statement (.tktake f) := of_form _ rfl rfl rfl rfl
theorem tkpass (f : XForm) : Statement (.tkpass f) := of_form _ rfl rfl rfl rfl
theorem depwait (f : XForm) : Statement (.depwait f) := of_form _ rfl rfl rfl rfl
theorem depdone (f : XForm) : Statement (.depdone f) := of_form _ rfl rfl rfl rfl
theorem mma (f : XForm) : Statement (.mma f) := of_form _ rfl rfl rfl rfl
theorem mmaz (f : XForm) : Statement (.mmaz f) := of_form _ rfl rfl rfl rfl
theorem mmas (f : XForm) : Statement (.mmas f) := of_form _ rfl rfl rfl rfl
theorem mmat (f : XForm) : Statement (.mmat f) := of_form _ rfl rfl rfl rfl
theorem scld (f : XForm) : Statement (.scld f) := of_form _ rfl rfl rfl rfl
theorem accz (f : XForm) : Statement (.accz f) := of_form _ rfl rfl rfl rfl
theorem accld (f : XForm) : Statement (.accld f) := of_form _ rfl rfl rfl rfl
theorem accst (f : XForm) : Statement (.accst f) := of_form _ rfl rfl rfl rfl
theorem mcoop (f : XForm) : Statement (.mcoop f) := of_form _ rfl rfl rfl rfl
theorem mchk (f : XForm) : Statement (.mchk f) := of_form _ rfl rfl rfl rfl
theorem tbset (f : XForm) : Statement (.tbset f) := of_form _ rfl rfl rfl rfl
theorem tbget (f : XForm) : Statement (.tbget f) := of_form _ rfl rfl rfl rfl
theorem mwait (f : XForm) : Statement (.mwait f) := of_form _ rfl rfl rfl rfl
theorem fence (f : XForm) : Statement (.fence f) := of_form _ rfl rfl rfl rfl
theorem trap (f : XForm) : Statement (.trap f) := of_form _ rfl rfl rfl rfl
theorem rdsr (f : XForm) : Statement (.rdsr f) := of_form _ rfl rfl rfl rfl
theorem wrsr (f : XForm) : Statement (.wrsr f) := of_form _ rfl rfl rfl rfl
theorem cropen (f : XForm) : Statement (.cropen f) := of_form _ rfl rfl rfl rfl
theorem crclose (f : XForm) : Statement (.crclose f) := of_form _ rfl rfl rfl rfl
theorem live (f : XForm) : Statement (.live f) := of_form _ rfl rfl rfl rfl
theorem tokwait (f : XForm) : Statement (.tokwait f) := of_form _ rfl rfl rfl rfl
theorem tokpass (f : XForm) : Statement (.tokpass f) := of_form _ rfl rfl rfl rfl
theorem phase (f : XForm) : Statement (.phase f) := of_form _ rfl rfl rfl rfl
theorem puts (f : XForm) : Statement (.puts f) := of_form _ rfl rfl rfl rfl
theorem get (f : XForm) : Statement (.get f) := of_form _ rfl rfl rfl rfl
theorem radd (f : XForm) : Statement (.radd f) := of_form _ rfl rfl rfl rfl
theorem coll (f : XForm) : Statement (.coll f) := of_form _ rfl rfl rfl rfl
theorem genrd (f : XForm) : Statement (.genrd f) := of_form _ rfl rfl rfl rfl
theorem brk (f : XForm) : Statement (.brk f) := of_form _ rfl rfl rfl rfl
theorem gridCompletion (grid : GridKey) : Statement (.gridCompletion grid) := of_event rfl
theorem longCommandComplete (id : Nat) : Statement (.longCommandComplete id) := of_event rfl
theorem collectiveComplete (id : Nat) : Statement (.collectiveComplete id) := of_event rfl
theorem unassignedInstruction (cause : BitVec 9) : Statement (.unassignedInstruction cause) := of_event rfl
theorem flightStart (core : Nat) (slot : Nat) : Statement (.flightStart core slot) := of_event rfl
theorem waitConditionHolds (core : Nat) (warp : Nat) (pc : BitVec 57) : Statement (.waitConditionHolds core warp pc) := of_event rfl
theorem resultWriteback (core : Nat) (warp : Nat) : Statement (.resultWriteback core warp) := of_event rfl
theorem loadReturn (id : Nat) : Statement (.loadReturn id) := of_event rfl
theorem accessPerformed (id : Nat) : Statement (.accessPerformed id) := of_event rfl
theorem walkComplete (id : Nat) : Statement (.walkComplete id) := of_event rfl
theorem launchEntryTaken (queue : Nat) (hostEntry : List (BitVec 8)) : Statement (.launchEntryTaken queue hostEntry) := of_event rfl
theorem retirement (wg : WgKey) : Statement (.retirement wg) := of_event rfl
theorem doneMark (wg : WgKey) : Statement (.doneMark wg) := of_event rfl
theorem ticketAdvance (grid : GridKey) (t : Nat) : Statement (.ticketAdvance grid t) := of_event rfl
theorem tokenLeaves (grid : GridKey) : Statement (.tokenLeaves grid) := of_event rfl
theorem recordAdmission (core : Nat) : Statement (.recordAdmission core) := of_event rfl
theorem chunkIssue (chiplet : Nat) (engine : Nat) : Statement (.chunkIssue chiplet engine) := of_event rfl
theorem chunkPerformed (id : Nat) : Statement (.chunkPerformed id) := of_event rfl
theorem qsTurn (core : Nat) (warp : Nat) (q : Nat) : Statement (.qsTurn core warp q) := of_event rfl
theorem groupArrival (core : Nat) (warp : Nat) (q : Nat) : Statement (.groupArrival core warp q) := of_event rfl
theorem storeGroupWritten (id : Nat) : Statement (.storeGroupWritten id) := of_event rfl
theorem matrixPassStart (core : Nat) : Statement (.matrixPassStart core) := of_event rfl
theorem matrixPassComplete (core : Nat) : Statement (.matrixPassComplete core) := of_event rfl
theorem matrixEntryStart (core : Nat) : Statement (.matrixEntryStart core) := of_event rfl
theorem matrixEntryComplete (core : Nat) : Statement (.matrixEntryComplete core) := of_event rfl
theorem nmaAtHomeSlice (id : Nat) : Statement (.nmaAtHomeSlice id) := of_event rfl
theorem nmaAcknowledgement (id : Nat) : Statement (.nmaAcknowledgement id) := of_event rfl
theorem scrub (found : ScrubReport) : Statement (.scrub found) := of_event rfl
theorem containmentCompare (uncorrectable : Bool) : Statement (.containmentCompare uncorrectable) := of_event rfl
theorem workgroupSaved (wg : WgKey) : Statement (.workgroupSaved wg) := of_event rfl
theorem flitReceive (port : Nat) (input : LinkInput) : Statement (.flitReceive port input) := of_event rfl
theorem portDown (port : Nat) : Statement (.portDown port) := of_event rfl
theorem collectiveData (p : Packet) : Statement (.collectiveData p) := of_event rfl
theorem putsPacket (p : Packet) : Statement (.putsPacket p) := of_event rfl
theorem getRequest (p : Packet) : Statement (.getRequest p) := of_event rfl
theorem getData (p : Packet) : Statement (.getData p) := of_event rfl
theorem raddPacket (p : Packet) : Statement (.raddPacket p) := of_event rfl
theorem acknowledgement (p : Packet) : Statement (.acknowledgement p) := of_event rfl
theorem refusal (p : Packet) : Statement (.refusal p) := of_event rfl
theorem heartbeat (msg : MemberMsg) : Statement (.heartbeat msg) := of_event rfl
theorem suspect (msg : MemberMsg) : Statement (.suspect msg) := of_event rfl
theorem confirm (msg : MemberMsg) : Statement (.confirm msg) := of_event rfl
theorem deny (msg : MemberMsg) : Statement (.deny msg) := of_event rfl
theorem expelRequest (msg : MemberMsg) : Statement (.expelRequest msg) := of_event rfl
theorem eventExpel (msg : MemberMsg) : Statement (.eventExpel msg) := of_event rfl
theorem eventDeparture (msg : MemberMsg) : Statement (.eventDeparture msg) := of_event rfl
theorem eventJoin (msg : MemberMsg) : Statement (.eventJoin msg) := of_event rfl
theorem eventResendRequest (msg : MemberMsg) : Statement (.eventResendRequest msg) := of_event rfl
theorem heartbeatInterval : Statement (.heartbeatInterval) := of_event rfl
theorem heartbeatMiss (dev : Nat) : Statement (.heartbeatMiss dev) := of_event rfl
theorem suspicionTimeout (dev : Nat) : Statement (.suspicionTimeout dev) := of_event rfl
theorem expelRequestRepeat (dev : Nat) : Statement (.expelRequestRepeat dev) := of_event rfl
theorem coordinatorDelay : Statement (.coordinatorDelay) := of_event rfl
theorem heldPacketTimeout (index : Nat) : Statement (.heldPacketTimeout index) := of_event rfl
theorem joinStripe (id : Nat) (reply : Option (BitVec 16 × List (BitVec 8) × List Nat)) : Statement (.joinStripe id reply) := of_event rfl
theorem ctxnew (h : AdminHdr) (ctx : Nat) (troot : Nat) (podSize : Nat) (dbg : Bool) : Statement (.ctxnew h ctx troot podSize dbg) := of_event rfl
theorem ctxdel (h : AdminHdr) (ctx : Nat) : Statement (.ctxdel h ctx) := of_event rfl
theorem partbuild (h : AdminHdr) (ctx : Nat) (cores : BitVec 192) : Statement (.partbuild h ctx cores) := of_event rfl
theorem shrink (h : AdminHdr) (ctx : Nat) (cores : BitVec 192) : Statement (.shrink h ctx cores) := of_event rfl
theorem debugEnable (h : AdminHdr) (ctx : Nat) (enable : Bool) : Statement (.debugEnable h ctx enable) := of_event rfl
theorem keyxch (h : AdminHdr) : Statement (.keyxch h) := of_event rfl
theorem keybind (h : AdminHdr) (slot : Nat) (owners : BitVec 64) (buffer : List (BitVec 8)) : Statement (.keybind h slot owners buffer) := of_event rfl
theorem keyunbind (h : AdminHdr) (slot : Nat) : Statement (.keyunbind h slot) := of_event rfl
theorem shoot (h : AdminHdr) (ctx : Nat) (base : Nat) (bytes : Nat) : Statement (.shoot h ctx base bytes) := of_event rfl
theorem faultans (h : AdminHdr) (ctx : Nat) (wgid : Nat) (warp : Nat) (reject : Bool) (copy : Bool) (gridno : Nat) : Statement (.faultans h ctx wgid warp reject copy gridno) := of_event rfl
theorem brkans (h : AdminHdr) (ctx : Nat) (wgid : Nat) (warp : Nat) (gridno : Nat) : Statement (.brkans h ctx wgid warp gridno) := of_event rfl
theorem qnew (h : AdminHdr) (q : QueueParams) : Statement (.qnew h q) := of_event rfl
theorem qdel (h : AdminHdr) (queue : Nat) : Statement (.qdel h queue) := of_event rfl
theorem swout (h : AdminHdr) (ctx : Nat) (buf : ImageBuffer) : Statement (.swout h ctx buf) := of_event rfl
theorem restore (h : AdminHdr) (ctx : Nat) (buf : ImageBuffer) : Statement (.restore h ctx buf) := of_event rfl
theorem kill (h : AdminHdr) (ctx : Nat) : Statement (.kill h ctx) := of_event rfl
theorem commnew (h : AdminHdr) (c : CommParams) : Statement (.commnew h c) := of_event rfl
theorem commdel (h : AdminHdr) (comm : Nat) : Statement (.commdel h comm) := of_event rfl
theorem reg (h : AdminHdr) (ctx : Nat) (d : BufferDesc) : Statement (.reg h ctx d) := of_event rfl
theorem dereg (h : AdminHdr) (comm : Nat) (name : Nat) : Statement (.dereg h comm name) := of_event rfl
theorem viewnew (h : AdminHdr) (comm : Nat) (source : Nat) (view : Nat) (poolBase : Nat) (poolBytes : Nat) : Statement (.viewnew h comm source view poolBase poolBytes) := of_event rfl
theorem viewdel (h : AdminHdr) (comm : Nat) (view : Nat) : Statement (.viewdel h comm view) := of_event rfl
theorem join (h : AdminHdr) (comm : Nat) (rank : Nat) (list : Nat) (entries : Nat) : Statement (.join h comm rank list entries) := of_event rfl
theorem podcfg (h : AdminHdr) (cfg : PodConfig) : Statement (.podcfg h cfg) := of_event rfl
theorem discread (h : AdminHdr) (ctx : Nat) : Statement (.discread h ctx) := of_event rfl
theorem resync (h : AdminHdr) : Statement (.resync h) := of_event rfl
theorem attest (h : AdminHdr) (nonce : List (BitVec 8)) : Statement (.attest h nonce) := of_event rfl
theorem fwload (h : AdminHdr) (image : FwImage) : Statement (.fwload h image) := of_event rfl
theorem ckpt (h : AdminHdr) (ctx : Nat) (dest : CkptDest) : Statement (.ckpt h ctx dest) := of_event rfl
theorem snapcfg (h : AdminHdr) (cause : BitVec 9) (rearm : Bool) : Statement (.snapcfg h cause rearm) := of_event rfl
theorem evring (h : AdminHdr) (k : Nat) (base : Nat) (vector : Nat) : Statement (.evring h k base vector) := of_event rfl
theorem adminReserved (h : AdminHdr) (acmd : BitVec 8) : Statement (.adminReserved h acmd) := of_event rfl
theorem qdb (port : Nat) (queue : Nat) (index : Nat) : Statement (.qdb port queue index) := of_event rfl
theorem trig (port : Nat) : Statement (.trig port) := of_event rfl
theorem evhead (port : Nat) (index : Nat) : Statement (.evhead port index) := of_event rfl
theorem registerWrite (port : Nat) (offset : Nat) (value : BitVec 64) : Statement (.registerWrite port offset value) := of_event rfl
theorem powerGood (verified : Option FwImage) : Statement (.powerGood verified) := of_event rfl
theorem resetDevice : Statement (.resetDevice) := of_event rfl
theorem thermalTrip : Statement (.thermalTrip) := of_event rfl
theorem pciePortDown (port : Nat) : Statement (.pciePortDown port) := of_event rfl
theorem joinRequestAtCoordinator (msg : MemberMsg) : Statement (.joinRequestAtCoordinator msg) := of_event rfl
theorem departureRequest (msg : MemberMsg) : Statement (.departureRequest msg) := of_event rfl
theorem pcieLinkUp (port : Nat) : Statement (.pcieLinkUp port) := of_event rfl
theorem galleryPortTrained (port : Nat) : Statement (.galleryPortTrained port) := of_event rfl
theorem precisionTimeMeasurement (port : Nat) (time : Nat) : Statement (.precisionTimeMeasurement port time) := of_event rfl

end Sys2Proof.Laws.RoundTrip
end

