-- ==== Sys2Proof/Tests/Slice0.lean ====
section
/-! SUPPORT. The model's own tests: ill-formed terms that the checks refuse, decoded words, single steps, and for every statement
a state and operands that meet its hypotheses. -/

namespace Sys2Proof.Tests

set_option Elab.async false  -- one theorem at a time: many kernel evaluations at once exhaust the threads

open Sys2Proof Sys2Proof.Machine

/-- An extended form with every field zero. -/
def x0 : XForm := ⟨false, 0, 0, false, 0, 0, 0, 0, 0, 0, none⟩

/-- An R-form on v1, v2 and v3. -/
def r0 : RForm := ⟨false, 1, 2, 3, false, false⟩

/-- IADD v3, v1, v2. -/
def r3 : RForm := ⟨false, 3, 1, 2, false, false⟩

/-- An I-form on v1 and v2. -/
def i0 : IForm := ⟨false, 1, 2, 5, false, none⟩

/-- A device with one warp of 16 threads about to issue. -/
def s0 : State := State.reset.placeWords []

/-- A decidable form of readiness. -/
def readyNow (s : State) (sh : Shape) (f : XForm) (extra : Opnd → Option Cause) : Bool :=
  match s.issuing with
  | none => false
  | some i =>
    let o : Opnd := ⟨i, f, sh⟩
    (o.check (extra o)).isNone && !o.stalls s && o.popFault.isNone && !o.poisoned &&
      (match o.pushTrans s with | .ok _ => true | _ => false)

theorem ready_of_now {s : State} {sh : Shape} {f : XForm} {extra : Opnd → Option Cause} (h : readyNow s sh f extra = true) :
    ∃ o, Ready s sh f extra o := by
  unfold readyNow at h
  cases hi : s.issuing with
  | none => simp [hi] at h
  | some i =>
    simp only [hi, Bool.and_eq_true, Option.isNone_iff_eq_none, Bool.not_eq_true'] at h
    obtain ⟨⟨⟨⟨h1, h2⟩, h3⟩, h4⟩, h5⟩ := h
    refine ⟨⟨i, f, sh⟩, hi, rfl, rfl, h1, h2, h3, h4, ?_⟩
    cases ht : Opnd.pushTrans ⟨i, f, sh⟩ s with
    | ok l => exact ⟨l, rfl⟩
    | fail c va => simp [ht] at h5
    | noMem pa => simp [ht] at h5

/-- A ready instruction with a further fact about its operands. -/
theorem ready_and (s : State) (sh : Shape) (f : XForm) (p : Opnd → Bool) {extra : Opnd → Option Cause}
    (h : readyNow s sh f extra = true)
    (e : (match s.issuing with | some i => p ⟨i, f, sh⟩ | none => false) = true) :
    ∃ o, Ready s sh f extra o ∧ p o = true := by
  obtain ⟨o, ho⟩ := ready_of_now h
  refine ⟨o, ho, ?_⟩
  rw [ho.issues] at e
  have hf := ho.fields
  have hs := ho.shape
  obtain ⟨i, f', sh'⟩ := o
  dsimp only at hf hs
  subst hf hs
  exact e

/-- The issuing instruction of a state with a further fact about it. -/
theorem issuing_and (s : State) (p : Iss → Bool) (e : (match s.issuing with | some i => p i | none => false) = true) :
    ∃ i, s.issuing = some i ∧ p i = true := by
  cases hi : s.issuing with
  | none => simp [hi] at e
  | some i => rw [hi] at e; exact ⟨i, rfl, e⟩

/-! ### WellFormed refuses what it should (R51) -/

theorem test_wf_accepts : (Instr.iadd64 { x0 with ty := 2 }).wf DecEnv.default none = true := by decide
/-- A literal that nothing uses (order 2). -/
theorem test_wf_unused_literal : (Instr.iadd64 { x0 with ty := 2, lit := some 5 }).literalUsed DecEnv.default none = false := by decide
/-- A PFX before a memory instruction (order 4). -/
theorem test_wf_prefix : (Instr.ldgw x0).prefixable DecEnv.default (some ⟨0, false, 0, 0, false, false⟩) = false := by decide
/-- A literal code without a literal (order 5). -/
theorem test_wf_missing_literal : (Instr.iadd64 { x0 with ty := 2, a := 255 }).literalPresent DecEnv.default none = false := by decide
/-- An odd pair register (order 6). -/
theorem test_wf_odd_pair : (Instr.iadd64 { x0 with ty := 2, a := 1 }).valuesAssigned DecEnv.default none = false := by decide
/-- An unused field that is not zero (order 7). -/
theorem test_wf_reserved : (Instr.iadd64 { x0 with ty := 2, e := 1 }).reservedZero DecEnv.default none = false := by decide
/-- RND 7 in a PFX (R49). -/
theorem test_wf_pfx : (Instr.pfx ⟨0, false, 7, 0, false, false⟩).wf DecEnv.default none = false := by decide
/-- A context number past 63. -/
theorem test_wf_event : (Instr.ctxdel ⟨0, 0, 0, 0, true⟩ 64).wf DecEnv.default none = false := by decide +kernel
/-- A literal MOV with a bit set in its unused B field (R32). -/
theorem test_literal_mov_reserved : decode DecEnv.default [0x4080FE04, 0, 0] = .bad 0x006 := by decide +kernel


/-! decode_of_encode -/
theorem wit_decode_of_encode : (Instr.iadd r0).form.isSome = true ∧ (Instr.iadd r0).wf DecEnv.default none = true ∧
    (Instr.iadd r0).wf DecEnv.default (some ⟨3, true, 0, 0, false, false⟩) = true ∧
    (⟨3, true, 0, 0, false, false⟩ : PForm).wf = true := by decide

/-! words_are_encodings -/
theorem wit_words_are_encodings : 5 ≤ [(0x01830208 : Word), 0, 0, 0, 0].length ∧
    decode DecEnv.default [0x01830208, 0, 0, 0, 0] = .ok (.iadd r3) 4 ∧ (Instr.iadd r3).form.isSome = true ∧
    decode DecEnv.default [0x1FBA0000, 0x0B820004, 0, 0, 0] = .ok (.pfx ⟨3, true, 2, 0, false, false⟩) 4 ∧
    (Instr.pfx ⟨3, true, 2, 0, false, false⟩).form = none ∧
    decodeUnder DecEnv.default (some (⟨3, true, 2, 0, false, false⟩, true, false)) [0x0B820004, 0, 0, 0, 0] =
      .ok (.fadd ⟨false, 2, 0, 1, false, false⟩) 4 := by decide +kernel

/-! step_runs_the_decoded_instruction -/
/-- The next instruction's words as the front flight meets them. -/
def nextWords (s : State) : Option (Iss × Iss × List Word) :=
  let u : State := ({ s with agenda := s.agenda.drop 1 } : State).frontSlot 0 0
  match u.issuing with
  | none => none
  | some i0 => match (u.merge i0).issuing with
    | none => none
    | some i => match (u.merge i0).fetchInstr i.w.core i.w.wg.ctx i.ipc i.fl.pfx.isSome with
      | .ok ws false => some (i0, i, ws)
      | _ => none

theorem wit_step_runs : (State.reset.withFetchWord 32 0x01830208).agenda = [.issue 0 0] ∧
    ((State.reset.withFetchWord 32 0x01830208).flights.any fun f => f.core = 0 && f.slot = 0) = true ∧
    ((nextWords (State.reset.withFetchWord 32 0x01830208)).map fun x => (x.1.w.recorded, x.2.1.decode x.2.2)) =
      some (none, .ok (.iadd r3) 4) := by decide +kernel

theorem wit_step_event : (({ State.reset with agenda := [.event .thermalTrip] } : State)).agenda = .event .thermalTrip :: [] := by decide
theorem wit_step_pick : s0.pick ≠ none := by decide +kernel

/-! memory_stays_canonical -/
theorem wit_memory_stays : s0.memOk = true ∧ (match step s0 with | .next _ => true | _ => false) = true := by decide +kernel

/-! base_integer_results -/
theorem wit_base_integer : ∀ row ∈ baseInteger, ∃ o, Ready s0 (baseShape row.2.1 r0.toX) r0.toX noExtra o := by
  have h : (baseInteger.all fun row => readyNow s0 (baseShape row.2.1 r0.toX) r0.toX noExtra) = true := by decide +kernel
  exact fun row hr => ready_of_now (List.all_eq_true.1 h row hr)

/-! base_moves_and_immediates -/
theorem wit_base_moves :
    (∃ o, Ready s0 (baseShape 0x09 r0.toX) r0.toX noExtra o) ∧ (∃ o, Ready s0 (baseShape 0x16 r0.toX) r0.toX noExtra o) ∧
    (∃ o, Ready s0 (baseShape 0x04 i0.toX) i0.toX noExtra o) ∧ (∃ o, Ready s0 (baseShape 0x11 i0.toX) i0.toX noExtra o) ∧
    (∃ o, Ready s0 (baseShape 0x01 r0.toX) r0.toX noExtra o) ∧ (∃ o, Ready s0 (baseShape 0x02 i0.toX) i0.toX noExtra o) ∧
    (∃ o, Ready s0 (baseShape 0x01 (⟨false, 2, false, false, 7⟩ : LForm).toX) (⟨false, 2, false, false, 7⟩ : LForm).toX noExtra o) :=
  ⟨ready_of_now (by decide +kernel), ready_of_now (by decide +kernel), ready_of_now (by decide +kernel), ready_of_now (by decide +kernel), ready_of_now (by decide +kernel),
   ready_of_now (by decide +kernel), ready_of_now (by decide +kernel)⟩

/-! extended_integer_results -/
theorem wit_extended_integer : ∀ row ∈ extInteger,
    ∃ o, Ready s0 (shapeInt row.2.1 { x0 with d := 2, a := 4, b := 6, c := 8 }) { x0 with d := 2, a := 4, b := 6, c := 8 } noExtra o := by
  have h : (extInteger.all fun row =>
    readyNow s0 (shapeInt row.2.1 { x0 with d := 2, a := 4, b := 6, c := 8 }) { x0 with d := 2, a := 4, b := 6, c := 8 } noExtra) = true := by
    decide +kernel
  exact fun row hr => ready_of_now (List.all_eq_true.1 h row hr)

/-! division_results_and_zero_divisor -/
/-- The registers read zero, so this raises with NT = 0 and completes with NT = 1. -/
theorem wit_division :
    (∃ o, Ready s0 (shapeInt 0x05 { x0 with d := 2, a := 4, b := 6 }) { x0 with d := 2, a := 4, b := 6 } noExtra o ∧
      o.i.mask ≠ 0 ∧ (({ x0 with d := 2, a := 4, b := 6 } : XForm).bit 0 = false) ∧ 0 ∈ o.lanes ∧ o.rdN o.f.b 0 32 = 0) ∧
    (∃ o, Ready s0 (shapeInt 0x05 { x0 with d := 2, a := 4, b := 6, mod := 1 }) { x0 with d := 2, a := 4, b := 6, mod := 1 } noExtra o ∧
      ({ x0 with d := 2, a := 4, b := 6, mod := 1 } : XForm).bit 0 = true) := by
  constructor
  · obtain ⟨o, h⟩ := ready_of_now (s := s0) (sh := shapeInt 0x05 { x0 with d := 2, a := 4, b := 6 })
      (f := { x0 with d := 2, a := 4, b := 6 }) (extra := noExtra) (by decide +kernel)
    refine ⟨o, h, ?_⟩
    have hi : s0.issuing = some o.i := h.issues
    have e : (s0.issuing.map fun i =>
      let o : Opnd := ⟨i, { x0 with d := 2, a := 4, b := 6 }, shapeInt 0x05 { x0 with d := 2, a := 4, b := 6 }⟩
      decide (o.i.mask ≠ 0) && decide (0 ∈ o.lanes) && decide (o.rdN o.f.b 0 32 = 0)) = some true := by decide +kernel
    rw [hi] at e
    obtain ⟨i, f, sh⟩ := o
    have hf := h.fields
    have hs := h.shape
    dsimp only at hf hs
    subst hf hs
    simp only [Option.map_some, Option.some.injEq, Bool.and_eq_true, decide_eq_true_eq] at e
    exact ⟨e.1.1, by decide, e.1.2, e.2⟩
  · obtain ⟨o, h⟩ := ready_of_now (s := s0) (sh := shapeInt 0x05 { x0 with d := 2, a := 4, b := 6, mod := 1 })
      (f := { x0 with d := 2, a := 4, b := 6, mod := 1 }) (extra := noExtra) (by decide +kernel)
    exact ⟨o, h, by decide⟩

/-! float_arithmetic_results -/
theorem wit_float_arithmetic :
    (∀ row ∈ baseFloat, ∃ o, Ready s0 (baseShape row.2.1 r0.toX) r0.toX noExtra o) ∧
    (∀ row ∈ extFloat2, ∃ o, Ready s0 (shapeFloat row.2.1 x0 false) x0 noExtra o) := by
  have h : (baseFloat.all fun row => readyNow s0 (baseShape row.2.1 r0.toX) r0.toX noExtra) = true := by decide +kernel
  have g : (extFloat2.all fun row => readyNow s0 (shapeFloat row.2.1 x0 false) x0 noExtra) = true := by decide +kernel
  exact ⟨fun row hr => ready_of_now (List.all_eq_true.1 h row hr), fun row hr => ready_of_now (List.all_eq_true.1 g row hr)⟩

/-! float_unary_and_fused_results -/
theorem wit_float_unary :
    (∀ row ∈ extFloat, ∃ o, Ready s0 (shapeFloat row.2.1 x0 false) x0 noExtra o) ∧
    (∃ o, Ready s0 (baseShape 0x1A r0.toX) r0.toX noExtra o) ∧
    (∃ o, Ready s0 (shapeFloat 0x19 { x0 with ty := 1 } false) { x0 with ty := 1 } noExtra o) ∧
    (∃ o, Ready s0 (shapeExpr { x0 with mod := 0x621 } true) { x0 with mod := 0x621 } noExtra o) ∧
    (∃ o, Ready s0 (shapeFloat 0x1D x0 false) x0 noExtra o) ∧
    (∃ o, Ready s0 (shapeFloat 0x20 { x0 with ty := 3 } false) { x0 with ty := 3 } noExtra o) := by
  have g : (extFloat.all fun row => readyNow s0 (shapeFloat row.2.1 x0 false) x0 noExtra) = true := by decide +kernel
  exact ⟨fun row hr => ready_of_now (List.all_eq_true.1 g row hr), ready_of_now (by decide +kernel), ready_of_now (by decide +kernel),
    ready_of_now (by decide +kernel), ready_of_now (by decide +kernel), ready_of_now (by decide +kernel)⟩

/-! slot_conversion_results -/
/-- A device whose grid has slots of FP16 and E4M3. -/
def sSlots : State :=
  { s0 with grids := s0.grids.map fun (g : Grid) => { g with rec_ := { g.rec_ with slots := [2, 5, 2, 2, 2, 2, 2, 2] } } }

theorem wit_slot_conversion : ∀ row ∈ slotConversions,
    let f : XForm := { x0 with ty := if row.2.1 = 0x1B then 3 else 0, d := 2, a := 4 }
    ∃ i, sSlots.issuing = some i ∧
      (Opnd.withShape ⟨i, f, shapeFloat row.2.1 f false⟩ (row.2.2.1 ⟨i, f, shapeFloat row.2.1 f false⟩)).check1to7 = none ∧
      row.2.2.2.1 ⟨i, f, shapeFloat row.2.1 f false⟩ = none ∧
      ∃ o, Ready sSlots (row.2.2.2.2.1 ⟨i, f, shapeFloat row.2.1 f false⟩) f noExtra o := by
  have h : (slotConversions.all fun row =>
      let f : XForm := { x0 with ty := if row.2.1 = 0x1B then 3 else 0, d := 2, a := 4 }
      match sSlots.issuing with
      | none => false
      | some i => (Opnd.withShape ⟨i, f, shapeFloat row.2.1 f false⟩ (row.2.2.1 ⟨i, f, shapeFloat row.2.1 f false⟩)).check1to7.isNone &&
        (row.2.2.2.1 ⟨i, f, shapeFloat row.2.1 f false⟩).isNone &&
        readyNow sSlots (row.2.2.2.2.1 ⟨i, f, shapeFloat row.2.1 f false⟩) f noExtra) = true := by decide +kernel
  intro row hr
  have hx := List.all_eq_true.1 h row hr
  dsimp only at hx ⊢
  cases hi : sSlots.issuing with
  | none => simp [hi] at hx
  | some i =>
    simp only [hi, Bool.and_eq_true, Option.isNone_iff_eq_none] at hx
    exact ⟨i, rfl, hx.1.1, hx.1.2, ready_of_now hx.2⟩

/-! rounding_keeps_representable_values -/
theorem wit_rounding : (0x7F7FFFFF < 2 ^ fp32.bits ∧ (decodeFmt fp32 0x7F7FFFFF).isNan = false) ∧
    (0x7E < 2 ^ e4m3.bits ∧ (decodeFmt e4m3 0x7E).isNan = false) := by decide +kernel

/-! compare_and_mask_bits -/
theorem wit_mask_writers : ∀ row ∈ maskWriters, ∃ o, Ready s0 (shapeLane row.2.1 { x0 with d := 1 } 64) { x0 with d := 1 } noExtra o := by
  have h : (maskWriters.all fun row => readyNow s0 (shapeLane row.2.1 { x0 with d := 1 } 64) { x0 with d := 1 } noExtra) = true := by
    decide +kernel
  exact fun row hr => ready_of_now (List.all_eq_true.1 h row hr)

/-! lane_value_results -/
theorem wit_lane_values :
    (∃ o, Ready s0 (shapeLane 0x06 x0 64) x0 noExtra o) ∧ (∃ o, Ready s0 (shapeLane 0x08 x0 64) x0 noExtra o) ∧
    (∃ o, Ready s0 (shapeLane 0x09 { x0 with ty := 8 } 64) { x0 with ty := 8 } noExtra o) ∧
    (∀ row ∈ crossLane, ∃ o, Ready s0 (shapeLane row.2.1 { x0 with ty := 8, mod := 0x10100 } 64) { x0 with ty := 8, mod := 0x10100 } noExtra o ∧
      0 < segLen o.i.w.width 0 ∧ o.lanesPoisoned (row.2.2.1 o) = false) := by
  refine ⟨ready_of_now (by decide +kernel), ready_of_now (by decide +kernel), ready_of_now (by decide +kernel), ?_⟩
  have h : (crossLane.all fun row =>
      readyNow s0 (shapeLane row.2.1 { x0 with ty := 8, mod := 0x10100 } 64) { x0 with ty := 8, mod := 0x10100 } noExtra) = true := by
    decide +kernel
  intro row hr
  obtain ⟨o, ho⟩ := ready_of_now (List.all_eq_true.1 h row hr)
  have e : (s0.issuing.map fun i => decide (i.w.width = 16) && decide (i.w.regPoison = [])) = some true := by decide +kernel
  rw [ho.issues] at e
  simp only [Option.map_some, Option.some.injEq, Bool.and_eq_true, decide_eq_true_eq] at e
  refine ⟨o, ho, by simp [segLen, e.1], ?_⟩
  unfold Opnd.lanesPoisoned
  split
  · simp [e.2]
  · split <;> simp [e.2]

/-! reduction_trees -/
theorem wit_trees :
    (∃ o, Ready s0 (shapeLane 0x11 { x0 with ty := 8 } 64) { x0 with ty := 8 } noExtra o ∧ o.lanesPoisoned (lanesOf o.i.mask) = false) ∧
    (∃ o, Ready s0 (shapeLane 0x12 { x0 with ty := 8 } 64) { x0 with ty := 8 } noExtra o ∧ o.lanesPoisoned (lanesOf o.i.mask) = false) := by
  have e : (s0.issuing.map fun i => decide (i.w.regPoison = [])) = some true := by decide +kernel
  have p : ∀ o : Opnd, s0.issuing = some o.i → o.lanesPoisoned (lanesOf o.i.mask) = false := by
    intro o ho
    rw [ho] at e
    simp only [Option.map_some, Option.some.injEq, decide_eq_true_eq] at e
    unfold Opnd.lanesPoisoned
    split
    · simp [e]
    · split <;> simp [e]
  obtain ⟨o, ho⟩ := ready_of_now (s := s0) (sh := shapeLane 0x11 { x0 with ty := 8 } 64) (f := { x0 with ty := 8 }) (extra := noExtra)
    (by decide +kernel)
  obtain ⟨q, hq⟩ := ready_of_now (s := s0) (sh := shapeLane 0x12 { x0 with ty := 8 } 64) (f := { x0 with ty := 8 }) (extra := noExtra)
    (by decide +kernel)
  exact ⟨⟨o, ho, p o ho.issues⟩, ⟨q, hq, p q hq.issues⟩⟩

/-! status_and_index_registers -/
theorem wit_status_and_index :
    (∃ o, Ready s0 (shapeLane 0x14 { x0 with d := 1, a := 192 } 64) { x0 with d := 1, a := 192 } noExtra o) ∧
    (∃ o, Ready s0 (shapeLane 0x15 { x0 with d := 1 } 64) { x0 with d := 1 } noExtra o) ∧
    (∃ o, Ready s0 (baseShape 0x26 i0.toX) i0.toX (rdidCheck i0.imm.toNat) o) ∧
    (∃ o, Ready s0 (shapeSys 0x02 { x0 with d := 192, a := 1 }) { x0 with d := 192, a := 1 } noExtra o ∧ s0.flagsDue o.i.w = false) ∧
    (∃ o, Ready s0 (shapeSys 0x03 { x0 with d := 0, a := 192 }) { x0 with d := 0, a := 192 } (wrsrCheck { x0 with d := 0, a := 192 }) o) ∧
    statusValueOk 0 3 = true ∧ statusValueOk 0 7 = false ∧ statusValueOk 4 256 = true := by
  refine ⟨ready_of_now (by decide +kernel), ready_of_now (by decide +kernel), ready_of_now (by decide +kernel), ?_,
    ready_of_now (by decide +kernel), by decide, by decide, by decide⟩
  obtain ⟨o, h⟩ := ready_of_now (s := s0) (sh := shapeSys 0x02 { x0 with d := 192, a := 1 }) (f := { x0 with d := 192, a := 1 })
    (extra := noExtra) (by decide +kernel)
  exact ⟨o, h, by simp [State.flagsDue, s0, State.placeWords, State.reset]⟩

/-! results_land_in_registers -/
theorem wit_results_land : ∃ o, Ready s0 (shapeInt 0x00 { x0 with d := 2, ty := 2 }) { x0 with d := 2, ty := 2 } noExtra o ∧
    o.sh.d.width = 64 ∧ (o.scalar = true → o.vNum o.f.d = none) := by
  obtain ⟨o, h⟩ := ready_of_now (s := s0) (sh := shapeInt 0x00 { x0 with d := 2, ty := 2 }) (f := { x0 with d := 2, ty := 2 })
    (extra := noExtra) (by decide +kernel)
  exact ⟨o, h, by rw [h.shape]; decide, fun hs => absurd hs (by rw [Opnd.scalar, h.shape, h.fields]; simp [isScalar, shapeInt, intShape, regShape, clsOf])⟩

/-! completed_instruction_advances -/
theorem wit_completed : ∃ i, s0.issuing = some i :=
  Option.isSome_iff_exists.1 (by decide +kernel)

/-! control_transfers -/
theorem wit_control_transfers : (∃ i, s0.issuing = some i ∧ branchTakers i false 0 ≠ 0 ∧ (i.ipc.toNat : Int) + 4 * (-1) < 0 ∧
      branchTakers i true 0 = 0 ∧ (i.ipc.toNat : Int) + 4 * 127 < 2 ^ 57) ∧
    (∃ o, Ready s0 (baseShape 0x23 (⟨false, 2, 0, 5, false, none⟩ : IForm).toX) (⟨false, 2, 0, 5, false, none⟩ : IForm).toX noExtra o) ∧
    (∃ o, Ready s0 (baseShape 0x23 (⟨false, 2, 0, 0, false, some (targetLit 9)⟩ : IForm).toX)
      (⟨false, 2, 0, 0, false, some (targetLit 9)⟩ : IForm).toX noExtra o) ∧
    (∃ o, Ready s0 (baseShape 0x24 (⟨false, 0, 2, 0, false, false⟩ : RForm).toX) (⟨false, 0, 2, 0, false, false⟩ : RForm).toX noExtra o) := by
  refine ⟨?_, ready_of_now (by decide +kernel), ready_of_now (by decide +kernel), ready_of_now (by decide +kernel)⟩
  have e : (s0.issuing.map fun i => decide (branchTakers i false 0 ≠ 0) && decide ((i.ipc.toNat : Int) + 4 * (-1) < 0) &&
    decide (branchTakers i true 0 = 0) && decide ((i.ipc.toNat : Int) + 4 * 127 < 2 ^ 57)) = some true := by decide +kernel
  cases hi : s0.issuing with
  | none => simp [hi] at e
  | some i =>
    rw [hi] at e
    simp only [Option.map_some, Option.some.injEq, Bool.and_eq_true, decide_eq_true_eq] at e
    exact ⟨i, rfl, e.1.1.1, e.1.1.2, e.1.2, e.2⟩

/-! ends_syncs_and_prefixes -/
theorem wit_ends : ∃ i, s0.issuing = some i ∧ ({ i.w with pcs := dropLanes i.fl.active i.w.pcs } : Warp).wsyncStuck = none ∧
    i.w.pcs.length = 1 ∧ s0.flagsDue i.w = false ∧ i.fl.pfx = none ∧ i.w.flags = 0 := by
  have e : (s0.issuing.map fun i => decide (({ i.w with pcs := dropLanes i.fl.active i.w.pcs } : Warp).wsyncStuck = none) &&
    decide (i.w.pcs.length = 1) && decide (s0.flagsDue i.w = false) && decide (i.fl.pfx = none) && decide (i.w.flags = 0)) = some true := by
    decide +kernel
  cases hi : s0.issuing with
  | none => simp [hi] at e
  | some i =>
    rw [hi] at e
    simp only [Option.map_some, Option.some.injEq, Bool.and_eq_true, decide_eq_true_eq] at e
    exact ⟨i, rfl, e.1.1.1.1, e.1.1.1.2, e.1.1.2, e.1.2, e.2⟩

/-- A warp whose flight is half of it, the other half standing elsewhere: WSYNC waits. Flags that MODE enables: TFENCE raises. -/
def sSplit : State :=
  { s0 with
    warps := s0.warps.map fun (w : Warp) => { w with pcs := [⟨0, 0x00FF, none⟩, ⟨64, 0xFF00, none⟩], flags := 1, mode := 16 }
    flights := [⟨0, 0, 0, 0x00FF, 0, none, none, none, none, false⟩] }

theorem wit_ends_split : ∃ i, sSplit.issuing = some i ∧ i.w.pcs.length ≠ 1 ∧
    (∃ p ∈ i.w.pcs, p.lanes &&& i.fl.active = 0 ∧ p.blocked ≠ some .wsync) ∧ sSplit.flagsDue i.w = false ∧
    i.w.flags.getLsbD 0 = true ∧ i.w.mode.getLsbD 4 = true := by
  have e : (sSplit.issuing.map fun i => decide (i.w.pcs.length ≠ 1) &&
    decide (∃ p ∈ i.w.pcs, p.lanes &&& i.fl.active = 0 ∧ p.blocked ≠ some .wsync) && decide (sSplit.flagsDue i.w = false) &&
    decide (i.w.flags.getLsbD 0 = true) && decide (i.w.mode.getLsbD 4 = true)) = some true := by
    decide +kernel
  cases hi : sSplit.issuing with
  | none => simp [hi] at e
  | some i =>
    rw [hi] at e
    simp only [Option.map_some, Option.some.injEq, Bool.and_eq_true, decide_eq_true_eq] at e
    exact ⟨i, rfl, e.1.1.1.1, e.1.1.1.2, e.1.1.2, e.1.2, e.2⟩

/-! cause_word_layout -/
theorem wit_cause_word : (0 : Nat) < 24 ∧ (⟨64, 0xFFF, some 3⟩ : Region).reg = some 3 ∧
    ((s0.unwind ⟨0, 0, 0⟩ ⟨64, 0xFFF, some 3⟩ [] 0x160 0).warps.any fun w => w.wg = ⟨0, 0, 0⟩) = true := by decide +kernel

/-! raised_causes_are_delivered -/
theorem wit_raised : (0x160 : Cause) ≠ 0x122 ∧ ∃ i, s0.issuing = some i ∧ catching 0x160 i.wg.regions = none := by
  obtain ⟨i, h, e⟩ := issuing_and s0 (fun i => (catching 0x160 i.wg.regions).isNone) (by decide +kernel)
  exact ⟨by decide, i, h, by simpa using e⟩

/-- A workgroup with a region that catches software causes. -/
def sRegion : State := { s0 with wgs := s0.wgs.map fun (g : Workgroup) => { g with regions := [⟨64, 0xFFF, some 3⟩] } }

theorem wit_raised_caught : ∃ i, sRegion.issuing = some i ∧ (catching 0x160 i.wg.regions).isSome = true :=
  issuing_and sRegion (fun i => (catching 0x160 i.wg.regions).isSome) (by decide +kernel)

/-! traps_regions_and_liveness -/
theorem wit_traps :
    (∃ o, Ready s0 (shapeSys 0x01 x0) x0 noExtra o) ∧
    (∃ o, Ready s0 (shapeSys 0x0F x0) x0 noExtra o ∧ s0.debugOn o.i.w.wg.ctx = false) ∧
    (∃ o, Ready s0 (shapeSys 0x04 { x0 with d := 192, a := 192 }) { x0 with d := 192, a := 192 } noExtra o ∧
      (o.rd64 192 warpLane).toNat = 0 ∧ o.i.wg.regions.length < 4) ∧
    (∃ o, Ready sRegion (shapeSys 0x05 x0) x0 noExtra o ∧ o.i.wg.regions.length = 1) ∧
    (∃ o, Ready s0 (shapeSys 0x06 { x0 with ty := 1 }) { x0 with ty := 1 } noExtra o ∧ o.i.mask ≠ 0) := by
  refine ⟨ready_of_now (by decide +kernel), ?_, ?_, ?_, ?_⟩
  · obtain ⟨o, h, e⟩ := ready_and s0 (shapeSys 0x0F x0) x0 (fun o => decide (s0.debugOn o.i.w.wg.ctx = false)) (extra := noExtra) (by decide +kernel) (by decide +kernel)
    exact ⟨o, h, by simpa using e⟩
  · obtain ⟨o, h, e⟩ := ready_and s0 (shapeSys 0x04 { x0 with d := 192, a := 192 }) { x0 with d := 192, a := 192 }
      (fun o => decide ((o.rd64 192 warpLane).toNat = 0 ∧ o.i.wg.regions.length < 4)) (extra := noExtra) (by decide +kernel) (by decide +kernel)
    exact ⟨o, h, by simpa using e⟩
  · obtain ⟨o, h, e⟩ := ready_and sRegion (shapeSys 0x05 x0) x0 (fun o => decide (o.i.wg.regions.length = 1)) (extra := noExtra) (by decide +kernel) (by decide +kernel)
    exact ⟨o, h, by simpa using e⟩
  · obtain ⟨o, h, e⟩ := ready_and s0 (shapeSys 0x06 { x0 with ty := 1 }) { x0 with ty := 1 } (fun o => decide (o.i.mask ≠ 0)) (extra := noExtra) (by decide +kernel) (by decide +kernel)
    exact ⟨o, h, by simpa using e⟩

/-! global_accesses_issue -/
/-- A device whose warp may read and write one 64 KiB page at virtual address 0 that is no commit page. -/
def sMem : State := { s0 with tlb := ⟨newelSite, 0, 0, 65536, 0x001000000000000F⟩ :: s0.tlb }

theorem sMem_translate : (List.range 2).map (fun j => sMem.translate 0 0 (8 * j) .both) =
    [.ok 0 0x001000000000000F, .ok 8 0x001000000000000F] := by decide +kernel

/-- Every lane's address is 0 in these forms. -/
def xMem : XForm := { x0 with d := 8, a := 251, b := 251, ty := 5 }

def gMem : IForm := ⟨false, 5, 127, 0, false, none⟩

/-- The same with no translation cached and 16 walks of other pages in progress on its reticle. -/
def sBusy : State :=
  { sMem with tlb := [], walks := (List.range 16).map fun n => ⟨n, 0, 65536 * (n + 1), none, some (0, 1)⟩ }

theorem wit_global_waits : sBusy.walkersBusy 0 0 0 = true ∧ readyNow sBusy (shapeMem 0x00 xMem) xMem noExtra = true := by decide +kernel

def memNow (s : State) (x : MemAsk × Perm × Acc) (o : Opnd) : Bool :=
  (o.lanes.all fun l => decide (x.1.ea o l = 0) && decide (s.translate o.i.w.core o.i.w.wg.ctx 0 x.2.1 = .ok 0 0x001000000000000F) &&
      !s.walkersBusy o.i.w.core o.i.w.wg.ctx 0) &&
    !o.i.gr.rec_.det &&
    (s.noRoom (x.1.access s o true none (o.lanes.map fun l => ⟨l, 0, 0, 0, x.1.data o l, x.1.data2 o l, keyOf 0 0x001000000000000F⟩))).isNone

theorem wit_global_ready : ∀ x ∈ globalAsks xMem gMem, readyNow sMem x.1.sh x.1.f noExtra = true := by decide +kernel

theorem wit_global_room : ∀ x ∈ globalAsks xMem gMem,
    (match sMem.issuing with | some i => memNow sMem x ⟨i, x.1.f, x.1.sh⟩ | none => false) = true := by decide +kernel

theorem wit_global_accesses_issue : ∀ x ∈ globalAsks xMem gMem,
    ∃ o, Ready sMem x.1.sh x.1.f noExtra o ∧ memNow sMem x o = true :=
  fun x hx => ready_and _ _ _ _ (wit_global_ready x hx) (wit_global_room x hx)

/-! scratchpad_accesses_issue -/
/-- A device whose workgroup has a scratchpad and whose warp reads member 0. -/
def sScr : State := { sMem with grids := sMem.grids.map fun (g : Grid) => { g with rec_ := { g.rec_ with scratch := 1024 } } }

def xScr : XForm := { x0 with d := 8, a := 251, b := 251, c := 251, e := 251, ty := 5 }

def scrNow (s : State) (x : MemAsk × Option (BitVec 8)) (o : Opnd) : Bool :=
  (o.lanes.all fun l => decide (memberOf x.2 o l = 0) && decide (x.1.eo o l = 0)) && decide (0 < o.i.gr.rec_.gang) &&
    o.i.gr.retired.isEmpty && decide (8 ≤ o.i.gr.rec_.scratch) && !o.i.gr.rec_.det && s.pending.isEmpty &&
    (s.noRoom (x.1.access s o false none (o.lanes.map fun l => ⟨l, 0, 0, 0, x.1.data o l, x.1.data2 o l, ⟨0, 0⟩⟩))).isNone

theorem wit_scratch_ready : ∀ x ∈ scratchAsks xScr gMem, readyNow sScr x.1.sh x.1.f noExtra = true := by decide +kernel

theorem wit_scratch_room : ∀ x ∈ scratchAsks xScr gMem,
    (match sScr.issuing with | some i => scrNow sScr x ⟨i, x.1.f, x.1.sh⟩ | none => false) = true := by decide +kernel

theorem wit_scratchpad_accesses_issue : ∀ x ∈ scratchAsks xScr gMem,
    ∃ o, Ready sScr x.1.sh x.1.f noExtra o ∧ scrNow sScr x o = true :=
  fun x hx => ready_and _ _ _ _ (wit_scratch_ready x hx) (wit_scratch_room x hx)

/-! accesses_are_checked_in_order -/
/-- A load from the pair v2, v3 plus 4. -/
def gLid : IForm := ⟨false, 5, 2, 1, false, none⟩

/-- Lane 3 of v2 holds 2: its address is not aligned to 4. -/
def sOdd : State := { s0 with warps := s0.warps.map fun (w : Warp) => w.setV 2 3 2 }

/-- No cached translation, and no leaf for an address. -/
def sNoPage : State := s0

theorem wit_checks : ∃ o, Ready s0 (baseShape 0x1D (⟨false, 5, 2, 0xFF, false, none⟩ : IForm).toX) (⟨false, 5, 2, 0xFF, false, none⟩ : IForm).toX
    noExtra o ∧ decide ((lowestFailing o.lanes fun l =>
      decide (((o.rd64 o.f.a l).toNat : Int) + modOfs o.f * 4 < 0)) = some 0) = true :=
  ready_and _ _ _ _ (by decide +kernel) (by decide +kernel)

theorem wit_checks_unaligned : ∃ o, Ready sOdd (baseShape 0x1D gLid.toX) gLid.toX noExtra o ∧
    decide ((lowestFailing o.lanes fun l => decide ((((o.rd64 o.f.a l).toNat : Int) + modOfs o.f * 4) % 4 ≠ 0)) = some 3) = true :=
  ready_and _ _ _ _ (by decide +kernel) (by decide +kernel)

theorem wit_checks_held : sNoPage.translateAll 0 0 .read [2 ^ 40] = .fail 0x060 (2 ^ 40) ∧ sNoPage.walkersBusy 0 0 (2 ^ 40) = false := by
  decide +kernel

def sTiny : State := { sMem with grids := sMem.grids.map fun (g : Grid) => { g with rec_ := { g.rec_ with scratch := 2 } } }

theorem wit_checks_scratch : ∃ o, Ready sTiny (baseShape 0x1F gMem.toX) gMem.toX noExtra o ∧
    (decide ((lowestFailing o.lanes fun l => decide (o.i.gr.rec_.gang ≤ memberOf none o l)) = none) &&
      decide (o.i.gr.rec_.scratch < 4)) = true :=
  ready_and _ _ _ _ (by decide +kernel) (by decide +kernel)

/-- A gang of two whose member 1 has retired; s0 holds 1, s1 holds 2, s2 holds 5. -/
def sGone : State :=
  { sScr with
    grids := sScr.grids.map fun (g : Grid) => { g with rec_ := { g.rec_ with gang := 2 }, retired := [(1, .exit)] }
    warps := sScr.warps.map fun (w : Warp) => ((w.setS 0 1).setS 1 2).setS 2 5 }

/-- LDL of member s_n at offset 0. -/
def xPeer (n : Nat) : XForm := { xScr with b := BitVec.ofNat 8 (192 + n) }

theorem wit_checks_member : ∃ o, Ready sGone (shapeMem 0x04 (xPeer 2)) (xPeer 2) noExtra o ∧
    decide ((lowestFailing o.lanes fun l => decide (o.i.gr.rec_.gang ≤ memberOf (some (xPeer 2).b) o l)).isSome) = true :=
  ready_and _ _ _ _ (by decide +kernel) (by decide +kernel)

theorem wit_checks_retired : ∃ o, Ready sGone (shapeMem 0x04 (xPeer 0)) (xPeer 0) noExtra o ∧
    (decide ((lowestFailing o.lanes fun l => decide (o.i.gr.rec_.gang ≤ memberOf (some (xPeer 0).b) o l)) = none) &&
      decide ((lowestFailing o.lanes fun l => o.i.gr.retired.any fun r =>
        r.1 == o.i.w.wg.wgid / o.i.gr.rec_.gang * o.i.gr.rec_.gang + memberOf (some (xPeer 0).b) o l).isSome)) = true :=
  ready_and _ _ _ _ (by decide +kernel) (by decide +kernel)

theorem wit_checks_offset : ∃ o, Ready sGone (shapeMem 0x02 { xScr with a := 193, ty := 4 }) { xScr with a := 193, ty := 4 } noExtra o ∧
    decide ((lowestFailing o.lanes fun l => decide (((o.rd o.f.a l).toNat : Int) % 4 ≠ 0)).isSome) = true :=
  ready_and _ _ _ _ (by decide +kernel) (by decide +kernel)

/-! a_performed_access_leaves -/
/-- An atomic add of 5 on the word at physical address 64 of lane 0, outstanding. -/
def aAdd : Access :=
  ⟨7, ⟨0, 0⟩, ⟨0, 0, 0⟩, 0, 1, 0, .atom 0, true, 4, false, some 5, false, [⟨0, 64, 64, 0, 5, 0, ⟨1, 0⟩⟩], 0, 0, 0, none, false, none, [], false⟩

def sAdd : State := { sMem with pending := [.access aAdd] }

theorem wit_performed : sAdd.settle.accessById aAdd.id = some aAdd ∧ sAdd.settle.mayPerform aAdd = true ∧
    (aAdd.lanes.all fun x => !sAdd.settle.lanePoison aAdd x) = true := by decide +kernel

theorem wit_performed_keyed : (aAdd.lanes.all fun x => sAdd.keysAgree x.key x.pa aAdd.size &&
    aAdd.lanes.all fun y => decide (sAdd.keyIn x.key = sAdd.keyIn y.key)) = true := by decide +kernel

theorem wit_performed_lane : Alone aAdd ⟨0, 64, 64, 0, 5, 0, ⟨1, 0⟩⟩ ∧ Aligned aAdd ⟨0, 64, 64, 0, 5, 0, ⟨1, 0⟩⟩ ∧ NoKeptFrame sAdd 64 ∧
    Unraced sAdd .lsu aAdd ⟨0, 64, 64, 0, 5, 0, ⟨1, 0⟩⟩ := by
  refine ⟨⟨[], [], rfl, by simp⟩, ⟨by decide, by decide⟩, ?_, by unfold Unraced; decide +kernel⟩
  intro v hv
  exact absurd hv (by have h : sAdd.views = [] := by decide +kernel
                      simp [h])

/-! loaded_values_arrive -/
/-- A load's two words on their way to v4, v5 of lane 3. -/
def rTwo : LoadRet := ⟨9, ⟨0, 0⟩, ⟨0, 0, 0⟩, 0, 4, false, 2, 0xFFFF, [(3, 0x500000006)], [], false⟩

def sTwo : State := { s0 with returns := [rTwo] }

theorem wit_load_return : (sTwo.returns.find? fun x => x.id = rTwo.id) = some rTwo ∧
    ((sTwo.warpAt rTwo.warp).map fun w => w.liveLanes.getLsbD 3) = some true ∧
    (rTwo.vals.filter fun e => e.1 = 3) = [(3, 0x500000006)] := by decide +kernel

def sTwoBad : State := { s0 with returns := [{ rTwo with poisoned := [(3, 64)] }] }

theorem wit_load_poison : ((sTwoBad.wgAt rTwo.wg).map fun g => g.ended) = some none ∧ (sTwoBad.warpAt rTwo.warp).isSome = true := by
  decide +kernel

def xLdk : XForm := { x0 with d := 4, a := 251, ty := 5, mod := 0x100 }

theorem wit_ldk : ∃ o, Ready s0 (shapeMem 0x06 xLdk) xLdk noExtra o ∧
    ((s0.ctxAt o.i.w.wg.ctx).isSome && o.lanes.all fun l => o.rd xLdk.a l == 0) = true :=
  ready_and _ _ _ _ (by decide +kernel) (by decide +kernel)

/-! near_memory_atomics_are_performed -/
/-- The add of a near-memory atomic, before and after it is sent. -/
def aNma : Access := { aAdd with kind := .nma 0, dst := none }

def sNma : State := { sMem with pending := [.access aNma] }
def sNmaSent : State := { sMem with pending := [.access { aNma with sent := some 8 }] }

theorem wit_nma_home : sNma.settle.accessById aNma.id = some aNma ∧ sNma.settle.mayPerform aNma = true ∧
    sNma.settle.pending = [.access aNma] ∧ aNma.sent = none ∧ aNma.buffered = false ∧ sNma.poisonedAt 64 4 = false := by decide +kernel
theorem wit_nma_ack : sNmaSent.accessById aNma.id = some { aNma with sent := some 8 } ∧
    sNmaSent.pending = [.access { aNma with sent := some 8 }] := by decide +kernel
theorem wit_nma_keyed : (aNma.lanes.all fun x => sNma.keysAgree x.key x.pa aNma.size &&
    aNma.lanes.all fun y => decide (sNma.keyIn x.key = sNma.keyIn y.key)) = true := by decide +kernel
theorem wit_nma_unraced : sNma.settle.raced .near aNma.id none 64 4 = false ∧ sNmaSent.raced .near aNma.id none 64 4 = false := by decide +kernel
theorem wit_nmdrain : (∃ i, s0.issuing = some i) ∧ s0.pending = [] ∧ (∃ i, sNma.issuing = some i ∧ decide (i.w.key = ⟨0, 0⟩) = true) :=
  ⟨Option.isSome_iff_exists.1 (by decide +kernel), by decide +kernel, issuing_and _ _ (by decide +kernel)⟩

/-! line_operations -/
theorem wit_line_operations : ∀ x ∈ [0x10, 0x11, 0x12, 0x13], ∃ o, Ready sMem (shapeMem x { x0 with d := 4, a := 251 }) { x0 with d := 4, a := 251 } noExtra o ∧
    (o.lanes.all fun l => decide (o.rd64 251 l = 0) && decide (sMem.translate 0 0 0 .either = .ok 0 0x001000000000000F) &&
      !sMem.paPending 0 1 && !sMem.walkersBusy 0 0 0 && decide (o.i.w.wg.ctx = 0)) = true := by
  have h1 : ∀ x ∈ [0x10, 0x11, 0x12, 0x13], readyNow sMem (shapeMem x { x0 with d := 4, a := 251 }) { x0 with d := 4, a := 251 } noExtra = true := by
    decide +kernel
  have h2 : ∀ x ∈ [0x10, 0x11, 0x12, 0x13], (match sMem.issuing with
    | some i => (fun (o : Opnd) => o.lanes.all fun l => decide (o.rd64 251 l = 0) && decide (sMem.translate 0 0 0 .either = .ok 0 0x001000000000000F) &&
      !sMem.paPending 0 1 && !sMem.walkersBusy 0 0 0 && decide (o.i.w.wg.ctx = 0)) ⟨i, { x0 with d := 4, a := 251 }, shapeMem x { x0 with d := 4, a := 251 }⟩
    | none => false) = true := by decide +kernel
  exact fun x hx => ready_and _ _ _ _ (h1 x hx) (h2 x hx)

/-! watches_and_parking -/
def xWatch : XForm := { x0 with a := 251, b := 251, ty := 4, mod := 0x110 }

theorem wit_watch_global : ∃ o, Ready sMem (shapeMem 0x14 xWatch) xWatch noExtra o ∧
    (decide (o.i.mask ≠ 0) && decide (o.rd64 251 warpLane = 0) && decide (o.i.w.wg.ctx = 0) &&
      (sMem.noRoom (o.newAccess sMem (.watch 1) true 4 none [⟨warpLane, 0, 0, 0, 0, 0, ⟨1, 0⟩⟩])).isNone && !sMem.walkersBusy 0 0 0 &&
      decide (sMem.translate 0 0 0 .read = .ok 0 0x001000000000000F)) = true :=
  ready_and _ _ _ _ (by decide +kernel) (by decide +kernel)

theorem wit_watch_scratch : ∃ o, Ready s0 (shapeMem 0x14 { xWatch with mod := 0x101 }) { xWatch with mod := 0x101 } noExtra o ∧
    (decide (o.i.mask ≠ 0) && decide (o.rd 251 warpLane = 0) && decide (4 ≤ o.i.gr.rec_.scratch) && s0.pending.isEmpty &&
      (s0.noRoom (o.newAccess s0 (.watch 1) false 4 none [⟨warpLane, 0, 0, o.i.w.wg.wgid, 0, 0, ⟨0, 0⟩⟩])).isNone) = true :=
  ready_and _ _ _ _ (by decide +kernel) (by decide +kernel)

/-- The arming read of slot 0, outstanding, on the word at physical address 64. -/
def aArm : Access := { aAdd with kind := .watch 0, dst := none, lanes := [⟨warpLane, 64, 64, 0, 0, 0, ⟨1, 0⟩⟩] }

def sArm : State := { sMem with
  pending := [.access aArm]
  warps := sMem.warps.map fun (w : Warp) => { w with watch := [(0, ⟨true, 64, 64, ⟨1, 0⟩, false, 0, 1, false, some 7⟩)] } }

theorem wit_watch_armed : sArm.settle.accessById aArm.id = some aArm ∧ sArm.settle.mayPerform aArm = true ∧
    ((sArm.warpAt aArm.warp).map fun w => (w.watch.find 0).map (·.arming)) = some (some (some aArm.id)) ∧
    (sArm.wgAt { aArm.wg with wgid := 0 }).isSome = true := by decide +kernel

theorem wit_watch_disarm : ∃ o, Ready s0 (shapeMem 0x14 { x0 with mod := 0x8 }) { x0 with mod := 0x8 } noExtra o ∧ decide (o.i.mask ≠ 0) = true :=
  ready_and _ _ _ _ (by decide +kernel) (by decide +kernel)

theorem wit_park : (∃ i, s0.issuing = some i ∧ i.w.watch.isEmpty = true) ∧
    (∃ i, ({ s0 with warps := s0.warps.map fun (w : Warp) => { w with watch := [(0, ⟨false, 0, 0, ⟨0, 0⟩, false, 0, 1, false, none⟩)] } } : State).issuing = some i ∧
      (!i.w.watch.isEmpty && i.w.watch.all fun e => !e.2.fired) = true) :=
  ⟨issuing_and _ _ (by decide +kernel), issuing_and _ _ (by decide +kernel)⟩

/-! queue_streams -/
/-- A scratchpad with a descriptor of 2 groups at 0x100, lane stride 4, at 64. -/
def sDesc : State :=
  { sMem with wgs := sMem.wgs.map fun (g : Workgroup) => { g with scratch := [(65, 1), (72, 2), (80, 4)] } }

def xQcfg : XForm := { x0 with d := 1, a := 0xC2 }

/-- s2 holds the offset 64. -/
def sDescReg : State := { sDesc with warps := sDesc.warps.map fun (w : Warp) => w.setS 2 64 }

theorem wit_qcfg : ∃ o, Ready sDescReg (shapeMem 0x0E xQcfg) xQcfg noExtra o ∧
    (decide (o.i.mask ≠ 0) && decide (1 ≤ o.i.w.width) && !sDescReg.scratchDue o.i.w.key && sDescReg.pending.isEmpty && decide ((o.rd xQcfg.a warpLane).toNat = 64) &&
      decide (96 ≤ o.i.gr.rec_.scratch) && (readStream o.i.wg.scratch 64 o.i.w.width 0).2) = true :=
  ready_and _ _ _ _ (by decide +kernel) (by decide +kernel)

theorem wit_qcfg_illegal : ∃ o, Ready s0 (shapeMem 0x0E xQcfg) xQcfg noExtra o ∧
    (decide (o.i.mask ≠ 0) && s0.pending.isEmpty && decide ((o.rd xQcfg.a warpLane).toNat = 0) &&
      decide (readLE o.i.wg.scratch 8 4 = 0)) = true :=
  ready_and _ _ _ _ (by decide +kernel) (by decide +kernel)

/-- q1 bound to a load stream of words at 0, lane stride 4. -/
def tLoad : Stream := ⟨false, false, 0, 3, 64, 4, 0, 0, [], [], [1, 1]⟩

def sStream : State := { sMem with warps := sMem.warps.map fun (w : Warp) => { w with q := [(1, tLoad)] } }

theorem wit_stream : ((sStream.warpAt ⟨0, 0⟩).map fun w => (w.q.find 1, sStream.qsNext 0)) = some (some tLoad, some (qsCode 0 0 1)) ∧
    (match sStream.translateAll 192 0 .read ((List.range 16).map fun l => ((0 : Int) + 0 * 64 + l * 4).toNat) with
     | .ok pas => !(pas.any fun p => sStream.paPending p.1 8) && sStream.walks.isEmpty | _ => false) = true ∧
    (∃ i, sStream.issuing = some i ∧ decide (i.w.q.find 1 = some tLoad) = true) :=
  ⟨by decide +kernel, by decide +kernel, issuing_and _ _ (by decide +kernel)⟩

/-- q1 bound to a store stream with one pushed group, and to a load stream whose elements no page holds. -/
def sPushed : State := { sMem with warps := sMem.warps.map fun (w : Warp) =>
  { w with q := [(1, { tLoad with store := true, used := 1, asks := [], buf := [⟨3, 0, [(0, 9)], 0, none⟩] })] } }
def sStreamOut : State := { sMem with warps := sMem.warps.map fun (w : Warp) => { w with q := [(1, { tLoad with base := 2 ^ 40 })] } }
def sPushedOut : State := { sMem with warps := sMem.warps.map fun (w : Warp) =>
  { w with q := [(1, { tLoad with base := 2 ^ 40, store := true, used := 1, asks := [], buf := [⟨3, 0, [(0, 9)], 0, none⟩] })] } }

theorem wit_stream_turns : sPushed.qsNext 0 = some (qsCode 0 0 1) ∧ sStreamOut.qsNext 0 = some (qsCode 0 0 1) ∧
    sPushedOut.qsNext 0 = some (qsCode 0 0 1) ∧
    (match sPushed.translateAll 192 0 .write (groupVas tLoad 0 16) with | .ok _ => true | _ => false) = true ∧
    (match sStreamOut.translateAll 192 0 .read (groupVas { tLoad with base := 2 ^ 40 } 0 16) with | .fail _ _ => true | _ => false) = true ∧
    (match sPushedOut.translateAll 192 0 .write (groupVas { tLoad with base := 2 ^ 40 } 0 16) with | .fail _ _ => true | _ => false) = true := by
  decide +kernel

def gStore : StoreGroup := ⟨5, some 1, ⟨0, 0⟩, ⟨0, 0, 0⟩, false, [(0, 64, 9, ⟨1, 0⟩)], [64], 0, []⟩
def sStore : State := { sMem with storeGroups := [gStore] }

theorem wit_store_group : (sStore.storeGroups.find? fun x => x.id = gStore.id) = some gStore ∧
    (gStore.elems.any fun e => sStore.paPending e.2.1 8) = false ∧ sStore.isSaved gStore.wg = false ∧
    (gStore.elems.all fun e => sStore.keysAgree e.2.2.2 e.2.1 4 && !sStore.raced .plain gStore.id none e.2.1 4) = true := by
  decide +kernel

/-! copy_records_are_queued_and_admitted -/
/-- A record at scratchpad offset 64 that copies 16 bytes from virtual address 0 to scratchpad offset 0. -/
def sRec : State :=
  { sDescReg with wgs := sDescReg.wgs.map fun (g : Workgroup) => { g with scratch := [(80, 16)] } }

def xKick : XForm := { x0 with a := 0xC2, mod := 0x110 }

theorem wit_kick : ∃ o, Ready sRec (shapeAsync 0x00 xKick) xKick noExtra o ∧
    (!sRec.scratchDue o.i.w.key && decide (o.countIB = 1) && decide ((o.rd xKick.a warpLane).toNat = 64) &&
      decide (BatchLegal o.i (xKick.fld 1 0) 64 1) && decide (sRec.queueUsed o.i.w.core = 0) &&
      decide (96 ≤ o.i.gr.rec_.scratch)) = true :=
  ready_and _ _ _ _ (by decide +kernel) (by decide +kernel)

theorem wit_kick_bad : ∃ o, Ready sDescReg (shapeAsync 0x00 xKick) xKick noExtra o ∧
    decide (¬ BatchLegal o.i (xKick.fld 1 0) 64 1) = true :=
  ready_and _ _ _ _ (by decide +kernel) (by decide +kernel)

theorem wit_inflt_drain : (∃ o, Ready s0 (shapeAsync 0x01 { x0 with d := 0xC1, mod := 1 }) { x0 with d := 0xC1, mod := 1 } noExtra o) ∧
    (∃ o, Ready s0 (shapeAsync 0x02 x0) x0 noExtra o) :=
  ⟨ready_of_now (by decide +kernel), ready_of_now (by decide +kernel)⟩

def cRec : CopyRec := ⟨3, ⟨0, 0⟩, ⟨0, 0, 0⟩, 0, 0, 0, 1, 16, 0, 0, none, 0, 0, none, false, 0, 0, 0, none, [], []⟩
def sQueued : State := { sMem with records := [cRec] }

theorem wit_admission : (sQueued.records.find? fun r => r.warp.core = 0 && sQueued.mayAdmit r) = some cRec ∧
    (sQueued.records.filter fun x => x.id = cRec.id).length = 1 := by decide +kernel

/-! copy_chunks_move_bytes -/
def sAdmitted : State := { sMem with records := [{ cRec with admitted := true }] }

theorem wit_chunk_issue : sAdmitted.engineTurn 0 0 = some { cRec with admitted := true } ∧
    sAdmitted.chunkTrans { cRec with admitted := true } 0 0 [] = .ok (0, 0x001000000000000F) (0, 0) [] ∧ sAdmitted.walks = [] := by decide +kernel

theorem wit_chunk_fault : (State.engineTurn { sMem with records := [{ cRec with admitted := true, src := 2 ^ 40 }] } 0 0).isSome = true ∧
    s0.chunkTrans { cRec with admitted := true, src := 2 ^ 40 } (2 ^ 40) 0 [] = .fail 0x060 (2 ^ 40) .copySrc := by decide +kernel

def cChunk : Chunk := ⟨4, 3, 0, 0, 16, 0, 0, [], ⟨1, 0⟩, ⟨0, 0⟩⟩
def sMoving : State := { sMem with records := [{ cRec with admitted := true, row := 1, open_ := 1 }], chunks := [cChunk] }

theorem wit_chunk_performed : (sMoving.chunks.find? fun x => x.id = cChunk.id) = some cChunk ∧
    ((sMoving.records.find? fun x => x.id = cChunk.rec_).map fun r => (r.op, r.open_, r.row, r.rows)) = some (0, 1, 1, 1) ∧
    sMoving.paPending 0 16 = false ∧ sMoving.keysAgree ⟨1, 0⟩ 0 16 = true ∧
    sMoving.raced .plain 4 (some ⟨0, 0, 0⟩) 0 4 = false ∧
    sMoving.raced .plain 4 none 0 4 = false ∧ sMoving.raced .reduce 4 none 0 4 = false := by decide +kernel

/-- The same record dequantising 4-bit elements under a scale byte at 16, and counting down at a live object at offset 256. -/
def sDequant : State :=
  { sMem with
    wgs := sMem.wgs.map fun (g : Workgroup) => { g with scratch := [(271, 0x40)] }
    records := [{ cRec with admitted := true, row := 1, open_ := 1, op := 2, bar := some 256, arg := some (16, 0) }]
    chunks := [{ cChunk with scales := [(16, ⟨1, 0⟩)] }] }

theorem wit_chunk_dequant : (sDequant.chunks.find? fun x => x.id = 4) = some { cChunk with scales := [(16, ⟨1, 0⟩)] } ∧
    sDequant.paPending 16 1 = false ∧ sDequant.keysAgree ⟨1, 0⟩ 16 1 = true ∧ (sDequant.wgAt ⟨0, 0, 0⟩).map (·.scratch) = some [(271, 0x40)] := by
  decide +kernel

theorem wit_chunk_object : ObjIs [(271, 0x40)] 256 ⟨0, 0, 0, 0, 1, 0, 0, 0⟩ := by
  refine ⟨?_, ?_, ?_, ?_, ?_, ?_, ?_, ?_, ?_⟩ <;> decide +kernel

/-! barrier_updates -/
/-- Fields of an object word that names a scratchpad object at offset 0, and a global one at virtual address 0. -/
def xObj : XForm := { x0 with a := 251, b := 251, c := 251 }
def xObjG : XForm := { xObj with mod := 1 }

/-- A live scratchpad object at offset 0 that expects two more arrivals of three. -/
def sBar : State :=
  { sMem with wgs := sMem.wgs.map fun (g : Workgroup) => { g with scratch := [(0, 2), (2, 3), (15, 0x40)] } }

theorem wit_barrier_scratch : ∀ x ∈ [0x03, 0x04, 0x05, 0x06, 0x09], ∃ o, Ready sBar (shapeAsync x { xObj with mod := 2 }) { xObj with mod := 2 } noExtra o ∧
    (decide ((o.rd 251 warpLane).toNat = 0) && decide (16 ≤ o.i.gr.rec_.scratch) && sBar.pending.isEmpty &&
      decide ((sBar.wgAt o.i.w.wg).map (·.scratch) = some [(0, 2), (2, 3), (15, 0x40)])) = true := by
  have h1 : ∀ x ∈ [0x03, 0x04, 0x05, 0x06, 0x09], readyNow sBar (shapeAsync x { xObj with mod := 2 }) { xObj with mod := 2 } noExtra = true := by
    decide +kernel
  have h2 : ∀ x ∈ [0x03, 0x04, 0x05, 0x06, 0x09], (match sBar.issuing with
    | some i => (fun (o : Opnd) => decide ((o.rd 251 warpLane).toNat = 0) && decide (16 ≤ o.i.gr.rec_.scratch) && sBar.pending.isEmpty &&
      decide ((sBar.wgAt o.i.w.wg).map (·.scratch) = some [(0, 2), (2, 3), (15, 0x40)])) ⟨i, { xObj with mod := 2 }, shapeAsync x { xObj with mod := 2 }⟩
    | none => false) = true := by decide +kernel
  exact fun x hx => ready_and _ _ _ _ (h1 x hx) (h2 x hx)

/-- BINIT with scope 3 and a count of 2. -/
theorem wit_barrier_scope : ∃ o, Ready sBar (shapeAsync 0x03 { xObj with b := 0, mod := 0x216 }) { xObj with b := 0, mod := 0x216 } noExtra o ∧
    decide (({ xObj with b := 0, mod := 0x216 } : XForm).fld 3 1 = 3) = true :=
  ready_and _ _ _ _ (by decide +kernel) (by decide +kernel)

theorem wit_barrier_fields : ObjIs [(0, 2), (2, 3), (15, 0x40)] 0 ⟨3, 2, 0, 0, 1, 0, 0, 0⟩ := by
  refine ⟨?_, ?_, ?_, ?_, ?_, ?_, ?_, ?_, ?_⟩ <;> decide +kernel

theorem wit_barrier_global : ∃ o, Ready sMem (shapeAsync 0x04 { xObjG with mod := 3 }) { xObjG with mod := 3 } noExtra o ∧
    (decide (o.rd64 251 warpLane = 0) && decide (o.i.w.wg.ctx = 0) && decide (sMem.translate 0 0 0 .both = .ok 0 0x001000000000000F) &&
      !sMem.paPending 0 16 && sMem.keysAgree ⟨1, 0⟩ 0 16 && sMem.views.isEmpty && !sMem.walkersBusy 0 0 0 &&
      (sMem.barQueue ⟨true, o.i.w.wg, 0, ⟨1, 0⟩⟩).isEmpty) = true :=
  ready_and _ _ _ _ (by decide +kernel) (by decide +kernel)

theorem wit_barrier_stop : stateStop ⟨3, 2, 0, 0, 2, 0, 0, 0⟩ none = some 0x0E2 ∧
    countRule 2 0 false ⟨3, 2, 0, 0, 1, 0, 0, 9⟩ = ⟨3, 3, 0, 0, 1, 0, 0, 10⟩ := by decide

/-! late_barrier_updates -/
/-- The live object of sBar while a store of its warp is outstanding, and an arrival on it that is. -/
def sBarLate : State := { sBar with nextId := 20, pending := [.access { aAdd with kind := .store, threads := 0xFFFF }] }

theorem wit_late_issue : ∃ o, Ready sBarLate (shapeAsync 0x04 { xObj with mod := 2 }) { xObj with mod := 2 } noExtra o ∧
    (decide ((o.rd 251 warpLane).toNat = 0) && decide (16 ≤ o.i.gr.rec_.scratch) && sBarLate.releaseDue o.i.w.key o.i.mask sBarLate.nextId &&
      (sBarLate.barQueue (.own o.i.w.wg 0)).isEmpty && decide (o.arrivalStop false 0 ⟨3, 2, 0, 0, 1, 0, 0, 0⟩ = none)) = true :=
  ready_and _ _ _ _ (by decide +kernel) (by decide +kernel)

def aArrive : Access := { aAdd with kind := .bar (.arrive false 1 0), glob := false, size := 16, dst := none, lanes := [⟨warpLane, 0, 0, 0, 0, 0, ⟨0, 0⟩⟩] }
def sArrive : State := { sBar with pending := [.access aArrive] }

theorem wit_late_performed : sArrive.settle.accessById aArrive.id = some aArrive ∧ sArrive.settle.mayPerform aArrive = true ∧
    sArrive.settle.barQueue ⟨false, ⟨0, 0, 0⟩, 0, ⟨0, 0⟩⟩ = [(7, .arrive false 1 0)] ∧
    (sArrive.wgAt ⟨0, 0, 0⟩).map (·.scratch) = some [(0, 2), (2, 3), (15, 0x40)] := by decide +kernel
theorem wit_late_taken : OpTaken ⟨3, 2, 0, 0, 1, 0, 0, 0⟩ (.arrive false 1 0) := by unfold OpTaken BadBytes; decide

/-! barrier_waits_and_conditions -/
theorem wit_barrier_waits : ∀ x ∈ [0x07, 0x08], ∃ o, Ready sBar (shapeAsync x { xObj with d := 4 }) { xObj with d := 4 } noExtra o ∧
    (decide ((o.rd 251 warpLane).toNat = 0) && decide (16 ≤ o.i.gr.rec_.scratch) && !(o.rd 251 warpLane).toNat.testBit 0 &&
      decide ((sBar.wgAt o.i.w.wg).map (·.scratch) = some [(0, 2), (2, 3), (15, 0x40)])) = true := by
  have h1 : ∀ x ∈ [0x07, 0x08], readyNow sBar (shapeAsync x { xObj with d := 4 }) { xObj with d := 4 } noExtra = true := by decide +kernel
  have h2 : ∀ x ∈ [0x07, 0x08], (match sBar.issuing with
    | some i => (fun (o : Opnd) => decide ((o.rd 251 warpLane).toNat = 0) && decide (16 ≤ o.i.gr.rec_.scratch) &&
      !(o.rd 251 warpLane).toNat.testBit 0 &&
      decide ((sBar.wgAt o.i.w.wg).map (·.scratch) = some [(0, 2), (2, 3), (15, 0x40)])) ⟨i, { xObj with d := 4 }, shapeAsync x { xObj with d := 4 }⟩
    | none => false) = true := by decide +kernel
  exact fun x hx => ready_and _ _ _ _ (h1 x hx) (h2 x hx)

theorem wit_barrier_phase : ObjIs [(0, 2), (2, 3), (12, 1), (15, 0x40)] 0 ⟨3, 2, 0, 0, 1, 0, 0, 1⟩ := by
  refine ⟨?_, ?_, ?_, ?_, ?_, ?_, ?_, ?_, ?_⟩ <;> decide +kernel

/-- A warp whose one set is blocked in DRAIN, with nothing outstanding. -/
def sBlocked : State :=
  { sMem with
    flights := []
    warps := sMem.warps.map fun (w : Warp) => { w with pcs := [⟨0, 0xFFFF, some .drain⟩] } }

theorem wit_condition : (sBlocked.settle.warpAt ⟨0, 0⟩).map (fun w => (w.pcs, sBlocked.settle.waitHolds w .drain)) =
    some ([⟨0, 0xFFFF, some .drain⟩], true) := by decide +kernel

/-! tickets_pass_in_order -/
def xTicket : XForm := { x0 with a := 251 }

theorem wit_tickets : (∃ o, Ready s0 (shapeAsync 0x0A xTicket) xTicket noExtra o ∧
      (decide (0 ∉ o.i.gr.abandoned) && decide ((o.rd 251 warpLane).toNat = 0) && decide (SMap.get 0 o.i.gr.tickets 0 = 0) &&
        decide (o.i.w.wg.wgid = 0)) = true) ∧
    (∃ o, Ready s0 (shapeAsync 0x0B x0) x0 noExtra o ∧ (o.i.gr.passes.isEmpty && s0.pending.isEmpty) = true) :=
  ⟨ready_and _ _ _ _ (by decide +kernel) (by decide +kernel), ready_and _ _ _ _ (by decide +kernel) (by decide +kernel)⟩

def sPass : State := { s0 with grids := s0.grids.map fun (g : Grid) => { g with passes := [⟨3, 0, ⟨0, 0⟩, 9⟩] } }

theorem wit_ticket_advance : ((sPass.gridAt ⟨0, 0⟩).map fun g => g.passes.find? fun x => x.t = 3) = some (some ⟨3, 0, ⟨0, 0⟩, 9⟩) ∧
    sPass.pending = [] := by decide +kernel

/-! dependences_and_marks -/
/-- A grid with a completion area at 0x100 that needs the one producer whose area is at 0x80. -/
def sDep : State :=
  { sMem with grids := sMem.grids.map fun (g : Grid) => { g with rec_ := { g.rec_ with compl := 0x100, pred := 0x80, depfn := 5, pgx := 1, pgy := 1, pgz := 1 } } }

theorem wit_depdone : (∃ o, Ready s0 (shapeAsync 0x0D x0) x0 noExtra o ∧ decide (o.i.gr.rec_.compl = 0) = true) ∧
    (∃ o, Ready sDep (shapeAsync 0x0D x0) x0 noExtra o ∧ decide (o.i.gr.rec_.compl ≠ 0) = true) :=
  ⟨ready_and _ _ _ _ (by decide +kernel) (by decide +kernel), ready_and _ _ _ _ (by decide +kernel) (by decide +kernel)⟩

theorem wit_depwait : (∃ o, Ready s0 (shapeAsync 0x0C x0) x0 noExtra o ∧ decide (o.i.gr.rec_.depfn = 0) = true) ∧
    (∃ o, Ready sDep (shapeAsync 0x0C x0) x0 noExtra o ∧ (decide (o.i.gr.rec_.depfn = 5) &&
      decide (o.i.gr.rec_.needed o.i.w.wg.wgid = [0]) && decide (o.i.w.wg.ctx = 0) &&
      decide (sDep.translate 0 0 0x80 .read = .ok 0x80 0x001000000000000F) && !sDep.paPending 0x80 1 && sDep.lineKeys.isEmpty && sDep.walks.isEmpty) = true) :=
  ⟨ready_and _ _ _ _ (by decide +kernel) (by decide +kernel), ready_and _ _ _ _ (by decide +kernel) (by decide +kernel)⟩

def sDue : State := { sDep with wgs := sDep.wgs.map fun (g : Workgroup) => { g with doneAt := some 5 } }

theorem wit_done_mark : ((sDue.wgAt ⟨0, 0, 0⟩).map fun g => (g.doneAt, g.doneMade, g.ended)) = some (some 5, false, none) ∧ sDue.walkersBusy newelSite 0 0x100 = false ∧
    ((sDue.gridAt ⟨0, 0⟩).map fun g => g.rec_.compl) = some 0x100 ∧ sDue.workOpen ⟨0, 0, 0⟩ (2 ^ 64) (some 5) = false ∧
    sDue.translate newelSite 0 0x100 .write = .ok 0x100 0x001000000000000F ∧ sDue.paPending 0x100 1 = false ∧ sDue.views = [] ∧
    sDue.lineKeys = [] := by decide +kernel

/-! flights_walks_and_results -/
def sIdle : State := { s0 with flights := [] }

theorem wit_flight_start : sIdle.settle.flights = [] ∧
    (sIdle.settle.warps.any fun v => v.core = 0 && v.pos = 0 && sIdle.settle.isReady v) = true ∧
    (sIdle.settle.warps.all fun v => v.pcs.length == 1 && v.recorded.isNone && v.sweep.isEmpty && v.lowRuns == 0 && v.begun.isEmpty) = true := by decide +kernel

theorem wit_writeback : ∃ x ∈ ({ s0 with scoreboard := [(⟨0, 0⟩, [5])] } : State).scoreboard, x.1 = ⟨0, 0⟩ := ⟨(⟨0, 0⟩, [5]), by simp, rfl⟩

/-- Walks that are under way: one of a prefetch that finds a leaf, one of a prefetch that fails, one of a fetch that fails. -/
def sWalks : State := { s0 with walks := [⟨1, 0, 64, none, none⟩, ⟨2, 0, 2 ^ 40, none, none⟩, ⟨3, 0, 2 ^ 40, some ⟨0, 0⟩, none⟩] }

theorem wit_walks : (sWalks.walks.map fun x => (match sWalks.walkResult x with | .leaf _ _ _ => true | r => r = .fail 0x060, sWalks.walkServed x && !sWalks.bringPending x)) =
      [(true, true), (true, true), (true, true)] ∧ sWalks.walk 0 0 (2 ^ 40) = .fail 0x060 ∧
    (match (sWalks.frontFlight ⟨0, 0⟩).issuing with | some i => decide (i.w.key = ⟨0, 0⟩) | none => false) = true := by decide +kernel

/-! launches_retirements_and_completions -/
/-- A queue of the host's own ring with one entry written. -/
def qHost : LQueue := ⟨⟨2, 0, 0, 4, true, 0, 0, 0⟩, 0, 0, 1, false, 0, 0, 0⟩

def sLaunch : State := { s0 with queues := [qHost], ready := true }

theorem wit_launch_entry : (sLaunch.queues.find? fun x => x.p.queue = 2) = some qHost ∧ (sLaunch.ctxAt 0).isSome = true ∧
    sLaunch.headEntry qHost (List.replicate 64 0) = some (List.replicate 64 0) ∧ sLaunch.quar = false ∧
    ((sLaunch.ctxAt 0).map (·.st)) = some .resident ∧ (parseEntry (List.replicate 64 0)).reserved = false ∧
    (parseEntry (List.replicate 64 0)).waits = [] ∧ (parseEntry (1 :: List.replicate 63 0)).reserved = true ∧ qHost.drain ≤ qHost.head ∧
    sLaunch.walks = [] ∧ sLaunch.pending = [] := by decide +kernel

theorem wit_launch_drained : (({ s0 with queues := [{ qHost with drain := 1 }] } : State).queues.find? fun x => x.p.queue = 2) =
      some { qHost with drain := 1 } ∧
    ({ s0 with queues := [{ qHost with drain := 1 }] } : State).headEntry { qHost with drain := 1 } (List.replicate 64 0) =
      some (List.replicate 64 0) := by decide +kernel

theorem wit_launch_record : (sLaunch.virtBytes 0 0 256).isSome = true ∧
    (parseEntry ([0, 0, 0, 0x10] ++ List.replicate 60 0)).opc = 1 ∧
    ((sLaunch.virtBytes 0 0 256).map fun b => sLaunch.checkRecord (parseRecord b)) = some 1 := by decide +kernel

/-- An entry of no launch with one wait, for workgroup 0 of an area at 0x100. -/
def waitEntry : List Byte :=
  [0, 0, 0, 4, 0, 0, 0, 0, 0, 0, 0, 0, 0, 0, 0, 0, 0, 1, 0, 0, 0, 0, 0, 0, 1, 0, 0, 0, 1, 0, 0, 0] ++ List.replicate 32 0

theorem wit_launch_waits : (parseEntry waitEntry).waits = [⟨0x100, 1, 1⟩] ∧ (parseEntry waitEntry).reserved = false ∧
    (parseEntry waitEntry).opc = 0 ∧ sLaunch.headEntry qHost waitEntry = some waitEntry ∧ sLaunch.virtBytes 0 0x100 1 = some [0] ∧
    sLaunch.virtBytes 0 0x108 1 = some [0] ∧ sLaunch.vaWaits newelSite 0 0x100 1 = false ∧
    (let t : State := { sLaunch with mem := writeBytes sLaunch.mem 0x100 [1] }
     t.virtBytes 0 0x100 1 = some [1]) ∧
    (let t : State := { sLaunch with mem := writeBytes sLaunch.mem 0x108 [1] }
     t.virtBytes 0 0x108 1 = some [1]) := by decide +kernel

theorem wit_launch_misplaced : WaitBad ⟨1, 1, 1⟩ ∧ ¬ WaitBad ⟨0x100, 1, 1⟩ := by unfold WaitBad; decide

def sEnded : State :=
  { s0 with flights := [], wgs := s0.wgs.map fun (g : Workgroup) => { g with ended := some .exit } }

theorem wit_retirement : ((sEnded.wgAt ⟨0, 0, 0⟩).map fun g => (g.ended, g.saved, g.owed)) = some (some .exit, false, []) ∧
    ((sEnded.gridAt ⟨0, 0⟩).map fun g => g.rec_.compl) = some 0 ∧ sEnded.pending = [] ∧ sEnded.records = [] ∧
    sEnded.storeGroups = [] ∧ (sEnded.cores.all fun x => x.mq.isEmpty) = true ∧
    ((sEnded.ctxAt 0).map (·.st)) = some .resident ∧ (sEnded.warps.all fun w => w.q.isEmpty) = true := by decide +kernel

/-- The same in a grid with a completion area, and with a live object owed at 0x200. -/
def sEndedArea : State := { sEnded with grids := sEnded.grids.map fun (g : Grid) => { g with rec_ := { g.rec_ with compl := 0x100 } } }
def sEndedOwing : State :=
  { sEnded with mem := writeBytes sEnded.mem 0x20F [0x40], wgs := sEnded.wgs.map fun (g : Workgroup) => { g with owed := [0x200] } }

theorem wit_retirement_area : sEndedArea.walkersBusy newelSite 0 0x100 = false ∧ sEndedArea.paPending 0x100 1 = false ∧ sEndedArea.views = [] ∧
    sEndedArea.translate newelSite 0 0x100 .write = .ok 0x100 0x001000000000001F ∧ sEndedArea.lineKeys = [] ∧
    ((sEndedArea.wgAt ⟨0, 0, 0⟩).map fun g => (g.ended, g.doneMade, g.owed)) = some (some .exit, false, []) := by decide +kernel

theorem wit_retirement_owed : sEndedOwing.vaWaits newelSite 0 0x200 16 = false ∧ sEndedOwing.views = [] ∧
    sEndedOwing.translate newelSite 0 0x200 .both = .ok 0x200 0x001000000000001F ∧ sEndedOwing.lineKeys = [] ∧
    sEndedOwing.galOps = [] ∧ ((sEndedOwing.wgAt ⟨0, 0, 0⟩).map (·.owed)) = some [0x200] ∧
    readLE sEndedOwing.mem 0x20E 2 = 2 ^ 14 := by decide +kernel

def sCompleted : State :=
  { s0 with flights := [], wgs := [], warps := [], queues := [{ qHost with p := { qHost.p with queue := 0 } }]
            grids := s0.grids.map fun (g : Grid) => { g with retired := [(0, .exit)] } }

theorem wit_grid_completion : ((sCompleted.gridAt ⟨0, 0⟩).map fun g => (g.retired.length, g.rec_.gx * g.rec_.gy * g.rec_.gz)) = some (1, 1) ∧
    sCompleted.pending = [] ∧ sCompleted.galOps = [] ∧ ((sCompleted.ctxAt 0).map (·.st)) = some .resident := by decide +kernel

/-! fences_and_commit_tokens -/
/-- A deterministic grid of two workgroups with workgroup 0 at the token. -/
def sDet : State := { s0 with grids := s0.grids.map fun (g : Grid) => { g with rec_ := { g.rec_ with det := true, gx := 2 } } }

theorem wit_fence : (∃ o, Ready s0 (shapeSys 0x00 { x0 with mod := 0x0801 }) { x0 with mod := 0x0801 } noExtra o ∧ s0.pending.isEmpty = true) ∧
    (∃ o, Ready sAdd (shapeSys 0x00 { x0 with mod := 0x0801 }) { x0 with mod := 0x0801 } noExtra o ∧
      (decide (o.i.w.key = aAdd.warp) && decide (aAdd.threads &&& o.i.fl.active ≠ 0)) = true) :=
  ⟨ready_and _ _ _ _ (by decide +kernel) (by decide +kernel), ready_and _ _ _ _ (by decide +kernel) (by decide +kernel)⟩

/-- A view of a buffer of context 0 that no fence has claimed, and a pending rank table. -/
def sViews : State :=
  { s0 with
    buffers := [⟨0, ⟨true, 0, 65536, 1, 0, 5, 0, 0, false, true, true, true, true⟩, false⟩]
    views := [⟨0, 1, 2, none, false, [], [], []⟩] }

theorem wit_fence_pod : (∃ o, Ready sViews (shapeSys 0x00 { x0 with mod := 0x1E10 }) { x0 with mod := 0x1E10 } noExtra o ∧
      (decide (({ x0 with mod := 0x1E10 } : XForm).fld 10 8 = 6) && decide (({ x0 with mod := 0x1E10 } : XForm).fld 12 11 = 3) &&
        ({ x0 with mod := 0x1E10 } : XForm).bit 4 && decide (o.i.w.wg.ctx = 0)) = true) ∧
    (sViews.views.map fun v => (v.fence, v.frozen, (sViews.sourceOf v).map (·.ctx))) = [(none, false, some 0)] ∧ sViews.walks = [] :=
  ⟨ready_and _ _ _ _ (by decide +kernel) (by decide +kernel), by decide +kernel, by decide +kernel⟩

def mDone : FenceMark := ⟨9, ⟨0, 0⟩, 1, 3, 6, 17, [99]⟩
theorem wit_fence_settles : Pending.fence mDone ∈ ({ s0 with pending := [.fence mDone] } : State).pending ∧
    (mDone.waits.all fun id => !({ s0 with pending := [.fence mDone] } : State).idOpen id) = true := ⟨by simp, by decide +kernel⟩

theorem wit_tokens : (∀ x ∈ [0x07, 0x08, 0x09], ∃ o, Ready s0 (shapeSys x x0) x0 noExtra o ∧ decide (o.i.gr.rec_.det = false) = true) ∧
    (∀ x ∈ [0x07, 0x08, 0x09], ∃ o, Ready sDet (shapeSys x x0) x0 noExtra o ∧ (o.i.gr.rec_.det && !sDet.turnEnded o.i o.i.w.phase &&
      decide (o.i.w.phase = o.i.gr.phase) && decide (o.i.w.wg.wgid = o.i.gr.turn) && sDet.pending.isEmpty) = true) := by
  have h1 : ∀ x ∈ [0x07, 0x08, 0x09], readyNow s0 (shapeSys x x0) x0 noExtra = true := by decide +kernel
  have h2 : ∀ x ∈ [0x07, 0x08, 0x09], readyNow sDet (shapeSys x x0) x0 noExtra = true := by decide +kernel
  have g1 : ∀ x ∈ [0x07, 0x08, 0x09], (match s0.issuing with
    | some i => (fun (o : Opnd) => decide (o.i.gr.rec_.det = false)) ⟨i, x0, shapeSys x x0⟩ | none => false) = true := by decide +kernel
  have g2 : ∀ x ∈ [0x07, 0x08, 0x09], (match sDet.issuing with
    | some i => (fun (o : Opnd) => o.i.gr.rec_.det && !sDet.turnEnded o.i o.i.w.phase && decide (o.i.w.phase = o.i.gr.phase) &&
      decide (o.i.w.wg.wgid = o.i.gr.turn) && sDet.pending.isEmpty) ⟨i, x0, shapeSys x x0⟩ | none => false) = true := by decide +kernel
  exact ⟨fun x hx => ready_and _ _ _ _ (h1 x hx) (g1 x hx), fun x hx => ready_and _ _ _ _ (h2 x hx) (g2 x hx)⟩

def sTurn : State := { sDet with wgs := sDet.wgs.map fun (g : Workgroup) => { g with ends := [(0, 7)] } }

theorem wit_token_leaves : ((sTurn.gridAt ⟨0, 0⟩).map fun g => (g.rec_.det, g.retired.length, g.turn, g.phase)) = some (true, 0, 0, 0) ∧
    ((sTurn.wgAt ⟨0, 0, 0⟩).map fun g => g.ends.find 0) = some (some 7) ∧ sTurn.commitDue ⟨0, 0, 0⟩ 0 = false ∧
    sTurn.workOpen ⟨0, 0, 0⟩ 0 (some 7) = false := by decide +kernel

/-- Workgroup 0 faulted before its turn ended, and after it while an access of before is outstanding. -/
def sTurnFault (ends : SMap Nat) : State :=
  { sDet with pending := [.access { aAdd with wg := ⟨0, 0, 0⟩ }], wgs := sDet.wgs.map fun (g : Workgroup) => { g with ended := some .fault, ends := ends } }

theorem wit_token_abrupt : (sTurnFault []).commitDue ⟨0, 0, 0⟩ 0 = false ∧ (sTurnFault [(0, 9)]).workOpen ⟨0, 0, 0⟩ 0 (some 9) = true ∧
    (((sTurnFault []).wgAt ⟨0, 0, 0⟩).map fun g => (g.ended, g.ends)) = some (some .fault, []) := by decide +kernel

/-! matrix_instructions_enter_the_queue -/
/-- A warp about to issue whose grid has a scratchpad, bays, tiles and slots of E4M3. -/
def sMatrix : State :=
  { s0 with grids := s0.grids.map fun (g : Grid) => { g with rec_ := { g.rec_ with scratch := 65536, bays := 16384, acc := 2, slots := List.replicate 8 3, vregs := 64 } } }

/-- A matrix instruction on tile 0 with zero operands, A at v0. -/
def xMma : XForm := { x0 with b := 0xFB, c := 0xFB }
def xRows : XForm := { x0 with a := 0xFB, b := 0xFB, c := 0xFB, e := 0xFB }

theorem wit_pass_forms : ∀ x ∈ [(0x00, xMma, true), (0x01, xMma, true), (0x02, xRows, false)], ∃ o, Ready sMatrix (shapeMatrix x.1 x.2.1) x.2.1 noExtra o ∧
    ((sMatrix.coreAt o.i.w.core).isSome && !passSlotsBad o.i x.2.1 true && decide (qbOf x.2.1 + o.i.w.width / 8 ≤ 8) &&
      decide (x.2.1.d.toNat + (qbOf x.2.1 + o.i.w.width / 8 - 1) / 4 < o.i.gr.rec_.acc) && decide (o.rdN x.2.1.b warpLane 32 = 0) &&
      decide (8192 ≤ o.i.gr.rec_.bays) && (scaleCause o.i x.2.1 32 (passRows (qbOf x.2.1) o.i.mask) true).isNone && decide (16 ≤ o.i.vregs) &&
      (sMatrix.busyKeys o.i.w.key).isEmpty && o.i.w.regPoison.isEmpty && decide (o.i.gr.rec_.scratch = 65536) &&
      decide ((sMatrix.mqOf o.i.w.core).length + o.quarters.length ≤ 8) && decide (0 < o.quarters.length) &&
      (x.2.2 || (decide (o.rdN x.2.1.a warpLane 32 = 0) && decide (o.rdN x.2.1.e warpLane 32 = 0)))) = true := by
  have h : ∀ x ∈ [(0x00, xMma, true), (0x01, xMma, true), (0x02, xRows, false)], readyNow sMatrix (shapeMatrix x.1 x.2.1) x.2.1 noExtra = true := by
    decide +kernel
  have g : ∀ x ∈ [(0x00, xMma, true), (0x01, xMma, true), (0x02, xRows, false)], (match sMatrix.issuing with
    | some i => (fun (o : Opnd) => (sMatrix.coreAt o.i.w.core).isSome && !passSlotsBad o.i x.2.1 true && decide (qbOf x.2.1 + o.i.w.width / 8 ≤ 8) &&
      decide (x.2.1.d.toNat + (qbOf x.2.1 + o.i.w.width / 8 - 1) / 4 < o.i.gr.rec_.acc) && decide (o.rdN x.2.1.b warpLane 32 = 0) &&
      decide (8192 ≤ o.i.gr.rec_.bays) && (scaleCause o.i x.2.1 32 (passRows (qbOf x.2.1) o.i.mask) true).isNone && decide (16 ≤ o.i.vregs) &&
      (sMatrix.busyKeys o.i.w.key).isEmpty && o.i.w.regPoison.isEmpty && decide (o.i.gr.rec_.scratch = 65536) &&
      decide ((sMatrix.mqOf o.i.w.core).length + o.quarters.length ≤ 8) && decide (0 < o.quarters.length) &&
      (x.2.2 || (decide (o.rdN x.2.1.a warpLane 32 = 0) && decide (o.rdN x.2.1.e warpLane 32 = 0)))) ⟨i, x.2.1, shapeMatrix x.1 x.2.1⟩
    | none => false) = true := by decide +kernel
  exact fun x hx => ready_and _ _ _ _ (h x hx) (g x hx)

theorem wit_entries : ∀ x ∈ [(0x04, { x0 with a := 0xFB }), (0x05, { x0 with mod := 1 }), (0x06, xRows), (0x07, xRows)], ∃ o, Ready sMatrix (shapeMatrix x.1 { x.2 with c := 0, e := 0 }) { x.2 with c := 0, e := 0 } noExtra o ∧
    ((sMatrix.coreAt o.i.w.core).isSome && (o.rowsStop 512).isNone && (sMatrix.mqOf o.i.w.core).isEmpty && dstSlotOk (o.i.slot 0)) = true := by
  have h : ∀ x ∈ [(0x04, { x0 with a := 0xFB }), (0x05, { x0 with mod := 1 }), (0x06, xRows), (0x07, xRows)],
    readyNow sMatrix (shapeMatrix x.1 { x.2 with c := 0, e := 0 }) { x.2 with c := 0, e := 0 } noExtra = true := by decide +kernel
  have g : ∀ x ∈ [(0x04, { x0 with a := 0xFB }), (0x05, { x0 with mod := 1 }), (0x06, xRows), (0x07, xRows)], (match sMatrix.issuing with
    | some i => (fun (o : Opnd) => (sMatrix.coreAt o.i.w.core).isSome && (o.rowsStop 512).isNone && (sMatrix.mqOf o.i.w.core).isEmpty &&
      dstSlotOk (o.i.slot 0)) ⟨i, { x.2 with c := 0, e := 0 }, shapeMatrix x.1 { x.2 with c := 0, e := 0 }⟩
    | none => false) = true := by decide +kernel
  exact fun x hx => ready_and _ _ _ _ (h x hx) (g x hx)

/-! teams_checks_and_bounds -/
def sGang (n : Nat) (w : Warp → Warp) : State :=
  { sMatrix with grids := sMatrix.grids.map fun (g : Grid) => { g with rec_ := { g.rec_ with gang := n } }, warps := sMatrix.warps.map w }

def xLead : XForm := { x0 with mod := 0x10 }
def xMmat : XForm := { xRows with mod := 0x200 }

theorem wit_mcoop : (∃ o, Ready s0 (shapeMatrix 0x08 x0) x0 noExtra o ∧ decide (o.i.mask ≠ 0) = true) ∧
    (∃ o, Ready (sGang 1 id) (shapeMatrix 0x08 xLead) xLead noExtra o ∧ (decide (o.i.mask ≠ 0) && decide (o.i.gr.rec_.gang = 1) &&
      decide (o.i.ownIndex = 0) && (sGang 1 id).warps.all fun v => v.team.isNone) = true) ∧
    (∃ o, Ready (sGang 1 id) (shapeMatrix 0x08 { xLead with mod := 0x20 }) { xLead with mod := 0x20 } noExtra o ∧
      decide (o.i.gr.rec_.gang < 2) = true) :=
  ⟨ready_and _ _ _ _ (by decide +kernel) (by decide +kernel), ready_and _ _ _ _ (by decide +kernel) (by decide +kernel),
   ready_and _ _ _ _ (by decide +kernel) (by decide +kernel)⟩

/-- A team of one, of two with a member missing, and a broken one. -/
def sTeam (size : Nat) (broken : Bool) : State := sGang 2 fun (w : Warp) => { w with team := some ⟨0, size, 0, broken⟩ }

theorem wit_mmat : (∃ o, Ready sMatrix (shapeMatrix 0x03 xMmat) xMmat noExtra o ∧ (decide (o.i.mask ≠ 0) && o.i.w.team.isNone &&
      (teamCause o.i xMmat o.i.leads (o.rdN 0xFB warpLane 32) (o.rdN 0xFB warpLane 32) (o.rdN 0xFB warpLane 32)).isNone) = true) ∧
    (∃ o, Ready (sTeam 1 false) (shapeMatrix 0x03 xMmat) xMmat noExtra o ∧
      ((teamCause o.i xMmat o.i.leads (o.rdN 0xFB warpLane 32) (o.rdN 0xFB warpLane 32) (o.rdN 0xFB warpLane 32)).isNone &&
        ((sTeam 1 false).teamAsks o.i.w ⟨0, 1, 0, false⟩).any List.isEmpty && decide (o.i.w.team = some ⟨0, 1, 0, false⟩) &&
        !(sTeam 1 false).stopping o.i.w.wg.ctx && ((sTeam 1 false).mqOf o.i.w.core).isEmpty && ((sTeam 1 false).coreAt o.i.w.core).isSome) = true) ∧
    (∃ o, Ready (sTeam 2 false) (shapeMatrix 0x03 xMmat) xMmat noExtra o ∧
      ((sTeam 2 false).teamAsks o.i.w ⟨0, 2, 0, false⟩).isNone = true) ∧
    (∃ o, Ready (sTeam 1 true) (shapeMatrix 0x03 xMmat) xMmat noExtra o ∧ decide (o.i.w.team = some ⟨0, 1, 0, true⟩) = true) :=
  ⟨ready_and _ _ _ _ (by decide +kernel) (by decide +kernel), ready_and _ _ _ _ (by decide +kernel) (by decide +kernel),
   ready_and _ _ _ _ (by decide +kernel) (by decide +kernel), ready_and _ _ _ _ (by decide +kernel) (by decide +kernel)⟩

theorem wit_mchk : (∃ o, Ready sMatrix (shapeMatrix 0x09 { x0 with mod := 2 }) { x0 with mod := 2 } noExtra o ∧ decide (o.i.gr.rec_.acc ≤ 2) = true) ∧
    (∃ o, Ready sMatrix (shapeMatrix 0x09 { x0 with mod := 8 }) { x0 with mod := 8 } noExtra o ∧ (decide (0 < o.i.gr.rec_.acc) &&
      (sMatrix.mqOf o.i.w.core).isEmpty && (o.i.wg.tile 0).poison.isEmpty) = true) :=
  ⟨ready_and _ _ _ _ (by decide +kernel) (by decide +kernel), ready_and _ _ _ _ (by decide +kernel) (by decide +kernel)⟩

def xBound : XForm := { x0 with a := 0xFB, b := 0xFB }

theorem wit_bounds : (∃ o, Ready sMatrix (shapeMatrix 0x0A xBound) xBound noExtra o ∧
      (!(decodeFmt fp32 (o.rd 0xFB warpLane).toNat).isNan && !fp32Less (decodeFmt fp32 (o.rd 0xFB warpLane).toNat)
        (decodeFmt fp32 (o.rd 0xFB warpLane).toNat) && (sMatrix.coreAt o.i.w.core).isSome) = true) ∧
    (∃ o, Ready sMatrix (shapeMatrix 0x0B { x0 with mod := 2 }) { x0 with mod := 2 } noExtra o ∧ (!o.i.gr.rec_.det) = true) ∧
    (∃ o, Ready sMatrix (shapeMatrix 0x0B x0) x0 noExtra o) :=
  ⟨ready_and _ _ _ _ (by decide +kernel) (by decide +kernel), ready_and _ _ _ _ (by decide +kernel) (by decide +kernel),
   ready_of_now (by decide +kernel)⟩

theorem wit_mwait : (∃ o, Ready sMatrix (shapeMatrix 0x0C { x0 with mod := 1 }) { x0 with mod := 1 } noExtra o ∧
      (decide (o.i.gr.rec_.acc = 2) && (sMatrix.mqOf o.i.w.core).isEmpty) = true) ∧
    (∃ o, Ready sMatrix (shapeMatrix 0x0C { x0 with mod := 4 }) { x0 with mod := 4 } noExtra o ∧ decide (o.i.gr.rec_.acc ≤ 2) = true) :=
  ⟨ready_and _ _ _ _ (by decide +kernel) (by decide +kernel), ready_and _ _ _ _ (by decide +kernel) (by decide +kernel)⟩

/-! matrix_entries_complete -/
/-- A core whose queue has one entry at its head. -/
def sHead (work : MWork) (started : Bool) : State :=
  { sMatrix with cores := sMatrix.cores.map fun (c : Core) => if c.phys = 0 then { c with mq := [⟨7, 0, ⟨0, 0, 0⟩, 0, work, started, []⟩] } else c }

def qOne : Quarter := ⟨0, 0, 0, 0, true, .scratch 0 16, 0, none, 1⟩
def wTeam : MWork := .team 0 0 0 0 0 1 true ⟨0, 0, 0⟩ 0 16 0 none [7]

theorem wit_head_start : (sHead (.accz 1) false).mqOf 0 = [⟨7, 0, ⟨0, 0, 0⟩, 0, .accz 1, false, []⟩] ∧
    (sHead (.accz 1) false).mayStart ⟨7, 0, ⟨0, 0, 0⟩, 0, .accz 1, false, []⟩ = true ∧
    (sHead (.pass 0 0 0 0 [qOne]) false).mayStart ⟨7, 0, ⟨0, 0, 0⟩, 0, .pass 0 0 0 0 [qOne], false, []⟩ = true := by decide +kernel

theorem wit_head_done : ((sHead (.accz 1) true).mqOf 0).map (·.started) = [true] ∧ ((sHead (.accz 1) true).wgAt ⟨0, 0, 0⟩).isSome = true ∧
    (((sHead (.pass 0 0 0 0 [qOne]) true).wgAt ⟨0, 0, 0⟩).map fun g => (bBad g 3 0 0, qOne.bad g 3, g.scratchBad 0 512, (g.tile 0).poison)) =
      some (false, false, false, []) ∧ (sHead (.pass 0 0 0 0 [qOne]) true).slotOf ⟨0, 0, 0⟩ 0 = 3 ∧
    ((sHead wTeam true).partsOf ⟨7, 0, ⟨0, 0, 0⟩, 0, wTeam, true, []⟩).any (fun p => (sHead wTeam true).partBad p.2) = false := by decide +kernel

/-! gallery_instructions_issue -/
/-- A device in a pod with a communicator of one rank and a buffer in it, and a warp about to issue whose s0 is 1. -/
def sGal : State :=
  { sBar with
    comms := [⟨0, 0, 1, 0, 7, [0], [0], false, false, 3, 0, false⟩]
    buffers := [⟨0, ⟨true, 0, 65536, 0, 0, 5, 0, 0, false, true, true, true, true⟩, false⟩]
    warps := sBar.warps.map fun (w : Warp) => { w with s := [(0, 1)] } }

def xColl : XForm := { xObj with e := 192 }

theorem wit_coll : ∃ o, Ready sGal (shapeSys 0x0D xColl) xColl noExtra o ∧
    (decide ((o.rd 251 warpLane).toNat = 0) && decide ((o.rd 192 warpLane).toNat = 1) && decide (16 ≤ o.i.gr.rec_.scratch) &&
      ((sGal.bufFor o.i.w.wg.ctx 0).map fun b => b.d.col && !b.d.snap && decide (b.d.length = 65536)) == some true &&
      decide (o.openOps sGal = 0) && (sGal.commAt 0).isSome && !sGal.member.selfExpelled) = true :=
  ready_and _ _ _ _ (by decide +kernel) (by decide +kernel)

/-- A descriptor at offset 0 that asks for 16 bytes of rank 0's buffer 0 at its start. -/
def sSide : State := { sGal with wgs := sGal.wgs.map fun (g : Workgroup) => { g with scratch := [(16, 16)] } }
def xSide : XForm := { x0 with a := 251, b := 251 }

theorem wit_sides : ∀ x ∈ [(0x0A, Side.put), (0x0B, Side.get), (0x0C, Side.radd 0)], ∃ o, Ready sSide (shapeSys x.1 xSide) xSide noExtra o ∧
    (decide ((o.rd 251 warpLane).toNat = 0) && decide (32 ≤ o.i.gr.rec_.scratch) && !sSide.scratchDue o.i.w.key &&
      (match sideNamed sSide x.2 o.i.w.wg.ctx (readSide o.i.wg.scratch 0), sSide.commAt 0 with
       | some b, some c => decide (b.d.comm = 0) && !sideBad sSide x.2 o.i.w.wg.ctx b c (readSide o.i.wg.scratch 0)
       | _, _ => false) && decide (o.openOps sSide = 0) && !sSide.member.selfExpelled) = true := by
  have h : ∀ x ∈ [(0x0A, Side.put), (0x0B, Side.get), (0x0C, Side.radd 0)], readyNow sSide (shapeSys x.1 xSide) xSide noExtra = true := by
    decide +kernel
  have g : ∀ x ∈ [(0x0A, Side.put), (0x0B, Side.get), (0x0C, Side.radd 0)], (match sSide.issuing with
    | some i => (fun (o : Opnd) => decide ((o.rd 251 warpLane).toNat = 0) && decide (32 ≤ o.i.gr.rec_.scratch) && !sSide.scratchDue o.i.w.key &&
      (match sideNamed sSide x.2 o.i.w.wg.ctx (readSide o.i.wg.scratch 0), sSide.commAt 0 with
       | some b, some c => decide (b.d.comm = 0) && !sideBad sSide x.2 o.i.w.wg.ctx b c (readSide o.i.wg.scratch 0)
       | _, _ => false) && decide (o.openOps sSide = 0) && !sSide.member.selfExpelled) ⟨i, xSide, shapeSys x.1 xSide⟩
    | none => false) = true := by decide +kernel
  exact fun x hx => ready_and _ _ _ _ (h x hx) (g x hx)

theorem wit_genrd : (∃ o, Ready s0 (shapeSys 0x0E xTicket) xTicket noExtra o ∧ (s0.bufFor o.i.w.wg.ctx 0).isNone = true) ∧
    (∃ o, Ready sGal (shapeSys 0x0E xTicket) xTicket noExtra o ∧ (decide ((o.rd 251 warpLane).toNat = 0) &&
      (sGal.bufFor o.i.w.wg.ctx 0).isSome) = true) :=
  ⟨ready_and _ _ _ _ (by decide +kernel) (by decide +kernel), ready_and _ _ _ _ (by decide +kernel) (by decide +kernel)⟩

/-! packets_and_gallery_operations -/
/-- A packet of a kind from rank 0 about the first 16 bytes of name 0. -/
def pOf (op : Nat) (data : List Byte) : Packet := ⟨op, 7, 0, 0, 0, 0, 5, 3, 0, 16, 0, 0, false, 0, 0, data, []⟩

/-- A device whose port 0 has received a packet. -/
def sPacket (p : Packet) : State :=
  let lane : List Flit := (Outgoing.packet none p).contents.map fun c => ⟨0, 0, c.2, 0, 0, 0, c.1⟩
  { sGal with galPorts := [{ GalPort.empty with up := true, lanes := (List.range 4).map fun v => VLane.refill (if v = laneOf p.op then lane else []) }] }

def pData (op : Nat) : Packet := pOf op (if opHasData op then List.replicate 16 9 else [])

theorem wit_packets : ∀ k ∈ [0, 1, 2, 3, 4, 5, 6], ((sPacket (pData k)).takePacket (pData k)).isSome = true ∧
    (sPacket (pData k)).packetPending (pData k) = false ∧
    ((sPacket (pData k)).commAt 0).map (fun c => (c.rank, c.gen, c.colls)) = some (0, 7, 3) := by decide +kernel

theorem wit_packet_runs : ((sPacket (pData 1)).regOf 0 0).map (fun b => (b.ctx, b.d.base)) = some (0, 0) ∧
    ((match (sPacket (pData 1)).runsOf 0 .write 0 16 with | .ok l => l.map fun r => (r.pa, r.n) | .error _ => []) = [(0, 16)]) ∧
    (∀ key ∈ (match (sPacket (pData 1)).runsOf 0 .write 0 16 with | .ok l => l.map Run.key | .error _ => []),
      (sPacket (pData 1)).keysAgree key 0 16 = true) ∧ (sPacket (pData 1)).views = [] ∧
    (∀ j < 16, (sPacket (pData 1)).raced .plain (sPacket (pData 1)).nextId none (j / 4 * 4) 4 = false) ∧
    (sPacket (pData 4)).poisonedAt 0 4 = false ∧ (sPacket (pData 4)).raced .near (sPacket (pData 4)).nextId none 0 4 = false := by decide +kernel

/-- A state with one operation outstanding. -/
def sOp (kind : GalKind) (started : Bool) (got : List (Nat × Nat × List Byte)) : State :=
  { sGal with galOps := [⟨9, ⟨0, 0⟩, ⟨0, 0, 0⟩, 0, 0, 0, 7, false, 0, kind, started, 0, [], got, [], [], none, []⟩] }

def kPut : GalKind := .puts 0 0 16 0 0 0 false
def kGet : GalKind := .get 0 0 16 0
def kColl : GalKind := .coll 0 0 0 16 none 3
def b16 : List Byte := List.replicate 16 9

theorem wit_operations :
    (∀ k ∈ [kPut, kGet, kColl], ∀ o ∈ (sOp k false []).settle.galOps, ∀ c ∈ sGal.comms, (sOp k false []).settle.mayStartOp o c = true) ∧
    (∀ x ∈ [(kPut, (0, 0, [])), (kGet, (0, 0, b16)), (kColl, (0, 0, b16))], ∀ o ∈ (sOp x.1 true [x.2]).settle.galOps, ∀ c ∈ sGal.comms,
      o.received c = true ∧ (sOp x.1 true [x.2]).settle.endPending o c = false ∧ (sOp x.1 true [x.2]).settle.absent o.wg = false) ∧
    (∀ x ∈ [kPut, kGet, kColl], ((sOp x true []).wgAt ⟨0, 0, 0⟩).isSome = true ∧ ((sOp x true []).warpAt ⟨0, 0⟩).map (·.pcs.length) = some 1) ∧
    (∀ o ∈ (sOp kColl true [(0, 0, b16)]).galOps, ∀ c ∈ sGal.comms, collResult o c 0 0 0 16 = [(0, b16)]) := by decide +kernel

/-- A global object at 0x200 that an operation counts down on, and that a signal at offset 0x200 of buffer 0 names. -/
def sObjG : State := { sGal with mem := writeBytes sGal.mem 0x20F [0x40] }

theorem wit_global_object : CountsAt sObjG 0 0x200 0x200 ⟨0, 0, 0, 0, 1, 0, 0, 0⟩ ∧ sObjG.rangePending 0 .both 0x200 16 = false ∧
    (sObjG.regOf 0 0).map (fun b => (b.ctx, b.d.base)) = some (0, 0) := by
  refine ⟨⟨0x001000000000000F, ?_, ?_, ?_, ?_, ?_, ?_, ?_, ?_, ?_, ?_, ?_, ?_, ?_⟩, ?_, ?_⟩
  case refine_4 => intro v hv; have h : sObjG.views = [] := by decide +kernel
                   simp [h] at hv
  all_goals decide +kernel

theorem wit_packet_answers : (sPacket (pData 2)).viewOf 0 0 = none ∧ (sPacket (pData 2)).memPoison = [] ∧
    (match (sPacket (pData 2)).runsOf 0 .read 0 16 with | .ok l => l.map fun r => (r.pa, r.n) | .error _ => []) = [(0, 16)] ∧
    (sPacket (pData 2)).regOf 0 9 = none ∧ ((sPacket (pData 6)).lostColl (pData 6)).isNone = true ∧
    (((sOp kColl true []).lostColl (pData 6)).map (·.id)) = some 9 ∧ (((sOp kPut true []).awaiting (pData 6)).map (·.id)) = some 9 := by decide +kernel

/-! heartbeats_and_suspicions -/
/-- A device 0 in a pod that watches device 1, with some suspicions and a count of misses. -/
def sPod (coords : List Nat) (n : Nat) (qs : List Suspicion) : State :=
  let s : State := sGal
  { s with member := { s.member with cfg := ⟨0, 1, 4, [⟨1, [2, 3]⟩], coords, []⟩, miss := [(1, n)], suspicions := qs } }

def mOf (sender subj : Nat) : MemberMsg := ⟨sender, subj, 6, 0, 0, 0, 0, 0⟩

/-- The same with a message received on port 0. -/
def sMember (s : State) (kind evk : Nat) (m : MemberMsg) : State :=
  let f : Flit := ⟨0, 0, 0, 0, 0, 0, packMember kind evk m⟩
  { s with galPorts := [{ GalPort.empty with up := true, lanes := (List.range 4).map fun v => VLane.refill (if v = 0 then [f] else []) }] }

theorem wit_member_messages : ∀ k ∈ [0, 1, 2, 3], ((sMember (sPod [2] 0 []) k 0 (mOf 1 1)).takeMember k 0 (mOf 1 1)).isSome = true := by
  decide +kernel

theorem wit_member_states : ((sPod [2] 0 []).member.watched 1).isSome = true ∧ (sPod [2] 0 []).member.watched 7 = none ∧
    (sPod [2] 2 []).quar = false ∧ (sPod [2] 0 []).member.coordinator = some 2 ∧
    ((sPod [2] 0 [⟨1, 0, [2], false⟩]).member.suspicions.find? fun q => q.dev = 1 && q.own (sPod [2] 0 [])) = some ⟨1, 0, [2], false⟩ ∧
    ((sPod [2] 0 [⟨1, 0, [2, 3], true⟩]).member.suspicions.find? fun q => q.dev = 1 && q.own (sPod [2] 0 []) && q.requested).isSome = true := by
  decide +kernel

/-! membership_events_are_applied_in_order -/
theorem wit_requests : ∀ x ∈ [(4, 0), (5, EventKind.departure.code), (5, EventKind.join.code)],
    ((sMember (sPod [0] 0 []) x.1 x.2 (mOf 1 3)).takeMember x.1 x.2 (mOf 1 3)).isSome = true ∧ (sMember (sPod [0] 0 []) x.1 x.2 (mOf 1 3)).coordinates = true ∧
      (sPod [0] 0 []).member.delaying = false := by decide +kernel

def mNext (n : Nat) : MemberMsg := { mOf 2 3 with evn := (sPod [2] 0 []).member.evn + n }

theorem wit_events : ∀ x ∈ floodEvents (mNext 1), ∀ n ∈ [1, 2],
    ((sMember (sPod [2] 0 []) 5 x.2.code (mNext n)).takeMember 5 x.2.code (mNext n)).isSome = true ∧
      (sPod [2] 0 []).member.coordinator = some (mNext n).sender ∧ (sPod [2] 0 []).member.early = [] ∧
      (sPod [2] 0 []).coordinates = false := by decide +kernel

/-- A record of two ranks, or one with a join of device 3 pending at rank 1. -/
def commPod (pend : Bool) : Comm := ⟨0, 0, 2, 0, 7, [2, 0x8000], [2, if pend then 3 else 0x8000], false, pend, 3, 0, false⟩

theorem wit_records : ∀ pend ∈ [false, true], ((commPod pend).frozen, (commPod pend).evn < 1, (commPod pend).active.any (entryIs 2)) = (false, True, true) ∧
    ([commPod pend].map (·.comm)).Nodup ∧ ((commPod pend).inactive.any (entryIs 3)) = pend ∧ (commPod pend).active.any (entryIs 3) = false ∧
    ((commPod false).active[1]?).map (·.getLsbD 15) = some true ∧ (sPod [2] 0 []).member.log = [] := by
  simp only [List.mem_cons, List.not_mem_nil, or_false]
  rintro _ (rfl | rfl) <;> simp only [Prod.mk.injEq] <;> decide +kernel

theorem wit_resend_request : ((sMember (sPod [2] 0 []) 6 0 (mOf 1 1)).takeMember 6 0 (mOf 1 1)).isSome = true ∧
    (sPod [2] 0 []).member.log = [] ∧
    ({ sPod [2] 0 [] with member := { (sPod [2] 0 []).member with delaying := true } } : State).member.requests = [] := by decide +kernel

/-! links_resend_and_ports_change -/
def fGood : Flit := sealFlit ⟨0, 0, 0, 2, 0, 0, []⟩

theorem wit_flits : fGood.crc = flitCheck fGood ∧ (sMember s0 0 0 (mOf 1 1)).galPorts[0]?.map (fun p => (p.up, p.rxSeq, p.lane 2)) = some (true, 0, []) ∧
    (⟨0, 0, 0, 0, 0, 0, []⟩ : Flit).crc ≠ flitCheck ⟨0, 0, 0, 0, 0, 0, []⟩ := by decide +kernel

theorem wit_ports : ({ GalPort.empty with up := true, failed := 16 } : GalPort).failing = true ∧ GalPort.empty.up = false := by decide +kernel

/-! context_and_key_commands_answer -/
/-- A ready device with two trained ports, and one context whose record is created. -/
def sHost : State :=
  { s0 with
    ready := true, recov := false, quar := false
    ports := [⟨true, none, 0⟩, ⟨true, none, 0⟩]
    ctxs := s0.ctxs ++ [⟨5, .created, 0, 1, [], false, [], 0, none, [], none, [], 0, [], [], [], []⟩]
    kemKey := some 0 }

def hdr : AdminHdr := ⟨0, 0x77, 0x1000, 0x2000, true⟩

theorem wit_command : Cmd sHost hdr := by unfold Cmd; decide +kernel

/-- The same command with a reserved field set, and one whose response is misaligned. -/
theorem wit_turned_away : sHost.linkUp hdr.port = true ∧ (⟨0, 0x77, 0x1000, 0x2000, false⟩ : AdminHdr).reservedZero = false ∧
    (⟨0, 0x77, 0x1020, 0x2000, true⟩ : AdminHdr).resp % 64 ≠ 0 ∧ ({ sHost with quar := true } : State).linkUp hdr.port = true ∧
    ((0 : BitVec 8) = 0 ∨ 0x1F < (0 : BitVec 8).toNat) := by decide +kernel

theorem wit_command_states : sHost.ctxAt 9 = none ∧ (sHost.ctxAt 5).map (fun c => (c.part, c.st)) = some ([], .created) ∧
    (∀ q ∈ sHost.queues, q.p.ctx ≠ 5) ∧ (∀ x ∈ sHost.comms, x.ctx ≠ 5) ∧ (sHost.ctxs.all fun d => !sHost.owns d 100) = true ∧
    ((sHost.ctxAt 0).map fun c => c.part.isEmpty) = some false ∧ (∃ k ∈ sHost.keys, k.slot = 1) ∧ (∀ k ∈ sHost.keys, k.slot ≠ 2) ∧
    (∀ x ∈ sHost.queues, x.p.queue ≠ 3) := by decide +kernel

theorem wit_qdel : (({ sHost with queues := [qHost] } : State).queues.find? fun x => x.p.queue = 2) = some qHost ∧ qHost.closing = false := by
  decide +kernel

/-! pod_view_and_device_commands_answer -/
theorem wit_pod_commands : sHost.comms.length < 256 ∧ sHost.commAt 3 = none ∧ sHost.member.log = [] ∧
    (sHost.buffers = [] ∧ sHost.views = []) ∧ (sHost.ports[hdr.port]?).map (·.ring) = some none ∧ (∃ k ∈ sHost.keys, k.slot = 1 ∧ k.owners = 1) := by
  decide +kernel

/-- The host's device with the communicator, the buffer and the translation of sGal; its rank 1 is vacant. -/
def sHostPod : State :=
  { sHost with
    tlb := sGal.tlb, buffers := sGal.buffers, comms := [⟨0, 0, 2, 0, 7, [0, 0x8000], [0, 0x8000], false, false, 3, 0, false⟩]
    views := [⟨0, 0, 1, none, false, [], [], []⟩]
    keys := ⟨9, 0, []⟩ :: sHost.keys }

theorem wit_pod_objects : (sHostPod.bufOf 0 0).isSome = true ∧ sHostPod.bufOf 0 5 = none ∧ (sHostPod.fillAll newelSite 0 (pagesFrom 0 0)).poolFrames 0 0 0 = some [] ∧ sHostPod.walksWait 0 (pagesFrom 0 0) = false ∧
    sHostPod.walksWait 0 (pagesFrom 0 65536) = false ∧
    (sHostPod.commAt 0).isSome = true ∧ (∃ v ∈ sHostPod.views, v.comm = 0 ∧ v.name = 1) ∧ (∃ k ∈ sHostPod.keys, k.slot = 9 ∧ k.owners = 0) ∧
    (sHostPod.virtBytes 0 0 32).isSome = true ∧ sHostPod.listWaits 0 0 1 = false := by decide +kernel

theorem wit_join_list : ((parseJoin (List.replicate 18 0 ++ [1] ++ List.replicate 13 0)).map fun e => (e.len, e.ranksOk 2 1)) = some (65536, true) ∧
    parseJoin (List.replicate 32 255) = none := by decide +kernel

theorem wit_early_commands : sHost.linkUp hdr.port = true ∧ hdr.reservedZero = true ∧
    ({ sHost with ctxs := [], firmware := some ⟨true, true, 0, 0, []⟩ } : State).ctxs = [] := by decide +kernel

/-! context_transitions_follow_the_table -/
def sCtx (st : CtxState) : State :=
  { sHost with ctxs := sHost.ctxs.map fun (c : Context) => { c with st := st, nextGrid := 0, part := [⟨0, 0, 0, 0, 7, false⟩] }, wgs := [] }

theorem wit_transitions : ∀ st ∈ [CtxState.created, .resident, .switching, .saved, .restoring, .killing],
    ((sCtx st).ctxAt 5).map (fun c => (c.st, c.part.length, c.nextGrid)) = some (st, 1, 0) ∧ (sCtx st).ctxAt 9 = none ∧
    (sCtx st).linkUp hdr.port = true ∧ (sCtx st).ready = true ∧ (sCtx st).recov = false ∧ (sCtx st).quar = false := by decide +kernel

theorem wit_image_buffer : (sCtx .resident).bufferOk ⟨0, List.replicate 8 0⟩ = false ∧
    ({ sCtx .resident with keys := [⟨9, 0, []⟩] } : State).bufferOk ⟨9, List.replicate 8 (2 ^ 30)⟩ = true := by decide +kernel

/-! registers_ports_and_time -/
theorem wit_registers : sHost.linkUp 0 = true ∧ sHost.quar = false ∧ sHost.snap.latched = none ∧ sHost.ports[0]? = some ⟨true, none, 0⟩ ∧
    ({ sHost with ports := [⟨true, some ⟨4, 0, 0, 3, 1, [EventRec.blank], 0⟩, 0⟩, ⟨false, none, 0⟩] } : State).ports[1]? = some ⟨false, none, 0⟩ ∧
    ({ sHost with quar := true } : State).linkUp 0 = true := by decide +kernel

/-! device_states_and_scrubs -/
theorem wit_device : State.reset.ready = false ∧ State.reset.recov = false ∧ State.reset.quar = false ∧ sHost.quar = false ∧
    sHost.ready = true ∧ sHost.contA = sHost.contB ∧ sHost.contA.overflows = false := by decide +kernel

/-! saves_long_commands_and_joins_complete -/
/-- A context being switched out whose one workgroup has drained. -/
def sSave : State :=
  { s0 with flights := [], ctxs := s0.ctxs.map fun (c : Context) => { c with st := .switching, buf := some ⟨9, List.replicate 8 0⟩ } }

theorem wit_save : ((sSave.settle.wgAt ⟨0, 0, 0⟩).map sSave.settle.savable) = some true ∧ (sSave.settle.recOf ⟨0, 0, 0⟩).isSome = true ∧
    (sSave.settle.warps.map Warp.key).Nodup ∧ (sSave.settle.warps.all fun w => w.live.isNone) = true := by decide +kernel

def sLong (work : LongWork) (res : Option (Nat × Cause × Nat)) : State := { sHost with longs := [⟨9, hdr, work, 9, res⟩] }

theorem wit_long_commands : ((sLong (.qdel 7) none).settle.longs.find? fun x => x.id = 9) = some ⟨9, hdr, .qdel 7, 9, none⟩ ∧
    (sLong (.qdel 7) none).settle.queueBusy 7 = false ∧ (sLong (.commdel 7) none).settle.galOps = [] ∧
    ((sLong (.commdel 7) none).settle.arriving fun p => p.comm = 7) = false ∧
    ((sLong (.kill 1) (some (0, 0, 0))).settle.longs.find? fun x => x.id = 9) = some ⟨9, hdr, .kill 1, 9, some (0, 0, 0)⟩ ∧
    ((sLong (.resync sHost.summary) none).settle.longs.find? fun x => x.id = 9) = some ⟨9, hdr, .resync sHost.summary, 9, none⟩ ∧
    (sLong (.resync sHost.summary) none).settle.linkUp 0 = true := by decide +kernel

/-- A join of one list entry with a first stripe that is read and a second that is not yet sent for. -/
def sJoin (alt : Option Nat) : State :=
  { sGal with joins := [⟨3, 0, 1, [⟨0, 0, 32, 0, 0, 0, alt, none⟩], [⟨8, 0, 0, 16, 0, true, false, 0⟩, ⟨9, 0, 16, 16, 0, false, false, 0⟩], false⟩] }

def jobHost : CkptJob := ⟨.host 9 0, [], 0, [0], 0, none⟩

/-- A checkpoint of a page that is mapped, and one whose copy is under way. -/
theorem wit_checkpoint : let s : State := { sHost with tlb := sGal.tlb, longs := [⟨9, hdr, .ckpt jobHost, 9, none⟩] }
    (s.longs.find? fun x => x.id = 9).isSome = true ∧ s.walkersBusy newelSite 0 0 = false ∧
    (match s.leafFor newelSite 0 0 with | .leaf b n e => !s.paPending (leafPa e b n 0) 65536 | _ => false) = true ∧
    s.paPending 0 65536 = false ∧ s.linkUp hdr.port = true := by intro s; decide +kernel

theorem wit_join_stripe : ((sJoin none).joins.find? fun j => j.stripes.any fun t => t.id = 8 && t.sent && !t.written).isSome = true ∧
    (sJoin none).commAt 0 ≠ none ∧ (⟨0, 0, 32, 0, 0, 0, some 1, none⟩ : JoinEntry).sources.length = 2 ∧
    ((match (sJoin none).runsOf 0 .write 0 16 with | .ok l => l.map fun r => (r.pa, r.n) | .error _ => []) = [(0, 16)]) ∧
    (∀ key ∈ (match (sJoin none).runsOf 0 .write 0 16 with | .ok l => l.map Run.key | .error _ => []), (sJoin none).keysAgree key 0 16 = true) ∧
    (∀ n < 16, (sJoin none).raced .plain (sJoin none).nextId none (n / 4 * 4) 4 = false) ∧ (sJoin none).rangePending 0 .write 0 16 = false ∧ (sJoin none).views = [] := by decide +kernel

/-! answers_to_held_warps -/
/-- The host's device with its warp held. -/
def sHeld (kind : HoldKind) : State :=
  { sHost with warps := sHost.warps.map fun (w : Warp) => { w with hold := some ⟨kind, 0x080, 0x40, 0, 0, 0⟩ } }

theorem wit_held : Cmd (sHeld .fault) hdr ∧ (((sHeld .fault).warpNamed ⟨0, 0, 0⟩ 0).bind fun w => w.hold.map (·.kind)) = some .fault ∧
    (((sHeld .brk).warpNamed ⟨0, 0, 0⟩ 0).bind fun w => w.hold.map (·.kind)) = some .brk ∧ (sHeld .element).records = [] ∧
    (sHeld .element).galOps = [] ∧ (sHeld .fault).pending = [] ∧ ((sHost.warpNamed ⟨0, 0, 0⟩ 0).bind fun w => w.hold) = none := by
  unfold Cmd; decide +kernel

/-- It with a copy record that is suspended at a fault. -/
def sSuspended : State :=
  { sHost with records := [⟨4, ⟨0, 0⟩, ⟨0, 0, 0⟩, 1, 0x40, 0x80, 1, 16, 0, 0, none, 0, 0, none, true, 0, 0, 0, some (0x080, 0x40, 4), [], []⟩] }

theorem wit_suspended : ((sSuspended.records.find? fun r => r.wg = ⟨0, 0, 0⟩ && r.suspended.isSome && sSuspended.numOf r = 0).map (·.id)) = some 4 := by
  decide +kernel

end Sys2Proof.Tests
end

/-! ## Words are encodings (O2) -/
namespace Sys2Proof.Laws
open Sys2Proof

/-! ### Words read back as they were -/

theorem ofBool_getLsbD_eq_extract (w : Word) (i : Nat) : BitVec.ofBool (w.getLsbD i) = w.extractLsb' i 1 := by
  apply BitVec.eq_of_getLsbD_eq
  intro j hj
  obtain rfl : j = 0 := by omega
  simp

theorem rWord_fields (w : Word) : rWord (lenOf w) (opOf w) (rFields w) = w := by
  simp (disch := omega) only [rWord, lenOf, opOf, rFields, lndOf, BitVec.ofNat_toNat, BitVec.setWidth_eq,
    ofBool_getLsbD_eq_extract, BitVec.extractLsb'_append_extractLsb'_eq_extractLsb']
  exact BitVec.extractLsb'_eq_self

theorem iWord_fields (w : Word) (lit : Option (BitVec 64)) : iWord (lenOf w) (opOf w) (iFields w lit) = w := by
  simp (disch := omega) only [iWord, lenOf, opOf, iFields, lndOf, BitVec.ofNat_toNat, BitVec.setWidth_eq,
    ofBool_getLsbD_eq_extract, BitVec.extractLsb'_append_extractLsb'_eq_extractLsb']
  exact BitVec.extractLsb'_eq_self

theorem xWord0_fields (w w1 w2 : Word) (lit : Option (BitVec 64)) :
    xWord0 (lenOf w) (opOf w) (xopOf w) (xFields w w1 w2 lit) = w := by
  simp (disch := omega) only [xWord0, lenOf, opOf, xopOf, xFields, lndOf, BitVec.ofNat_toNat, BitVec.setWidth_eq,
    ofBool_getLsbD_eq_extract, BitVec.extractLsb'_append_extractLsb'_eq_extractLsb']
  exact BitVec.extractLsb'_eq_self

theorem xWord1_fields (w w1 w2 : Word) (lit : Option (BitVec 64)) : xWord1 (xFields w w1 w2 lit) = w1 := by
  simp (disch := omega) only [xWord1, xFields, BitVec.extractLsb'_append_extractLsb'_eq_extractLsb']
  exact BitVec.extractLsb'_eq_self

theorem litWords_litOf (lo hi : Word) : litWords (some (litOf lo hi)) = [lo, hi] := by
  simp (disch := omega) only [litWords, litOf, extract_append_low, extract_append_high]
  simp [BitVec.extractLsb'_eq_self]

theorem pWord_fields {w : Word} (hop : opOf w = 0x3F) (hlen : lenOk w = true) (hrest : pRest w = true) :
    pWord (pFields w) = w := by
  have h30 : (0 : BitVec 2) = w.extractLsb' 30 2 := by
    simp only [lenOk, hop, if_true, beq_iff_eq] at hlen; exact hlen.symm
  simp only [pRest, Bool.and_eq_true, Bool.not_eq_true', beq_iff_eq] at hrest
  obtain ⟨h29, h0⟩ := hrest
  have h29 : (0 : BitVec 1) = w.extractLsb' 29 1 := by rw [← ofBool_getLsbD_eq_extract, h29]; rfl
  have h23 : (0x3F : BitVec 6) = w.extractLsb' 23 6 := BitVec.eq_of_toNat_eq hop.symm
  simp (disch := omega) only [pWord, pFields, h30, h29, h23, ← h0, ofBool_getLsbD_eq_extract,
    BitVec.extractLsb'_append_extractLsb'_eq_extractLsb']
  exact BitVec.extractLsb'_eq_self

@[simp] theorem iFields_lit (w : Word) (lit : Option (BitVec 64)) : (iFields w lit).lit = lit := rfl
@[simp] theorem xFields_lit (w w1 w2 : Word) (lit : Option (BitVec 64)) : (xFields w w1 w2 lit).lit = lit := rfl
@[simp] theorem xFields_mod (w w1 w2 : Word) (lit : Option (BitVec 64)) : (xFields w w1 w2 lit).mod = w2 := rfl

/-! ### The form of words is written back as those words -/

theorem lenOk_base {w : Word} (h : lenOk w = true) (hop : opOf w < 0x38) : lenOf w = 0 ∨ lenOf w = 1 := by
  simpa [lenOk, show opOf w ≠ 0x3F by omega, hop] using h

theorem lenOk_ext {w : Word} (h : lenOk w = true) (hop : 0x38 ≤ opOf w) (hne : opOf w ≠ 0x3F) : lenOf w = 2 ∨ lenOf w = 3 := by
  simpa [lenOk, hne, Nat.not_lt.2 hop] using h

/-- The words of the form of assigned words are those words, as many as LEN says. -/
theorem encode_formOf {w : Word} {rest : List Word} (hl : lenOk w = true) (hop : opOf w < 0x29 ∨ 0x38 ≤ opOf w ∧ opOf w ≠ 0x3F)
    (hrest : 4 ≤ rest.length) : (formOf w rest).encode = (w :: rest).take (wordCount w) := by
  obtain ⟨w1, w2, w3, w4, rest, rfl⟩ : ∃ w1 w2 w3 w4 r, rest = w1 :: w2 :: w3 :: w4 :: r := by
    match rest, hrest with
    | w1 :: w2 :: w3 :: w4 :: r, _ => exact ⟨w1, w2, w3, w4, r, rfl⟩
  have hb : ¬ (0x29 ≤ opOf w ∧ opOf w ≤ 0x37) := by omega
  by_cases hbase : opOf w < 0x38
  · have hr := rWord_fields w
    have hi := iWord_fields w
    by_cases hm : opOf w = 1 ∧ lenOf w = 1 ∧ (rFields w).a = 127 ∧ (rFields w).b = 0
    · obtain ⟨h1, h2, h3, h4⟩ := hm
      have hf : (⟨lndOf w, (rFields w).d, 127, 0, (rFields w).h, (rFields w).nw⟩ : RForm) = rFields w := by
        rw [← h3, ← h4]; rfl
      rw [h1, h2, ← hf] at hr
      simpa [formOf, wordCount, hl, h1, h2, h3, h4, Form.encode, litWords_litOf] using hr
    · rw [formOf_base hbase hm]
      rcases lenOk_base hl hbase with h0 | h0 <;> rw [h0] at hr hi <;> cases isIForm (opOf w)
      · simpa [wordCount, hl, hb, h0, Form.encode, litWords] using hr
      · simpa [wordCount, hl, hb, h0, Form.encode, litWords] using hi none
      · simpa [wordCount, hl, hb, h0, Form.encode, litWords_litOf] using hr
      · simpa [wordCount, hl, hb, h0, Form.encode, litWords_litOf] using hi (some (litOf w1 w2))
  · have hx := xWord0_fields w w1 w2
    rw [formOf_ext (by omega)]
    rcases lenOk_ext hl (by omega) (by omega) with h0 | h0 <;> rw [h0] at hx
    · simpa [wordCount, hl, hb, h0, Form.encode, litWords, xWord1_fields] using hx none
    · simpa [wordCount, hl, hb, h0, Form.encode, litWords_litOf, xWord1_fields] using hx (some (litOf w3 w4))

theorem ite_some_eq_none_iff {α : Type} {c : Prop} [Decidable c] {a : α} {o : Option α} :
    (if c then some a else o) = none ↔ ¬ c ∧ o = none := by
  by_cases h : c <;> simp [h]

/-! ### A form that passes the checks is its instruction's -/

theorem check_alone_iff {env : DecEnv} {r : Bool} {fm : Form} : fm.check env none r = none ↔
    order2 (fm.shape env false) fm.toX = true ∧ order5 (fm.shape env false) fm.toX = true ∧
    order6 (fm.shape env false) fm.toX = true ∧ order7 (fm.shape env false) fm.toX = true := by
  simp only [Form.check, Bool.not_eq_true', ite_some_eq_none_iff]
  simp

theorem check_under_iff {env : DecEnv} {q : PForm} {r : Bool} {fm : Form} : fm.check env (some q) r = none ↔
    order2 (fm.shape env q.cv) fm.toX = true ∧ (fm.shape env q.cv).pfx.isSome = true ∧ order5 (fm.shape env q.cv) fm.toX = true ∧
    (pfxOrder6 env q (fm.shape env q.cv) fm.toX = true ∧ order6 (fm.shape env q.cv) fm.toX = true) ∧
    r = true ∧ pfxOrder7 q = true ∧ order7 (fm.shape env q.cv) fm.toX = true := by
  simp only [Form.check, Bool.not_eq_true', ite_some_eq_none_iff]
  simp [and_assoc, Option.isSome_iff_ne_none]

/-- An instruction that has words is neither an event nor a PFX. -/
theorem eventFits_of_form {i : Instr} {fm : Form} (h : i.form = some fm) : i.eventFits = true := by
  unfold Instr.eventFits
  split
  any_goals cases h
  rfl

theorem not_pfx_of_form {i : Instr} {fm : Form} (h : i.form = some fm) (q : PForm) : i ≠ .pfx q := by
  rintro rfl
  cases h

theorem encode_of_form {i : Instr} {fm : Form} (h : i.form = some fm) : encode i = fm.encode := by
  unfold encode
  split
  · cases h
  · rw [h]

/-- The instruction of a form that passes every check is well-formed. -/
theorem wf_of_check {env : DecEnv} {p : Option PForm} {i : Instr} {fm : Form} (hf : i.form = some fm)
    (h : fm.check env p true = none) : i.wf env p = true := by
  unfold Instr.wf
  split
  · cases hf
  · rw [eventFits_of_form hf]
    cases p with
    | none =>
      obtain ⟨h2, h5, h6, h7⟩ := check_alone_iff.1 h
      simp [Instr.literalUsed, Instr.prefixable, Instr.literalPresent, Instr.valuesAssigned, Instr.reservedZero, hf, h2, h5, h6, h7]
    | some q =>
      obtain ⟨h2, h4, h5, ⟨hq6, h6⟩, -, hq7, h7⟩ := check_under_iff.1 h
      simp [Instr.literalUsed, Instr.prefixable, Instr.literalPresent, Instr.valuesAssigned, Instr.reservedZero, hf, h2, h4, h5, hq6,
        h6, hq7, h7]

/-- The checks of orders 2, 6 and 7 that an instruction itself passes, with or without a PFX. -/
theorem own_checks {env : DecEnv} {p : Option PForm} {r : Bool} {fm : Form} (h : fm.check env p r = none) :
    ∃ pp, order2 (fm.shape env pp) fm.toX = true ∧ order6 (fm.shape env pp) fm.toX = true ∧ order7 (fm.shape env pp) fm.toX = true := by
  cases p with
  | none =>
    obtain ⟨h2, -, h6, h7⟩ := check_alone_iff.1 h
    exact ⟨_, h2, h6, h7⟩
  | some q =>
    obtain ⟨h2, -, -, ⟨-, h6⟩, -, -, h7⟩ := check_under_iff.1 h
    exact ⟨_, h2, h6, h7⟩

theorem xInstr_form {g x : Nat} {f : XForm} {i : Instr} (h : xInstr g x f = some i) : i.form = some (.x g x f) := by
  unfold xInstr at h
  split at h
  · unfold intInstr at h; split at h <;> cases h <;> rfl
  · unfold floatInstr at h; split at h <;> cases h <;> rfl
  · unfold laneInstr at h; split at h <;> cases h <;> rfl
  · unfold memInstr at h; split at h <;> cases h <;> rfl
  · unfold asyncInstr at h; split at h <;> cases h <;> rfl
  · unfold matrixInstr at h; split at h <;> cases h <;> rfl
  · unfold sysInstr at h; split at h <;> cases h <;> rfl
  · cases h

/-! The literal of an R-form instruction would be one that nothing uses, or a code where R27 does not allow it. -/

/-- The field is no source that may be the literal. -/
def litBarred : Role → Bool
  | .src _ _ lit => !lit
  | _ => true

/-- No field is the literal where the codes are legal, and none is a target; A may be barred by the code it holds. -/
def takesNoLit (sh : Shape) (f : XForm) : Bool :=
  !sh.target && litBarred sh.d && (litBarred sh.a || f.a != 255) && litBarred sh.b && litBarred sh.c && litBarred sh.e

theorem not_codeOk_lit {r : Role} (hr : litBarred r = true) (hc : r.isCode = true) : r.codeOk 255 = false := by
  cases r with
  | none => cases hc
  | num => cases hc
  | dst w cl rd => simp [Role.codeOk, codeOk, clsOf]
  | src w cl lit =>
    simp only [litBarred, Bool.not_eq_true'] at hr
    simp [Role.codeOk, codeOk, clsOf, hr]

/-- A field that may not be the literal does not hold the literal code. -/
theorem not_uses_of_codeOk {r : Role} {c : BitVec 8} (hr : litBarred r = true) (hc : r.codeOk c = true) : (r.isCode && c == 255) = false := by
  by_contra h
  simp only [Bool.not_eq_false, Bool.and_eq_true, beq_iff_eq] at h
  obtain ⟨h, rfl⟩ := h
  exact absurd hc (by rw [not_codeOk_lit hr h]; decide)

theorem lit_eq_none_of_takesNoLit {sh : Shape} {f : XForm} (hs : takesNoLit sh f = true) (h2 : order2 sh f = true)
    (h6 : order6 sh f = true) : f.lit = none := by
  simp only [takesNoLit, Bool.and_eq_true, Bool.or_eq_true, Bool.not_eq_true', bne_iff_ne] at hs
  obtain ⟨⟨⟨⟨⟨ht, hd⟩, ha⟩, hb⟩, hc⟩, he⟩ := hs
  simp only [order6, Bool.and_eq_true] at h6
  obtain ⟨⟨⟨⟨⟨⟨kd, ka⟩, kb⟩, kc⟩, ke⟩, -⟩, -⟩ := h6
  have ua : (sh.a.isCode && f.a == 255) = false := ha.elim (fun ha => not_uses_of_codeOk ha ka) (fun ha => by rw [beq_false_of_ne ha, Bool.and_false])
  have hu : usesLit sh f = false := by
    simp only [usesLit, not_uses_of_codeOk hd kd, ua, not_uses_of_codeOk hb kb, not_uses_of_codeOk hc kc,
      not_uses_of_codeOk he ke, Bool.or_self]
  simpa [order2, ht, hu] using h2

theorem order7_iff {sh : Shape} {f : XForm} : order7 sh f = true ↔
    sh.d.restOk f.d = true ∧ sh.a.restOk f.a = true ∧ sh.b.restOk f.b = true ∧ sh.c.restOk f.c = true ∧ sh.e.restOk f.e = true ∧
    f.h2 &&& ~~~sh.hold = 0 ∧ (f.nw = true → sh.nw = true) ∧ f.mod &&& ~~~sh.mods = 0 ∧ sh.tyZero = true ∧ sh.restOk = true ∧
    (sh.target = true → ∀ l, f.lit = some l → l.extractLsb' 57 7 = 0 ∧ l.extractLsb' 0 2 = 0) := by
  have hn : (sh.nw || !f.nw) = true ↔ (f.nw = true → sh.nw = true) := by cases f.nw <;> simp
  cases hl : f.lit <;> cases ht : sh.target <;> simp [order7, hl, ht, hn, and_assoc]

/-! What the reserved fields of a base word hold (R32). -/

theorem extCode_eq_zero {c : BitVec 7} (h : extCode c = 0) : c = 0 := by
  revert c; decide

theorem extCode_eq_lit {c : BitVec 7} (h : extCode c = 255) : c = 127 := by
  revert c; decide

theorem maskField_of_code {c : BitVec 7} (h : (extCode c).toNat < 2 ^ 3) : maskField (c.extractLsb' 0 3) = c := by
  revert c; decide

theorem targetLit_of_rest {l : BitVec 64} (hhi : l.extractLsb' 57 7 = 0) (hlo : l.extractLsb' 0 2 = 0) :
    targetLit (l.extractLsb' 2 55) = l := by
  simp (disch := omega) only [targetLit, ← hhi, ← hlo, BitVec.extractLsb'_append_extractLsb'_eq_extractLsb']
  exact BitVec.extractLsb'_eq_self

theorem eq_false_of_hold {h : Bool} (hh : (if h then 1 else 0 : BitVec 2) &&& ~~~(0 : BitVec 2) = 0) : h = false := by
  cases h
  · rfl
  · exact absurd hh (by decide)

/-- An R-form word that reads no field is one of those without operands (R32). -/
theorem bareForm_of_rest {op : Nat} {f : RForm} {sh : Shape} (hd : sh.d = .none) (ha : sh.a = .none) (hb : sh.b = .none)
    (hh : sh.hold = 0) (hn : sh.nw = false) (h7 : order7 sh (f.toX none) = true) : bareForm op f.lnd = .r op f none := by
  obtain ⟨rd, ra, rb, -, -, rh, rn, -⟩ := order7_iff.1 h7
  rw [hd] at rd; rw [ha] at ra; rw [hb] at rb; rw [hh] at rh; rw [hn] at rn
  obtain ⟨lnd, d, a, b, h, nw⟩ := f
  obtain rfl : d = 0 := extCode_eq_zero (beq_iff_eq.1 rd)
  obtain rfl : a = 0 := extCode_eq_zero (beq_iff_eq.1 ra)
  obtain rfl : b = 0 := extCode_eq_zero (beq_iff_eq.1 rb)
  obtain rfl : h = false := eq_false_of_hold rh
  obtain rfl : nw = false := by simpa [RForm.toX] using rn
  rfl

theorem retForm_of_rest {f : RForm} (h7 : order7 (baseShape 0x24 (f.toX none)) (f.toX none) = true) :
    Form.r 0x24 ⟨f.lnd, 0, f.a, 0, false, false⟩ none = .r 0x24 f none := by
  obtain ⟨rd, -, rb, -, -, rh, rn, -⟩ := order7_iff.1 h7
  obtain ⟨lnd, d, a, b, h, nw⟩ := f
  obtain rfl : d = 0 := extCode_eq_zero (beq_iff_eq.1 rd)
  obtain rfl : b = 0 := extCode_eq_zero (beq_iff_eq.1 rb)
  obtain rfl : h = false := eq_false_of_hold rh
  obtain rfl : nw = false := by simpa [RForm.toX, baseShape] using rn
  rfl

/-- A MOV with a literal is the literal MOV: A holds the literal code and B is reserved (R42). -/
theorem mov_lit_eq_none {f : RForm} {lit : Option (BitVec 64)} (h2 : order2 (baseShape 0x01 (f.toX lit)) (f.toX lit) = true)
    (h6 : order6 (baseShape 0x01 (f.toX lit)) (f.toX lit) = true) (h7 : order7 (baseShape 0x01 (f.toX lit)) (f.toX lit) = true)
    (hm : lit.isSome = true → ¬ (f.a = 127 ∧ f.b = 0)) : lit = none := by
  obtain ⟨-, -, rb, -⟩ := order7_iff.1 h7
  by_cases ha : (f.toX lit).a = 255
  · simp only [baseShape, ha, if_true] at rb
    have hb : f.b = 0 := extCode_eq_zero (beq_iff_eq.1 rb)
    simpa [extCode_eq_lit ha, hb] using hm
  · have hs : baseShape 0x01 (f.toX lit) = _ := if_neg ha
    exact lit_eq_none_of_takesNoLit (by rw [hs]; simpa [takesNoLit, regShape, litBarred, dstR] using ha) h2 h6

theorem rInstr_form {op : Nat} {f : RForm} {lit : Option (BitVec 64)} {i : Instr} (h : rInstr op f = some i)
    (h2 : order2 (baseShape op (f.toX lit)) (f.toX lit) = true)
    (h6 : order6 (baseShape op (f.toX lit)) (f.toX lit) = true) (h7 : order7 (baseShape op (f.toX lit)) (f.toX lit) = true)
    (hm : op = 1 → lit.isSome = true → ¬ (f.a = 127 ∧ f.b = 0)) : i.form = some (.r op f lit) := by
  have hl : lit = none := by
    unfold rInstr at h
    split at h
    case h_6 => exact mov_lit_eq_none h2 h6 h7 (hm rfl)
    case h_31 => cases h
    all_goals exact lit_eq_none_of_takesNoLit rfl h2 h6
  subst hl
  unfold rInstr at h
  split at h <;> cases h
  case h_1 => exact congrArg some (bareForm_of_rest rfl rfl rfl rfl rfl h7)
  case h_2 => exact congrArg some (bareForm_of_rest rfl rfl rfl rfl rfl h7)
  case h_3 => exact congrArg some (bareForm_of_rest rfl rfl rfl rfl rfl h7)
  case h_4 => exact congrArg some (bareForm_of_rest rfl rfl rfl rfl rfl h7)
  case h_5 => exact congrArg some (retForm_of_rest h7)
  all_goals rfl

/-- What a branch or a call does not read is zero. -/
theorem branch_rest {sh : Shape} {f : IForm} (ha : sh.a = .none) (hh : sh.hold = 0) (h7 : order7 sh f.toX = true) :
    f.a = 0 ∧ f.h = false := by
  obtain ⟨-, ra, -, -, -, rh, -⟩ := order7_iff.1 h7
  rw [ha] at ra; rw [hh] at rh
  exact ⟨extCode_eq_zero (beq_iff_eq.1 ra), eq_false_of_hold rh⟩

/-- The mask of a branch fills D (R137). -/
theorem mask_of_rest {sh : Shape} {f : IForm} (hd : sh.d = .num 3) (h7 : order7 sh f.toX = true) :
    maskField (f.d.extractLsb' 0 3) = f.d := by
  obtain ⟨rd, -⟩ := order7_iff.1 h7
  rw [hd] at rd
  exact maskField_of_code (of_decide_eq_true rd)

/-- A long branch's or call's word holds nothing in IMM8, and its literal nothing but the target (R34). -/
theorem target_of_rest {sh : Shape} {f : IForm} {l : BitVec 64} (ht : sh.target = true) (hm : sh.mods = 0)
    (h7 : order7 sh f.toX = true) (hl : f.lit = some l) : f.imm = 0 ∧ targetLit (l.extractLsb' 2 55) = l := by
  obtain ⟨-, -, -, -, -, -, -, rm, -, -, rt⟩ := order7_iff.1 h7
  obtain ⟨hhi, hlo⟩ := rt ht l hl
  refine ⟨?_, targetLit_of_rest hhi hlo⟩
  rw [hm] at rm
  have hi : f.imm.setWidth 32 = 0 := by
    rw [← BitVec.and_allOnes (x := f.imm.setWidth 32)]
    exact rm
  have hn : f.imm.toNat % 2 ^ 32 = 0 := by simpa using congrArg BitVec.toNat hi
  exact BitVec.eq_of_toNat_eq (by simpa using (by omega : f.imm.toNat = 0))

theorem branch_form {op : Nat} {sh : Shape} {f : IForm} (hd : sh.d = .num 3) (ha : sh.a = .none) (hh : sh.hold = 0)
    (h7 : order7 sh f.toX = true) (hl : f.lit = none) :
    Form.i op ⟨f.lnd, maskField (f.d.extractLsb' 0 3), 0, f.imm, false, none⟩ = .i op f := by
  obtain ⟨ra, rh⟩ := branch_rest ha hh h7
  rw [mask_of_rest hd h7, ← hl, ← ra, ← rh]

theorem branchLong_form {op : Nat} {sh : Shape} {f : IForm} {l : BitVec 64} (hd : sh.d = .num 3) (ha : sh.a = .none)
    (hh : sh.hold = 0) (ht : sh.target = true) (hm : sh.mods = 0) (h7 : order7 sh f.toX = true) (hl : f.lit = some l) :
    Form.i op ⟨f.lnd, maskField (f.d.extractLsb' 0 3), 0, 0, false, some (targetLit (l.extractLsb' 2 55))⟩ = .i op f := by
  obtain ⟨ra, rh⟩ := branch_rest ha hh h7
  obtain ⟨ri, rl⟩ := target_of_rest ht hm h7 hl
  rw [mask_of_rest hd h7, rl, ← hl]
  obtain ⟨lnd, d, a, imm, h, lit⟩ := f
  cases ra; cases rh; cases ri
  rfl

theorem call_form {sh : Shape} {f : IForm} (ha : sh.a = .none) (hh : sh.hold = 0) (h7 : order7 sh f.toX = true)
    (hl : f.lit = none) : Form.i 0x23 ⟨f.lnd, f.d, 0, f.imm, false, none⟩ = .i 0x23 f := by
  obtain ⟨ra, rh⟩ := branch_rest ha hh h7
  rw [← hl, ← ra, ← rh]

theorem callLong_form {sh : Shape} {f : IForm} {l : BitVec 64} (ha : sh.a = .none) (hh : sh.hold = 0) (ht : sh.target = true)
    (hm : sh.mods = 0) (h7 : order7 sh f.toX = true) (hl : f.lit = some l) :
    Form.i 0x23 ⟨f.lnd, f.d, 0, 0, false, some (targetLit (l.extractLsb' 2 55))⟩ = .i 0x23 f := by
  obtain ⟨ra, rh⟩ := branch_rest ha hh h7
  obtain ⟨ri, rl⟩ := target_of_rest ht hm h7 hl
  rw [rl, ← hl]
  obtain ⟨lnd, d, a, imm, h, lit⟩ := f
  cases ra; cases rh; cases ri
  rfl

theorem iInstr_form {op : Nat} {f : IForm} {i : Instr} (h : iInstr op f = some i)
    (h7 : order7 (baseShape op f.toX) f.toX = true) : i.form = some (.i op f) := by
  obtain ⟨lnd, d, a, imm, hd, lit⟩ := f
  unfold iInstr at h
  split at h <;> cases h
  case h_1 =>
    cases lit with
    | none => exact congrArg some (branch_form rfl rfl rfl h7 rfl)
    | some l => exact congrArg some (branchLong_form rfl rfl rfl rfl rfl h7 rfl)
  case h_2 =>
    cases lit with
    | none => exact congrArg some (branch_form rfl rfl rfl h7 rfl)
    | some l => exact congrArg some (branchLong_form rfl rfl rfl rfl rfl h7 rfl)
  case h_3 =>
    cases lit with
    | none => exact congrArg some (call_form rfl rfl h7 rfl)
    | some l => exact congrArg some (callLong_form rfl rfl rfl rfl h7 rfl)
  all_goals rfl

/-- No other form than its own has a MOV whose A is the literal code and whose B is empty under LEN 0b01 (R42). -/
def notLiteralMov : Form → Prop
  | .r op f lit => op = 1 → lit.isSome = true → ¬ (f.a = 127 ∧ f.b = 0)
  | _ => True

theorem notLiteralMov_formOf (w : Word) (rest : List Word) : notLiteralMov (formOf w rest) := by
  by_cases hb : opOf w < 0x38
  · by_cases hm : opOf w = 1 ∧ lenOf w = 1 ∧ (rFields w).a = 127 ∧ (rFields w).b = 0
    · simp [formOf, hm, notLiteralMov]
    · rw [formOf_base hb hm]
      cases isIForm (opOf w)
      · intro hop hlit hab
        exact hm ⟨hop, by by_contra hl; simp at hlit; exact hl hlit, hab⟩
      · trivial
  · rw [formOf_ext (by omega)]
    trivial

/-- A form that passes every check is the form of the instruction read from it. -/
theorem form_of_check {env : DecEnv} {p : Option PForm} {r : Bool} {fm : Form} {i : Instr} (hc : fm.check env p r = none)
    (hi : fm.instr = some i) (hm : notLiteralMov fm) : i.form = some fm := by
  obtain ⟨pp, h2, h6, h7⟩ := own_checks hc
  cases fm with
  | r op f lit => exact rInstr_form hi h2 h6 h7 hm
  | i op f => exact iInstr_form hi h7
  | l f => cases hi; rfl
  | x g x f => exact xInstr_form hi

/-! ### What the decoder accepts -/

theorem ite_bad_eq_ok_iff {c : Prop} [Decidable c] {b : BitVec 9} {d : Dec} {i : Instr} {n : Nat} :
    (if c then .bad b else d) = Dec.ok i n ↔ ¬ c ∧ d = .ok i n := by
  by_cases h : c <;> simp [h]

/-- Words that the decoder accepts have an assigned opcode and its LEN, and their form passes every check, as the PFX does. -/
theorem decodeUnder_ok {env : DecEnv} {p : Option (PForm × Bool × Bool)} {ws : List Word} {i : Instr} {n : Nat}
    (h : decodeUnder env p ws = .ok i n) : ∃ w rest, ws = w :: rest ∧ (opOf w < 0x29 ∨ 0x38 ≤ opOf w ∧ opOf w ≠ 0x3F) ∧
      lenOk w = true ∧ (formOf w rest).check env (p.map (·.1)) true = none ∧ (formOf w rest).instr = some i ∧
      n = 4 * wordCount w ∧ ∀ q r b, p = some (q, r, b) → r = true ∧ b = false := by
  cases ws with
  | nil => cases h
  | cons w rest =>
    simp only [decodeUnder, ite_bad_eq_ok_iff] at h
    obtain ⟨hop, hlen, -, hpfx, h⟩ := h
    have hop : ¬ (0x29 ≤ opOf w ∧ opOf w ≤ 0x37) := by simpa using hop
    obtain ⟨hb, hl⟩ : _ ∧ lenOk w = true := by simpa using hlen
    split at h
    · cases h
    rename_i hc
    split at h
    case h_2 => cases h
    rename_i hi
    cases h
    refine ⟨w, rest, rfl, by omega, hl, ?_, hi, rfl, ?_⟩
    · cases p with
      | none => exact hc
      | some q =>
        obtain ⟨h2, h4, h5, h6, -, h7⟩ := check_under_iff.1 hc
        exact check_under_iff.2 ⟨h2, h4, h5, h6, rfl, h7⟩
    · rintro q r b rfl
      obtain ⟨-, -, -, -, hr, -⟩ := check_under_iff.1 hc
      exact ⟨hr, hb⟩

/-- Accepted words, of which enough are given, are the encoding of the instruction, which is well-formed. -/
theorem encoding_of_decodeUnder {env : DecEnv} {p : Option (PForm × Bool × Bool)} {ws : List Word} {i : Instr} {n : Nat}
    (hlen : 5 ≤ ws.length) (h : decodeUnder env p ws = .ok i n) :
    i.form.isSome = true ∧ i.wf env (p.map (·.1)) = true ∧ encode i = ws.take (n / 4) := by
  obtain ⟨w, rest, rfl, hop, hl, hc, hi, rfl, -⟩ := decodeUnder_ok h
  have hf := form_of_check hc hi (notLiteralMov_formOf w rest)
  refine ⟨by rw [hf]; rfl, wf_of_check hf hc, ?_⟩
  rw [encode_of_form hf, encode_formOf hl hop (by simpa using hlen), Nat.mul_div_cancel_left _ (by decide)]

/-- A PFX that is accepted has its own word, and what follows it reads as an instruction under it. -/
theorem pWord_of_decode {env : DecEnv} {w : Word} {rest : List Word} {i : Instr} {n : Nat} (hop : opOf w = 0x3F)
    (h : decode env (w :: rest) = .ok i n) :
    i = .pfx (pFields w) ∧ n = 4 ∧ pWord (pFields w) = w ∧ ∃ j m, decodeUnder env (some (pFields w, true, false)) rest = .ok j m := by
  simp only [decode, hop, if_true] at h
  split at h
  next j m hj =>
    cases h
    obtain ⟨-, -, -, -, -, -, -, -, hp⟩ := decodeUnder_ok hj
    obtain ⟨hr, hb⟩ := hp _ _ _ rfl
    rw [hr, hb] at hj
    exact ⟨rfl, rfl, pWord_fields hop (by simpa using hb) hr, j, m, hj⟩
  next => cases h

/-- Settles O2: the form of accepted words is written back as them, and every check it has passed makes its instruction
well-formed. -/
theorem wordsAreEncodings : Obligations.words_are_encodings := by
  refine ⟨fun env ws i n hlen h => ?_, fun env p ws i n hlen h => encoding_of_decodeUnder (p := some (p, true, false)) hlen h⟩
  cases ws with
  | nil => cases hlen
  | cons w rest =>
    by_cases hop : opOf w = 0x3F
    · obtain ⟨rfl, rfl, hw, hj⟩ := pWord_of_decode hop h
      have hn : (Instr.pfx (pFields w)).form = none := rfl
      exact ⟨fun hf => by simp [hn] at hf, fun _ => ⟨pFields w, rfl, rfl, congrArg some hw.symm, hj⟩⟩
    · simp only [decode, hop, if_false] at h
      obtain ⟨hf, hwf, he⟩ := encoding_of_decodeUnder hlen h
      exact ⟨fun _ => ⟨hwf, he⟩, fun hn => by simp [hn] at hf⟩

end Sys2Proof.Laws

/-! ## Memory stays canonical (O5)

A step writes global memory in five places only: a line is brought under a key (openLine), a page is kept in a snapshot's pool
(keepPage), bytes are stored (putBytes), and bring-up and reset clear it. The development has three layers: what leaves the field mem as
it is, what keeps its canonical form, and the outcomes, by the shared courses of the instructions. -/

namespace Sys2Proof.Machine
open Sys2Proof

/-! ## What leaves memory as it is -/

theorem foldl_mem {β : Type} {f : State → β → State} (hf : ∀ s b, (f s b).mem = s.mem) (l : List β) (s : State) :
    (l.foldl f s).mem = s.mem := by
  induction l generalizing s with
  | nil => rfl
  | cons b l ih => rw [List.foldl_cons, ih, hf]

@[simp] theorem ite_mem {c : Prop} [Decidable c] (s t : State) :
    (if c then s else t).mem = if c then s.mem else t.mem :=
  apply_ite State.mem c s t

/-! ### Gallery -/

theorem State.answers_mem {s : State} {p : Packet} {f : GalOp → State} (hf : ∀ o, (f o).mem = s.mem) :
    (s.answers p f).mem = s.mem := by
  unfold State.answers
  split
  · split
    · exact hf _
    · rfl
  · rfl

theorem getD_mem {o : Option State} {s : State} (h : ∀ t, o = some t → t.mem = s.mem) : (o.getD s).mem = s.mem := by
  cases o with
  | none => rfl
  | some t => exact h t rfl

/-! ### Ops -/

@[simp] theorem State.countPoison_mem (s : State) (block n : Nat) : (s.countPoison block n).mem = s.mem := rfl

@[simp] theorem State.stopFlights_mem (s : State) (k : WgKey) : (s.stopFlights k).mem = s.mem := rfl

@[simp] theorem State.discardLoads_mem (s : State) (k : WgKey) : (s.discardLoads k).mem = s.mem := rfl

@[simp] theorem State.scrambleDests_mem (s : State) (l : List (WarpKey × List Nat)) :
    (s.scrambleDests l).mem = s.mem := by
  induction l generalizing s with
  | nil => rfl
  | cons x l ih => simp [State.scrambleDests, ih]

@[simp] theorem State.breakTeam_mem (s : State) (w : Warp) : (s.breakTeam w).mem = s.mem := by
  unfold State.breakTeam
  split <;> simp

@[simp] theorem State.breakTeams_mem (s : State) (k : WgKey) : (s.breakTeams k).mem = s.mem := by
  unfold State.breakTeams
  simp [foldl_mem]

@[simp] theorem State.dropFetches_mem (s : State) (k : WgKey) : (s.dropFetches k).mem = s.mem := rfl

@[simp] theorem State.unwind_mem (s : State) (k : WgKey) (r : Region) (outer : List Region) (c : Cause) (self : Nat) :
    (s.unwind k r outer c self).mem = s.mem := by
  simp [State.unwind]

@[simp] theorem State.checkDone_mem (s : State) (k : WgKey) : (s.checkDone k).mem = s.mem := by simp [State.checkDone]

@[simp] theorem State.notePhases_mem (s : State) (k : WgKey) : (s.notePhases k).mem = s.mem := by
  unfold State.notePhases
  split <;> simp

@[simp] theorem State.dropCommits_mem (s : State) (k : WgKey) : (s.dropCommits k).mem = s.mem := rfl

@[simp] theorem State.endWorkgroup_mem (s : State) (k : WgKey) (how : EndKind) :
    (s.endWorkgroup k how).mem = s.mem := by
  simp [State.endWorkgroup]

@[simp] theorem State.deliver_mem (s : State) (w : Warp) (pc : Pc) (c : Cause) (addr : Nat) :
    (s.deliver w pc c addr).mem = s.mem := by
  unfold State.deliver
  split
  · simp
  · split <;> simp

@[simp] theorem State.hold_mem (s : State) (i : Iss) (evt : Nat) (h : Hold) :
    (s.hold i evt h).mem = s.mem := by
  simp [State.hold]

/-! ### Translate -/

@[simp] theorem State.touchL2_mem (s : State) (line : Nat) (write ef : Bool) :
    (s.touchL2 line write ef).mem = s.mem := by
  unfold State.touchL2
  split <;> simp

@[simp] theorem State.keepEntry_mem (s : State) (e : TlbEntry) :
    (s.keepEntry e).mem = s.mem := by
  simp [State.keepEntry]

@[simp] theorem State.keepLeaf_mem (s : State) (site ctx b n : Nat) (e : BitVec 64) :
    (s.keepLeaf site ctx b n e).mem = s.mem := by
  simp [State.keepLeaf]

@[simp] theorem State.fill_mem (s : State) (site ctx va : Nat) : (s.fill site ctx va).mem = s.mem := by
  unfold State.fill
  split
  · rfl
  split
  · simp
  split
  · have step : ∀ (t : State) (l : List (Nat × Nat × BitVec 64)), (l.foldl (fun (t : State) (x : Nat × Nat × BitVec 64) =>
        let u := t.touchL2 (lineOf x.2.1) false false
        if x.1 = 3 || !entryFollows x.1 x.2.2 then u
        else u.keepEntry ⟨secondLevel site, ctx, va / 2 ^ levelShift x.1 * 2 ^ levelShift x.1, 2 ^ levelShift x.1, x.2.2⟩) t).mem = t.mem :=
      fun t l => foldl_mem (fun _ _ => by dsimp only; split <;> simp) l t
    dsimp only
    split <;> simp only [State.keepLeaf_mem, step]
  · rfl

@[simp] theorem State.fillAll_mem (s : State) (site ctx : Nat) (l : List Nat) : (s.fillAll site ctx l).mem = s.mem := by
  induction l generalizing s with
  | nil => rfl
  | cons x l ih => simp [State.fillAll, ih]

/-! ### Flags -/

@[simp] theorem writeStatus_mem (s : State) (i : Iss) (n : Nat) (v : Word) : (writeStatus s i n v).mem = s.mem := by
  unfold writeStatus
  split <;> simp

/-! ### Alu -/

@[simp] theorem Opnd.commit_mem (o : Opnd) (s : State) (res : Option (List (Nat × DWord))) (upd : Warp → Warp) :
    (Opnd.commit o s res upd).1.mem = s.mem :=
  rfl

/-! ### Mem -/

@[simp] theorem State.dropL1Line_mem (s : State) (core line : Nat) : (s.dropL1Line core line).mem = s.mem := rfl

@[simp] theorem State.dropL1_mem (s : State) (core : Nat) : (s.dropL1 core).mem = s.mem := rfl

@[simp] theorem State.fillL1_mem (s : State) (core : Nat) (key : KeyNo) (line : Nat) :
    (s.fillL1 core key line).mem = s.mem := by
  simp [State.fillL1]

@[simp] theorem State.loadG_mem (s : State) (core : Nat) (key : KeyNo) (hint pa n : Nat) :
    (s.loadG core key hint pa n).1.mem = s.mem := by
  unfold State.loadG
  dsimp only
  split
  · split <;> simp
  · simp

@[simp] theorem State.bringLine_mem (s : State) (core : Nat) (key : KeyNo) (lvl line : Nat) :
    (s.bringLine core key lvl line).mem = s.mem := by
  simp [State.bringLine]

@[simp] theorem State.notifyG_mem (s : State) (pa n : Nat) : (s.notifyG pa n).mem = s.mem := rfl

@[simp] theorem State.notifyS_mem (s : State) (k : WgKey) (off n : Nat) : (s.notifyS k off n).mem = s.mem := by
  unfold State.notifyS
  split <;> simp

@[simp] theorem State.armed_mem (s : State) (k : WarpKey) (slot id now : Nat) :
    (s.armed k slot id now).mem = s.mem :=
  rfl

@[simp] theorem State.poisonAt_mem (s : State) (block : Nat → Nat) (gs : List Nat) :
    (s.poisonAt block gs).mem = s.mem :=
  (foldl_mem (fun _ _ => State.postEvent_mem _ _) _ _).trans
    (foldl_mem (f := fun t g => State.countPoison t (block g) 1) (fun _ _ => rfl) _ _)

@[simp] theorem State.poisonMem_mem (s : State) (gs : List Nat) :
    (s.poisonMem gs).mem = s.mem := by
  simp [State.poisonMem]

@[simp] theorem State.poisonL2_mem (s : State) (gs : List Nat) : (s.poisonL2 gs).mem = s.mem := by simp [State.poisonL2]

@[simp] theorem State.poisonBay_mem (s : State) (k : WgKey) (gs : List Nat) : (s.poisonBay k gs).mem = s.mem := by
  unfold State.poisonBay
  split <;> simp [foldl_mem]

@[simp] theorem State.touchLines_mem (s : State) (pa n : Nat) (write ef : Bool) :
    (s.touchLines pa n write ef).mem = s.mem := by
  unfold State.touchLines
  simp [foldl_mem]

@[simp] theorem State.useLines_mem (s : State) (pa n : Nat) : (s.useLines pa n).mem = s.mem := by simp [State.useLines]

@[simp] theorem State.copiedLines_mem (s : State) (src dst : Nat) :
    (s.copiedLines src dst).mem = s.mem := by
  simp [State.copiedLines]

@[simp] theorem State.storeS_mem (s : State) (k : WgKey) (off : Nat) (bs : List Byte) :
    (s.storeS k off bs).mem = s.mem := by
  simp [State.storeS]

@[simp] theorem State.storeL1_mem (s : State) (core : Nat) (key : KeyNo) (hint pa : Nat) (bs : List Byte) :
    (s.storeL1 core key hint pa bs).mem = s.mem := by
  simp [State.storeL1]

@[simp] theorem State.claimViews_mem (s : State) (ctx id : Nat) : (s.claimViews ctx id).mem = s.mem := rfl

@[simp] theorem State.freezeViews_mem (s0 : State) (id : Nat) : (s0.freezeViews id).mem = s0.mem := by
  unfold State.freezeViews
  simp [foldl_mem]

@[simp] theorem State.orders_mem (s : State) (k : WarpKey) (lanes : LaneMask) (paths : BitVec 5) (upto : Nat) :
    (s.orders k lanes paths upto).mem = s.mem :=
  rfl

@[simp] theorem State.ordersOf_mem (s : State) (p : WgKey → Bool) : (s.ordersOf p).mem = s.mem := rfl

@[simp] theorem State.fenceActs_mem (s : State) (f : FenceMark) :
    (s.fenceActs f).mem = s.mem := by
  simp [State.fenceActs]

@[simp] theorem State.endPasses_mem (s : State) : (s.endPasses).mem = s.mem := by simp [State.endPasses]

@[simp] theorem State.settle_mem (s0 : State) : (s0.settle).mem = s0.mem := by
  unfold State.settle
  simp [foldl_mem]

@[simp] theorem State.spoil_mem (s : State) (k : Rival) (sp : Space) (pa n : Nat) :
    (s.spoil k sp pa n).mem = s.mem :=
  rfl

@[simp] theorem State.spend_mem (s : State) (e : Spent) : (s.spend e).mem = s.mem := rfl

@[simp] theorem State.committed_mem (s : State) (a : Access) : (s.committed a).mem = s.mem := by simp [State.committed]

@[simp] theorem State.unspoil_mem (s : State) (id : Nat) : (s.unspoil id).mem = s.mem := rfl

@[simp] theorem State.released_mem (s : State) (a : Access) : (s.released a).mem = s.mem := by simp [State.released]

/-! ### Object -/

@[simp] theorem State.arrived_mem (s : State) (k : WarpKey) (lanes : LaneMask) (upto : Nat) (a : BarOp) :
    (s.arrived k lanes upto a).mem = s.mem := by
  unfold State.arrived
  split <;> simp

/-! ### Access -/

@[simp] theorem State.fillAccess_mem (s : State) (a : Access) :
    (s.fillAccess a).mem = s.mem := by
  simp [State.fillAccess]

@[simp] theorem State.settleFor_mem (s0 : State) (id : Nat) : (s0.settleFor id).mem = s0.mem := by
  unfold State.settleFor
  dsimp only
  split <;> simp

@[simp] theorem State.dropL2_mem (s : State) (line : Nat) : (s.dropL2 line).mem = s.mem := rfl

@[simp] theorem State.setAccess_mem (s : State) (a : Access) : (s.setAccess a).mem = s.mem := rfl

@[simp] theorem State.removeAccess_mem (s0 : State) (id : Nat) : (s0.removeAccess id).mem = s0.mem := rfl

/-! ### Memory -/

@[simp] theorem State.bringLater_mem (s : State) (core ctx lvl va : Nat) :
    (s.bringLater core ctx lvl va).mem = s.mem :=
  rfl

@[simp] theorem State.prefetch_mem (s : State) (core ctx lvl : Nat) (ea : ℤ) :
    (s.prefetch core ctx lvl ea).mem = s.mem := by
  unfold State.prefetch
  split
  · rfl
  split
  · simp
  split
  · split <;> simp
  · rfl

@[simp] theorem State.lockLine_mem (s : State) (k : WgKey) (line va : Nat) : (s.lockLine k line va).1.mem = s.mem := by
  unfold State.lockLine
  split
  · rfl
  · split
    · rfl
    · split <;> simp

@[simp] theorem State.unlockLine_mem (s : State) (k : WgKey) (line _va : Nat) :
    (s.unlockLine k line _va).1.mem = s.mem := by
  unfold State.unlockLine
  split
  · simp
  · split <;> simp

@[simp] theorem State.flushLine_mem (s : State) (core kind line : Nat) : (s.flushLine core kind line).mem = s.mem := by
  unfold State.flushLine
  split <;> simp

@[simp] theorem State.takeGroup_mem (s : State) (w : Warp) (t : Stream) (q : Option Nat) (g : QGroup)
    (fences : List Nat) :
    (s.takeGroup w t q g fences).1.mem = s.mem := by
  unfold State.takeGroup
  dsimp only
  split <;> simp

@[simp] theorem State.releaseGroups_mem (s : State) (w : Warp) (t : Stream) (l : List QGroup) :
    (s.releaseGroups w t l).mem = s.mem := by
  induction l generalizing s with
  | nil => rfl
  | cons g gs ih =>
    unfold State.releaseGroups
    dsimp only
    split <;> simp [ih]

@[simp] theorem State.releaseQueue_mem (s : State) (w : Warp) (q : Nat) : (s.releaseQueue w q).mem = s.mem := by
  unfold State.releaseQueue
  split <;> simp

/-! ### Control -/

@[simp] theorem State.checkWsync_mem (s : State) (k : WarpKey) : (s.checkWsync k).mem = s.mem := by
  unfold State.checkWsync
  split
  · simp
  · split <;> simp

@[simp] theorem State.dropLoads_mem (s : State) (k : WarpKey) (lanes : LaneMask) (all : Bool) :
    (s.dropLoads k lanes all).mem = s.mem :=
  rfl

@[simp] theorem State.noteEnd_mem (s : State) (k : WgKey) (how : EndKind) :
    (s.noteEnd k how).mem = s.mem := by
  simp [State.noteEnd]

@[simp] theorem State.warpEnded_mem (s : State) (w : Warp) : (s.warpEnded w).mem = s.mem := by simp [State.warpEnded]

/-! ### Residency -/

@[simp] theorem State.placeWarps_mem (s : State) (k : WgKey) (core : Nat) (r : LaunchRecord) (n : Nat) (l : List Nat) :
    (s.placeWarps k core r n l).mem = s.mem := by
  induction l generalizing s n with
  | nil => rfl
  | cons p ps ih => simp [State.placeWarps, ih]

@[simp] theorem State.readyCore_mem (s : State) (core width carve : Nat) :
    (s.readyCore core width carve).mem = s.mem := by
  unfold State.readyCore
  split <;> simp

@[simp] theorem State.placeOn_mem (s : State) (g : Grid) (wgid : Nat) (x : LCore) (pos : List Nat) :
    (s.placeOn g wgid x pos).mem = s.mem := by
  simp [State.placeOn]

@[simp] theorem State.placeGang_mem (s : State) (g : Grid) (n : Nat) (l : List (LCore × List Nat)) :
    (s.placeGang g n l).mem = s.mem := by
  induction l generalizing s n with
  | nil => rfl
  | cons x xs ih => simp [State.placeGang, ih]

theorem State.tryGrid_mem {s : State} {c : Context} {g : Grid} {offer : Option LCore} {t : State}
    (ht : s.tryGrid c g offer = some t) :
    t.mem = s.mem := by
  unfold State.tryGrid at ht
  split at ht
  · cases ht
  · split at ht
    · split at ht
      · cases ht
      · obtain ⟨r, -, rfl⟩ := Option.map_eq_some_iff.1 ht
        simp
    · split at ht
      · cases ht
      · obtain ⟨r, -, rfl⟩ := Option.map_eq_some_iff.1 ht
        simp

theorem State.tryGrids_mem {s : State} {c : Context} {l : List Grid} {t : State} (ht : s.tryGrids c l = some t) :
    t.mem = s.mem := by
  induction l with
  | nil => cases ht
  | cons g gs ih =>
    unfold State.tryGrids at ht
    split at ht
    · next hg => exact Option.some.inj ht ▸ State.tryGrid_mem hg
    · exact ih ht

@[simp] theorem State.holdLayer_mem (s : State) (ctx : Nat) : (s.holdLayer ctx).mem = s.mem := by
  unfold State.holdLayer
  split
  · rfl
  split
  · rfl
  split
  · rfl
  dsimp only
  split <;> simp

@[simp] theorem State.startWaits_mem (s : State) (found : List GridKey) :
    (s.startWaits found).mem = s.mem := by
  simp [State.startWaits]

@[simp] theorem State.decideOn_mem (ctx n : Nat) (s : State) : (State.decideOn ctx n s).mem = s.mem := by
  induction n generalizing s with
  | zero => rfl
  | succ n ih =>
    unfold State.decideOn
    split
    · rfl
    · split
      · rfl
      · dsimp only
        split
        · next ht => simp [ih, State.tryGrids_mem ht]
        · simp

@[simp] theorem State.distribute_mem (s : State) (ctx : Nat) :
    (s.distribute ctx).mem = s.mem := by
  simp [State.distribute]

@[simp] theorem State.afterRetirement_mem (s : State) (gk : GridKey) (core : Nat) :
    (s.afterRetirement gk core).mem = s.mem := by
  unfold State.afterRetirement
  split
  · rfl
  · split
    · rfl
    · dsimp only
      split
      · rw [State.distribute_mem, getD_mem fun _ ht => State.tryGrid_mem ht, State.holdLayer_mem]
      · simp

/-! ### Copy -/

@[simp] theorem State.queueBatch_mem (s : State) (w : WarpKey) (wg : WgKey) (fences holds : List Nat)
    (l : List (RawRec × Option RawRec)) :
    (s.queueBatch w wg fences holds l).mem = s.mem := by
  induction l generalizing s with
  | nil => rfl
  | cons x l ih => simp [State.queueBatch, ih]

@[simp] theorem State.updRec_mem (s : State) (id : Nat) (g : CopyRec → CopyRec) : (s.updRec id g).mem = s.mem := rfl

@[simp] theorem State.postChunkFault_mem (s : State) (r : CopyRec) (c : Cause) (va acc : Nat) :
    (s.postChunkFault r c va acc).mem = s.mem :=
  rfl

@[simp] theorem State.spendChunk_mem (s : State) (r : CopyRec) (c : Chunk) (n : Nat) :
    (s.spendChunk r c n).mem = s.mem := by
  unfold State.spendChunk
  split <;> simp

@[simp] theorem State.poisonDst_mem (s : State) (r : CopyRec) (dst : Nat) (offs : List Nat) :
    (s.poisonDst r dst offs).mem = s.mem := by
  simp [State.poisonDst]

@[simp] theorem State.removeRec_mem (s : State) (id : Nat) : (s.removeRec id).mem = s.mem := rfl

@[simp] theorem State.counted_mem (s : State) (r : CopyRec) : (s.counted r).mem = s.mem := by simp [State.counted]

@[simp] theorem State.useElems_mem (s : State) (n : Nat) (pas : List (Nat × BitVec 64)) :
    (s.useElems n pas).mem = s.mem := by
  unfold State.useElems
  simp [foldl_mem]

/-! ### Launch -/

@[simp] theorem State.reached_mem (s : State) (site ctx va n : Nat) (write : Bool) :
    (s.reached site ctx va n write).mem = s.mem :=
  foldl_mem (fun _ _ => by dsimp only; split <;> simp) _ _

@[simp] theorem State.useDeps_mem (s : State) (core : Nat) (k : WgKey) : (s.useDeps core k).mem = s.mem := by
  unfold State.useDeps
  simp [foldl_mem]

@[simp] theorem State.postCompletion_mem (s : State) (q : Nat) (tag : Word) (status : Nat) :
    (s.postCompletion q tag status).mem = s.mem := by
  unfold State.postCompletion
  split <;> simp

@[simp] theorem State.advanceQueue_mem (s : State) (q : Nat) : (s.advanceQueue q).mem = s.mem := rfl

@[simp] theorem State.admitGrid_mem (s : State) (c : Context) (r : LaunchRecord) (queue : Nat) (tag : Word) :
    (s.admitGrid c r queue tag).mem = s.mem := by
  simp [State.admitGrid]

@[simp] theorem State.launch_mem (s : State) (c : Context) (queue : Nat) (e : QEntry) (r : LaunchRecord) :
    (s.launch c queue e r).mem = s.mem := by
  unfold State.launch
  split
  · simp
  · split <;> simp

@[simp] theorem State.leaveOn_mem (s : State) (k : WgKey) : (s.leaveOn k).mem = s.mem := by
  unfold State.leaveOn
  split <;> simp

@[simp] theorem State.orphan_mem (s : State) (k : WgKey) : (s.orphan k).mem = s.mem := rfl

@[simp] theorem State.removeWg_mem (s : State) (k : WgKey) (how : EndKind) :
    (s.removeWg k how).mem = s.mem := by
  simp [State.removeWg]

@[simp] theorem State.emptyCore_mem (s : State) (core : Nat) :
    (s.emptyCore core).mem = s.mem := by
  simp [State.emptyCore]

/-! ### Matrix -/

@[simp] theorem State.setMq_mem (s : State) (core : Nat) (q : List MEntry) : (s.setMq core q).mem = s.mem := rfl

@[simp] theorem State.enqueue_mem (s : State) (core : Nat) (e : MEntry) : (s.enqueue core e).mem = s.mem := rfl

@[simp] theorem State.formPass_mem (s : State) (leader : TeamAsk) (asks : List TeamAsk) :
    (s.formPass leader asks).mem = s.mem :=
  foldl_mem (fun _ _ => State.enqueue_mem _ _ _) _ _

@[simp] theorem State.releaseAsk_mem (s : State) (a : TeamAsk) : (s.releaseAsk a).mem = s.mem := rfl

@[simp] theorem State.consume_mem (s : State) (core : Nat) (e : MEntry) : (s.consume core e).mem = s.mem := by
  unfold State.consume
  split <;> simp

@[simp] theorem State.performPass_mem (s : State) (core : Nat) (e : MEntry) (bofs aslot bslot bsci : Nat)
    (qs : List Quarter) :
    (s.performPass core e bofs aslot bslot bsci qs).mem = s.mem := by
  unfold State.performPass
  split <;> simp

@[simp] theorem State.performTeam_mem (s : State) (e : MEntry) (tile aslot bslot bofs bsci rowt : Nat) (zero : Bool)
    (leader : WgKey) (aofs stride asci : Nat) (ts : Option Word) :
    (s.performTeam e tile aslot bslot bofs bsci rowt zero leader aofs stride asci ts).mem = s.mem := by
  unfold State.performTeam
  split <;> simp

@[simp] theorem State.performScld_mem (s : State) (core : Nat) (e : MEntry) (aofs sidx units : Nat) :
    (s.performScld core e aofs sidx units).mem = s.mem := by
  unfold State.performScld
  split <;> simp

@[simp] theorem State.performAccz_mem (s : State) (e : MEntry) (mask : BitVec 8) :
    (s.performAccz e mask).mem = s.mem :=
  rfl

@[simp] theorem State.performAccld_mem (s : State) (core : Nat) (e : MEntry) (tile aofs stride bf nb : Nat) :
    (s.performAccld core e tile aofs stride bf nb).mem = s.mem := by
  unfold State.performAccld
  split <;> simp

@[simp] theorem State.performAccst_mem (s : State) (core : Nat) (e : MEntry) (tile aofs stride dslot bf nb : Nat)
    (bound : Option (Nat × BoundReg)) (mode srseq : Word) :
    (s.performAccst core e tile aofs stride dslot bf nb bound mode srseq).mem = s.mem := by
  unfold State.performAccst
  split
  · dsimp only
    split
    · simp
    · split <;> simp [foldl_mem]
  · rfl

@[simp] theorem State.performEntry_mem (s : State) (core : Nat) (e : MEntry) : (s.performEntry core e).mem = s.mem := by
  unfold State.performEntry
  split <;> simp

@[simp] theorem State.startEntry_mem (s : State) (e : MEntry) : (s.startEntry e).mem = s.mem := rfl

@[simp] theorem State.completeTeam_mem (s : State) (e : MEntry) : (s.completeTeam e).mem = s.mem := by
  unfold State.completeTeam
  simp [foldl_mem]

/-! ### Wire -/

@[simp] theorem State.setPort_mem (s : State) (n : Nat) (p : GalPort) : (s.setPort n p).mem = s.mem := rfl

@[simp] theorem State.relane_mem (s : State) (port v : Nat) : (s.relane port v).mem = s.mem := by
  unfold State.relane
  split <;> simp

@[simp] theorem State.transmit_mem (s : State) (port : Nat) (m : Outgoing) : (s.transmit port m).mem = s.mem := by
  unfold State.transmit
  split <;> simp

@[simp] theorem State.resume_mem (s : State) (port : Nat) : (s.resume port).mem = s.mem := by
  unfold State.resume
  split <;> simp [foldl_mem]

theorem State.takeMember_mem {s : State} {kind evk : Nat} {m : MemberMsg} {t : State}
    (ht : s.takeMember kind evk m = some t) :
    t.mem = s.mem := by
  obtain ⟨r, -, rfl⟩ := Option.map_eq_some_iff.1 ht
  simp

@[simp] theorem State.sendOn_mem (s : State) (die dev : Nat) (m : Outgoing) : (s.sendOn die dev m).mem = s.mem := by
  unfold State.sendOn
  split
  · simp
  · split <;> simp

@[simp] theorem State.send_mem (s : State) (op : Option Nat) (die dev : Nat) (p : Packet) :
    (s.send op die dev p).mem = s.mem := by
  simp [State.send]

@[simp] theorem State.sendMember_mem (s : State) (dev kind evk : Nat) (m : MemberMsg) :
    (s.sendMember dev kind evk m).mem = s.mem := by
  simp [State.sendMember]

/-! ### Gallery -/

@[simp] theorem State.updComm_mem (s : State) (n : Nat) (f : Comm → Comm) : (s.updComm n f).mem = s.mem := rfl

@[simp] theorem State.poisonRuns_mem (s : State) (l : List Run) (us : List Nat) :
    (s.poisonRuns l us).mem = s.mem := by
  simp [State.poisonRuns]

@[simp] theorem State.walked_mem (s : State) (ctx va n : Nat) :
    (s.walked ctx va n).mem = s.mem := by
  simp [State.walked]

@[simp] theorem State.useRuns_mem (s : State) (l : List Run) : (s.useRuns l).mem = s.mem := by
  unfold State.useRuns
  simp [foldl_mem]

@[simp] theorem State.removeOp_mem (s : State) (id : Nat) : (s.removeOp id).mem = s.mem := by simp [State.removeOp]

@[simp] theorem State.setOp_mem (s : State) (o : GalOp) : (s.setOp o).mem = s.mem := rfl

@[simp] theorem State.suspendOp_mem (s : State) (o : GalOp) (c : Cause) (va : Nat) (a : Acc) :
    (s.suspendOp o c va a).mem = s.mem :=
  rfl

@[simp] theorem State.recordCause_mem (s : State) (o : GalOp) (c : Cause) : (s.recordCause o c).mem = s.mem := by
  unfold State.recordCause
  split
  · simp
  · split <;> simp

@[simp] theorem State.sendRank_mem (s : State) (o : Option Nat) (c : Comm) (die : Nat) (p : Packet) :
    (s.sendRank o c die p).mem = s.mem := by
  unfold State.sendRank
  split <;> simp

@[simp] theorem State.sendPieces_mem (s : State) (o : GalOp) (c : Comm) (b : NamedBuffer) (bs : List Byte)
    (us : List Nat) (base : Nat) (mk : Nat → Nat → Packet) (l : List (Nat × Nat)) :
    (s.sendPieces o c b bs us base mk l).mem = s.mem := by
  induction l generalizing s with
  | nil => rfl
  | cons x l ih => simp [State.sendPieces, ih]

@[simp] theorem State.tellLeft_mem (s : State) (c : Comm) : (s.tellLeft c).mem = s.mem := by
  unfold State.tellLeft
  simp [foldl_mem]

@[simp] theorem State.startGet_mem (s : State) (o : GalOp) (c : Comm) (b : NamedBuffer) (rofs len rank : Nat) :
    (s.startGet o c b rofs len rank).mem = s.mem := by
  unfold State.startGet
  dsimp only
  split
  · split <;> simp
  · simp [foldl_mem]

@[simp] theorem State.reply_mem (s : State) (c : Comm) (p : Packet) (op len : Nat) (data : List Byte)
    (poison : List Nat) :
    (s.reply c p op len data poison).mem = s.mem := by
  simp [State.reply]

@[simp] theorem State.strayAnswered_mem (s : State) (o : GalOp) (p : Packet) : (s.strayAnswered o p).mem = s.mem := rfl

@[simp] theorem State.handleGetReq_mem (s : State) (c : Comm) (p : Packet) : (s.handleGetReq c p).mem = s.mem := by
  unfold State.handleGetReq
  split
  · simp
  split <;> simp [foldl_mem]

@[simp] theorem State.handleGetData_mem (s : State) (p : Packet) : (s.handleGetData p).mem = s.mem := by
  unfold State.handleGetData
  exact State.answers_mem fun o => by split <;> rfl

@[simp] theorem State.handleAck_mem (s : State) (p : Packet) : (s.handleAck p).mem = s.mem := by
  unfold State.handleAck
  exact State.answers_mem fun _ => rfl

/-! ### Membership -/

@[simp] theorem State.updMember_mem (s : State) (f : Membership → Membership) : (s.updMember f).mem = s.mem := rfl

@[simp] theorem State.flood_mem (s : State) (evk : Nat) (m : MemberMsg) : (s.flood evk m).mem = s.mem := by
  unfold State.flood
  simp [foldl_mem]

@[simp] theorem State.endJoin_mem (s : State) (j : JoinRec) (res : Nat) :
    (s.endJoin j res).mem = s.mem := by
  simp [State.endJoin]

@[simp] theorem State.endSuspicion_mem (s : State) (dev : Nat) : (s.endSuspicion dev).mem = s.mem := rfl

@[simp] theorem State.sendLost_mem (s : State) (p : Packet) : (s.sendLost p).mem = s.mem := by
  unfold State.sendLost
  split <;> simp [foldl_mem]

@[simp] theorem State.swapTables_mem (s : State) (ctx : Nat) : (s.swapTables ctx).mem = s.mem := rfl

@[simp] theorem State.askStripe_mem (s : State) (j : JoinRec) (c : Comm) (t : JoinStripeRec) :
    (s.askStripe j c t).mem = s.mem := by
  unfold State.askStripe
  split <;> simp [foldl_mem]

@[simp] theorem State.setJoin_mem (s : State) (j : JoinRec) : (s.setJoin j).mem = s.mem := rfl

@[simp] theorem State.fillJoin_mem (cmd n : Nat) (s : State) : (State.fillJoin cmd n s).mem = s.mem := by
  induction n generalizing s with
  | zero => rfl
  | succ n ih =>
    unfold State.fillJoin
    split
    · rfl
    · split
      · rfl
      · split
        · rfl
        · simp [ih]

@[simp] theorem State.bumpBgens_mem (s : State) (c : Comm) (j : JoinRec) :
    (s.bumpBgens c j).mem = s.mem :=
  foldl_mem (fun _ _ => by split <;> rfl) _ _

/-! ### Order -/

@[simp] theorem State.markFenced_mem (s : State) (k : WarpKey) (lanes : LaneMask) :
    (s.markFenced k lanes).mem = s.mem :=
  rfl

/-! ### Admin -/

@[simp] theorem State.tellHost_mem (s : State) (port : Nat) (ms : List HostMsg) :
    (s.tellHost port ms).mem = s.mem := by
  simp [State.tellHost]

@[simp] theorem State.respond_mem (s : State) (h : AdminHdr) (second : Bool) (astat : Nat) (rcause : Cause)
    (res : Nat) :
    (s.respond h second astat rcause res).mem = s.mem := by
  simp [State.respond]

@[simp] theorem State.answer_mem (s : State) (h : AdminHdr) (astat : Nat) :
    (s.answer h astat).mem = s.mem := by
  simp [State.answer]

@[simp] theorem State.startLong_mem (s : State) (h : AdminHdr) (work : LongWork) :
    (s.startLong h work).mem = s.mem := by
  simp [State.startLong]

@[simp] theorem State.finishLong_mem (s : State) (work : LongWork) (astat : Nat) (rcause : Cause) (res : Nat) :
    (s.finishLong work astat rcause res).mem = s.mem :=
  rfl

/-! ### Save -/

@[simp] theorem State.freeCores_mem (s : State) (phys : List Nat) : (s.freeCores phys).mem = s.mem := rfl

@[simp] theorem State.releaseCores_mem (s : State) (c : Context) : (s.releaseCores c).mem = s.mem := rfl

@[simp] theorem State.dropTlb_mem (s : State) (ctx : Nat) : (s.dropTlb ctx).mem = s.mem := rfl

/-! ### Image -/

@[simp] theorem State.useImage_mem (s : State) (buf : ImageBuffer) : (s.useImage buf).mem = s.mem := by
  unfold State.useImage
  simp [foldl_mem]

/-! ### Switch -/

@[simp] theorem State.setCtxState_mem (s : State) (ctx : Nat) (st : CtxState) :
    (s.setCtxState ctx st).mem = s.mem :=
  rfl

@[simp] theorem State.holdTransition_mem (s : State) (ctx : Nat) (t : Transition) :
    (s.holdTransition ctx t).mem = s.mem :=
  rfl

@[simp] theorem State.requestSwout_mem (s : State) (h : AdminHdr) (ctx : Nat) (buf : ImageBuffer) :
    (s.requestSwout h ctx buf).mem = s.mem := by
  unfold State.requestSwout
  split
  · simp
  · split <;> simp

@[simp] theorem State.requestRestore_mem (s : State) (h : AdminHdr) (ctx : Nat) (buf : ImageBuffer) :
    (s.requestRestore h ctx buf).mem = s.mem := by
  unfold State.requestRestore
  split
  · simp
  · split <;> simp

@[simp] theorem State.drainMemory_mem (s : State) (q : LQueue) (n : Nat) : (s.drainMemory q n).mem = s.mem := by
  induction n generalizing s q with
  | zero => rfl
  | succ n ih =>
    unfold State.drainMemory
    split <;> simp [ih]

@[simp] theorem State.drainQueue_mem (s : State) (q : LQueue) :
    (s.drainQueue q).mem = s.mem := by
  simp [State.drainQueue]

@[simp] theorem State.drainQueues_mem (s : State) (ctx : Nat) : (s.drainQueues ctx).mem = s.mem := by
  unfold State.drainQueues
  simp [foldl_mem]

@[simp] theorem State.discardCtx_mem (s : State) (ctx : Nat) :
    (s.discardCtx ctx).mem = s.mem := by
  simp [State.discardCtx]

@[simp] theorem State.answerSaved_mem (s : State) (c : Context) : (s.answerSaved c).mem = s.mem := by
  unfold State.answerSaved
  simp [foldl_mem]

@[simp] theorem State.repin_mem (s : State) (g : Workgroup) :
    (s.repin g).mem = s.mem :=
  foldl_mem (fun _ _ => by split <;> simp) _ _

@[simp] theorem State.repinAll_mem (s : State) (ctx : Nat) : (s.repinAll ctx).mem = s.mem := by
  unfold State.repinAll
  simp [foldl_mem]

@[simp] theorem State.rearmAll_mem (s : State) (ctx : Nat) : (s.rearmAll ctx).mem = s.mem := by
  unfold State.rearmAll
  simp [foldl_mem]

@[simp] theorem State.holdMissing_mem (s : State) (w : Warp) : (s.holdMissing w).mem = s.mem := by
  unfold State.holdMissing
  dsimp only
  split
  · rfl
  split
  · rfl
  split <;> simp

@[simp] theorem State.dropMissing_mem (s : State) (gone : Warp → Bool) : (s.dropMissing gone).mem = s.mem := rfl

@[simp] theorem State.reportMissing_mem (s : State) (w : Warp) :
    (s.reportMissing w).mem = s.mem := foldl_mem (fun _ _ => by
    split
    · split
      · split
        · split <;> simp
        · rfl
      · rfl
    · rfl) _ _

@[simp] theorem State.holdMissingOf_mem (s : State) (ctx : Nat) : (s.holdMissingOf ctx).mem = s.mem := by
  unfold State.holdMissingOf
  simp [foldl_mem]

@[simp] theorem State.resendFaults_mem (s : State) (ctx : Nat) : (s.resendFaults ctx).mem = s.mem := by
  unfold State.resendFaults
  dsimp only
  rw [foldl_mem, foldl_mem]
  · intro t w
    split
    · split <;> simp
    · rfl
  · intro t r
    split <;> simp

@[simp] theorem State.placeGroup_mem (s : State) (g : StoreGroup) : (s.placeGroup g).mem = s.mem := by
  unfold State.placeGroup
  dsimp only
  split <;> simp

@[simp] theorem State.loadImage_mem (s : State) (c : Context) (im : Image) : (s.loadImage c im).mem = s.mem := by
  unfold State.loadImage
  dsimp only
  rw [State.updCtx_mem, foldl_mem (fun _ _ => State.placeGroup_mem _ _)]
  refine (foldl_mem (fun _ _ => by split <;> simp) _ _).trans ?_
  refine (foldl_mem (fun _ _ => State.updCore_mem _ _ _) _ _).trans ?_
  refine (foldl_mem (fun _ _ => State.updCore_mem _ _ _) _ _).trans ?_
  exact foldl_mem (fun _ _ => by split <;> simp) _ _

/-! ### Commands -/

@[simp] theorem State.fireWatches_mem (s : State) (ctx : Nat) (spans : List (Nat × Nat)) :
    (s.fireWatches ctx spans).mem = s.mem :=
  rfl

@[simp] theorem State.forget_mem (s : State) (ctx va : Nat) : (s.forget ctx va).mem = s.mem := rfl

@[simp] theorem State.resolveHold_mem (s : State) (w : Warp) (h : Hold) : (s.resolveHold w h).mem = s.mem := by
  unfold State.resolveHold
  dsimp only
  split <;> simp

@[simp] theorem State.rejectHold_mem (s : State) (w : Warp) (h : Hold) :
    (s.rejectHold w h).mem = s.mem := by
  simp [State.rejectHold]

theorem State.answerFault_mem {s : State} {k : WgKey} {warp : Nat} {reject : Bool} {t : State}
    (ht : s.answerFault k warp reject = some t) :
    t.mem = s.mem := by
  unfold State.answerFault at ht
  split at ht
  · split at ht
    · cases ht
      split <;> simp
    · cases ht
  · cases ht

@[simp] theorem State.dropNames_mem (s : State) (p : BufferDesc → Bool) : (s.dropNames p).mem = s.mem := rfl

/-! ### Device -/

@[simp] theorem State.remapRow_mem (s : State) (pa : Nat) : (s.remapRow pa).mem = s.mem := by
  unfold State.remapRow
  simp [foldl_mem]

@[simp] theorem State.countCorrected_mem (s : State) (block : Nat) : (s.countCorrected block).mem = s.mem := rfl

@[simp] theorem State.correctRow_mem (s : State) (pa : Nat) :
    (s.correctRow pa).mem = s.mem := by
  simp [State.correctRow]

@[simp] theorem State.controlError_mem (s : State) (k : WarpKey) : (s.controlError k).mem = s.mem := by
  unfold State.controlError
  split
  · split <;> simp
  · simp

@[simp] theorem State.struck_mem (s : State) (core : Nat) : (s.struck core).mem = s.mem := rfl

@[simp] theorem State.strikeWg_mem (s : State) (k : WgKey) (f : Workgroup → Workgroup) :
    (s.strikeWg k f).mem = s.mem := by
  unfold State.strikeWg
  split <;> simp

@[simp] theorem State.sendPage_mem (s : State) (comm name rank index frame : Nat) (bs : List Byte) :
    (s.sendPage comm name rank index frame bs).mem = s.mem := by
  unfold State.sendPage
  split <;> simp [foldl_mem]

@[simp] theorem State.copyPage_mem (s : State) (port : Nat) (job : CkptJob) (frame : Nat) (bs : List Byte) :
    (s.copyPage port job frame bs).mem = s.mem := by
  unfold State.copyPage
  split <;> simp

/-! ### Fetch -/

@[simp] theorem State.useWords_mem (s : State) (core ctx n : Nat) (va : Pc) :
    (s.useWords core ctx n va).mem = s.mem := by
  induction n generalizing s va with
  | zero => rfl
  | succ n ih =>
    unfold State.useWords
    split
    · rfl
    · simp [ih]

@[simp] theorem State.startWalk_mem (s : State) (ctx va : Nat) (waiter : Option WarpKey) :
    (s.startWalk ctx va waiter).mem = s.mem := by
  simp [State.startWalk]

@[simp] theorem State.frontFlight_mem (s : State) (k : WarpKey) : (s.frontFlight k).mem = s.mem := rfl

@[simp] theorem State.bring_mem (s : State) (x : Walk) : (s.bring x).mem = s.mem := by
  unfold State.bring
  split <;> simp

@[simp] theorem State.merge_mem (s : State) (i : Iss) : (s.merge i).mem = s.mem := by
  unfold State.merge
  split <;> simp

@[simp] theorem State.takeRecorded_mem (s : State) (i : Iss) (c : Cause) :
    (s.takeRecorded i c).mem = s.mem := by
  simp [State.takeRecorded]

/-! ### Sched -/

@[simp] theorem State.frontSlot_mem (s : State) (core slot : Nat) : (s.frontSlot core slot).mem = s.mem := rfl

/-! ## What keeps memory canonical -/

theorem foldl_wf {β : Type} {f : State → β → State}
    (hf : ∀ s b, Memory.wf s.mem = true → Memory.wf (f s b).mem = true) (l : List β) {s : State} (h : Memory.wf s.mem = true) :
    Memory.wf (l.foldl f s).mem = true := by
  induction l generalizing s with
  | nil => exact h
  | cons b l ih => exact ih (hf s b h)

@[simp] theorem wf_ite {c : Prop} [Decidable c] {m n : List Host.Cell} (hm : Memory.wf m = true) (hn : Memory.wf n = true) :
    Memory.wf (if c then m else n) = true := by
  split
  · exact hm
  · exact hn

@[simp] theorem wf_written {m : List Host.Cell} {bs : List Byte} {a : Nat} (h : Memory.wf m = true) :
    Memory.wf (writeBytes m a bs) = true := wf_writeBytes bs a h

/-! ### Gallery -/

theorem State.answers_wf {s : State} {p : Packet} {f : GalOp → State} (hf : ∀ o, Memory.wf (f o).mem = true)
    (h : Memory.wf s.mem = true) : Memory.wf (s.answers p f).mem = true := by
  unfold State.answers
  split
  · split
    · exact hf _
    · exact h
  · exact h

/-! ### Translate -/

@[simp] theorem State.openLine_wf {s : State} {key : List Byte} {write : Bool} {line : Nat}
    (h : Memory.wf s.mem = true) :
    Memory.wf (s.openLine key write line).mem = true := by
  unfold State.openLine
  split <;> simp [h]

@[simp] theorem State.openUnder_wf {s : State} {key : List Byte} {write : Bool} {pa n : Nat}
    (h : Memory.wf s.mem = true) :
    Memory.wf (s.openUnder key write pa n).mem = true := by
  unfold State.openUnder
  split
  · exact h
  · exact foldl_wf (fun _ _ h => by simp [h]) _ h

@[simp] theorem State.openBytes_wf {s : State} {key : KeyNo} {write : Bool} {pa n : Nat} (h : Memory.wf s.mem = true) :
    Memory.wf (s.openBytes key write pa n).mem = true := by
  simp [State.openBytes, h]

/-! ### Mem -/

@[simp] theorem State.keepPage_wf {s : State} {pa : Nat} {v : View} (h : Memory.wf s.mem = true) :
    Memory.wf (s.keepPage pa v).mem = true := by
  unfold State.keepPage
  split
  · exact h
  split
  · exact h
  dsimp only
  split
  · exact h
  · simp [h]

@[simp] theorem State.keepPages_wf {s : State} {pa : Nat} (h : Memory.wf s.mem = true) :
    Memory.wf (s.keepPages pa).mem = true := by
  unfold State.keepPages
  split
  · exact h
  · exact foldl_wf (fun _ _ h => by simp [h]) _ h

@[simp] theorem State.putBytes_wf {s0 : State} {key : KeyNo} {pa : Nat} {bs : List Byte} (h : Memory.wf s0.mem = true) :
    Memory.wf (s0.putBytes key pa bs).mem = true :=
  wf_writeBytes _ _ (State.openBytes_wf (State.keepPages_wf h))

@[simp] theorem State.storeHint_wf {s : State} {key : KeyNo} {ef : Bool} {pa : Nat} {bs : List Byte}
    (h : Memory.wf s.mem = true) :
    Memory.wf (s.storeHint key ef pa bs).mem = true := by
  simp [State.storeHint, h]

@[simp] theorem State.storeG_wf {s : State} {key : KeyNo} {pa : Nat} {bs : List Byte} (h : Memory.wf s.mem = true) :
    Memory.wf (s.storeG key pa bs).mem = true := by
  simp [State.storeG, h]

@[simp] theorem State.performLane_wf {s : State} {a : Access} {x : LaneAcc} (h : Memory.wf s.mem = true) :
    Memory.wf (s.performLane a x).1.mem = true := by
  unfold State.performLane
  split
  · split
    · simp [h]
    · simp [h]
    · simp [h]
    · dsimp only
      split
      · simp [h]
      · split <;> simp [h]
  · split
    · exact h
    · dsimp only
      split
      · exact h
      · exact h
      · simp [h]
      · split
        · simp [h]
        · split <;> simp [h]

@[simp] theorem State.performLanes_wf {s : State} {a : Access} {l : List LaneAcc} (h : Memory.wf s.mem = true) :
    Memory.wf (s.performLanes a l).1.mem = true := by
  induction l generalizing s with
  | nil => exact h
  | cons x l ih => simp [State.performLanes, ih, h]

@[simp] theorem State.performAccess_wf {s : State} {a : Access} (h : Memory.wf s.mem = true) :
    Memory.wf (s.performAccess a).mem = true := by
  unfold State.performAccess
  dsimp only
  simp only [State.released_mem, State.unspoil_mem, State.committed_mem]
  split <;> split <;> simp [h]

/-! ### Object -/

@[simp] theorem State.putBar_wf {s : State} {r : BarRef} {b : Bar} (h : Memory.wf s.mem = true) :
    Memory.wf (s.putBar r b).mem = true := by
  simp [State.putBar, h]

@[simp] theorem State.updBar_wf {s : State} {r : BarRef} {b : Bar} (h : Memory.wf s.mem = true) :
    Memory.wf (s.updBar r b).mem = true := by
  simp [State.updBar, h]

@[simp] theorem State.countDown_wf {s : State} {r : BarRef} {bytes : Nat} (h : Memory.wf s.mem = true) :
    Memory.wf (s.countDown r bytes).mem = true := by
  simp [State.countDown, h]

@[simp] theorem State.abandon_wf {s : State} {r : BarRef} (h : Memory.wf s.mem = true) :
    Memory.wf (s.abandon r).mem = true := by
  simp [State.abandon, h]

@[simp] theorem State.makeBar_wf {s : State} {r : BarRef} {a : BarOp} (h : Memory.wf s.mem = true) :
    Memory.wf (s.makeBar r a).mem = true := by
  unfold State.makeBar
  split <;> simp [h]

@[simp] theorem State.performBar_wf {s : State} {a : Access} {op : BarOp} {x : LaneAcc} (h : Memory.wf s.mem = true) :
    Memory.wf (s.performBar a op x).mem = true := by
  unfold State.performBar
  dsimp only
  split <;> simp [h]

/-! ### Access -/

@[simp] theorem State.storeNear_wf {s : State} {key : KeyNo} {pa : Nat} {bs : List Byte} (h : Memory.wf s.mem = true) :
    Memory.wf (s.storeNear key pa bs).mem = true := by
  simp [State.storeNear, h]

@[simp] theorem State.nmaLane_wf {s : State} {a : Access} {x : LaneAcc} (h : Memory.wf s.mem = true) :
    Memory.wf (s.nmaLane a x).mem = true := by
  unfold State.nmaLane
  split
  · exact h
  dsimp only
  split
  · simp [h]
  · split <;> simp [h]

theorem State.sendNear_wf {s : State} {a : Access} {t : State} (h : Memory.wf s.mem = true)
    (ht : s.sendNear a = some t) :
    Memory.wf t.mem = true := by
  unfold State.sendNear at ht
  dsimp only at ht
  have near : ∀ l : List LaneAcc, Memory.wf (l.foldl (fun t x => t.nmaLane a x) s).mem = true :=
    fun l => foldl_wf (fun _ _ h => State.nmaLane_wf h) l h
  have sent : ∀ m l : List LaneAcc,
      Memory.wf (m.foldl (fun t x => t.dropL2 (lineOf x.pa)) (l.foldl (fun t x => t.nmaLane a x) s)).mem = true :=
    fun m l => (foldl_mem (fun _ _ => State.dropL2_mem ..) ..).symm ▸ near l
  split at ht
  · cases ht
  · split at ht <;> cases ht <;> simp only [State.committed_mem, State.removeAccess_mem, State.setAccess_mem, State.fresh_mem, sent]

/-! ### Copy -/

@[simp] theorem State.moveChunk_wf {s : State} {r : CopyRec} {c : Chunk} (h : Memory.wf s.mem = true) :
    Memory.wf (s.moveChunk r c).mem = true := by
  unfold State.moveChunk
  dsimp only
  rw [State.poisonDst_mem]
  split
  · exact State.storeG_wf (by split <;> simp [foldl_mem, h])
  · split <;> split <;> simp [foldl_mem, h]

@[simp] theorem State.storeElem_wf {s : State} {g : StoreGroup} {e : Nat × Nat × DWord × KeyNo}
    (h : Memory.wf s.mem = true) :
    Memory.wf (s.storeElem g e).mem = true := by
  simp [State.storeElem, h]

/-! ### Launch -/

@[simp] theorem State.markArea_wf {s : State} {k : WgKey} {base i : Nat} (h : Memory.wf s.mem = true) :
    Memory.wf (s.markArea k base i).mem = true := by
  unfold State.markArea
  dsimp only
  split <;> simp [h]

@[simp] theorem State.mark_wf {s : State} {k : WgKey} {fault : Bool} (h : Memory.wf s.mem = true) :
    Memory.wf (s.mark k fault).mem = true := by
  unfold State.mark
  split <;> simp [h]

@[simp] theorem State.dropRecords_wf {s : State} {k : WgKey} (h : Memory.wf s.mem = true) :
    Memory.wf (s.dropRecords k).mem = true := by
  unfold State.dropRecords
  dsimp only
  rw [State.settle_mem]
  refine foldl_wf (fun t r h => ?_) _ h
  split
  · split
    · exact State.abandon_wf h
    · exact h
  · exact h

@[simp] theorem State.abandonOwed_wf {s : State} {k : WgKey} {l : List Nat} (h : Memory.wf s.mem = true) :
    Memory.wf (s.abandonOwed k l).mem = true := by
  induction l generalizing s with
  | nil => exact h
  | cons va vas ih =>
    unfold State.abandonOwed
    split <;> exact ih (by simp [h])

/-! ### Gallery -/

@[simp] theorem State.writeRuns_wf {s : State} {l : List Run} {bs : List Byte} (h : Memory.wf s.mem = true) :
    Memory.wf (s.writeRuns l bs).mem = true := by
  induction l generalizing s bs with
  | nil => exact h
  | cons r rs ih =>
    unfold State.writeRuns
    exact ih (by simp [h])

@[simp] theorem State.scrambleVa_wf {s : State} {ctx va n : Nat} (h : Memory.wf s.mem = true) :
    Memory.wf (s.scrambleVa ctx va n).mem = true :=
  foldl_wf (fun _ _ h => by split <;> simp [h]) _ h

@[simp] theorem State.writeBuffer_wf {s : State} {buf : ImageBuffer} {ofs : Nat} {bs : List Byte}
    (h : Memory.wf s.mem = true) :
    Memory.wf (s.writeBuffer buf ofs bs).mem = true :=
  foldl_wf (fun _ _ h => by simp [h]) _ h

@[simp] theorem State.logMail_wf {s : State} {k : WgKey} {obj value : Nat} (h : Memory.wf s.mem = true) :
    Memory.wf (s.logMail k obj value).mem = true := by
  unfold State.logMail
  split
  · simp [h]
  · split <;> simp [h]

@[simp] theorem State.abandonGlobal_wf {s0 : State} {wg : WgKey} {warp : WarpKey} {va : Nat}
    (h : Memory.wf s0.mem = true) :
    Memory.wf (s0.abandonGlobal wg warp va).mem = true := by
  unfold State.abandonGlobal
  dsimp only
  split <;> simp [h]

@[simp] theorem State.abandonObj_wf {s : State} {o : GalOp} (h : Memory.wf s.mem = true) :
    Memory.wf (s.abandonObj o).mem = true := by
  unfold State.abandonObj
  split <;> simp [h]

@[simp] theorem State.scrambleOp_wf {s : State} {o : GalOp} (h : Memory.wf s.mem = true) :
    Memory.wf (s.scrambleOp o).mem = true := by
  unfold State.scrambleOp
  split
  · exact h
  dsimp only
  have at_ : ∀ ofs n : Nat, Memory.wf (match s.regOf o.comm o.name with
      | some b => s.scrambleVa b.ctx (b.d.base + ofs) n
      | none => s).mem = true := by
    intro ofs n
    split <;> simp [h]
  split
  · split
    · exact foldl_wf (fun _ _ h => by split <;> simp [h]) _ h
    · exact at_ _ _
  · exact State.scrambleVa_wf h
  · split
    · exact at_ _ _
    · exact h
  · split
    · exact at_ _ _
    · exact h

@[simp] theorem State.abortOp_wf {s : State} {o : GalOp} {c : Option Cause} (h : Memory.wf s.mem = true) :
    Memory.wf (s.abortOp o c).mem = true := by
  unfold State.abortOp
  split <;> simp [h]

@[simp] theorem State.abortOps_wf {s : State} {c : Option Cause} {l : List GalOp} (h : Memory.wf s.mem = true) :
    Memory.wf (s.abortOps c l).mem = true := by
  induction l generalizing s with
  | nil => exact h
  | cons o os ih =>
    unfold State.abortOps
    dsimp only
    split
    · exact ih (State.abortOp_wf h)
    · exact ih h

theorem State.countObj_wf {s : State} {o : GalOp} {bytes : Nat} {t : State} (h : Memory.wf s.mem = true)
    (ht : s.countObj o bytes = .done t) :
    Memory.wf t.mem = true := by
  unfold State.countObj at ht
  split at ht
  · split at ht <;> cases ht
    simp [h]
  split at ht
  · split at ht
    · split at ht <;> cases ht
      simp [h]
    · cases ht
      exact h
  · split at ht <;> cases ht <;> simp [h]

theorem State.finishOp_wf {s : State} {o : GalOp} {bytes : Nat} {t : State} (h : Memory.wf s.mem = true)
    (ht : s.finishOp o bytes = some t) :
    Memory.wf t.mem = true := by
  unfold State.finishOp at ht
  split at ht
  · cases ht
  split at ht <;> cases ht
  · next hc => simp [State.countObj_wf h hc]
  · simp [h]

@[simp] theorem State.raddWord_wf {s : State} {key : KeyNo} {opr pa v : Nat} (h : Memory.wf s.mem = true) :
    Memory.wf (s.raddWord key opr pa v).mem = true := by
  unfold State.raddWord
  split <;> simp [h]

@[simp] theorem State.raddRuns_wf {s : State} {opr : Nat} {l : List Run} {bs : List Byte} (h : Memory.wf s.mem = true) :
    Memory.wf (s.raddRuns opr l bs).mem = true :=
  foldl_wf (fun _ _ h => by simp [h]) _ h

@[simp] theorem State.signal_wf {s : State} {comm sname sofs len : Nat} (h : Memory.wf s.mem = true) :
    Memory.wf (s.signal comm sname sofs len).mem = true := by
  unfold State.signal
  split
  · simp [h]
  · split <;> simp [h]

@[simp] theorem State.landAt_wf {s : State} {b : NamedBuffer} {opr : Option Nat} {ofs : Nat} {bs : List Byte}
    {us : List Nat} (h : Memory.wf s.mem = true) :
    Memory.wf (s.landAt b opr ofs bs us).mem = true := by
  unfold State.landAt
  split
  · exact h
  dsimp only
  rw [State.poisonRuns_mem]
  split <;> simp [h]

@[simp] theorem State.takeColl_wf {s : State} {o : GalOp} {p : Packet} (h : Memory.wf s.mem = true) :
    Memory.wf (s.takeColl o p).mem = true := by
  unfold State.takeColl
  split <;> simp [h]

@[simp] theorem State.takeAhead_wf {s : State} {id : Nat} {l : List Packet} (h : Memory.wf s.mem = true) :
    Memory.wf (s.takeAhead id l).mem = true := by
  induction l generalizing s with
  | nil => exact h
  | cons p ps ih =>
    unfold State.takeAhead
    split
    · exact ih (State.takeColl_wf h)
    · exact h

@[simp] theorem State.startColl_wf {s : State} {o : GalOp} {c : Comm} {b : NamedBuffer} {kind opr ofs len : Nat}
    {gchk : Option (BitVec 16)} {seq : Nat} (h : Memory.wf s.mem = true) :
    Memory.wf (s.startColl o c b kind opr ofs len gchk seq).mem = true := by
  unfold State.startColl
  dsimp only
  split
  · simp [h]
  · exact State.takeAhead_wf (foldl_wf (fun _ _ h => by simp [foldl_mem, h]) _ (by simp [h]))

@[simp] theorem State.startPut_wf {s : State} {o : GalOp} {c : Comm} {b : NamedBuffer} {opr : Option Nat}
    {laddr rofs len rank sofs sname : Nat} {sv : Bool} (h : Memory.wf s.mem = true) :
    Memory.wf (s.startPut o c b opr laddr rofs len rank sofs sname sv).mem = true := by
  unfold State.startPut
  dsimp only
  split
  · simp [h]
  · split
    · rw [State.setOp_mem]
      split <;> simp [h]
    · simp [h]

@[simp] theorem State.startOp_wf {s : State} {o : GalOp} {c : Comm} (h : Memory.wf s.mem = true) :
    Memory.wf (s.startOp o c).mem = true := by
  unfold State.startOp
  split
  · simp [h]
  · split <;> simp [h]

theorem State.writeColl_wf {s : State} {o : GalOp} {b : NamedBuffer} {ofs : Nat} {l : List (Nat × List Byte)}
    {t : State} (h : Memory.wf s.mem = true) (ht : s.writeColl o b ofs l = .ok t) :
    Memory.wf t.mem = true := by
  induction l generalizing s with
  | nil => exact Except.ok.inj ht ▸ h
  | cons x xs ih =>
    unfold State.writeColl at ht
    split at ht
    · cases ht
    · exact ih (by simp [h]) ht

theorem State.endColl_wf {s : State} {o : GalOp} {c : Comm} {kind opr ofs len : Nat} {gchk : Option (BitVec 16)}
    {t : State} (h : Memory.wf s.mem = true) (ht : s.endColl o c kind opr ofs len gchk = some t) :
    Memory.wf t.mem = true := by
  unfold State.endColl at ht
  split at ht
  · cases ht
    exact State.abortOp_wf h
  have landed : ∀ {b c n w}, (match s.writeColl o b n w with
      | .error e => some (s.suspendOp o e.1 e.2 .copyDst)
      | .ok t => t.finishOp o c) = some t → Memory.wf t.mem = true := by
    intro b c n w ht
    split at ht
    · cases ht
      simp [h]
    · next hw => exact State.finishOp_wf (State.writeColl_wf h hw) ht
  rcases ite_eq_iff.mp ht with ⟨_, ht⟩ | ⟨_, ht⟩
  · cases ht
    exact State.abortOp_wf h
  · exact landed ht

theorem State.endGet_wf {s : State} {o : GalOp} {laddr len rank : Nat} {t : State} (h : Memory.wf s.mem = true)
    (ht : s.endGet o laddr len rank = some t) :
    Memory.wf t.mem = true := by
  unfold State.endGet at ht
  split at ht
  · cases ht
    simp [h]
  · exact State.finishOp_wf (by simp [h]) ht

@[simp] theorem State.handleColl_wf {s : State} {c : Comm} {p : Packet} (h : Memory.wf s.mem = true) :
    Memory.wf (s.handleColl c p).mem = true := by
  unfold State.handleColl
  split <;> simp [h]

@[simp] theorem State.handlePut_wf {s : State} {c : Comm} {p : Packet} (h : Memory.wf s.mem = true) :
    Memory.wf (s.handlePut c p).mem = true := by
  unfold State.handlePut
  split
  · simp [h]
  · split <;> simp [h]

@[simp] theorem State.handleRadd_wf {s : State} {c : Comm} {p : Packet} (h : Memory.wf s.mem = true) :
    Memory.wf (s.handleRadd c p).mem = true := by
  unfold State.handleRadd
  split
  · simp [h]
  · split <;> simp [h]

@[simp] theorem State.handleRefusal_wf {s : State} {p : Packet} (h : Memory.wf s.mem = true) :
    Memory.wf (s.handleRefusal p).mem = true := by
  unfold State.handleRefusal
  split
  · exact State.abortOps_wf h
  dsimp only
  split
  · exact State.abortOp_wf h
  · exact State.answers_wf (fun _ => State.abortOp_wf h) h

@[simp] theorem State.handle_wf {s : State} {c : Comm} {p : Packet} (h : Memory.wf s.mem = true) :
    Memory.wf (s.handle c p).mem = true := by
  unfold State.handle
  split <;> simp [h]

@[simp] theorem State.deliverPacket_wf {s : State} {port : Nat} {p : Packet} (h : Memory.wf s.mem = true) :
    Memory.wf (s.deliverPacket port p).mem = true := by
  unfold State.deliverPacket
  split
  · simp [h]
  · split <;> simp [h]

/-! ### Membership -/

@[simp] theorem State.releaseHeld_wf {s : State} {comm : Nat} (h : Memory.wf s.mem = true) :
    Memory.wf (s.releaseHeld comm).mem = true := by
  unfold State.releaseHeld
  split
  · exact h
  · exact foldl_wf (fun _ _ h => by simp [h]) _ h

@[simp] theorem State.raiseGen_wf {s : State} {comm : Nat} (h : Memory.wf s.mem = true) :
    Memory.wf (s.raiseGen comm).mem = true := by
  unfold State.raiseGen
  dsimp only
  split <;> simp [h]

@[simp] theorem State.leaveComm_wf {s : State} {dev : Nat} {c : Comm} (h : Memory.wf s.mem = true) :
    Memory.wf (s.leaveComm dev c).mem = true := by
  simp [State.leaveComm, h]

@[simp] theorem State.applyLeave_wf {s : State} {m : MemberMsg} (h : Memory.wf s.mem = true) :
    Memory.wf (s.applyLeave m).mem = true := by
  unfold State.applyLeave
  dsimp only
  rw [State.postEvent_mem, State.updMember_mem]
  split
  · exact State.abortOps_wf h
  · exact foldl_wf (fun _ _ h => State.leaveComm_wf h) _ h

@[simp] theorem State.applyJoin_wf {s : State} {m : MemberMsg} (h : Memory.wf s.mem = true) :
    Memory.wf (s.applyJoin m).mem = true := by
  unfold State.applyJoin
  dsimp only
  split
  · split <;> split <;> simp [h]
  · split <;> simp [h]

@[simp] theorem State.applyEvent_wf {s : State} {k : EventKind} {m : MemberMsg} (h : Memory.wf s.mem = true) :
    Memory.wf (s.applyEvent k m).mem = true := by
  unfold State.applyEvent
  split <;> simp [h]

@[simp] theorem State.applyEarly_wf {n : Nat} {s : State} (h : Memory.wf s.mem = true) :
    Memory.wf (State.applyEarly n s).mem = true := by
  induction n generalizing s with
  | zero => exact h
  | succ n ih =>
    unfold State.applyEarly
    split
    · exact h
    · exact ih (State.applyEvent_wf h)

@[simp] theorem State.number_wf {s : State} {k : EventKind} {m : MemberMsg} (h : Memory.wf s.mem = true) :
    Memory.wf (s.number k m).mem = true := by
  unfold State.number
  split <;> simp [h]

@[simp] theorem State.request_wf {s : State} {k : EventKind} {m : MemberMsg} (h : Memory.wf s.mem = true) :
    Memory.wf (s.request k m).mem = true := by
  unfold State.request
  split
  · exact h
  split
  · exact State.number_wf h
  · split <;> simp [h]

@[simp] theorem State.receiveEvent_wf {s : State} {k : EventKind} {m : MemberMsg} (h : Memory.wf s.mem = true) :
    Memory.wf (s.receiveEvent k m).mem = true := by
  unfold State.receiveEvent
  split
  · exact h
  split
  · exact h
  dsimp only
  split
  · exact State.applyEarly_wf (State.applyEvent_wf (by simp [h]))
  · simp [foldl_mem, h]

@[simp] theorem State.askExpel_wf {s : State} {q : Suspicion} (h : Memory.wf s.mem = true) :
    Memory.wf (s.askExpel q).mem = true := by
  simp [State.askExpel, h]

@[simp] theorem State.finishJoin_wf {s : State} {j : JoinRec} {c : Comm} (h : Memory.wf s.mem = true) :
    Memory.wf (s.finishJoin j c).mem = true := by
  simp [State.finishJoin, h]

/-! ### Image -/

@[simp] theorem State.putImage_wf {s : State} {im : Image} (h : Memory.wf s.mem = true) :
    Memory.wf (s.putImage im).mem = true := by
  simp [State.putImage, h]

@[simp] theorem State.completeSave_wf {s : State} {c : Context} {buf : ImageBuffer} (h : Memory.wf s.mem = true) :
    Memory.wf (s.completeSave c buf).mem = true := by
  simp [State.completeSave, h]

/-! ### Switch -/

@[simp] theorem State.killGallery_wf {s : State} {ctx : Nat} (h : Memory.wf s.mem = true) :
    Memory.wf (s.killGallery ctx).mem = true :=
  foldl_wf (fun _ _ h => State.abortOp_wf h) _ (by simp [foldl_mem, h])

@[simp] theorem State.performSaved_wf {s : State} {ctx : Nat} (h : Memory.wf s.mem = true) :
    Memory.wf (s.performSaved ctx).mem = true := by
  unfold State.performSaved
  split
  · exact h
  refine foldl_wf (fun t p h => ?_) _ h
  split
  · split
    · exact foldl_wf (fun u x h => by split <;> simp [h]) _ h
    · exact h
  · exact h

@[simp] theorem State.requestKill_wf {s : State} {h : AdminHdr} {ctx : Nat} (hm : Memory.wf s.mem = true) :
    Memory.wf (s.requestKill h ctx).mem = true := by
  unfold State.requestKill
  split
  · simp [hm]
  split
  · simp [hm]
  · simp [hm]
  · simp [State.killGallery_wf, State.performSaved_wf, hm]
  · simp [State.killGallery_wf, State.performSaved_wf, hm]
  · exact State.killGallery_wf (by simp [hm])
  · exact State.killGallery_wf (by simp [hm])

@[simp] theorem State.takeHeld_wf {s : State} {ctx : Nat} (h : Memory.wf s.mem = true) :
    Memory.wf (s.takeHeld ctx).mem = true := by
  unfold State.takeHeld
  split
  · exact h
  refine foldl_wf (fun t x h => ?_) _ h
  split <;> simp [h]

@[simp] theorem State.spoilImage_wf {s : State} {c : Context} (h : Memory.wf s.mem = true) :
    Memory.wf (s.spoilImage c).mem = true := by
  unfold State.spoilImage
  split <;> simp [h]

@[simp] theorem State.completeKill_wf {s : State} {c : Context} (h : Memory.wf s.mem = true) :
    Memory.wf (s.completeKill c).mem = true := by
  unfold State.completeKill
  dsimp only
  refine foldl_wf (fun t x h => ?_) _ (by simp [h])
  split <;> simp [h]

@[simp] theorem State.replay_wf {s : State} {ctx : Nat} {e : MailEntry} (h : Memory.wf s.mem = true) :
    Memory.wf (s.replay ctx e).mem = true := by
  unfold State.replay
  split <;> simp [h]

@[simp] theorem State.takeKept_wf {s : State} {x : WgKey × Nat × Cause × Option (Bool × Nat)}
    (h : Memory.wf s.mem = true) :
    Memory.wf (s.takeKept x).mem = true := by
  unfold State.takeKept
  dsimp only
  split <;> split <;> simp [h]

@[simp] theorem State.finishRestore_wf {s : State} {c : Context} (h : Memory.wf s.mem = true) :
    Memory.wf (s.finishRestore c).mem = true := by
  unfold State.finishRestore
  simp only [State.distribute_mem, State.resendFaults_mem, State.updCtx_mem, State.swapTables_mem, State.holdMissingOf_mem,
    State.rearmAll_mem, State.repinAll_mem]
  exact foldl_wf (fun _ _ h => State.takeKept_wf h) _ (foldl_wf (fun _ _ h => State.replay_wf h) _ h)

@[simp] theorem State.restore_wf {s0 : State} {c : Context} {buf : ImageBuffer} (h : Memory.wf s0.mem = true) :
    Memory.wf (s0.restore c buf).1.mem = true := by
  unfold State.restore
  dsimp only
  split <;> simp [h]

/-! ### Commands -/

@[simp] theorem State.rejectRecord_wf {s : State} {r : CopyRec} (h : Memory.wf s.mem = true) :
    Memory.wf (s.rejectRecord r).mem = true := by
  unfold State.rejectRecord
  dsimp only
  split
  · simp [h]
  · split
    · split <;> simp [h]
    · split <;> simp [h]

theorem State.rejectInImage_wf {s : State} {k : WgKey} {warp : Nat} {reject : Bool} {t : State}
    (h : Memory.wf s.mem = true) (ht : s.rejectInImage k warp reject = some t) :
    Memory.wf t.mem = true := by
  unfold State.rejectInImage at ht
  split at ht
  · cases ht
  split at ht
  · cases ht
  · cases ht
    split <;> simp [h]

theorem State.answerCopy_wf {s : State} {k : WgKey} {warp : Nat} {reject : Bool} {t : State}
    (h : Memory.wf s.mem = true) (ht : s.answerCopy k warp reject = some t) :
    Memory.wf t.mem = true := by
  unfold State.answerCopy at ht
  split at ht
  · cases ht
    split
    · exact State.rejectRecord_wf h
    · split <;> simp [h]
  split at ht
  · cases ht
    split
    · exact State.abortOp_wf h
    · split <;> simp [h]
  split at ht
  · split at ht
    · cases ht
      split <;> simp [h]
    · exact State.rejectInImage_wf h ht
  · exact State.rejectInImage_wf h ht

@[simp] theorem State.catchUp_wf {s : State} {comm : Nat} {e : EventKind × MemberMsg} (h : Memory.wf s.mem = true) :
    Memory.wf (s.catchUp comm e).mem = true := by
  unfold State.catchUp
  split
  · exact h
  split
  · exact h
  split
  · split
    · exact State.applyJoin_wf h
    · exact h
  · exact State.leaveComm_wf h

/-! ### Device -/

@[simp] theorem State.quarantine_wf {s : State} (h : Memory.wf s.mem = true) : Memory.wf (s.quarantine).mem = true := by
  unfold State.quarantine
  split
  · exact h
  · exact State.request_wf (by simp [foldl_mem, h])

@[simp] theorem State.bringUp_wf {s : State} {f : FwImage} : Memory.wf (s.bringUp f).mem = true := by
  rfl

theorem State.endLong_wf {s : State} {l : LongCmd} {r : State × Nat × Cause × Nat} (h : Memory.wf s.mem = true)
    (hr : s.endLong l = some r) :
    Memory.wf r.1.mem = true := by
  unfold State.endLong at hr
  split at hr
  · cases hr
    exact h
  split at hr
  · split at hr <;> cases hr
    simp [h]
  · split at hr <;> cases hr
    simp [h]
  · split at hr <;> cases hr
    exact h
  · split at hr
    · split at hr
      · split at hr <;> cases hr
        exact State.takeHeld_wf (State.completeSave_wf h)
      · cases hr
    · cases hr
  · split at hr
    · split at hr
      · cases hr
        simp [h]
      · rcases ite_eq_iff.mp hr with ⟨_, hr⟩ | ⟨_, hr⟩ <;> cases hr
        exact State.takeHeld_wf (State.restore_wf h)
    · cases hr
      exact h
  · split at hr
    · split at hr <;> cases hr
      exact State.completeKill_wf h
    · cases hr
  · split at hr <;> cases hr
    simp [h]
  · split at hr <;> cases hr
    simp [h]
  · split at hr <;> cases hr
    simp [h]
  · cases hr
  · cases hr
    simp [h]
  · split at hr
    · cases hr
      exact h
    · split at hr <;> cases hr
      · exact h
      · split
        · exact h
        · rfl
  · split at hr <;> cases hr
    exact h

/-! ## Outcomes: the shared courses of instructions and events -/

section

/-- The memory of the state that an outcome goes on with, if it does, has a property. -/
def NextMem (Q : List Host.Cell → Prop) : Out → Prop
  | .next t => Q t.mem
  | .fault _ => True
  | .refused _ => True

/-- The state that an outcome goes on with, if it does, has its memory in canonical form. -/
abbrev NextWf (o : Out) : Prop := NextMem (fun m => Memory.wf m = true) o

variable {Q : List Host.Cell → Prop}

@[simp] theorem nextMem_next {t : State} : NextMem Q (.next t) ↔ Q t.mem := Iff.rfl

@[simp] theorem nextMem_fault (e : Fault) : NextMem Q (.fault e) := trivial

@[simp] theorem nextMem_refused (r : Refusal) : NextMem Q (.refused r) := trivial

@[simp] theorem nextMem_ite {c : Prop} [Decidable c] {o p : Out} :
    NextMem Q (if c then o else p) ↔ if c then NextMem Q o else NextMem Q p := by
  split <;> rfl

theorem NextMem.ite {c : Prop} [Decidable c] {o p : Out} (ho : NextMem Q o) (hp : NextMem Q p) :
    NextMem Q (if c then o else p) := by
  split
  · exact ho
  · exact hp

theorem issue_keeps {s : State} {k : Iss → Out} (hk : ∀ i, NextMem Q (k i)) : NextMem Q (issue s k) := by
  unfold issue
  split
  · trivial
  · exact hk _

@[simp] theorem nextMem_raise {s : State} {i : Iss} {c : Cause} : NextMem Q (raise s i c) ↔ Q s.mem := by
  simp [raise]

@[simp] theorem nextMem_raiseAt {s : State} {i : Iss} {c : Cause} {addr : Nat} :
    NextMem Q (raiseAt s i c addr) ↔ Q s.mem := by
  simp [raiseAt]

@[simp] theorem nextMem_holdFault {s : State} {i : Iss} {c : Cause} {va : Nat} {a : Acc} :
    NextMem Q (holdFault s i c va a) ↔ Q s.mem := by
  simp [holdFault]

@[simp] theorem nextMem_holdElement {s : State} {i : Iss} {c : Cause} {va : Nat} :
    NextMem Q (holdElement s i c va) ↔ Q s.mem := by
  simp [holdElement]

@[simp] theorem Opnd.nextMem_complete {o : Opnd} {s : State} {len : Nat} {res : Option (List (Nat × DWord))} {upd : Warp → Warp} :
    NextMem Q (o.complete s len res upd) ↔ Q s.mem := by
  simp [Opnd.complete]

@[simp] theorem nextMem_waitOn {s : State} {i : Iss} {f : XForm} {holds : Bool} {w : Wait} :
    NextMem Q (waitOn s i f holds w) ↔ Q s.mem := by
  simp [waitOn]

/-- The course of an instruction with operands leaves memory alone until its own part. -/
theorem operate_keeps {s : State} {sh : Shape} {f : XForm} {extra : Opnd → Option Cause} {k : Opnd → Out} (h : Q s.mem)
    (hk : ∀ o, NextMem Q (k o)) : NextMem Q (operate s sh f extra k) := by
  refine issue_keeps fun i => ?_
  dsimp only
  split
  · exact nextMem_raise.2 h
  split
  · exact h
  split
  · exact nextMem_holdElement.2 h
  split
  · exact nextMem_raise.2 h
  split
  · exact nextMem_holdElement.2 h
  · trivial
  · exact hk _

theorem aluOp_keeps {s : State} {len : Nat} {sh : Shape} {f : XForm} {fn : Opnd → Nat → DWord × Flags5} (h : Q s.mem) :
    NextMem Q (aluOp s len sh f fn) :=
  operate_keeps h fun _ => Opnd.nextMem_complete.2 h

theorem warpVal_keeps {s : State} {len : Nat} {sh : Shape} {f : XForm} {extra : Opnd → Option Cause}
    {fn : Opnd → DWord × Flags5} (h : Q s.mem) : NextMem Q (warpVal s len sh f extra fn) :=
  operate_keeps h fun _ => Opnd.nextMem_complete.2 h

theorem maskOp_keeps {s : State} {f : XForm} {sh : Shape} {fn : Opnd → Nat → Bool × Flags5} (h : Q s.mem) :
    NextMem Q (maskOp s f sh fn) :=
  operate_keeps h fun _ => Opnd.nextMem_complete.2 h

theorem slotOp_keeps {s : State} {f : XForm} {sh : Shape} {pre fin : Opnd → Shape} {chk : Opnd → Option Cause}
    {fn : Opnd → Nat → DWord × Flags5} {dst : Opnd → Nat} (h : Q s.mem) : NextMem Q (slotOp s f sh pre chk fin fn dst) := by
  refine issue_keeps fun i => ?_
  dsimp only
  split
  · exact nextMem_raise.2 h
  split
  · exact nextMem_raise.2 h
  · exact operate_keeps h fun _ => Opnd.nextMem_complete.2 h

theorem intOp_keeps {s : State} {len : Nat} {sh : Shape} {f : XForm} {fn : Opnd → Nat → DWord} (h : Q s.mem) :
    NextMem Q (intOp s len sh f fn) := by
  unfold intOp
  exact aluOp_keeps h

theorem baseF2_keeps {s : State} {op : Nat} {f : RForm} {g : FOp} (h : Q s.mem) : NextMem Q (baseF2 s op f g) := by
  unfold baseF2
  exact aluOp_keeps h

theorem extF_keeps {s : State} {xop : Nat} {f : XForm} {g : Opnd → Fmt → (Nat → Nat) → Rounded} (h : Q s.mem) :
    NextMem Q (extF s xop f g) := by
  unfold extF
  exact aluOp_keeps h

theorem extF2_keeps {s : State} {xop : Nat} {f : XForm} {op : FOp} (h : Q s.mem) : NextMem Q (extF2 s xop f op) := by
  unfold extF2
  exact extF_keeps h

theorem approx_keeps {s : State} {xop : Nat} {f : XForm} {g : Approx} (h : Q s.mem) : NextMem Q (approx s xop f g) := by
  unfold approx
  exact extF_keeps h

theorem base2_keeps {s : State} {op : Nat} {f : RForm} {g : Word → Word → Word} (h : Q s.mem) :
    NextMem Q (base2 s op f g) := by
  unfold base2
  exact intOp_keeps h

theorem extInt_keeps {s : State} {xop : Nat} {f : XForm} {fn : Opnd → Nat → DWord} (h : Q s.mem) :
    NextMem Q (extInt s xop f fn) := by
  unfold extInt
  exact intOp_keeps h

theorem unary_keeps {s : State} {xop : Nat} {f : XForm} {g : Nat → Nat → Nat} (h : Q s.mem) :
    NextMem Q (unary s xop f g) := by
  unfold unary
  exact extInt_keeps h

theorem maskBits_keeps {s : State} {xop : Nat} {f : XForm} {g : Bool → Bool → Bool} (h : Q s.mem) :
    NextMem Q (maskBits s xop f g) := by
  unfold maskBits
  exact maskOp_keeps h

/-- A global access checks and translates each lane, and leaves memory alone until its own part, which finds the memory that it found. -/
theorem globalLanes_keeps {s : State} {o : Opnd} {c : BitVec 8} {ofs : Int} {n : Nat} {perm : Perm} {acc : Acc}
    {k : State → List GLane → Out} (h : Q s.mem) (hk : ∀ t gs, t.mem = s.mem → NextMem Q (k t gs)) :
    NextMem Q (globalLanes s o c ofs n perm acc k) := by
  unfold globalLanes
  dsimp only
  split
  · exact nextMem_raiseAt.2 h
  split
  · exact nextMem_raiseAt.2 h
  split
  · exact h
  split
  · trivial
  · simp [h]
  · exact hk _ _ (by simp)

theorem scratchLanes_keeps {s : State} {o : Opnd} {c : BitVec 8} {ofs : Int} {n : Nat} {member : Nat → Nat} {k : List SLane → Out}
    (h : Q s.mem) (hk : ∀ ls, NextMem Q (k ls)) : NextMem Q (scratchLanes s o c ofs n member k) := by
  unfold scratchLanes
  dsimp only
  split
  · exact nextMem_raiseAt.2 h
  split
  · exact nextMem_raiseAt.2 h
  split
  · exact nextMem_raiseAt.2 h
  split
  · exact nextMem_raiseAt.2 h
  · exact hk _

/-- An object's access checks and translates its address, and leaves memory alone until its own part. -/
theorem withObject_keeps {s : State} {o : Opnd} {p : Perm} {acc : Acc} {k : State → BarRef → Nat → Out} (h : Q s.mem)
    (hk : ∀ t r va, t.mem = s.mem → NextMem Q (k t r va)) : NextMem Q (withObject s o p acc k) := by
  unfold withObject
  dsimp only
  split
  · split
    · exact nextMem_raiseAt.2 h
    split
    · exact nextMem_raiseAt.2 h
    split
    · exact h
    split
    · trivial
    · simp [h]
    · split
      · exact h
      · exact hk _ _ _ (by simp)
  · split
    · exact nextMem_raiseAt.2 h
    split
    · exact nextMem_raiseAt.2 h
    · exact hk _ _ _ rfl

/-- What an operation on lines does to memory is what it does to one line: nothing. -/
theorem lineOps_mem {op : State → Nat → Nat → State × Nat} (hop : ∀ t line va, (op t line va).1.mem = t.mem) (s : State)
    (gs : List GLane) : (lineOps op s gs).1.mem = s.mem := by
  induction gs generalizing s with
  | nil => rfl
  | cons g gs ih => exact (ih _).trans (hop _ _ _)

theorem lockOp_keeps {s : State} {xop : Nat} {f : XForm} {op : State → WgKey → Nat → Nat → State × Nat}
    (hop : ∀ t k line va, (op t k line va).1.mem = t.mem) (h : Q s.mem) : NextMem Q (lockOp s xop f op) := by
  refine operate_keeps h fun o => globalLanes_keeps h fun t gs ht => ?_
  split
  · simpa [ht] using h
  · exact Opnd.nextMem_complete.2 (by simpa [lineOps_mem (fun t => hop t _), ht] using h)

theorem admin_keeps {s : State} {row : String} {hdr : AdminHdr} {a : Accepts} {wellFormed : Bool} {k : State} (h : Q s.mem)
    (hk : Q k.mem) : NextMem Q (admin s row hdr a wellFormed k) := by
  unfold admin
  split
  · trivial
  split
  · simpa using h
  split
  · simpa using h
  · exact hk

@[simp] theorem Opnd.nextMem_enter {o : Opnd} {s : State} {work : MWork} {upd : Warp → Warp} :
    NextMem Q (o.enter s work upd) ↔ Q s.mem := by
  simp [Opnd.enter]

@[simp] theorem nextMem_branchTo {s : State} {i : Iss} {len : Nat} {lnd : Bool} {t : LaneMask} {tgt : Pc} :
    NextMem Q (branchTo s i len lnd t tgt) ↔ Q s.mem := by
  simp [branchTo]

/-! ## Outcomes: instructions, events, commands and the schedule -/

/-! ### Access -/

theorem Opnd.issueAccess_wf {o : Opnd} {s : State} {len : Nat} {a : Access} {window res : Bool} {upd : Warp → Warp}
    (h : Memory.wf s.mem = true) :
    NextWf (o.issueAccess s len a window res upd) := by
  unfold Opnd.issueAccess
  refine NextMem.ite (nextMem_raise.2 h) ?_
  dsimp only
  split
  · simpa using h
  · simp only [nextMem_next, State.retire_mem, ite_mem]
    exact wf_ite (State.performAccess_wf (by simpa using h)) (by simpa using h)

theorem execAccessPerformed_wf {id : Nat} {s0 : State} (h : Memory.wf s0.mem = true) :
    NextWf (execAccessPerformed id s0) := by
  unfold execAccessPerformed
  dsimp only
  split
  · trivial
  refine NextMem.ite trivial ?_
  split <;> simp [h]

theorem execLoadReturn_keeps {id : Nat} {s : State} (h : Q s.mem) : NextMem Q (execLoadReturn id s) := by
  unfold execLoadReturn
  split
  · trivial
  dsimp only
  split
  · exact h
  split
  · split <;> simp [h]
  · simp [h]

theorem execNmaAtHomeSlice_wf {id : Nat} {s0 : State} (h : Memory.wf s0.mem = true) :
    NextWf (execNmaAtHomeSlice id s0) := by
  unfold execNmaAtHomeSlice
  dsimp only
  split
  · trivial
  split
  · split
    · next ht => simpa using State.sendNear_wf (by simpa using h) ht
    · trivial
  · trivial

theorem execNmaAcknowledgement_wf {id : Nat} {s : State} (h : Memory.wf s.mem = true) :
    NextWf (execNmaAcknowledgement id s) := by
  unfold execNmaAcknowledgement
  split
  · trivial
  split
  · trivial
  split
  · trivial
  · simpa using foldl_wf (fun _ _ h => State.nmaLane_wf h) _ h

theorem State.overtake_wf {s0 : State} {id : Nat} (h : Memory.wf s0.mem = true) : NextWf (s0.overtake id) := by
  unfold State.overtake
  dsimp only
  split
  · trivial
  split
  · trivial
  split
  · trivial
  next ht =>
    rw [NextWf, nextMem_next, State.settle_mem]
    dsimp only
    rcases ite_eq_iff.mp ht with ⟨_, ht⟩ | ⟨_, ht⟩
    · exact State.sendNear_wf (by simpa using h) ht
    · rcases ite_eq_iff.mp ht with ⟨_, ht⟩ | ⟨_, ht⟩ <;> cases ht
      exact State.performAccess_wf (by simpa using h)

/-! ### Memory -/

theorem loadGlobal_wf {s : State} {sh : Shape} {len : Nat} {f : XForm} {n hint : Nat} {signed : Bool}
    (h : Memory.wf s.mem = true) :
    NextWf (loadGlobal s sh len f n hint signed) :=
  operate_keeps h fun o => globalLanes_keeps h fun t gs ht => Opnd.issueAccess_wf (by simp [ht, h])

theorem storeGlobal_wf {s : State} {sh : Shape} {len : Nat} {f : XForm} {data : BitVec 8} {w n hint : Nat}
    (h : Memory.wf s.mem = true) :
    NextWf (storeGlobal s sh len f data w n hint) :=
  operate_keeps h fun o => globalLanes_keeps h fun t gs ht => Opnd.issueAccess_wf (by simp [ht, h])

theorem loadScratch_wf {s : State} {sh : Shape} {len : Nat} {f : XForm} {n : Nat} {signed : Bool}
    {member : Option (BitVec 8)} (h : Memory.wf s.mem = true) :
    NextWf (loadScratch s sh len f n signed member) :=
  operate_keeps h fun _ => scratchLanes_keeps h fun _ => Opnd.issueAccess_wf h

theorem storeScratch_wf {s : State} {sh : Shape} {len : Nat} {f : XForm} {data : BitVec 8} {w n : Nat}
    {member : Option (BitVec 8)} (h : Memory.wf s.mem = true) :
    NextWf (storeScratch s sh len f data w n member) :=
  operate_keeps h fun _ => scratchLanes_keeps h fun _ => Opnd.issueAccess_wf h

theorem execLdk_keeps {f : XForm} {s : State} (h : Q s.mem) : NextMem Q (execLdk f s) := operate_keeps h fun o => by
  dsimp only
  split
  · simp [h]
  · split <;> simp [h]

theorem atomGlobal_wf {s : State} {xop : Nat} {f : XForm} {kind : AccKind} (h : Memory.wf s.mem = true) :
    NextWf (atomGlobal s xop f kind) :=
  operate_keeps h fun o => globalLanes_keeps h fun t gs ht => Opnd.issueAccess_wf (by simp [ht, h])

theorem atomScratch_wf {s : State} {xop : Nat} {f : XForm} {kind : AccKind} (h : Memory.wf s.mem = true) :
    NextWf (atomScratch s xop f kind) :=
  operate_keeps h fun _ => scratchLanes_keeps h fun _ => Opnd.issueAccess_wf h

theorem execNma_wf {f : XForm} {s : State} (h : Memory.wf s.mem = true) :
    NextWf (execNma f s) :=
  operate_keeps h fun o => globalLanes_keeps h fun t gs ht => Opnd.issueAccess_wf (by simp [ht, h])

theorem execPref_keeps {f : XForm} {s : State} (h : Q s.mem) : NextMem Q (execPref f s) := operate_keeps h fun o => by
  simpa [foldl_mem] using h

theorem execLockl_keeps {f : XForm} {s : State} (h : Q s.mem) :
    NextMem Q (execLockl f s) :=
  lockOp_keeps (fun _ _ _ _ => State.lockLine_mem ..) h

theorem execUnlockl_keeps {f : XForm} {s : State} (h : Q s.mem) :
    NextMem Q (execUnlockl f s) :=
  lockOp_keeps (fun _ _ _ _ => State.unlockLine_mem ..) h

theorem execFlushl_keeps {f : XForm} {s : State} (h : Q s.mem) :
    NextMem Q (execFlushl f s) := operate_keeps h fun o => globalLanes_keeps h fun t gs ht => by
  split
  · exact h
  · simpa [foldl_mem, ht] using h

theorem armWatch_wf {o : Opnd} {s : State} {f : XForm} {glob : Bool} {addr pa : Nat} {key : KeyNo}
    (h : Memory.wf s.mem = true) :
    NextWf (armWatch o s f glob addr pa key) := by
  unfold armWatch
  exact Opnd.issueAccess_wf h

theorem execWatch_wf {f : XForm} {s : State} (h : Memory.wf s.mem = true) :
    NextWf (execWatch f s) := operate_keeps h fun o => by
  dsimp only
  split
  · simp [h]
  generalize (if f.ty = 5 then 8 else 4) = n
  split
  · split
    · simp [h]
    split
    · simp [h]
    split
    · exact h
    split
    · trivial
    · simp [h]
    · exact armWatch_wf (by simp [h])
  · split
    · simp [h]
    split
    · simp [h]
    · exact armWatch_wf h

theorem execQdrain_keeps {f : XForm} {s : State} (h : Q s.mem) : NextMem Q (execQdrain f s) := issue_keeps fun i => by
  dsimp only
  split
  · simp [h]
  · split <;> simp [h]

/-! ### Barrier -/

theorem Opnd.update_wf {o : Opnd} {s : State} {r : BarRef} {va : Nat} {op : BarOp} {test : Bar → Option Cause}
    {g : Workgroup → Workgroup} (h : Memory.wf s.mem = true) :
    NextWf (o.update s r va op test g) := by
  unfold Opnd.update
  split <;> simp [h]

theorem execBinit_wf {f : XForm} {s : State} (h : Memory.wf s.mem = true) :
    NextWf (execBinit f s) := operate_keeps h fun o => withObject_keeps h fun t r va ht => by
  dsimp only
  split
  · simp [ht, h]
  · exact Opnd.update_wf (by simp [ht, h])

theorem arrive_wf {xop : Nat} {drop : Bool} {f : XForm} {s : State} (h : Memory.wf s.mem = true) :
    NextWf (arrive xop drop f s) :=
  operate_keeps h fun o => withObject_keeps h fun t r va ht => Opnd.update_wf (by simp [ht, h])

theorem execBexp_wf {f : XForm} {s : State} (h : Memory.wf s.mem = true) :
    NextWf (execBexp f s) :=
  operate_keeps h fun o => withObject_keeps h fun t r va ht => Opnd.update_wf (by simp [ht, h])

theorem execBwait_keeps {f : XForm} {s : State} (h : Q s.mem) :
    NextMem Q (execBwait f s) := operate_keeps h fun o => withObject_keeps h fun t r va ht => by
  dsimp only
  split <;> simp [ht, h]

theorem execBtest_keeps {f : XForm} {s : State} (h : Q s.mem) :
    NextMem Q (execBtest f s) := operate_keeps h fun o => withObject_keeps h fun t r va ht => by
  dsimp only
  split <;> simp [ht, h]

theorem execBinv_wf {f : XForm} {s : State} (h : Memory.wf s.mem = true) :
    NextWf (execBinv f s) :=
  operate_keeps h fun o => withObject_keeps h fun t r va ht => Opnd.update_wf (by simp [ht, h])

theorem execTicketAdvance_keeps {grid : GridKey} {t : Nat} {s : State} (h : Q s.mem) :
    NextMem Q (execTicketAdvance grid t s) := by
  unfold execTicketAdvance
  split
  · trivial
  · split <;> simp [h]

/-! ### Control -/

theorem branchShort_keeps {s : State} {lnd : Bool} {m : BitVec 3} {neg : Bool} {imm : BitVec 8} (h : Q s.mem) :
    NextMem Q (branchShort s lnd m neg imm) := issue_keeps fun i => by
  simp [h]

theorem branchLong_keeps {s : State} {lnd : Bool} {m : BitVec 3} {neg : Bool} {target : BitVec 55} (h : Q s.mem) :
    NextMem Q (branchLong s lnd m neg target) :=
  issue_keeps fun _ => nextMem_branchTo.2 h

theorem callTo_keeps {s : State} {f : IForm} {tgt : Iss → ℤ} (h : Q s.mem) : NextMem Q (callTo s f tgt) := by
  unfold callTo
  exact operate_keeps h fun o => by simp [h]

theorem execRet_keeps {lnd : Bool} {a : BitVec 7} {s : State} (h : Q s.mem) : NextMem Q (execRet lnd a s) := by
  unfold execRet
  exact operate_keeps h fun o => by simp [h]

theorem execWsync_keeps {lnd : Bool} {s : State} (h : Q s.mem) : NextMem Q (execWsync lnd s) := issue_keeps fun i => by
  split <;> simp [h]

theorem execTfence_keeps {lnd : Bool} {s : State} (h : Q s.mem) :
    NextMem Q (execTfence lnd s) := issue_keeps fun i => by
  split
  · simp [h]
  · split <;> simp [h]

/-! ### Copy -/

theorem execKick_keeps {f : XForm} {s : State} (h : Q s.mem) : NextMem Q (execKick f s) := operate_keeps h fun o => by
  refine NextMem.ite (nextMem_raise.2 h) (NextMem.ite (nextMem_raiseAt.2 h) (NextMem.ite (nextMem_raiseAt.2 h)
    (NextMem.ite h ?_)))
  split <;> simp [h]

theorem execRecordAdmission_keeps {core : Nat} {s : State} (h : Q s.mem) : NextMem Q (execRecordAdmission core s) := by
  unfold execRecordAdmission
  split <;> simp [h]

theorem execChunkIssue_keeps {chiplet engine : Nat} {s : State} (h : Q s.mem) :
    NextMem Q (execChunkIssue chiplet engine s) := by
  unfold execChunkIssue
  split
  · trivial
  dsimp only
  refine NextMem.ite trivial ?_
  split
  · trivial
  · simp [h]
  · simp [h]

theorem execChunkPerformed_wf {id : Nat} {s : State} (h : Memory.wf s.mem = true) :
    NextWf (execChunkPerformed id s) := by
  unfold execChunkPerformed
  split
  · trivial
  dsimp only
  split
  · exact h
  refine NextMem.ite trivial ?_
  split <;> split <;> simp [h]

theorem State.qsGroup_keeps {s : State} {w : Warp} {q : Nat} {t : Stream} (h : Q s.mem) :
    NextMem Q (s.qsGroup w q t) := by
  unfold State.qsGroup
  dsimp only
  split
  · split
    · trivial
    · split <;> simp [h]
  · split
    · trivial
    · simp [h]
    · simp [h]

theorem execQsTurn_keeps {core warp q : Nat} {s : State} (h : Q s.mem) : NextMem Q (execQsTurn core warp q s) := by
  unfold execQsTurn
  split
  · trivial
  split
  · trivial
  · exact State.qsGroup_keeps h

theorem execGroupArrival_keeps {core warp q : Nat} {s : State} (h : Q s.mem) :
    NextMem Q (execGroupArrival core warp q s) := by
  unfold execGroupArrival
  split
  · trivial
  · split <;> simp [h]

theorem execStoreGroupWritten_wf {id : Nat} {s : State} (h : Memory.wf s.mem = true) :
    NextWf (execStoreGroupWritten id s) := by
  unfold execStoreGroupWritten
  split
  · trivial
  split
  · trivial
  · simpa using foldl_wf (fun _ _ h => State.storeElem_wf h) _ h

theorem State.storePortion_wf {s : State} {a : Access} {granule : Nat} (h : Memory.wf s.mem = true) :
    NextWf (s.storePortion a granule) := by
  unfold State.storePortion
  simp [h]

theorem State.chunkPortion_keeps {s : State} {r : CopyRec} {c : Chunk} {granule : Nat} (h : Q s.mem) :
    NextMem Q (s.chunkPortion r c granule) := by
  unfold State.chunkPortion
  simp [h]

theorem State.groupPortion_wf {s : State} {g : StoreGroup} {granule : Nat} (h : Memory.wf s.mem = true) :
    NextWf (s.groupPortion g granule) := by
  unfold State.groupPortion
  dsimp only
  split
  · exact foldl_wf (fun _ _ h => State.storeElem_wf h) _ h
  · trivial

theorem State.portion_wf {s0 : State} {id granule : Nat} (h : Memory.wf s0.mem = true) :
    NextWf (s0.portion id granule) := by
  unfold State.portion
  dsimp only
  have hs : Memory.wf (s0.settleFor id).mem = true := by simpa using h
  split
  · exact State.storePortion_wf hs
  · split
    · exact State.chunkPortion_keeps hs
    · trivial
  · exact State.groupPortion_wf hs
  · trivial

/-! ### Token -/

theorem execTokenLeaves_keeps {grid : GridKey} {s : State} (h : Q s.mem) : NextMem Q (execTokenLeaves grid s) := by
  unfold execTokenLeaves
  split <;> simp [h]

/-! ### Launch -/

theorem execDoneMark_wf {wg : WgKey} {s : State} (h : Memory.wf s.mem = true) : NextWf (execDoneMark wg s) := by
  unfold execDoneMark
  split
  · trivial
  · split <;> simp [h]

theorem execDepwait_keeps {f : XForm} {s : State} (h : Q s.mem) :
    NextMem Q (execDepwait f s) := operate_keeps h fun o => by
  split
  · simp [h]
  · split <;> simp [h]

theorem execLaunchEntryTaken_keeps {queue : Nat} {hostEntry : List (BitVec 8)} {s : State} (h : Q s.mem) :
    NextMem Q (execLaunchEntryTaken queue hostEntry s) := by
  unfold execLaunchEntryTaken
  split
  · trivial
  split
  · split
    · simp [h]
    · trivial
  split
  · simp [foldl_mem, h]
  · trivial

theorem execRetirement_wf {wg : WgKey} {s : State} (h : Memory.wf s.mem = true) : NextWf (execRetirement wg s) := by
  unfold execRetirement
  split
  · trivial
  split
  · trivial
  refine NextMem.ite trivial (NextMem.ite trivial ?_)
  simp only [nextMem_next, State.afterRetirement_mem, State.emptyCore_mem, State.removeWg_mem]
  refine State.abandonOwed_wf (State.mark_wf ?_)
  rw [ite_mem]
  exact wf_ite (by simp [h]) (State.dropRecords_wf (by simp [h]))

theorem execGridCompletion_keeps {grid : GridKey} {s : State} (h : Q s.mem) :
    NextMem Q (execGridCompletion grid s) := by
  unfold execGridCompletion
  split <;> simp [h]

/-! ### Matrix -/

theorem quarterPass_keeps {s : State} {xop : Nat} {f : XForm} {zero regs : Bool} (h : Q s.mem) :
    NextMem Q (quarterPass s xop f zero regs) := operate_keeps h fun o => by
  dsimp only
  split <;> simp [h]

theorem execMmat_keeps {f : XForm} {s : State} (h : Q s.mem) : NextMem Q (execMmat f s) := operate_keeps h fun o => by
  dsimp only
  split
  · simp [h]
  split
  · simp [h]
  split
  · simp [h]
  split
  · simp [h]
  · simp [foldl_mem State.releaseAsk_mem, foldl_mem, h]

theorem execAccld_keeps {f : XForm} {s : State} (h : Q s.mem) : NextMem Q (execAccld f s) := operate_keeps h fun o => by
  split <;> simp [h]

theorem execAccst_keeps {f : XForm} {s : State} (h : Q s.mem) : NextMem Q (execAccst f s) := operate_keeps h fun o => by
  dsimp only
  split
  · simp [h]
  split <;> simp [h]

theorem startHead_keeps {core : Nat} {pass : Bool} {row : String} {s : State} (h : Q s.mem) :
    NextMem Q (startHead core pass row s) := by
  unfold startHead
  split <;> simp [h]

theorem completeHead_keeps {core : Nat} {pass : Bool} {row : String} {s : State} (h : Q s.mem) :
    NextMem Q (completeHead core pass row s) := by
  unfold completeHead
  split
  · split
    · split <;> simp [h]
    · trivial
  · trivial

/-! ### Integer -/

theorem divide_keeps {s : State} {xop : Nat} {f : XForm} {sg wantRem : Bool} (h : Q s.mem) :
    NextMem Q (divide s xop f sg wantRem) := by
  unfold divide
  exact operate_keeps h fun o => by simp [h]

/-! ### Lane -/

theorem crossOp_keeps {s : State} {sh : Shape} {f : XForm} {reads : Opnd → List Nat} {fn : Opnd → Nat → DWord}
    {fl : Opnd → Flags5} (h : Q s.mem) :
    NextMem Q (crossOp s sh f reads fn fl) := operate_keeps h fun o => by
  simp [h]

theorem shuffle_keeps {s : State} {mode : Nat} {f : XForm} (h : Q s.mem) :
    NextMem Q (shuffle s mode f) :=
  crossOp_keeps h

/-! ### Wire -/

theorem execFlitReceive_keeps {port : Nat} {input : LinkInput} {s : State} (h : Q s.mem) :
    NextMem Q (execFlitReceive port input s) := by
  unfold execFlitReceive
  split
  · trivial
  refine NextMem.ite trivial ?_
  split <;> simp [h]

theorem execGalleryPortTrained_keeps {port : Nat} {s : State} (h : Q s.mem) :
    NextMem Q (execGalleryPortTrained port s) := by
  unfold execGalleryPortTrained
  split <;> simp [h]

/-! ### Gallery -/

theorem execCollectiveComplete_wf {id : Nat} {s0 : State} (h : Memory.wf s0.mem = true) :
    NextWf (execCollectiveComplete id s0) := by
  unfold execCollectiveComplete
  dsimp only
  have hs : Memory.wf s0.settle.mem = true := by simpa using h
  split
  · trivial
  split
  · trivial
  split
  · exact State.startOp_wf hs
  split
  · trivial
  split
  · next ht =>
    split at ht
    · exact State.endColl_wf hs ht
    · exact State.endGet_wf hs ht
    · exact State.finishOp_wf hs ht
    · exact State.finishOp_wf hs ht
  · trivial

theorem galIssue_wf {s : State} {o : Opnd} {c : Comm} {name addr : Nat} {kind : GalKind} (h : Memory.wf s.mem = true) :
    NextWf (galIssue s o c name addr kind) := by
  unfold galIssue
  split
  · simp [h]
  · split <;> simp [h]

theorem execColl_wf {f : XForm} {s : State} (h : Memory.wf s.mem = true) :
    NextWf (execColl f s) := operate_keeps h fun o => withObject_keeps h fun t r va ht => by
  have hs : Memory.wf t.mem = true := ht ▸ h
  dsimp only
  split
  · exact nextMem_raise.2 hs
  split
  · exact nextMem_raise.2 hs
  split
  · exact nextMem_raise.2 hs
  split
  · exact nextMem_raise.2 hs
  · exact galIssue_wf hs

theorem oneSided_wf {xop : Nat} {k : Side} {f : XForm} {s : State} (h : Memory.wf s.mem = true) :
    NextWf (oneSided xop k f s) := operate_keeps h fun o => by
  dsimp only
  split
  · exact h
  split
  · exact nextMem_raiseAt.2 h
  split
  · exact nextMem_raiseAt.2 h
  refine withObject_keeps h fun t r va ht => ?_
  have hs : Memory.wf t.mem = true := ht ▸ h
  split
  · exact nextMem_raise.2 hs
  split
  · exact nextMem_raise.2 hs
  split
  · exact nextMem_raise.2 hs
  · exact galIssue_wf hs

theorem execGenrd_keeps {f : XForm} {s : State} (h : Q s.mem) : NextMem Q (execGenrd f s) := operate_keeps h fun o => by
  split
  · simp [h]
  · split <;> simp [h]

theorem packetEvent_wf {row : String} {op : Nat} {p : Packet} {s : State} (h : Memory.wf s.mem = true) :
    NextWf (packetEvent row op p s) := by
  unfold packetEvent
  split
  · trivial
  · split <;> simp [h]

/-! ### Membership -/

theorem execExpelRequest_wf {msg : MemberMsg} {s : State} (h : Memory.wf s.mem = true) :
    NextWf (execExpelRequest msg s) := by
  unfold execExpelRequest
  split
  · next ht => split <;> simp [State.takeMember_mem ht, h]
  · trivial

theorem takeRequest_wf {row : String} {k : EventKind} {m : MemberMsg} {s : State} (h : Memory.wf s.mem = true) :
    NextWf (takeRequest row k m s) := by
  unfold takeRequest
  split
  · next ht => simp [State.takeMember_mem ht, h]
  · trivial

theorem execCoordinatorDelay_wf {s : State} (h : Memory.wf s.mem = true) : NextWf (execCoordinatorDelay s) := by
  unfold execCoordinatorDelay
  split
  · trivial
  · exact foldl_wf (fun _ _ h => State.number_wf h) _ (by simpa using h)

theorem eventMessage_wf {row : String} {k : EventKind} {m : MemberMsg} {s : State} (h : Memory.wf s.mem = true) :
    NextWf (eventMessage row k m s) := by
  unfold eventMessage
  split
  · next ht => simp [State.takeMember_mem ht, h]
  · trivial

theorem execEventResendRequest_keeps {msg : MemberMsg} {s : State} (h : Q s.mem) :
    NextMem Q (execEventResendRequest msg s) := by
  unfold execEventResendRequest
  split
  · trivial
  next ht => split <;> simp [State.takeMember_mem ht, h]

theorem execHeartbeatInterval_keeps {s : State} (h : Q s.mem) : NextMem Q (execHeartbeatInterval s) := by
  unfold execHeartbeatInterval
  split
  · trivial
  · simp [foldl_mem, h]

theorem execHeartbeat_keeps {msg : MemberMsg} {s : State} (h : Q s.mem) : NextMem Q (execHeartbeat msg s) := by
  unfold execHeartbeat
  split
  · trivial
  next ht =>
    dsimp only
    split <;> simp [foldl_mem, State.takeMember_mem ht, h]

theorem execHeartbeatMiss_keeps {dev : Nat} {s : State} (h : Q s.mem) : NextMem Q (execHeartbeatMiss dev s) := by
  unfold execHeartbeatMiss
  split
  · trivial
  dsimp only
  split
  · simp [h]
  split <;> simp [foldl_mem, h]

theorem execSuspect_keeps {msg : MemberMsg} {s : State} (h : Q s.mem) : NextMem Q (execSuspect msg s) := by
  unfold execSuspect
  split
  · trivial
  next ht => simp [State.takeMember_mem ht, h]

theorem execConfirm_wf {msg : MemberMsg} {s : State} (h : Memory.wf s.mem = true) : NextWf (execConfirm msg s) := by
  unfold execConfirm
  split
  · trivial
  next ht =>
    dsimp only
    split
    · simp [State.takeMember_mem ht, h]
    · simp [State.takeMember_mem ht, h]

theorem execDeny_keeps {msg : MemberMsg} {s : State} (h : Q s.mem) : NextMem Q (execDeny msg s) := by
  unfold execDeny
  split
  · trivial
  next ht => simp [State.takeMember_mem ht, h]

theorem execSuspicionTimeout_keeps {dev : Nat} {s : State} (h : Q s.mem) : NextMem Q (execSuspicionTimeout dev s) := by
  unfold execSuspicionTimeout
  simp [h]

theorem execExpelRequestRepeat_wf {dev : Nat} {s : State} (h : Memory.wf s.mem = true) :
    NextWf (execExpelRequestRepeat dev s) := by
  unfold execExpelRequestRepeat
  split <;> simp [h]

theorem execHeldPacketTimeout_keeps {index : Nat} {s : State} (h : Q s.mem) :
    NextMem Q (execHeldPacketTimeout index s) := by
  unfold execHeldPacketTimeout
  split <;> simp [h]

theorem execPortDown_wf {port : Nat} {s : State} (h : Memory.wf s.mem = true) : NextWf (execPortDown port s) := by
  unfold execPortDown
  split
  · trivial
  split
  · trivial
  dsimp only
  rw [NextWf, nextMem_next, foldl_mem (fun _ _ => State.sendOn_mem ..), State.postEvent_mem]
  refine foldl_wf (fun t x h => ?_) _ (by simpa using h)
  split
  · exact h
  · rw [State.sendLost_mem]
    split
    · exact State.abortOp_wf h
    · exact h

theorem execJoinStripe_wf {id : Nat} {reply : Option (BitVec 16 × List (BitVec 8) × List Nat)} {s : State}
    (h : Memory.wf s.mem = true) :
    NextWf (execJoinStripe id reply s) := by
  unfold execJoinStripe
  split
  · trivial
  split
  · split
    · trivial
    dsimp only
    split
    · simp [h]
    refine NextMem.ite trivial ?_
    split <;> simp [h]
  · trivial

/-! ### Wait -/

theorem execWaitConditionHolds_keeps {core warp : Nat} {pc : BitVec 57} {s0 : State} (h : Q s0.mem) :
    NextMem Q (execWaitConditionHolds core warp pc s0) := by
  unfold execWaitConditionHolds
  dsimp only
  split
  · trivial
  split
  · trivial
  split
  · trivial
  · simp [h]

/-! ### Save -/

theorem execWorkgroupSaved_keeps {wg : WgKey} {s0 : State} (h : Q s0.mem) : NextMem Q (execWorkgroupSaved wg s0) := by
  unfold execWorkgroupSaved
  dsimp only
  split
  · split
    · trivial
    · rw [nextMem_next, foldl_mem (fun _ _ => by simp)]
      simpa using h
  · trivial

/-! ### Switch -/

theorem execSwout_keeps {hdr : AdminHdr} {ctx : Nat} {buf : ImageBuffer} {s : State} (h : Q s.mem) :
    NextMem Q (execSwout hdr ctx buf s) :=
  admin_keeps h (by
  simp [h])

theorem execRestore_keeps {hdr : AdminHdr} {ctx : Nat} {buf : ImageBuffer} {s : State} (h : Q s.mem) :
    NextMem Q (execRestore hdr ctx buf s) :=
  admin_keeps h (by
  simp [h])

theorem execKill_wf {hdr : AdminHdr} {ctx : Nat} {s : State} (h : Memory.wf s.mem = true) :
    NextWf (execKill hdr ctx s) :=
  admin_keeps h (by
  simp [h])

theorem execShrink_keeps {hdr : AdminHdr} {ctx : Nat} {cores : BitVec 192} {s : State} (h : Q s.mem) :
    NextMem Q (execShrink hdr ctx cores s) :=
  admin_keeps h (by
  split <;> simp [h])

/-! ### Commands -/

theorem execCtxnew_keeps {hdr : AdminHdr} {ctx troot podSize : Nat} {dbg : Bool} {s : State} (h : Q s.mem) :
    NextMem Q (execCtxnew hdr ctx troot podSize dbg s) :=
  admin_keeps h (by
  simp [h])

theorem execCtxdel_keeps {hdr : AdminHdr} {ctx : Nat} {s : State} (h : Q s.mem) :
    NextMem Q (execCtxdel hdr ctx s) :=
  admin_keeps h (by
  split <;> simp [h])

theorem execPartbuild_keeps {hdr : AdminHdr} {ctx : Nat} {cores : BitVec 192} {s : State} (h : Q s.mem) :
    NextMem Q (execPartbuild hdr ctx cores s) :=
  admin_keeps h (by
  split <;> simp [h])

theorem execDebugEnable_keeps {hdr : AdminHdr} {ctx : Nat} {enable : Bool} {s : State} (h : Q s.mem) :
    NextMem Q (execDebugEnable hdr ctx enable s) :=
  admin_keeps h (by
  simp [h])

theorem execDiscread_keeps {hdr : AdminHdr} {ctx : Nat} {s : State} (h : Q s.mem) :
    NextMem Q (execDiscread hdr ctx s) :=
  admin_keeps h (by
  split <;> simp [h])

theorem execKeyxch_keeps {hdr : AdminHdr} {s : State} (h : Q s.mem) : NextMem Q (execKeyxch hdr s) := admin_keeps h (by
  simp [h])

theorem execKeybind_keeps {hdr : AdminHdr} {slot : Nat} {owners : BitVec 64} {buffer : List (BitVec 8)} {s : State}
    (h : Q s.mem) :
    NextMem Q (execKeybind hdr slot owners buffer s) :=
  admin_keeps h (by
  split
  · simp [h]
  · split <;> simp [h])

theorem execKeyunbind_keeps {hdr : AdminHdr} {slot : Nat} {s : State} (h : Q s.mem) :
    NextMem Q (execKeyunbind hdr slot s) :=
  admin_keeps h (by
  simp [h])

theorem execShoot_keeps {hdr : AdminHdr} {ctx base bytes : Nat} {s : State} (h : Q s.mem) :
    NextMem Q (execShoot hdr ctx base bytes s) :=
  admin_keeps h (by
  simp [h])

theorem execFaultans_wf {hdr : AdminHdr} {ctx wgid warp : Nat} {reject copy : Bool} {gridno : Nat} {s : State}
    (h : Memory.wf s.mem = true) :
    NextWf (execFaultans hdr ctx wgid warp reject copy gridno s) := by
  unfold execFaultans
  split
  · trivial
  refine admin_keeps h ?_
  dsimp only
  split
  next ht =>
    rw [State.answer_mem]
    rcases ite_eq_iff.mp ht with ⟨_, ht⟩ | ⟨_, ht⟩
    · exact State.answerCopy_wf h ht
    · exact State.answerFault_mem ht ▸ h
  · simp [h]

theorem execBrkans_keeps {hdr : AdminHdr} {ctx wgid warp gridno : Nat} {s : State} (h : Q s.mem) :
    NextMem Q (execBrkans hdr ctx wgid warp gridno s) :=
  admin_keeps h (by
  split <;> simp [h])

theorem execQnew_keeps {hdr : AdminHdr} {q : QueueParams} {s : State} (h : Q s.mem) :
    NextMem Q (execQnew hdr q s) :=
  admin_keeps h (by
  simp [h])

theorem execQdel_keeps {hdr : AdminHdr} {queue : Nat} {s : State} (h : Q s.mem) :
    NextMem Q (execQdel hdr queue s) :=
  admin_keeps h (by
  split <;> simp [h])

theorem execQdb_keeps {port queue index : Nat} {s : State} (h : Q s.mem) : NextMem Q (execQdb port queue index s) := by
  unfold execQdb
  simp [h]

theorem execCommnew_wf {hdr : AdminHdr} {p : CommParams} {s : State} (h : Memory.wf s.mem = true) :
    NextWf (execCommnew hdr p s) :=
  admin_keeps h (by
  split
  · simp [h]
  split
  · simp [h]
  · rw [State.answer_mem]
    exact foldl_wf (fun _ _ h => State.catchUp_wf h) _ h)

theorem execCommdel_keeps {hdr : AdminHdr} {comm : Nat} {s : State} (h : Q s.mem) :
    NextMem Q (execCommdel hdr comm s) :=
  admin_keeps h (by
  simp [h])

theorem execReg_keeps {hdr : AdminHdr} {ctx : Nat} {d : BufferDesc} {s0 : State} (h : Q s0.mem) :
    NextMem Q (execReg hdr ctx d s0) := by
  unfold execReg
  exact NextMem.ite trivial (admin_keeps h (by simp [h]))

theorem execDereg_keeps {hdr : AdminHdr} {comm name : Nat} {s : State} (h : Q s.mem) :
    NextMem Q (execDereg hdr comm name s) :=
  admin_keeps h (by
  simp [h])

theorem execViewnew_keeps {hdr : AdminHdr} {comm source view poolBase poolBytes : Nat} {s0 : State} (h : Q s0.mem) :
    NextMem Q (execViewnew hdr comm source view poolBase poolBytes s0) := by
  unfold execViewnew
  refine NextMem.ite trivial (admin_keeps h ?_)
  split
  · simp [h]
  dsimp only
  split
  · simp [h]
  split <;> simp [h]

theorem execViewdel_keeps {hdr : AdminHdr} {comm view : Nat} {s : State} (h : Q s.mem) :
    NextMem Q (execViewdel hdr comm view s) :=
  admin_keeps h (by
  simp [h])

theorem execJoin_wf {hdr : AdminHdr} {comm rank list entries : Nat} {s0 : State} (h : Memory.wf s0.mem = true) :
    NextWf (execJoin hdr comm rank list entries s0) := by
  unfold execJoin
  split
  · trivial
  refine admin_keeps h ?_
  split
  · simp [h]
  dsimp only
  split
  · simp [h]
  split
  · simp [h]
  rw [ite_mem]
  refine wf_ite (by simp [h]) ?_
  split
  · exact State.finishJoin_wf (by simp [h])
  · simp [h]

theorem execPodcfg_keeps {hdr : AdminHdr} {cfg : PodConfig} {s : State} (h : Q s.mem) :
    NextMem Q (execPodcfg hdr cfg s) :=
  admin_keeps h (by
  simp [h])

/-! ### Device -/

theorem execContainmentCompare_wf {uncorrectable : Bool} {s : State} (h : Memory.wf s.mem = true) :
    NextWf (execContainmentCompare uncorrectable s) := by
  unfold execContainmentCompare
  simp [h]

theorem execThermalTrip_wf {s : State} (h : Memory.wf s.mem = true) : NextWf (execThermalTrip s) := by
  unfold execThermalTrip
  simp [h]

theorem execScrub_keeps {r : ScrubReport} {s : State} (h : Q s.mem) : NextMem Q (execScrub r s) := by
  unfold execScrub
  split
  · trivial
  · dsimp only
    rw [nextMem_next, foldl_mem State.controlError_mem, foldl_mem (fun _ _ => by simp), foldl_mem (fun _ _ => by simp),
      foldl_mem (fun _ _ => by simp), foldl_mem (fun _ _ => by simp), foldl_mem (fun _ _ => by simp), foldl_mem (fun _ _ => by simp),
      State.poisonL2_mem, foldl_mem (fun _ _ => by simp), foldl_mem State.countCorrected_mem, foldl_mem State.correctRow_mem]
    exact h

theorem execPowerGood_wf {verified : Option FwImage} {s : State} (h : Memory.wf s.mem = true) :
    NextWf (execPowerGood verified s) := by
  unfold execPowerGood
  split
  · trivial
  · split <;> simp [h]

theorem execFwload_keeps {hdr : AdminHdr} {image : FwImage} {s : State} (h : Q s.mem) :
    NextMem Q (execFwload hdr image s) :=
  admin_keeps h (by
  simp [h])

theorem execAttest_keeps {hdr : AdminHdr} {nonce : List (BitVec 8)} {s : State} (h : Q s.mem) :
    NextMem Q (execAttest hdr nonce s) :=
  admin_keeps h (by
  simp [h])

theorem execResync_keeps {hdr : AdminHdr} {s : State} (h : Q s.mem) : NextMem Q (execResync hdr s) := admin_keeps h (by
  simp [h])

theorem execSnapcfg_keeps {hdr : AdminHdr} {cause : BitVec 9} {rearm : Bool} {s : State} (h : Q s.mem) :
    NextMem Q (execSnapcfg hdr cause rearm s) :=
  admin_keeps h (by
  simp [h])

theorem execTrig_keeps {port : Nat} {s : State} (h : Q s.mem) : NextMem Q (execTrig port s) := by
  unfold execTrig
  simp [h]

theorem execCkpt_keeps {hdr : AdminHdr} {ctx : Nat} {dest : CkptDest} {s : State} (h : Q s.mem) :
    NextMem Q (execCkpt hdr ctx dest s) :=
  admin_keeps h (by
  dsimp only
  split <;> simp [h])

theorem State.workOn_keeps {s : State} {id : Nat} (h : Q s.mem) : NextMem Q (s.workOn id) := by
  unfold State.workOn
  dsimp only
  split
  · trivial
  split
  · trivial
  split
  · refine NextMem.ite trivial ?_
    split <;> simp [h]
  · simp [h]

theorem execEvring_keeps {hdr : AdminHdr} {k base vector : Nat} {s : State} (h : Q s.mem) :
    NextMem Q (execEvring hdr k base vector s) :=
  admin_keeps h (by
  split <;> simp [h])

theorem execEvhead_keeps {port index : Nat} {s : State} (h : Q s.mem) : NextMem Q (execEvhead port index s) := by
  unfold execEvhead
  split
  · trivial
  refine NextMem.ite trivial ?_
  split <;> simp [h]

theorem execRegisterWrite_keeps {port _offset : Nat} {_value : BitVec 64} {s : State} (h : Q s.mem) :
    NextMem Q (execRegisterWrite port _offset _value s) := by
  unfold execRegisterWrite
  simp [h]

theorem execPcieLinkUp_keeps {port : Nat} {s : State} (h : Q s.mem) : NextMem Q (execPcieLinkUp port s) := by
  unfold execPcieLinkUp
  split <;> simp [h]

theorem execPciePortDown_keeps {port : Nat} {s : State} (h : Q s.mem) : NextMem Q (execPciePortDown port s) := by
  unfold execPciePortDown
  simp [h]

theorem execPrecisionTimeMeasurement_keeps {port time : Nat} {s : State} (h : Q s.mem) :
    NextMem Q (execPrecisionTimeMeasurement port time s) := by
  unfold execPrecisionTimeMeasurement
  simp [h]

theorem execAdminReserved_keeps {hdr : AdminHdr} {acmd : BitVec 8} {s : State} (h : Q s.mem) :
    NextMem Q (execAdminReserved hdr acmd s) := by
  unfold execAdminReserved
  split
  · trivial
  · exact admin_keeps h h

theorem execLongCommandComplete_wf {id : Nat} {s0 : State} (h : Memory.wf s0.mem = true) :
    NextWf (execLongCommandComplete id s0) := by
  unfold execLongCommandComplete
  dsimp only
  split
  · trivial
  split
  · trivial
  next ht => simpa using State.endLong_wf (by simpa using h) ht

/-! ### Fetch -/

theorem execWalkComplete_keeps {id : Nat} {s : State} (h : Q s.mem) : NextMem Q (execWalkComplete id s) := by
  unfold execWalkComplete
  split
  · trivial
  refine NextMem.ite trivial ?_
  have failed : ∀ {k : WarpKey} {t u : State} {c : Cause} {va : Nat}, t.mem = s.mem → u.mem = s.mem →
      NextMem Q (match t.issuing with
        | some i => if i.w.key = k then holdFault t i c va .fetch else .next u
        | none => .next u) := by
    intro k t u c va ht hu
    split <;> simp [ht, hu, h]
  dsimp only
  split
  · simp [h]
  · split
    · simp [h]
    · exact failed (by simp) (by simp)
  · split
    · split
      · simp [h]
      · exact failed (by simp) (by simp)
    · simp [h]

/-! ### Issue -/

theorem execFlightStart_keeps {core slot : Nat} {s0 : State} (h : Q s0.mem) :
    NextMem Q (execFlightStart core slot s0) := by
  unfold execFlightStart
  dsimp only
  refine NextMem.ite trivial ?_
  split
  · trivial
  split
  · trivial
  · simp [h]

theorem execResultWriteback_keeps {core warp : Nat} {s : State} (h : Q s.mem) :
    NextMem Q (execResultWriteback core warp s) := by
  unfold execResultWriteback
  dsimp only
  split <;> simp [h]

/-! ### Host -/

theorem State.writeRegister_keeps {s : State} {port offset : Nat} {value : BitVec 64} (h : Q s.mem) :
    NextMem Q (s.writeRegister port offset value) := by
  unfold State.writeRegister
  split
  · exact execQdb_keeps h
  split
  · exact execTrig_keeps h
  split
  · exact execEvhead_keeps h
  · exact execRegisterWrite_keeps h

/-! ### Dispatch -/

/-- The cases go by the shared course that an instruction takes; one with a course of its own cites its lemma. -/
theorem exec_wf {i : Instr} {s : State} (h : Memory.wf s.mem = true) : NextWf (exec i s) := by
  unfold exec
  cases i
  case nop | exit | pfx | nmdrain | park | unassignedInstruction =>
    exact issue_keeps fun _ => by simp [h]
  case mov | movLiteral | movi | iaddi | imad | ishi | isel | selm =>
    exact intOp_keeps h
  case iadd | isub | imul | imulhs | imulhn | iand | ior | ixor | iandn | ishl | ishr | isar | imins | imaxs | iminn |
    imaxn =>
    exact base2_keeps h
  case fadd | fsub | fmul | fmin | fmax =>
    exact baseF2_keeps h
  case ffma | fdot2 | expr | cvtif | rand =>
    exact aluOp_keeps h
  case ldg | ldgw =>
    exact loadGlobal_wf h
  case stg | stgw =>
    exact storeGlobal_wf h
  case lds | ldsw | ldl =>
    exact loadScratch_wf h
  case sts | stsw | stl =>
    exact storeScratch_wf h
  case bra | brn =>
    exact branchShort_keeps h
  case braLong | brnLong =>
    exact branchLong_keeps h
  case call | callLong =>
    exact callTo_keeps h
  case rdid | xset | xwin | qcfg | inflt | drain | tktake | tkpass | depdone | scld | accz | mcoop | mchk | tbset | tbget |
    mwait | fence | trap | rdsr | wrsr | cropen | crclose | live | tokwait | tokpass | phase | brk =>
    exact operate_keeps h fun _ => by simp [h]
  case iadd64 | isub64 | imul64 | imadw | iaddc | iabs | ineg | ibfx | ibfi | ifshl | iperm | iaddsat | isubsat | idot4 |
    ishl64 | ishr64 | isar64 | isel64 =>
    exact extInt_keeps h
  case idivs | idivn | irems | iremn =>
    exact divide_keeps h
  case iclz | ictz | ipopc | ibrev =>
    exact unary_keeps h
  case faddExt | fsubExt | fmulExt | fminExt | fmaxExt | fminm | fmaxm | fdiv =>
    exact extF2_keeps h
  case ffma4 | fabs | fneg | fcopys | fclass | fscale | frint | ffrac | fsqrt | cvtfi =>
    exact extF_keeps h
  case frcpa | frsqa | fexp2a | flog2a | fsina | fcosa | ftanha | fsigma =>
    exact approx_keeps h
  case cvt | pack | unpack =>
    exact slotOp_keeps h
  case icmp | fcmp | rtom =>
    exact maskOp_keeps h
  case mand | mor | mxor | mandn =>
    exact maskBits_keeps h
  case mtor | mpopc =>
    exact warpVal_keeps h
  case shfl | shflup | shfldn | shflx =>
    exact shuffle_keeps h
  case bcast | vote | ballot | redux | scan | matchLanes =>
    exact crossOp_keeps h
  case atomg | casg | fatomg =>
    exact atomGlobal_wf h
  case atoms | cass =>
    exact atomScratch_wf h
  case barr | barrd =>
    exact arrive_wf h
  case mma | mmaz | mmas =>
    exact quarterPass_keeps h
  case puts | get | radd =>
    exact oneSided_wf h
  case matrixPassStart | matrixEntryStart =>
    exact startHead_keeps h
  case matrixPassComplete | matrixEntryComplete =>
    exact completeHead_keeps h
  case collectiveData | putsPacket | getRequest | getData | raddPacket | acknowledgement | refusal =>
    exact packetEvent_wf h
  case eventExpel | eventDeparture | eventJoin =>
    exact eventMessage_wf h
  case joinRequestAtCoordinator | departureRequest =>
    exact takeRequest_wf h
  case ret => exact execRet_keeps h
  case tfence => exact execTfence_keeps h
  case wsync => exact execWsync_keeps h
  case ldk => exact execLdk_keeps h
  case nma => exact execNma_wf h
  case qdrain => exact execQdrain_keeps h
  case pref => exact execPref_keeps h
  case lockl => exact execLockl_keeps h
  case unlockl => exact execUnlockl_keeps h
  case flushl => exact execFlushl_keeps h
  case watch => exact execWatch_wf h
  case kick => exact execKick_keeps h
  case binit => exact execBinit_wf h
  case bexp => exact execBexp_wf h
  case bwait => exact execBwait_keeps h
  case btest => exact execBtest_keeps h
  case binv => exact execBinv_wf h
  case depwait => exact execDepwait_keeps h
  case mmat => exact execMmat_keeps h
  case accld => exact execAccld_keeps h
  case accst => exact execAccst_keeps h
  case coll => exact execColl_wf h
  case genrd => exact execGenrd_keeps h
  case flightStart => exact execFlightStart_keeps h
  case waitConditionHolds => exact execWaitConditionHolds_keeps h
  case resultWriteback => exact execResultWriteback_keeps h
  case loadReturn => exact execLoadReturn_keeps h
  case accessPerformed => exact execAccessPerformed_wf h
  case walkComplete => exact execWalkComplete_keeps h
  case launchEntryTaken => exact execLaunchEntryTaken_keeps h
  case retirement => exact execRetirement_wf h
  case doneMark => exact execDoneMark_wf h
  case ticketAdvance => exact execTicketAdvance_keeps h
  case tokenLeaves => exact execTokenLeaves_keeps h
  case recordAdmission => exact execRecordAdmission_keeps h
  case chunkIssue => exact execChunkIssue_keeps h
  case chunkPerformed => exact execChunkPerformed_wf h
  case qsTurn => exact execQsTurn_keeps h
  case groupArrival => exact execGroupArrival_keeps h
  case storeGroupWritten => exact execStoreGroupWritten_wf h
  case nmaAtHomeSlice => exact execNmaAtHomeSlice_wf h
  case nmaAcknowledgement => exact execNmaAcknowledgement_wf h
  case scrub => exact execScrub_keeps h
  case containmentCompare => exact execContainmentCompare_wf h
  case workgroupSaved => exact execWorkgroupSaved_keeps h
  case flitReceive => exact execFlitReceive_keeps h
  case portDown => exact execPortDown_wf h
  case heartbeat => exact execHeartbeat_keeps h
  case suspect => exact execSuspect_keeps h
  case confirm => exact execConfirm_wf h
  case deny => exact execDeny_keeps h
  case expelRequest => exact execExpelRequest_wf h
  case eventResendRequest => exact execEventResendRequest_keeps h
  case heartbeatInterval => exact execHeartbeatInterval_keeps h
  case heartbeatMiss => exact execHeartbeatMiss_keeps h
  case suspicionTimeout => exact execSuspicionTimeout_keeps h
  case expelRequestRepeat => exact execExpelRequestRepeat_wf h
  case coordinatorDelay => exact execCoordinatorDelay_wf h
  case heldPacketTimeout => exact execHeldPacketTimeout_keeps h
  case collectiveComplete => exact execCollectiveComplete_wf h
  case joinStripe => exact execJoinStripe_wf h
  case gridCompletion => exact execGridCompletion_keeps h
  case longCommandComplete => exact execLongCommandComplete_wf h
  case ctxnew => exact execCtxnew_keeps h
  case ctxdel => exact execCtxdel_keeps h
  case partbuild => exact execPartbuild_keeps h
  case shrink => exact execShrink_keeps h
  case debugEnable => exact execDebugEnable_keeps h
  case keyxch => exact execKeyxch_keeps h
  case keybind => exact execKeybind_keeps h
  case keyunbind => exact execKeyunbind_keeps h
  case shoot => exact execShoot_keeps h
  case faultans => exact execFaultans_wf h
  case brkans => exact execBrkans_keeps h
  case qnew => exact execQnew_keeps h
  case qdel => exact execQdel_keeps h
  case swout => exact execSwout_keeps h
  case restore => exact execRestore_keeps h
  case kill => exact execKill_wf h
  case commnew => exact execCommnew_wf h
  case commdel => exact execCommdel_keeps h
  case reg => exact execReg_keeps h
  case dereg => exact execDereg_keeps h
  case viewnew => exact execViewnew_keeps h
  case viewdel => exact execViewdel_keeps h
  case join => exact execJoin_wf h
  case podcfg => exact execPodcfg_keeps h
  case discread => exact execDiscread_keeps h
  case resync => exact execResync_keeps h
  case attest => exact execAttest_keeps h
  case fwload => exact execFwload_keeps h
  case ckpt => exact execCkpt_keeps h
  case snapcfg => exact execSnapcfg_keeps h
  case evring => exact execEvring_keeps h
  case adminReserved => exact execAdminReserved_keeps h
  case qdb => exact execQdb_keeps h
  case trig => exact execTrig_keeps h
  case evhead => exact execEvhead_keeps h
  case registerWrite => exact execRegisterWrite_keeps h
  case powerGood => exact execPowerGood_wf h
  case resetDevice => exact reset_memory_wf
  case thermalTrip => exact execThermalTrip_wf h
  case pciePortDown => exact execPciePortDown_keeps h
  case pcieLinkUp => exact execPcieLinkUp_keeps h
  case galleryPortTrained => exact execGalleryPortTrained_keeps h
  case precisionTimeMeasurement => exact execPrecisionTimeMeasurement_keeps h

/-! ### Host -/

theorem State.command_wf {s : State} {port : Nat} {bs buffer : List Byte} (h : Memory.wf s.mem = true) :
    NextWf (s.command port bs buffer) := by
  unfold State.command
  dsimp only
  split
  · exact execCtxnew_keeps h
  · exact execCtxdel_keeps h
  · exact execPartbuild_keeps h
  · exact execShrink_keeps h
  · exact execDebugEnable_keeps h
  · exact execKeyxch_keeps h
  · exact execKeybind_keeps h
  · exact execKeyunbind_keeps h
  · exact execShoot_keeps h
  · exact execFaultans_wf h
  · exact execBrkans_keeps h
  · exact execQnew_keeps h
  · exact execQdel_keeps h
  · exact execSwout_keeps h
  · exact execRestore_keeps h
  · exact execKill_wf h
  · exact execCommnew_wf h
  · exact execCommdel_keeps h
  · exact execReg_keeps h
  · exact execDereg_keeps h
  · exact execViewnew_keeps h
  · exact execViewdel_keeps h
  · exact execJoin_wf h
  · exact execPodcfg_keeps h
  · exact execDiscread_keeps h
  · exact execResync_keeps h
  · exact execAttest_keeps h
  · exact execFwload_keeps h
  · exact execCkpt_keeps h
  · exact execSnapcfg_keeps h
  · exact execEvring_keeps h
  · exact execAdminReserved_keeps h

/-! ### Sched -/

theorem State.hostWrite_wf {s : State} {port offset : Nat} {value : BitVec 64} {command buffer : List (BitVec 8)}
    (h : Memory.wf s.mem = true) : NextWf (s.hostWrite port offset value command buffer) := by
  unfold State.hostWrite
  split
  · exact State.command_wf h
  · exact State.writeRegister_keeps h

theorem State.issueNext_wf {s : State} (h : Memory.wf s.mem = true) : NextWf s.issueNext := by
  unfold State.issueNext
  split
  · trivial
  next i0 _ =>
  split
  · simp [h]
  dsimp only
  have hm : Memory.wf (s.merge i0).mem = true := by simpa using h
  split
  · trivial
  split
  · exact hm
  · simp [h]
  · exact nextMem_holdFault.2 hm
  split
  · exact nextMem_raise.2 hm
  split
  · exact exec_wf (by simpa using h)
  · exact issue_keeps fun _ => nextMem_raise.2 (by simpa using h)

/-- Every choice of the schedule keeps memory in its canonical form. -/
theorem State.run_wf {s : State} {c : Choice} (h : Memory.wf s.mem = true) : NextWf (s.run c) := by
  cases c with
  | issue core slot => exact NextMem.ite (State.issueNext_wf h) trivial
  | event e => exact exec_wf h
  | hostWrite port offset value command buffer => exact State.hostWrite_wf h
  | readMw0 port offset => exact NextMem.ite (by simpa using h) trivial
  | readMw1 port block => exact NextMem.ite (by simpa using h) trivial
  | work id => exact State.workOn_keeps h
  | overtake id => exact State.overtake_wf h
  | portion id granule => exact State.portion_wf h

end

theorem step_wf {s : State} (h : Memory.wf s.mem = true) : NextWf (step s) := by
  unfold step
  split
  · exact State.run_wf h
  · split
    · exact State.run_wf h
    · exact h

/-- Settles O5: every choice of the schedule keeps the form, whichever one a step takes. -/
theorem memoryStaysCanonical : Obligations.memory_stays_canonical := by
  unfold Obligations.memory_stays_canonical
  intro s t hs hstep
  have h : NextWf (step s) := step_wf hs
  rwa [hstep] at h

end Sys2Proof.Machine

/-! ## Commands on contexts, keys, translations and queues (O54) -/
namespace Sys2Proof.Machine
open Sys2Proof

/-! ### Items of a list with the same key -/

section
variable {α : Type} {key : α → Nat} {f : α → α} {n : Nat} (hf : ∀ x, key (f x) = key x)
include hf

/-- An update of the items with one key leaves the others listed as they were. -/
theorem mem_map_update_of_key_ne {x : α} (hx : key x ≠ n) (l : List α) :
    x ∈ l.map (fun y => if key y = n then f y else y) ↔ x ∈ l := by
  constructor
  · intro h
    obtain ⟨y, hy, rfl⟩ := List.mem_map.1 h
    by_cases hk : key y = n
    · rw [if_pos hk, hf] at hx
      exact absurd hk hx
    · rwa [if_neg hk]
  · exact fun h => List.mem_map.2 ⟨x, h, if_neg hx⟩

/-- The first item with the key is updated. -/
theorem find?_map_update (l : List α) :
    (l.map fun y => if key y = n then f y else y).find? (fun y => key y = n) = (l.find? fun y => key y = n).map f := by
  induction l with
  | nil => rfl
  | cons y l ih =>
    by_cases hk : key y = n
    · simp [hk, hf]
    · simpa [hk] using ih

end

/-! ### Answers to commands -/

section
variable {s t : State} {h : AdminHdr} {row : String} {a : Accepts} {wf : Bool} {k : State}

theorem State.linkUp_of_ports (ht : t.ports = s.ports) (port : Nat) : t.linkUp port = s.linkUp port := by
  unfold State.linkUp
  rw [ht]

theorem State.respond_eq_replied (hl : s.linkUp h.port = true) (astat : Nat) (rcause : Cause) (res : Nat) :
    s.respond h false astat rcause res = s.replied h [] astat rcause res := by
  simp [State.respond, State.tellHost, State.replied, hl]

theorem State.startLong_eq_began (hl : s.linkUp h.port = true) (work : LongWork) : s.startLong h work = s.began h work := by
  simp only [State.startLong, State.answer, State.respond_eq_replied hl]
  rfl

/-- What the host is told before the response stands before it. -/
theorem State.tellHost_answer (hl : s.linkUp h.port = true) (ms : List HostMsg) (astat : Nat) :
    (s.tellHost h.port ms).answer h astat = s.replied h ms astat 0 0 := by
  have hl' : ({ s with hostOut := s.hostOut ++ ms } : State).linkUp h.port = true := hl
  rw [State.tellHost, if_pos hl, State.answer, State.respond_eq_replied hl']
  simp [State.replied]

theorem admin_not_accepted (hl : s.linkUp h.port = true) (ha : s.accepts a = false) :
    admin s row h a wf k = .next (s.replied h [] 5 0 0) := by
  simp [admin, hl, ha, State.answer, State.respond_eq_replied hl]

theorem admin_malformed (hl : s.linkUp h.port = true) (ha : s.accepts a = true)
    (hbad : h.reservedZero = false ∨ h.resp % 64 ≠ 0 ∨ wf = false) :
    admin s row h a wf k = .next (s.replied h [] 1 0 0) := by
  have hc : (!h.reservedZero || h.resp % 64 != 0 || !wf) = true := by simpa [or_assoc] using hbad
  simp [admin, hl, ha, hc, State.answer, State.respond_eq_replied hl]

theorem Cmd.accepts_ready (hc : Cmd s h) : s.accepts .ready = true := by
  obtain ⟨-, hready, hrecov, hquar, -, -⟩ := hc
  simp [State.accepts, hready, hrecov, hquar]

/-- A well-formed command that the device takes does what its row says. -/
theorem Cmd.admin_ready (hc : Cmd s h) (hwf : wf = true) : admin s row h .ready wf k = .next k := by
  have ha := hc.accepts_ready
  obtain ⟨hl, -, -, -, hres, hresp⟩ := hc
  simp [admin, hl, ha, hres, hresp, hwf]

theorem Cmd.respond (hc : Cmd s h) (ht : t.ports = s.ports) (astat : Nat) (rcause : Cause) (res : Nat) :
    t.respond h false astat rcause res = t.replied h [] astat rcause res :=
  State.respond_eq_replied ((State.linkUp_of_ports ht _).trans hc.1) astat rcause res

theorem Cmd.answer (hc : Cmd s h) (ht : t.ports = s.ports) (astat : Nat) : t.answer h astat = t.replied h [] astat 0 0 :=
  hc.respond ht astat 0 0

theorem Cmd.startLong (hc : Cmd s h) (ht : t.ports = s.ports) (work : LongWork) : t.startLong h work = t.began h work :=
  State.startLong_eq_began ((State.linkUp_of_ports ht _).trans hc.1) work

end

/-! ### Commands that the device does not take -/

/-- Every command of these rows passes through the checks common to all. -/
theorem ContextCommand.exec_eq_admin {i : Instr} {h : AdminHdr} {ctx n : Nat} {mask : BitVec 64} {cores : BitVec 192}
    {bytes : List (BitVec 8)} {a b : Nat} {dbg : Bool} {q : QueueParams} {acmd : BitVec 8}
    (hi : ContextCommand i h ctx n mask cores bytes a b dbg q acmd) (s : State) :
    ∃ row wf k, exec i s = admin s row h .ready wf k := by
  rcases hi with ⟨rfl, hacmd⟩ | hi
  · refine ⟨_, _, _, if_neg ?_⟩
    rcases hacmd with rfl | hacmd
    · decide
    · simp; omega
  · simp only [List.mem_cons, List.not_mem_nil, or_false] at hi
    rcases hi with rfl | rfl | rfl | rfl | rfl | rfl | rfl | rfl | rfl | rfl | rfl <;> exact ⟨_, _, _, rfl⟩

/-! ### Contexts and partitions -/

section
variable {s : State} {h : AdminHdr} {ctx : Nat}

theorem State.updCtx_ctxAt {f : Context → Context} {c : Context} (hat : s.ctxAt ctx = some c) (hf : ∀ c, (f c).num = c.num) :
    (s.updCtx ctx f).ctxAt ctx = some (f c) :=
  (find?_map_update (key := Context.num) hf s.ctxs).trans (congrArg (Option.map f) hat)

theorem State.updCtx_othersSame {f : Context → Context} (hf : ∀ c, (f c).num = c.num) : OthersSame s (s.updCtx ctx f) ctx :=
  fun _ hd => mem_map_update_of_key_ne (key := Context.num) hf hd s.ctxs

theorem Cmd.respond_updCtx (hc : Cmd s h) (f : Context → Context) (astat : Nat) (rcause : Cause) (res : Nat) :
    (s.updCtx ctx f).respond h false astat rcause res = (s.updCtx ctx f).replied h [] astat rcause res :=
  hc.respond (State.updCtx_ports s ctx f) astat rcause res

theorem Cmd.answer_updCtx (hc : Cmd s h) (f : Context → Context) (astat : Nat) :
    (s.updCtx ctx f).answer h astat = (s.updCtx ctx f).replied h [] astat 0 0 :=
  hc.respond_updCtx f astat 0 0

theorem exec_ctxnew (hc : Cmd s h) {troot size : Nat} {dbg : Bool} (hctx : ctx < 64) (htroot : troot < 2 ^ 46)
    (hpos : 1 ≤ size) (hsize : size ≤ 4096) :
    exec (.ctxnew h ctx troot size dbg) s = .next (if (s.ctxAt ctx).isSome then s.replied h [] 2 0 0
      else ({ s with ctxs := s.ctxs ++ [freshContext ctx troot size dbg] } : State).replied h [] 0 0 0) := by
  refine (hc.admin_ready (by simp only [hctx, htroot, hpos, hsize, decide_true, Bool.and_true])).trans ?_
  simp [hc.answer]

theorem exec_ctxdel_none (hc : Cmd s h) (hctx : ctx < 64) (hnone : s.ctxAt ctx = none) :
    exec (.ctxdel h ctx) s = .next (s.replied h [] 2 0 0) := by
  refine (hc.admin_ready (by simp [hctx])).trans ?_
  simp [hnone, hc.answer]

/-- A context that CTXDEL removes: no partition, no transition in progress, no launch queue, no communicator (R494). -/
def State.IdleCtx (s : State) (ctx : Nat) (c : Context) : Prop :=
  c.part = [] ∧ c.st ∉ [.switching, .restoring, .killing] ∧ (∀ q ∈ s.queues, q.p.ctx ≠ ctx) ∧ ∀ x ∈ s.comms, x.ctx ≠ ctx

theorem State.idleCtx_iff {c : Context} : s.IdleCtx ctx c ↔
    (!c.part.isEmpty || c.moving || (s.queues.any fun q => q.p.ctx = ctx) || (s.comms.any fun x => x.ctx = ctx)) = false := by
  simp [State.IdleCtx, Context.moving, and_assoc]

theorem exec_ctxdel_busy (hc : Cmd s h) (hctx : ctx < 64) {c : Context} (hat : s.ctxAt ctx = some c) (hbusy : ¬ s.IdleCtx ctx c) :
    exec (.ctxdel h ctx) s = .next (s.replied h [] 2 0 0) := by
  refine (hc.admin_ready (by simp [hctx])).trans ?_
  rw [State.idleCtx_iff, Bool.not_eq_false] at hbusy
  simp only [hat, if_pos hbusy, hc.answer]

theorem exec_ctxdel_idle (hc : Cmd s h) (hctx : ctx < 64) {c : Context} (hat : s.ctxAt ctx = some c) (hidle : s.IdleCtx ctx c) :
    exec (.ctxdel h ctx) s =
      .next (({ s.dropTlb ctx with ctxs := s.ctxs.filter fun x => x.num ≠ ctx } : State).replied h [] 0 0 0) := by
  refine (hc.admin_ready (by simp [hctx])).trans ?_
  have hnot := ne_true_of_eq_false (State.idleCtx_iff.1 hidle)
  simp only [hat, if_neg hnot]
  simp only [State.dropTlb, hc.answer]

@[simp] theorem numberCores_map_phys (phys : List Nat) : (numberCores phys).map (·.phys) = phys := by
  simp [numberCores, Function.comp_def]

@[simp] theorem numberCores_map_logical (phys : List Nat) : (numberCores phys).map (·.logical) = List.range phys.length := by
  simp [numberCores, Function.comp_def, List.range_eq_range']

/-- A context that PARTBUILD gives some cores: no partition yet, created or saved, and no context owns one of them (R421). -/
def State.MayBuild (s : State) (c : Context) (named : List Nat) : Prop :=
  c.part = [] ∧ (c.st = .created ∨ c.st = .saved) ∧ ∀ n ∈ named, ¬ s.Owned n

theorem State.mayBuild_iff {c : Context} {named : List Nat} : s.MayBuild c named ↔
    (!c.part.isEmpty || (c.st ≠ .created && c.st ≠ .saved) || (named.any fun n => s.ctxs.any fun d => s.owns d n)) = false := by
  simp [State.MayBuild, State.Owned, Decidable.or_iff_not_imp_left, and_assoc]

/-- A context with the cores that PARTBUILD gives it (R19, R421). -/
def Context.built (c : Context) (named : List Nat) : Context :=
  { c with part := numberCores named, st := if c.st = .created then .resident else c.st }

section
variable {cores : BitVec 192} {c : Context} (hc : Cmd s h) (hctx : ctx < 64) (hcores : cores ≠ 0) (hat : s.ctxAt ctx = some c)
include hc hctx hcores hat

theorem exec_partbuild_refused (hmay : ¬ s.MayBuild c ((List.range 192).filter fun n => cores.getLsbD n)) :
    exec (.partbuild h ctx cores) s = .next (s.replied h [] 2 0 0) := by
  refine (hc.admin_ready (by simpa [hctx] using hcores)).trans ?_
  rw [State.mayBuild_iff, Bool.not_eq_false] at hmay
  simp only [hat, if_pos hmay, hc.answer]

theorem exec_partbuild_built (hmay : s.MayBuild c ((List.range 192).filter fun n => cores.getLsbD n)) :
    let named := (List.range 192).filter fun n => cores.getLsbD n
    exec (.partbuild h ctx cores) s = .next ((s.updCtx ctx (·.built named)).replied h [] 0 0 named.length) := by
  refine (hc.admin_ready (by simpa [hctx] using hcores)).trans ?_
  have hnot := ne_true_of_eq_false (State.mayBuild_iff.1 hmay)
  simp only [hat, if_neg hnot, hc.respond_updCtx]
  rfl

end

theorem exec_debugEnable (hc : Cmd s h) (hctx : ctx < 64) {enable : Bool} {c : Context} (hat : s.ctxAt ctx = some c) :
    exec (.debugEnable h ctx enable) s = .next ((s.updCtx ctx fun c => { c with dbg := enable }).replied h [] 0 0 0) := by
  refine (hc.admin_ready (by simp [hctx])).trans ?_
  simp [hat, hc.answer_updCtx]

theorem exec_discread (hc : Cmd s h) (hctx : ctx < 64) {c : Context} (hat : s.ctxAt ctx = some c) (hpart : c.part ≠ []) :
    exec (.discread h ctx) s = .next (s.replied h [.write h.port h.data (discTable c)] 0 0 0) := by
  refine (hc.admin_ready (by simp [hctx])).trans ?_
  simp [hat, hpart, State.tellHost_answer hc.1]

end

/-! ### Keys -/

section
variable {s : State} {h : AdminHdr} {slot : Nat} {owners : BitVec 64}

theorem exec_keyxch (hc : Cmd s h) : exec (.keyxch h) s =
    .next (({ s with kemKey := some s.freeCtr, freeCtr := s.freeCtr + 1 } : State).replied h
      [.write h.port h.data (signedKey s.freeCtr h.cid)] 0 0 0) := by
  have hl : ({ s with kemKey := some s.freeCtr, freeCtr := s.freeCtr + 1 } : State).linkUp h.port = true := hc.1
  exact (hc.admin_ready rfl).trans (congrArg _ (State.tellHost_answer hl _ _))

theorem State.unwrapped_eq (buffer : List (BitVec 8)) :
    ((s.kemKey.bind (Config.decapsulate · (buffer.take 1088))).bind fun z => keyUnwrap ((sha512 z).take 32) (buffer.drop 1088)) =
      s.unwrapped buffer :=
  Option.bind_assoc _ _ _

/-- A KEYBIND of a slot that is not bound (R496). -/
theorem exec_keybind_free (hc : Cmd s h) (hlo : 1 ≤ slot) (hhi : slot ≤ 2047) {buffer : List (BitVec 8)} (hlen : buffer.length = 1160)
    (hfree : ∀ k ∈ s.keys, k.slot ≠ slot) : exec (.keybind h slot owners buffer) s =
      .next ((s.unwrapped buffer).elim (s.replied h [] 4 0 0) fun key =>
        (({ s with keys := s.keys ++ [⟨slot, owners, key⟩] } : State).maskSlots fun c =>
          if owners.getLsbD c.num then c.slots ++ [slot] else c.slots).replied h [] 0 0 0) := by
  refine (hc.admin_ready (by simp [hlo, hhi, hlen])).trans ?_
  have hnot : ¬ (s.keys.any fun k => k.slot = slot) = true := by simpa using hfree
  rw [if_neg hnot]
  cases s.unwrapped buffer with
  | none => simp [hc.answer]
  | some key =>
    have hmask : (fun c : Context => if owners.getLsbD c.num then { c with slots := c.slots ++ [slot] } else c) =
        fun c => { c with slots := if owners.getLsbD c.num then c.slots ++ [slot] else c.slots } := by
      funext c
      split <;> rfl
    simp only [hmask, Option.elim_some, hc.answer, State.maskSlots]

theorem exec_keybind_bound (hc : Cmd s h) (hlo : 1 ≤ slot) (hhi : slot ≤ 2047) {buffer : List (BitVec 8)} (hlen : buffer.length = 1160)
    (hbound : ∃ k ∈ s.keys, k.slot = slot) : exec (.keybind h slot owners buffer) s = .next (s.replied h [] 2 0 0) := by
  refine (hc.admin_ready (by simp [hlo, hhi, hlen])).trans ?_
  rw [if_pos (by simpa using hbound), hc.answer rfl]

theorem exec_keyunbind_free (hc : Cmd s h) (hlo : 1 ≤ slot) (hhi : slot ≤ 2047) (hfree : ∀ k ∈ s.keys, k.slot ≠ slot) :
    exec (.keyunbind h slot) s = .next (s.replied h [] 2 0 0) := by
  refine (hc.admin_ready (by simp [hlo, hhi])).trans ?_
  rw [if_neg (by simpa using hfree), hc.answer rfl]

theorem exec_keyunbind_bound (hc : Cmd s h) (hlo : 1 ≤ slot) (hhi : slot ≤ 2047) (hbound : ∃ k ∈ s.keys, k.slot = slot) :
    exec (.keyunbind h slot) s = .next ((({ s with keys := s.keys.filter fun k => k.slot ≠ slot } : State).maskSlots fun c =>
      c.slots.filter fun n => n ≠ slot).replied h [] 0 0 0) := by
  refine (hc.admin_ready (by simp [hlo, hhi])).trans ?_
  rw [if_pos (by simpa using hbound)]
  simp only [hc.answer, State.maskSlots]

end

/-! ### Translations -/

/-- A cached entry of a context that meets a range (R390). -/
def TlbEntry.within (e : TlbEntry) (ctx base bytes : Nat) : Bool := e.ctx = ctx && meets e.base e.size base bytes

theorem TlbEntry.within_eq_false_iff {e : TlbEntry} {ctx base bytes : Nat} :
    e.within ctx base bytes = false ↔ (e.ctx = ctx → meets e.base e.size base bytes = false) := by
  simp [TlbEntry.within, imp_iff_not_or]

/-- The ranges of the cached leaves that SHOOT removes (R390). -/
def State.shotSpans (s : State) (ctx base bytes : Nat) : List (Nat × Nat) :=
  ((s.tlb.filter fun e => e.within ctx base bytes && e.isLeaf).map fun e => (e.base, e.size)).eraseDups

section
variable {s : State} {h : AdminHdr} {ctx base bytes : Nat}

theorem State.mem_shotSpans {x : Nat × Nat} : x ∈ s.shotSpans ctx base bytes ↔
    ∃ e ∈ s.tlb, e.ctx = ctx ∧ meets e.base e.size base bytes = true ∧ e.isLeaf = true ∧ x = (e.base, e.size) := by
  simp [State.shotSpans, TlbEntry.within, and_assoc, eq_comm (a := x)]

theorem exec_shoot (hc : Cmd s h) (hctx : ctx < 64) (hbase : base % 65536 = 0) (hbytes : bytes % 65536 = 0) (hb : base < 2 ^ 57)
    (hn : bytes < 2 ^ 57) : exec (.shoot h ctx base bytes) s = .next (if (s.ctxAt ctx).isSome then
      ({ s with tlb := s.tlb.filter fun e => !e.within ctx base bytes } : State).began h
        (.shoot ctx base bytes (s.shotSpans ctx base bytes))
      else s.replied h [] 2 0 0) := by
  refine (hc.admin_ready (by simp only [hctx, hbase, hbytes, hb, hn, decide_true, Bool.and_true])).trans ?_
  simp only [hc.answer, hc.startLong]
  cases s.ctxAt ctx <;> rfl

end

/-! ### Launch queues -/

theorem exec_qnew {s : State} {h : AdminHdr} (hc : Cmd s h) {q : QueueParams} (hq : q.queue < 256) (hcls : q.cls < 8) (hctx : q.ctx < 64)
    (hlo : 4 ≤ q.k) (hhi : q.k ≤ 16) (hvec : q.vector < 256) : exec (.qnew h q) s =
      .next (if (s.ctxAt q.ctx).isNone || (s.queues.any fun x => x.p.queue = q.queue) then s.replied h [] 2 0 0
        else ({ s with queues := s.queues ++ [⟨q, h.port, 0, 0, false, 0, 0, 0⟩] } : State).replied h [] 0 0 0) := by
  refine (hc.admin_ready (by simp [hq, hcls, hctx, hlo, hhi, hvec])).trans ?_
  simp only [hc.answer]

/-- Between two states only one queue has moved on, free values are used and k messages are written to the hosts (R494, R500). -/
def QueueAnswered (n k : Nat) (s t : State) : Prop :=
  ∃ (qs : List LQueue) (told : List HostMsg) (free : Nat), t = { s with queues := qs, hostOut := s.hostOut ++ told, freeCtr := free } ∧
    told.length = k ∧ qs.map (·.p) = s.queues.map (·.p) ∧ ∀ x : LQueue, x.p.queue ≠ n → (x ∈ qs ↔ x ∈ s.queues)

section
variable {n k l : Nat} {s t u : State}

theorem QueueAnswered.refl (s : State) : QueueAnswered n 0 s s :=
  ⟨s.queues, [], s.freeCtr, by simp, rfl, rfl, fun _ _ => Iff.rfl⟩

theorem QueueAnswered.trans (hst : QueueAnswered n k s t) (htu : QueueAnswered n l t u) : QueueAnswered n (k + l) s u := by
  obtain ⟨qs, told, free, rfl, hlen, hp, hothers⟩ := hst
  obtain ⟨qs', told', free', rfl, hlen', hp', hothers'⟩ := htu
  exact ⟨qs', told ++ told', free', by simp, by simp [hlen, hlen'], hp'.trans hp,
    fun x hx => (hothers' x hx).trans (hothers x hx)⟩

/-- A queue that is there stays there. -/
theorem QueueAnswered.exists_queue (hst : QueueAnswered n k s t) (hq : ∃ x ∈ s.queues, x.p.queue = n) :
    ∃ x ∈ t.queues, x.p.queue = n := by
  obtain ⟨qs, told, free, rfl, -, hp, -⟩ := hst
  obtain ⟨x, hx, rfl⟩ := hq
  have hmem : x.p ∈ qs.map (·.p) := hp ▸ List.mem_map_of_mem hx
  obtain ⟨y, hy, hyx⟩ := List.mem_map.1 hmem
  exact ⟨y, hy, by rw [hyx]⟩

/-- An update of one queue that keeps its parameters, with messages to the hosts. -/
theorem QueueAnswered.update_told {f : LQueue → LQueue} (hf : ∀ x, (f x).p = x.p) (told : List HostMsg) :
    QueueAnswered n told.length s
      { s with queues := s.queues.map fun x => if x.p.queue = n then f x else x, hostOut := s.hostOut ++ told } := by
  refine ⟨_, told, s.freeCtr, rfl, rfl, ?_, fun x hx => ?_⟩
  · rw [List.map_map]
    refine List.map_congr_left fun x _ => ?_
    simp only [Function.comp_apply]
    split
    · exact hf x
    · rfl
  · exact mem_map_update_of_key_ne (key := fun x : LQueue => x.p.queue) (fun y => by rw [hf]) hx s.queues

theorem QueueAnswered.update {f : LQueue → LQueue} (hf : ∀ x, (f x).p = x.p) :
    QueueAnswered n 0 s { s with queues := s.queues.map fun x => if x.p.queue = n then f x else x } := by
  simpa using QueueAnswered.update_told (s := s) hf []

theorem QueueAnswered.advanceQueue (n : Nat) (s : State) : QueueAnswered n 0 s (s.advanceQueue n) :=
  QueueAnswered.update (f := fun x => { x with head := x.head + 1, headAt := s.headStamp }) fun _ => rfl

theorem QueueAnswered.postCompletion (hq : ∃ x ∈ s.queues, x.p.queue = n) (tag : Word) (status : Nat) :
    QueueAnswered n 2 s (s.postCompletion n tag status) := by
  unfold State.postCompletion
  split
  next hnone =>
    obtain ⟨x, hx, hxn⟩ := hq
    exact absurd hxn (by simpa using List.find?_eq_none.1 hnone x hx)
  next x _ =>
    exact QueueAnswered.update_told (f := fun y => { y with done := y.done + 1 }) (fun _ => rfl)
      [x.message tag status s.time, .msix x.port x.p.vector]

theorem QueueAnswered.useFree (s : State) (m : Nat) : QueueAnswered n 0 s (s.useFree m) :=
  ⟨s.queues, [], s.freeCtr + m, by simp [State.useFree], rfl, rfl, fun _ _ => Iff.rfl⟩

/-- A queue's head entry is answered with 0x22. -/
theorem QueueAnswered.answerHead (hq : ∃ x ∈ s.queues, x.p.queue = n) (tag : Word) :
    QueueAnswered n 2 s ((s.advanceQueue n).postCompletion n tag 0x22) := by
  have hadv := QueueAnswered.advanceQueue n s
  simpa using hadv.trans (QueueAnswered.postCompletion (hadv.exists_queue hq) tag 0x22)

/-- Answering m entries writes two messages for each. -/
theorem QueueAnswered.drainMemory (m : Nat) {q : LQueue} (hn : q.p.queue = n) (hq : ∃ x ∈ s.queues, x.p.queue = n) :
    QueueAnswered n (2 * m) s (s.drainMemory q m) := by
  induction m generalizing s q with
  | zero => exact .refl s
  | succ m ih =>
    subst hn
    have step {t : State} (hst : QueueAnswered q.p.queue 2 s t) :
        QueueAnswered q.p.queue (2 * (m + 1)) s (t.drainMemory { q with head := q.head + 1 } m) := by
      have htail := ih (q := { q with head := q.head + 1 }) rfl (hst.exists_queue hq)
      rw [show 2 * (m + 1) = 2 + 2 * m by omega]
      exact hst.trans htail
    unfold State.drainMemory
    split
    · exact step (QueueAnswered.answerHead hq _)
    · exact step ((QueueAnswered.answerHead hq _).trans (QueueAnswered.useFree _ 1))

theorem QueueAnswered.drainQueue {q : LQueue} (hn : q.p.queue = n) (hq : ∃ x ∈ s.queues, x.p.queue = n) :
    QueueAnswered n (if q.p.hostRing = true then 0 else 2 * (q.tail - q.head)) s (s.drainQueue q) := by
  subst hn
  unfold State.drainQueue
  split
  · exact QueueAnswered.update (f := fun x => { x with drain := x.tail }) fun _ => rfl
  · exact QueueAnswered.drainMemory _ rfl hq

/-- A queue takes no more entries (R494). -/
def State.closeQueue (s : State) (n : Nat) : State :=
  { s with queues := s.queues.map fun (x : LQueue) => if x.p.queue = n then { x with closing := true } else x }

theorem QueueAnswered.closeQueue (n : Nat) (s : State) : QueueAnswered n 0 s (s.closeQueue n) :=
  QueueAnswered.update (f := fun x => { x with closing := true }) fun _ => rfl

theorem State.closeQueue_closing {x : LQueue} (hx : x ∈ (s.closeQueue n).queues) (hn : x.p.queue = n) : x.closing = true := by
  obtain ⟨y, -, rfl⟩ := List.mem_map.1 hx
  by_cases hy : y.p.queue = n
  · simp [hy]
  · simp [hy] at hn

variable {h : AdminHdr} {q : LQueue}

theorem exec_qdel_closing (hc : Cmd s h) (hn : n < 256) (hq : (s.queues.find? fun x => x.p.queue = n) = some q) (hclosing : q.closing = true) :
    exec (.qdel h n) s = .next (s.replied h [] 2 0 0) := by
  refine (hc.admin_ready (by simp [hn])).trans ?_
  simp only [hq, hclosing, if_true, hc.answer]

theorem exec_qdel_open (hc : Cmd s h) (hn : n < 256) (hq : (s.queues.find? fun x => x.p.queue = n) = some q) (hopen : q.closing = false) :
    exec (.qdel h n) s = .next (((s.began h (.qdel n)).drainQueue q).closeQueue n) := by
  refine (hc.admin_ready (by simp [hn])).trans ?_
  simp only [hq, hopen, Bool.false_eq_true, if_false]
  rw [hc.startLong rfl]
  rfl

end

/-! ### A reserved command -/

theorem exec_adminReserved {s : State} {h : AdminHdr} (hc : Cmd s h) {acmd : BitVec 8} (hacmd : acmd = 0 ∨ 0x1F < acmd.toNat) :
    exec (.adminReserved h acmd) s = .next (s.replied h [] 1 0 0) := by
  have hnot : ¬ (1 ≤ acmd.toNat && acmd.toNat ≤ 0x1F) = true := by
    rcases hacmd with rfl | hacmd
    · decide
    · simp; omega
  exact (if_neg hnot).trans (admin_malformed hc.1 hc.accepts_ready (.inr (.inr rfl)))

/-! ### The statement -/

/-- Settles O54: each command passes the checks that all have in common, and then its own answer is the one stated; QDEL's entries are
answered one by one. -/
theorem contextAndKeyCommandsAnswer : Obligations.context_and_key_commands_answer := by
  unfold Obligations.context_and_key_commands_answer
  refine ⟨fun s h hl i ctx n mask cores bytes a b dbg q acmd hi => ?notTaken, fun s h hc => ⟨?ctxnew, ?ctxdel, ?partbuild, ?debug, ?discread,
    exec_keyxch hc, ?keys, ?shoot, ?qnew, ?qdel, fun acmd => exec_adminReserved hc⟩⟩
  case notTaken =>
    obtain ⟨row, wf, k, hexec⟩ := hi.exec_eq_admin s
    rw [hexec]
    refine ⟨fun hnot => admin_not_accepted hl ?_, fun hready hrecov hquar hbad =>
      admin_malformed hl ?_ (hbad.imp_right .inl)⟩
    · rcases hnot with hnot | hnot | hnot <;> simp [State.accepts, hnot]
    · simp [State.accepts, hready, hrecov, hquar]
  case ctxnew =>
    intro ctx troot size dbg hctx htroot hpos hsize
    rw [exec_ctxnew hc hctx htroot hpos hsize]
    exact ⟨fun hnone => by rw [hnone]; rfl, fun hsome => by rw [if_pos hsome]⟩
  case ctxdel =>
    refine fun ctx hctx => ⟨exec_ctxdel_none hc hctx, fun c hat => ⟨exec_ctxdel_busy hc hctx hat, fun hidle =>
      ⟨_, exec_ctxdel_idle hc hctx hat hidle, rfl, fun e => by simp [State.dropTlb], fun e => by simp [State.dropTlb]⟩⟩⟩
  case partbuild =>
    intro ctx cores c hctx hcores hat
    exact ⟨exec_partbuild_refused hc hctx hcores hat, fun hmay =>
      ⟨_, c.built _, exec_partbuild_built hc hctx hcores hat hmay, rfl, State.updCtx_ctxAt hat fun _ => rfl, rfl,
        numberCores_map_phys _, numberCores_map_logical _, State.updCtx_othersSame fun _ => rfl⟩⟩
  case debug =>
    exact fun ctx enable c hctx hat => ⟨_, exec_debugEnable hc hctx hat, rfl, State.updCtx_ctxAt hat fun _ => rfl,
      State.updCtx_othersSame fun _ => rfl⟩
  case discread => exact fun ctx c hctx hat hpart => exec_discread hc hctx hat hpart
  case keys =>
    refine fun slot owners hlo hhi => ⟨fun buffer hlen => ⟨exec_keybind_bound hc hlo hhi hlen, fun hfree => ?_⟩,
      exec_keyunbind_free hc hlo hhi, exec_keyunbind_bound hc hlo hhi⟩
    rw [exec_keybind_free hc hlo hhi hlen hfree, State.unwrapped_eq]
    cases s.unwrapped buffer <;> rfl
  case shoot =>
    intro ctx base bytes hctx hbase hbytes hb hn
    have hexec := exec_shoot hc hctx hbase hbytes hb hn
    refine ⟨fun hnone => ?_, fun hsome =>
      ⟨_, _, hexec.trans (congrArg _ (if_pos hsome)), rfl, fun e => ?_, fun x => State.mem_shotSpans⟩⟩
    · rw [hexec, if_neg (by simp [hnone])]
    · rw [List.mem_filter, Bool.not_eq_true', TlbEntry.within_eq_false_iff]
  case qnew =>
    intro q hq hcls hctx hlo hhi hvec
    rw [exec_qnew hc hq hcls hctx hlo hhi hvec]
    refine ⟨fun hrefused => ?_, fun hsome hfree => ?_⟩
    · rw [if_pos (by simpa using hrefused)]
    · rw [if_neg (by simpa [Option.isSome_iff_ne_none.1 hsome] using hfree)]
  case qdel =>
    refine fun n q hn hq => ⟨exec_qdel_closing hc hn hq, fun hopen => ?_⟩
    have hqn : q.p.queue = n := by simpa using List.find?_some hq
    have hdrained := (QueueAnswered.drainQueue (s := s.began h (.qdel n)) hqn ⟨q, List.mem_of_find?_eq_some hq, hqn⟩).trans
      (QueueAnswered.closeQueue n _)
    obtain ⟨qs, told, free, ht, hlen, -, hothers⟩ := hdrained
    exact ⟨_, told, exec_qdel_open hc hn hq hopen, by rw [ht], hlen, fun _ => State.closeQueue_closing, by rw [ht]; exact hothers⟩

end Sys2Proof.Machine

/-! ## Decoding encodings (O1) -/
namespace Sys2Proof.Laws
open Sys2Proof

/-! ### An instruction's form names it -/

theorem known_of_form {i : Instr} {fm : Form} (h : i.form = some fm) : knownForm fm = true ∧ fm.instr = some i := by
  cases i with
  | bra lnd m imm => cases h; exact ⟨rfl, by simp [Form.instr, iInstr, maskField_low]⟩
  | brn lnd m imm => cases h; exact ⟨rfl, by simp [Form.instr, iInstr, maskField_low]⟩
  | braLong lnd m t => cases h; exact ⟨rfl, by simp [Form.instr, iInstr, maskField_low, targetLit_words]⟩
  | brnLong lnd m t => cases h; exact ⟨rfl, by simp [Form.instr, iInstr, maskField_low, targetLit_words]⟩
  | callLong lnd d t => cases h; exact ⟨rfl, by simp [Form.instr, iInstr, targetLit_words]⟩
  | _ => cases h <;> exact ⟨rfl, rfl⟩

/-- Under a PFX or alone, the words of a well-formed instruction read as it. -/
theorem decodeUnder_encode_of_wf {env : DecEnv} {p : Option PForm} {i : Instr} (hf : i.form.isSome = true)
    (hw : i.wf env p = true) :
    decodeUnder env (p.map fun q => (q, true, false)) (encode i) = .ok i (4 * (encode i).length) := by
  obtain ⟨fm, hfm⟩ := Option.isSome_iff_exists.1 hf
  obtain ⟨hk, hi⟩ := known_of_form hfm
  exact decodeUnder_of_wf (encode_of_form hfm) hfm hk hi hw

/-! ### The first word tells a PFX from an instruction -/

theorem opOf_pWord (p : PForm) : opOf (pWord p) = 0x3F := by
  simp (disch := omega) only [opOf, pWord, extract_append_high, extract_append_low]
  simp [BitVec.extractLsb'_eq_self]

theorem lenOk_pWord (p : PForm) : lenOk (pWord p) = true := by
  have hl : lenOf (pWord p) = 0 := by
    simp (disch := omega) only [lenOf, pWord, extract_append_high]
    simp
  simp [lenOk, opOf_pWord, hl]

theorem pRest_pWord (p : PForm) : pRest (pWord p) = true := by
  simp (disch := omega) only [pRest, pWord, extract_append_low, getLsbD_append_high, getLsbD_append_low]
  simp

theorem decode_alone_of_ok {env : DecEnv} {ws : List Word} {i : Instr} {n : Nat} (h : decodeUnder env none ws = .ok i n) :
    decode env ws = .ok i n := by
  obtain ⟨w, rest, rfl, hop, -⟩ := decodeUnder_ok h
  rw [decode, if_neg (by omega), h]

theorem decode_pfx_of_ok {env : DecEnv} {p : PForm} {ws : List Word} {i : Instr} {n : Nat}
    (h : decodeUnder env (some (p, true, false)) ws = .ok i n) : decode env (pWord p :: ws) = .ok (.pfx p) 4 := by
  simp [decode, opOf_pWord, pFields_pWord, pRest_pWord, lenOk_pWord, h]

theorem decodePfxWord_pWord {p : PForm} (h : p.wf = true) : decodePfxWord (pWord p) = some (.pfx p) := by
  simp only [PForm.wf, Bool.and_eq_true, bne_iff_ne] at h
  obtain ⟨⟨hrnd, hc⟩, h7⟩ := h
  simpa [decodePfxWord, lenOk_pWord, pRest_pWord, pFields_pWord, h7] using And.intro hrnd hc

/-- Settles O1: an instruction's form names it and passes every check, and the fields of a form are read back from its words. -/
theorem decodeOfEncode : Obligations.decode_of_encode :=
  ⟨fun _ _ hf hw => decode_alone_of_ok (decodeUnder_encode_of_wf (p := none) hf hw),
   fun _ _ p hf hw =>
    have hd := decodeUnder_encode_of_wf (p := some p) hf hw
    ⟨decode_pfx_of_ok hd, hd⟩,
   fun _ => decodePfxWord_pWord⟩

end Sys2Proof.Laws

/-! ## The manual's words (O3) -/
namespace Sys2Proof.Laws
open Sys2Proof

/-- Settles O3: the decoder is run on each of the words. -/
theorem wordsOfTheManualDecode : Obligations.words_of_the_manual_decode := by
  dsimp only [Obligations.words_of_the_manual_decode]
  decide +kernel

end Sys2Proof.Laws

/-! ## Instructions in flight: the rules of the state's operations (O4, O19 to O22, O25) -/
namespace Sys2Proof.Machine
open Sys2Proof

/-! ### Finding a warp -/

theorem State.key_of_warpAt {s : State} {k : WarpKey} {w : Warp} (h : s.warpAt k = some w) : w.key = k := by
  have hk := List.find?_some h
  simp only [Bool.and_eq_true, decide_eq_true_eq] at hk
  cases k
  simp only [Warp.key, hk]

theorem State.warpAt_congr {s t : State} (h : t.warps = s.warps) (k : WarpKey) : t.warpAt k = s.warpAt k := by
  rw [State.warpAt, h]
  rfl

/-- A change of the warps that keeps their keys changes each warp where it is found. -/
theorem State.warpAt_map {s t : State} {g : Warp → Warp} (ht : t.warps = s.warps.map g) (hg : ∀ w, (g w).key = w.key)
    (k : WarpKey) : t.warpAt k = (s.warpAt k).map g := by
  have hkey : (fun w : Warp => decide (w.core = k.core) && decide (w.idx = k.idx)) ∘ g =
      fun w => decide (w.core = k.core) && decide (w.idx = k.idx) := by
    funext w
    obtain ⟨hc, hi⟩ := WarpKey.mk.inj (hg w)
    simp [hc, hi]
  rw [State.warpAt, ht, List.find?_map, hkey]
  rfl

theorem State.warpAt_updWarp_same {s : State} {k : WarpKey} {f : Warp → Warp} {w : Warp} (hf : ∀ w, (f w).key = w.key)
    (h : s.warpAt k = some w) : (s.updWarp k f).warpAt k = some (f w) := by
  obtain ⟨hc, hi⟩ := WarpKey.mk.inj (State.key_of_warpAt h)
  rw [State.warpAt_map rfl (fun v => by split <;> simp [hf]), h, Option.map_some, if_pos ⟨hc, hi⟩]

/-- A warp whose threads are sent elsewhere. -/
theorem State.warpAt_sendThreads {s : State} {k : WarpKey} {w : Warp} (g : List PcSet → List PcSet) (h : s.warpAt k = some w) :
    (s.updWarp k fun w => { w with pcs := g w.pcs }).warpAt k = some { w with pcs := g w.pcs } :=
  State.warpAt_updWarp_same (f := fun w => { w with pcs := g w.pcs }) (fun _ => rfl) h

theorem State.warpAt_updWarp_other {s : State} {j k : WarpKey} {f : Warp → Warp} (hf : ∀ w, (f w).key = w.key) (hj : j ≠ k) :
    (s.updWarp k f).warpAt j = s.warpAt j := by
  rw [State.warpAt_map rfl (fun v => by split <;> simp [hf])]
  cases h : s.warpAt j with
  | none => rfl
  | some w =>
    have hk := State.key_of_warpAt h
    rw [Option.map_some, if_neg fun hw => hj (by rw [← hk, Warp.key, hw.1, hw.2])]

@[simp] theorem State.retireAt_warpAt (s : State) (i : Iss) (lnd ends : Bool) (lv : Left) (k : WarpKey) :
    (s.retireAt i lnd ends lv).warpAt k = s.warpAt k := State.warpAt_congr (by simp) k

@[simp] theorem State.endFlight_warpAt (s : State) (k : WarpKey) : s.endFlight.warpAt k = s.warpAt k := rfl

/-! ### The issuing instruction -/

/-- What issuing means: the flight at the front, its warp, workgroup and grid, and the set that holds its threads (R121). -/
theorem State.issuing_eq_some {s : State} {i : Iss} (h : s.issuing = some i) :
    s.flights = i.fl :: s.flights.drop 1 ∧ s.warpAt ⟨i.fl.core, i.fl.warp⟩ = some i.w ∧ s.wgAt i.w.wg = some i.wg ∧
    ∃ p, i.w.setOf i.fl.active = some p ∧ p.pc = i.pc := by
  unfold State.issuing at h
  split at h
  · cases h
  next fl fs hfl =>
  split at h
  · cases h
  next w hw =>
  split at h
  next g gr p hg hgr hp =>
    cases h
    exact ⟨by rw [hfl]; rfl, hw, hg, p, hp, rfl⟩
  · cases h

theorem State.issuing_flights {s : State} {i : Iss} (h : s.issuing = some i) : s.flights = i.fl :: s.flights.drop 1 :=
  (State.issuing_eq_some h).1

theorem State.issuing_warpAt {s : State} {i : Iss} (h : s.issuing = some i) : s.warpAt i.w.key = some i.w := by
  obtain ⟨-, hw, -⟩ := State.issuing_eq_some h
  rwa [State.key_of_warpAt hw]

theorem State.issuing_wgAt {s : State} {i : Iss} (h : s.issuing = some i) : s.wgAt i.w.wg = some i.wg := by
  obtain ⟨-, -, hg, -⟩ := State.issuing_eq_some h
  exact hg

/-- The issuing instruction is read from the flights, warps, workgroups and grids alone. -/
theorem State.issuing_congr {s t : State} (hf : t.flights = s.flights) (hw : t.warps = s.warps) (hg : t.wgs = s.wgs)
    (hr : t.grids = s.grids) : t.issuing = s.issuing := by
  simp only [State.issuing, State.warpAt, State.wgAt, State.gridAt, hf, hw, hg, hr]

theorem issue_of_issuing {s : State} {i : Iss} (h : s.issuing = some i) (k : Iss → Out) : issue s k = k i := by
  rw [issue, h]

/-- The warp of the issuing instruction after a change of it that keeps its key. -/
theorem State.warpAt_updWarp_issuing {s : State} {i : Iss} {f : Warp → Warp} (h : s.issuing = some i)
    (hf : ∀ w, (f w).key = w.key) : (s.updWarp i.w.key f).warpAt i.w.key = some (f i.w) :=
  State.warpAt_updWarp_same hf (State.issuing_warpAt h)

/-! ### Where threads stand -/

/-- The address at which sets of a warp hold a thread (R119). -/
def threadPc (ps : List PcSet) (l : Nat) : Option Pc := (ps.find? fun p => p.lanes.getLsbD l).map (·.pc)

theorem Warp.pcOf_eq (w : Warp) (l : Nat) : w.pcOf l = threadPc w.pcs l := rfl

theorem threadPc_cons (p : PcSet) (ps : List PcSet) (l : Nat) :
    threadPc (p :: ps) l = if p.lanes.getLsbD l = true then some p.pc else threadPc ps l := by
  cases h : p.lanes.getLsbD l <;> simp [threadPc, h]

/-- Threads that stand nowhere are added at an address; the others stay. -/
theorem threadPc_addSet {pc : Pc} {lanes : LaneMask} {b : Option Wait} {ps : List PcSet} {l : Nat}
    (h : lanes.getLsbD l = true → threadPc ps l = none) :
    threadPc (addSet pc lanes b ps) l = if lanes.getLsbD l = true then some pc else threadPc ps l := by
  induction ps with
  | nil => simp only [addSet, threadPc_cons]
  | cons p ps ih =>
    have hp : lanes.getLsbD l = true → p.lanes.getLsbD l = false ∧ threadPc ps l = none := by
      intro hl
      have := h hl
      rw [threadPc_cons] at this
      cases hb : p.lanes.getLsbD l <;> simp_all
    simp only [addSet]
    split
    · simp only [threadPc_cons]
    · split
      next heq => cases hl : lanes.getLsbD l <;> simp [threadPc_cons, BitVec.getLsbD_or, hl, heq]
      · rw [threadPc_cons, ih fun hl => (hp hl).2, threadPc_cons]
        cases hl : lanes.getLsbD l
        · simp
        · simp [(hp hl).1]

theorem threadPc_dropLanes (lanes : LaneMask) (ps : List PcSet) (l : Nat) :
    threadPc (dropLanes lanes ps) l = if lanes.getLsbD l = true then none else threadPc ps l := by
  induction ps with
  | nil => simp [dropLanes, threadPc]
  | cons p ps ih =>
    have hbit : (p.lanes &&& ~~~lanes).getLsbD l = (p.lanes.getLsbD l && !lanes.getLsbD l) := by
      cases hp : p.lanes.getLsbD l
      · simp [hp]
      · simp [hp, BitVec.lt_of_getLsbD hp]
    have hcons : dropLanes lanes (p :: ps) =
        if p.lanes &&& ~~~lanes = 0 then dropLanes lanes ps else { p with lanes := p.lanes &&& ~~~lanes } :: dropLanes lanes ps := by
      simp only [dropLanes, List.map_cons, List.filter_cons, bne_iff_ne, ne_eq, ite_not]
    rw [hcons, threadPc_cons]
    split
    next hz =>
      rw [hz] at hbit
      rw [ih]
      cases hl : lanes.getLsbD l <;> simp_all
    next => rw [threadPc_cons, hbit, ih]; cases lanes.getLsbD l <;> simp

/-- Threads that are sent to an address stand there; the others stay where they are. -/
theorem threadPc_moveLanes (pc : Pc) (lanes : LaneMask) (ps : List PcSet) (l : Nat) :
    threadPc (moveLanes pc lanes ps) l = if lanes.getLsbD l = true then some pc else threadPc ps l := by
  unfold moveLanes
  split
  next h => simp [h]
  · rw [threadPc_addSet fun h => by rw [threadPc_dropLanes, if_pos h], threadPc_dropLanes]
    split <;> rfl

/-! ### The end of an instruction -/

/-- An instruction that ends by its own retirement counts towards its flight, or ends it (R123, R124). -/
theorem flightGoesOn_retireAt {s u : State} {i : Iss} {lnd ends : Bool} {lv : Left} {e : Prop} (hu : u.flights = s.flights)
    (he : e ↔ lnd = true ∨ ends = true) : FlightGoesOn s (u.retireAt i lnd ends lv) i e := by
  unfold State.retireAt
  rw [FlightGoesOn, he]
  cases lnd <;> cases ends <;> simp [State.endFlight, State.setFlight, hu]
  split
  · simp; omega
  · simp; omega

theorem State.warpAt_retire {s : State} {i : Iss} {w : Warp} (len : Nat) (lnd : Bool) (lv : Left)
    (h : s.warpAt i.w.key = some w) :
    (s.retire i len lnd lv).warpAt i.w.key = some { w with pcs := moveLanes (i.nxt len) i.fl.active w.pcs } := by
  simp only [State.retire, State.retireAt_warpAt]
  exact State.warpAt_sendThreads (moveLanes (i.nxt len) i.fl.active) h

theorem State.warpAt_retire_other {s : State} {i : Iss} {k : WarpKey} (len : Nat) (lnd : Bool) (lv : Left) (h : k ≠ i.w.key) :
    (s.retire i len lnd lv).warpAt k = s.warpAt k := by
  simp only [State.retire, State.retireAt_warpAt]
  exact State.warpAt_updWarp_other (fun _ => rfl) h

theorem flightGoesOn_retire {s u : State} {i : Iss} {len : Nat} {lnd : Bool} {lv : Left} (hu : u.flights = s.flights) :
    FlightGoesOn s (u.retire i len lnd lv) i (lnd = true) :=
  flightGoesOn_retireAt hu (by simp)

/-- Threads that are all sent to one address stand there. -/
theorem threadsGo_moveLanes {i : Iss} {w : Warp} {pc : Pc} (h : w.pcs = moveLanes pc i.fl.active i.w.pcs) :
    ThreadsGo i (fun _ => some pc) w := by
  intro l _
  rw [Warp.pcOf_eq, Warp.pcOf_eq, h, threadPc_moveLanes]

end Sys2Proof.Machine

/-! ## Completed instructions (O19, O20) -/
namespace Sys2Proof.Machine
open Sys2Proof

/-! ### What an instruction leaves of its warp beside registers and streams -/

/-- A warp without its v and s registers, their poison and its streams. -/
def Warp.bare (w : Warp) : Warp := { w with v := [], s := [], regPoison := [], q := [] }

theorem foldl_keeps {α β γ : Type} {g : α → γ} {f : α → β → α} (hf : ∀ a b, g (f a b) = g a) (l : List β) (a : α) :
    g (l.foldl f a) = g a := by
  induction l generalizing a with
  | nil => rfl
  | cons b l ih => rw [List.foldl_cons, ih, hf]

theorem Warp.setV_bare (w : Warp) (n l : Nat) (x : Word) : (w.setV n l x).bare = w.bare := rfl
theorem Warp.setS_bare (w : Warp) (n : Nat) (x : Word) : (w.setS n x).bare = w.bare := rfl

theorem writeV_bare (n lane : Nat) (x : BitVec 128) (w : Nat) (wp : Warp) : (writeV n lane x w wp).bare = wp.bare := by
  simp only [writeV, apply_ite Warp.bare, Warp.setV_bare, ite_self]

theorem writeS_bare (n : Nat) (x : BitVec 128) (w : Nat) (wp : Warp) : (writeS n x w wp).bare = wp.bare := by
  simp only [writeS, apply_ite Warp.bare, Warp.setS_bare, ite_self]

theorem writeLanes_bare (dst : BitVec 8) (w : Nat) (vals : List (Nat × BitVec 128)) (wp : Warp) :
    (writeLanes dst w vals wp).bare = wp.bare := by
  unfold writeLanes
  split
  · exact foldl_keeps (g := Warp.bare) (fun _ _ => writeV_bare ..) vals wp
  · exact foldl_keeps (g := Warp.bare) (fun _ _ => writeV_bare ..) vals wp
  · split
    · exact writeS_bare ..
    · rfl
  · rfl

theorem pushGroup_bare (id n : Nat) (vals : List (Nat × BitVec 128)) (wp : Warp) : (pushGroup id n vals wp).bare = wp.bare := by
  unfold pushGroup
  split <;> rfl

theorem Opnd.popAll_bare (o : Opnd) (id : Nat) (w : Warp) : (o.popAll id w).bare = w.bare := by
  unfold Opnd.popAll
  split
  · rfl
  · exact foldl_keeps (g := Warp.bare) (fun w n => by split <;> rfl) _ w

theorem Opnd.writeBack_bare (o : Opnd) (id : Nat) (vals : List (Nat × BitVec 128)) (wp : Warp) :
    (o.writeBack id vals wp).bare = wp.bare := by
  unfold Opnd.writeBack
  split
  · rfl
  · dsimp only
    split <;> split <;> simp only [writeLanes_bare, pushGroup_bare]

/-- The warp that an instruction leaves but for its threads' next addresses. -/
def Opnd.warpAfter (o : Opnd) (id : Nat) (res : Option (List (Nat × DWord))) (upd : Warp → Warp) (wp : Warp) : Warp :=
  if o.i.mask = 0 then wp
  else if res.isSome then
    o.writeBack id ((res.getD []).map fun p => (p.1, cutW o.sh.d.width p.2)) (upd (o.popAll id wp))
  else upd (o.popAll id wp)

/-- Beside registers and streams an instruction makes its own change upd alone, and none under an empty mask (R135). -/
theorem Opnd.warpAfter_bare (o : Opnd) (id : Nat) (res : Option (List (Nat × DWord))) {upd : Warp → Warp} (wp : Warp)
    (hupd : ∀ w v : Warp, w.bare = v.bare → (upd w).bare = (upd v).bare) :
    (o.warpAfter id res upd wp).bare = if o.i.mask = 0 then wp.bare else (upd wp).bare := by
  have hpop := hupd _ _ (o.popAll_bare id wp)
  unfold Opnd.warpAfter
  split
  · rfl
  · split
    · rw [o.writeBack_bare, hpop]
    · exact hpop

theorem of_bare {α : Type} (g : Warp → α) (hg : ∀ w, g w.bare = g w) {w v : Warp} (h : w.bare = v.bare) : g w = g v := by
  rw [← hg w, h, hg]

theorem addFlags_respects_bare (fl : Flags5) (w v : Warp) (h : w.bare = v.bare) : (w.addFlags fl).bare = (v.addFlags fl).bare := by
  rw [show (w.addFlags fl).bare = w.bare.addFlags fl from rfl, h]
  rfl

theorem Opnd.warpAfter_empty {o : Opnd} {id : Nat} {res : Option (List (Nat × DWord))} {upd : Warp → Warp} (wp : Warp)
    (hm : o.i.mask = 0) : o.warpAfter id res upd wp = wp := by rw [Opnd.warpAfter, if_pos hm]

/-! ### What an instruction leaves of the state -/

theorem Opnd.commit_warps (o : Opnd) (s : State) (res : Option (List (Nat × DWord))) (upd : Warp → Warp) :
    (o.commit s res upd).1.warps = (s.updWarp o.i.w.key (o.warpAfter s.nextId res upd)).warps := by
  have hwarp : (fun wp => if o.i.mask = 0 then wp
      else
        let wp := upd (o.popAll s.nextId wp)
        if res.isSome then o.writeBack s.nextId
          (if o.i.mask = 0 then [] else (res.getD []).map fun p => (p.1, cutW o.sh.d.width p.2)) wp else wp) =
      o.warpAfter s.nextId res upd := by
    funext wp
    simp only [Opnd.warpAfter]
    split
    · rfl
    · rfl
  rw [← hwarp]
  rfl

@[simp] theorem Opnd.commit_flights (o : Opnd) (s : State) (res : Option (List (Nat × DWord))) (upd : Warp → Warp) :
    (o.commit s res upd).1.flights = s.flights := rfl
@[simp] theorem Opnd.commit_wgs (o : Opnd) (s : State) (res : Option (List (Nat × DWord))) (upd : Warp → Warp) :
    (o.commit s res upd).1.wgs = s.wgs := rfl
@[simp] theorem Opnd.commit_grids (o : Opnd) (s : State) (res : Option (List (Nat × DWord))) (upd : Warp → Warp) :
    (o.commit s res upd).1.grids = s.grids := rfl
@[simp] theorem Opnd.commit_ctxs (o : Opnd) (s : State) (res : Option (List (Nat × DWord))) (upd : Warp → Warp) :
    (o.commit s res upd).1.ctxs = s.ctxs := rfl
@[simp] theorem Opnd.commit_pending (o : Opnd) (s : State) (res : Option (List (Nat × DWord))) (upd : Warp → Warp) :
    (o.commit s res upd).1.pending = s.pending := rfl
@[simp] theorem Opnd.commit_records (o : Opnd) (s : State) (res : Option (List (Nat × DWord))) (upd : Warp → Warp) :
    (o.commit s res upd).1.records = s.records := rfl

theorem Opnd.warpAfter_key (o : Opnd) (id : Nat) (res : Option (List (Nat × DWord))) {upd : Warp → Warp}
    (hkey : ∀ w, (upd w).key = w.key) (wp : Warp) : (o.warpAfter id res upd wp).key = wp.key := by
  have hpop : (o.popAll id wp).key = wp.key := of_bare Warp.key (fun _ => rfl) (o.popAll_bare id wp)
  unfold Opnd.warpAfter
  split
  · rfl
  · split
    · rw [of_bare Warp.key (fun _ => rfl) (o.writeBack_bare ..), hkey, hpop]
    · rw [hkey, hpop]

theorem Opnd.warpAt_commit {o : Opnd} {s : State} {res : Option (List (Nat × DWord))} {upd : Warp → Warp}
    (hi : s.issuing = some o.i) (hkey : ∀ w, (upd w).key = w.key) :
    (o.commit s res upd).1.warpAt o.i.w.key = some (o.warpAfter s.nextId res upd o.i.w) := by
  rw [State.warpAt_congr (o.commit_warps s res upd)]
  exact State.warpAt_updWarp_issuing hi (o.warpAfter_key _ _ hkey)

theorem Opnd.warpAt_commit_other {o : Opnd} {s : State} {res : Option (List (Nat × DWord))} {upd : Warp → Warp} {k : WarpKey}
    (hkey : ∀ w, (upd w).key = w.key) (hk : k ≠ o.i.w.key) : (o.commit s res upd).1.warpAt k = s.warpAt k := by
  rw [State.warpAt_congr (o.commit_warps s res upd)]
  exact State.warpAt_updWarp_other (o.warpAfter_key _ _ hkey) hk

/-- A field that is neither register nor stream nor FLAGS is as before a result with flags. -/
theorem Opnd.warpAfter_addFlags {α : Type} (g : Warp → α) (hg : ∀ w, g w.bare = g w) {fl : Flags5}
    (hfl : ∀ w, g (w.addFlags fl) = g w) (o : Opnd) (id : Nat) (res : Option (List (Nat × DWord))) (wp : Warp) :
    g (o.warpAfter id res (fun w => w.addFlags fl) wp) = g wp := by
  have h := o.warpAfter_bare id res wp (addFlags_respects_bare fl)
  split at h
  · exact of_bare g hg h
  · rw [of_bare g hg h, hfl]

theorem Opnd.warpAfter_flags (o : Opnd) (id : Nat) (res : Option (List (Nat × DWord))) (fl : Flags5) (wp : Warp) :
    (o.warpAfter id res (fun w => w.addFlags fl) wp).flags =
      if o.i.mask = 0 then wp.flags else wp.flags ||| fl.setWidth 32 := by
  split
  next hm => rw [o.warpAfter_empty wp hm]
  next hm =>
    have h := o.warpAfter_bare id res wp (addFlags_respects_bare fl)
    rw [if_neg hm] at h
    exact of_bare Warp.flags (fun _ => rfl) h

/-- Settles O20: the commit changes its warp alone, and the retirement sends the active threads on. -/
theorem completedInstructionAdvances : Obligations.completed_instruction_advances := by
  intro s o len res fl hi t
  have hw := o.warpAt_commit (res := res.map fun v => o.lanes.map fun l => (l, v l)) (upd := fun w => w.addFlags fl) hi
    fun _ => rfl
  refine ⟨flightGoesOn_retire (o.commit_flights ..), ⟨_, State.warpAt_retire _ _ _ hw, threadsGo_moveLanes ?_, ?_⟩,
    fun k hk => ?_, ?_, ?_, ?_, ?_, ?_, fun a => ?_⟩
  · exact congrArg (moveLanes (o.i.nxt len) o.i.fl.active)
      (Opnd.warpAfter_addFlags Warp.pcs (fun _ => rfl) (fun _ => rfl) o _ _ _)
  · exact o.warpAfter_flags ..
  · exact (State.warpAt_retire_other _ _ _ hk).trans (o.warpAt_commit_other (fun _ => rfl) hk)
  all_goals simp [t, Opnd.after]

end Sys2Proof.Machine

/-! ### Registers after a write -/
namespace Sys2Proof.Machine
open Sys2Proof

theorem Warp.vReg_setV {w : Warp} {n m l j : Nat} {x : Word} (hl : l < 64) (hj : j < 64) :
    (w.setV n l x).vReg m j = if j = l ∧ m = n then x else w.vReg m j := by
  have hkey : 64 * m + j = 64 * n + l ↔ j = l ∧ m = n := by omega
  simp only [Warp.vReg, Warp.setV, SMap.get_set, hkey]

theorem Warp.sReg_setS (w : Warp) (n m : Nat) (x : Word) : (w.setS n x).sReg m = if m = n then x else w.sReg m := by
  simp only [Warp.sReg, Warp.setS, SMap.get_set]

/-- The word of a result of w bits that register m takes where the result goes to register n, if it takes one (R42). -/
def destWord (w n : Nat) (x : BitVec 128) (m : Nat) : Option Word :=
  if m = n then some (x.setWidth 32) else if w = 64 ∧ m = n + 1 then some (x.extractLsb' 32 32) else none

theorem destWord_none {w n m : Nat} {x : BitVec 128} (h : m ≠ n ∧ (w = 64 → m ≠ n + 1)) : destWord w n x m = none := by
  rw [destWord, if_neg h.1, if_neg fun hw => h.2 hw.1 hw.2]

theorem destWord_32_getD (n m : Nat) (x : BitVec 128) (y : Word) :
    (destWord 32 n x m).getD y = if m = n then x.setWidth 32 else y := by
  by_cases hm : m = n <;> simp [destWord, hm]

/-- A 64-bit value is written low word, then high word (R42). -/
theorem destWord_64_getD (n m : Nat) (x : BitVec 128) (y : Word) :
    (destWord 64 n x m).getD y = if m = n + 1 then x.extractLsb' 32 32 else if m = n then x.setWidth 32 else y := by
  by_cases hm : m = n
  · simp [destWord, hm]
  · by_cases hm1 : m = n + 1 <;> simp [destWord, hm, hm1]

theorem vReg_writeV {n lane w m j : Nat} {x : BitVec 128} {wp : Warp} (hw : w = 32 ∨ w = 64) (hl : lane < 64) (hj : j < 64) :
    (writeV n lane x w wp).vReg m j = if j = lane then (destWord w n x m).getD (wp.vReg m j) else wp.vReg m j := by
  rcases hw with rfl | rfl
  · rw [show writeV n lane x 32 wp = wp.setV n lane (x.setWidth 32) from rfl, Warp.vReg_setV hl hj,
      destWord_32_getD]
    by_cases hjl : j = lane <;> simp [hjl]
  · rw [show writeV n lane x 64 wp = (wp.setV n lane (x.setWidth 32)).setV (n + 1) lane (x.extractLsb' 32 32) from rfl,
      Warp.vReg_setV hl hj, Warp.vReg_setV hl hj, destWord_64_getD]
    by_cases hjl : j = lane <;> simp [hjl]

theorem sReg_writeS {n w m : Nat} {x : BitVec 128} {wp : Warp} (hw : w = 32 ∨ w = 64) :
    (writeS n x w wp).sReg m = (destWord w n x m).getD (wp.sReg m) := by
  rcases hw with rfl | rfl
  · rw [show writeS n x 32 wp = wp.setS n (x.setWidth 32) from rfl, Warp.sReg_setS, destWord_32_getD]
  · rw [show writeS n x 64 wp = (wp.setS n (x.setWidth 32)).setS (n + 1) (x.extractLsb' 32 32) from rfl,
      Warp.sReg_setS, Warp.sReg_setS, destWord_64_getD]

theorem writeV_s (n lane : Nat) (x : BitVec 128) (w : Nat) (wp : Warp) : (writeV n lane x w wp).s = wp.s := by
  simp only [writeV, apply_ite Warp.s, Warp.setV, ite_self]

theorem writeS_v (n : Nat) (x : BitVec 128) (w : Nat) (wp : Warp) : (writeS n x w wp).v = wp.v := by
  simp only [writeS, apply_ite Warp.v, Warp.setS, ite_self]

/-- The v register from which a destination takes its result, by its code and the index registers (R41, R153). -/
def Warp.vDest (w : Warp) (c : BitVec 8) : Option Nat :=
  match clsOf c with
  | .v n => some n
  | .x n => some (w.xReg n).val
  | _ => none

theorem Opnd.vNum_eq (o : Opnd) (c : BitVec 8) : o.vNum c = o.i.w.vDest c := rfl

theorem writeLanes_vDest {wp : Warp} {dst : BitVec 8} {n : Nat} (h : wp.vDest dst = some n) (w : Nat)
    (vals : List (Nat × BitVec 128)) :
    writeLanes dst w vals wp = vals.foldl (fun a p => writeV n p.1 p.2 w a) wp := by
  unfold Warp.vDest at h
  unfold writeLanes
  split at h <;> cases h <;> simp only [*]

/-- The lanes that are written have their values in the destination; every other entry is as it was. -/
theorem vReg_writeLanes {wp : Warp} {dst : BitVec 8} {n w m j : Nat} {ls : List Nat} {g : Nat → BitVec 128}
    (hd : wp.vDest dst = some n) (hw : w = 32 ∨ w = 64) (hls : ∀ l ∈ ls, l < 64) (hj : j < 64) :
    (writeLanes dst w (ls.map fun l => (l, g l)) wp).vReg m j =
      if j ∈ ls then (destWord w n (g j) m).getD (wp.vReg m j) else wp.vReg m j := by
  rw [writeLanes_vDest hd]
  clear hd
  induction ls generalizing wp with
  | nil => simp
  | cons l ls ih =>
    rw [List.map_cons, List.foldl_cons, ih fun k hk => hls k (by simp [hk]), vReg_writeV hw (hls l (by simp)) hj]
    by_cases hjl : j = l
    · subst hjl
      cases destWord w n (g j) m <;> simp
    · simp [hjl]

theorem writeLanes_v_of_not_vDest {wp : Warp} {dst : BitVec 8} (hd : wp.vDest dst = none) (w : Nat)
    (vals : List (Nat × BitVec 128)) : (writeLanes dst w vals wp).v = wp.v := by
  unfold Warp.vDest at hd
  unfold writeLanes
  split at hd <;> cases hd
  split
  · simp_all
  · simp_all
  · split
    · exact writeS_v ..
    · rfl
  · rfl

theorem sReg_writeLanes_other {wp : Warp} {dst : BitVec 8} {w m : Nat} {vals : List (Nat × BitVec 128)} (hw : w = 32 ∨ w = 64)
    (h : ∀ n, clsOf dst = .s n → m ≠ n ∧ (w = 64 → m ≠ n + 1)) : (writeLanes dst w vals wp).sReg m = wp.sReg m := by
  unfold writeLanes
  split
  · exact congrArg (SMap.get 0 · m) (foldl_keeps (g := Warp.s) (fun _ _ => writeV_s ..) vals wp)
  · exact congrArg (SMap.get 0 · m) (foldl_keeps (g := Warp.s) (fun _ _ => writeV_s ..) vals wp)
  next n hc =>
    split
    · rw [sReg_writeS hw, destWord_none (h n hc), Option.getD_none]
    · rfl
  · rfl

theorem sReg_writeLanes {wp : Warp} {dst : BitVec 8} {n w m l : Nat} {x : BitVec 128} (hd : clsOf dst = .s n)
    (hw : w = 32 ∨ w = 64) : (writeLanes dst w [(l, x)] wp).sReg m = (destWord w n x m).getD (wp.sReg m) := by
  simp only [writeLanes, hd, sReg_writeS hw]

/-! ### Results in their destinations -/

theorem mem_lanesOf {m : LaneMask} {l : Nat} : l ∈ lanesOf m ↔ l < 64 ∧ m.getLsbD l = true := by
  simp [lanesOf]

/-- The registers that results go to, and those that name them. -/
def Warp.regs (w : Warp) : SMap Word × SMap Word × SMap XReg := (w.v, w.s, w.x)

theorem Warp.regs_eq {w u : Warp} (h : w.regs = u.regs) : w.v = u.v ∧ w.s = u.s ∧ w.x = u.x := by
  simpa [Warp.regs] using h

theorem Warp.vReg_of_v {w u : Warp} (h : w.v = u.v) (m j : Nat) : w.vReg m j = u.vReg m j := by
  rw [Warp.vReg, h, Warp.vReg]

theorem Warp.sReg_of_s {w u : Warp} (h : w.s = u.s) (m : Nat) : w.sReg m = u.sReg m := by
  rw [Warp.sReg, h, Warp.sReg]

theorem Warp.vDest_of_x {w u : Warp} (h : w.x = u.x) (c : BitVec 8) : w.vDest c = u.vDest c := by
  simp only [Warp.vDest, Warp.xReg, h]

theorem Opnd.popAll_regs (o : Opnd) (id : Nat) (w : Warp) : (o.popAll id w).regs = w.regs := by
  unfold Opnd.popAll
  split
  · rfl
  · exact foldl_keeps (g := Warp.regs) (fun w n => by split <;> rfl) _ w

/-- The push of a result, where the destination is a queue (R157). -/
def Opnd.pushResult (o : Opnd) (id : Nat) (vals : List (Nat × BitVec 128)) (wp : Warp) : Warp :=
  match o.pushes with
  | some n => pushGroup id n vals wp
  | none => wp

/-- The zeros that ZM writes (R134). -/
def Opnd.zeroRest (o : Opnd) (wp : Warp) : Warp :=
  if o.i.zm && !o.scalar then
    writeLanes o.f.d o.sh.d.width ((lanesOf (o.i.fl.active &&& ~~~o.i.mask)).map fun l => (l, 0)) wp
  else wp

theorem Opnd.writeBack_eq {o : Opnd} (h : o.f.nw = false) (id : Nat) (vals : List (Nat × BitVec 128)) (wp : Warp) :
    o.writeBack id vals wp = o.zeroRest (o.pushResult id vals (writeLanes o.f.d o.sh.d.width vals wp)) := by
  rw [Opnd.writeBack, h]
  rfl

theorem Opnd.writeBack_nw {o : Opnd} (h : o.f.nw = true) (id : Nat) (vals : List (Nat × BitVec 128)) (wp : Warp) :
    o.writeBack id vals wp = wp := by
  rw [Opnd.writeBack, h]
  rfl

theorem Opnd.pushResult_regs (o : Opnd) (id : Nat) (vals : List (Nat × BitVec 128)) (wp : Warp) :
    (o.pushResult id vals wp).regs = wp.regs := by
  unfold Opnd.pushResult pushGroup
  split
  · split <;> rfl
  · rfl

theorem writeLanes_x (dst : BitVec 8) (w : Nat) (vals : List (Nat × BitVec 128)) (wp : Warp) :
    (writeLanes dst w vals wp).x = wp.x :=
  of_bare Warp.x (fun _ => rfl) (writeLanes_bare ..)

/-- What stands in a v register after a result: the values in the mask's lanes, and by ZM zeros in the other active lanes. -/
theorem Opnd.vReg_writeBack {o : Opnd} {id n m j : Nat} {g : Nat → BitVec 128} {wp : Warp} (hd : wp.vDest o.f.d = some n)
    (hw : o.sh.d.width = 32 ∨ o.sh.d.width = 64) (hnw : o.f.nw = false) (hs : o.scalar = false) (hj : j < 64) :
    (o.writeBack id (o.lanes.map fun l => (l, g l)) wp).vReg m j =
      if o.i.mask.getLsbD j = true then (destWord o.sh.d.width n (g j) m).getD (wp.vReg m j)
      else if o.i.zm = true ∧ o.i.fl.active.getLsbD j = true then (destWord o.sh.d.width n 0 m).getD (wp.vReg m j)
      else wp.vReg m j := by
  have hl : o.lanes = lanesOf o.i.mask := by rw [Opnd.lanes, hs]; rfl
  have hlt : ∀ b : LaneMask, ∀ l ∈ lanesOf b, l < 64 := fun _ _ h => (mem_lanesOf.1 h).1
  obtain ⟨hpv, -, hpx⟩ := Warp.regs_eq (o.pushResult_regs id (o.lanes.map fun l => (l, g l))
    (writeLanes o.f.d o.sh.d.width (o.lanes.map fun l => (l, g l)) wp))
  rw [writeLanes_x] at hpx
  rw [o.writeBack_eq hnw, Opnd.zeroRest, hs, Bool.not_false, Bool.and_true]
  have hwrite := vReg_writeLanes (m := m) (g := g) hd hw (hlt o.i.mask) hj
  rw [← hl, ← Warp.vReg_of_v hpv] at hwrite
  cases hz : o.i.zm
  · rw [if_neg (by simp), hwrite, hl]
    simp [mem_lanesOf, hj]
  · rw [if_pos rfl, vReg_writeLanes ((Warp.vDest_of_x hpx _).trans hd) hw (hlt _) hj, hwrite, hl]
    cases hm : o.i.mask.getLsbD j <;>
      simp only [mem_lanesOf, BitVec.getLsbD_and, BitVec.getLsbD_not, hj, hm, decide_true, true_and, Bool.not_true, Bool.not_false,
        Bool.and_true, Bool.and_false, Bool.false_eq_true, if_true, if_false]

/-- A result leaves the v registers alone where its destination is none. -/
theorem Opnd.writeBack_v {o : Opnd} {id : Nat} {vals : List (Nat × BitVec 128)} {wp : Warp} (hd : wp.vDest o.f.d = none) :
    (o.writeBack id vals wp).v = wp.v := by
  cases hnw : o.f.nw with
  | true => rw [o.writeBack_nw hnw]
  | false =>
    obtain ⟨hpv, -, hpx⟩ := Warp.regs_eq (o.pushResult_regs id vals (writeLanes o.f.d o.sh.d.width vals wp))
    have hwrite : (o.pushResult id vals (writeLanes o.f.d o.sh.d.width vals wp)).v = wp.v := by
      rw [hpv, writeLanes_v_of_not_vDest hd]
    rw [o.writeBack_eq hnw, Opnd.zeroRest]
    split
    · rw [writeLanes_v_of_not_vDest (by rw [Warp.vDest_of_x hpx, Warp.vDest_of_x (writeLanes_x ..), hd]), hwrite]
    · exact hwrite

/-- A result leaves alone the s registers that are not its destination. -/
theorem Opnd.sReg_writeBack_other {o : Opnd} {id m : Nat} {vals : List (Nat × BitVec 128)} {wp : Warp}
    (hw : o.sh.d.width = 32 ∨ o.sh.d.width = 64)
    (h : ∀ n, clsOf o.f.d = .s n → m ≠ n ∧ (o.sh.d.width = 64 → m ≠ n + 1)) :
    (o.writeBack id vals wp).sReg m = wp.sReg m := by
  cases hnw : o.f.nw with
  | true => rw [o.writeBack_nw hnw]
  | false =>
    obtain ⟨-, hps, -⟩ := Warp.regs_eq (o.pushResult_regs id vals (writeLanes o.f.d o.sh.d.width vals wp))
    have hwrite := (Warp.sReg_of_s hps m).trans (sReg_writeLanes_other hw h)
    rw [o.writeBack_eq hnw, Opnd.zeroRest]
    split
    · rw [sReg_writeLanes_other hw h, hwrite]
    · exact hwrite

/-- The one value of a scalar execution in its s register. -/
theorem Opnd.sReg_writeBack {o : Opnd} {id n m : Nat} {g : Nat → BitVec 128} {wp : Warp} (hd : clsOf o.f.d = .s n)
    (hw : o.sh.d.width = 32 ∨ o.sh.d.width = 64) (hnw : o.f.nw = false) (hs : o.scalar = true) :
    (o.writeBack id (o.lanes.map fun l => (l, g l)) wp).sReg m =
      (destWord o.sh.d.width n (g warpLane) m).getD (wp.sReg m) := by
  have hl : o.lanes = [warpLane] := by rw [Opnd.lanes, if_pos hs]
  obtain ⟨-, hps, -⟩ := Warp.regs_eq (o.pushResult_regs id [(warpLane, g warpLane)]
    (writeLanes o.f.d o.sh.d.width [(warpLane, g warpLane)] wp))
  rw [o.writeBack_eq hnw, Opnd.zeroRest, hs, Bool.not_true, Bool.and_false, if_neg (by simp), hl, List.map_singleton,
    Warp.sReg_of_s hps, sReg_writeLanes hd hw]

theorem destWord_cutW_low {w n : Nat} (hw : w = 32 ∨ w = 64) (x : DWord) : destWord w n (cutW w x) n = some (x.setWidth 32) := by
  rcases hw with rfl | rfl <;> simp [destWord, cutW]

theorem destWord_cutW_high {w n : Nat} (hw : w = 64) (x : DWord) :
    destWord w n (cutW w x) (n + 1) = some (x.extractLsb' 32 32) := by
  subst hw
  simp only [destWord, cutW]
  simp
  apply BitVec.eq_of_getLsbD_eq
  intro j hj
  simp [hj]; omega

/-! ### What a result leaves of its warp's registers -/

section
variable {o : Opnd} {id : Nat} {v : Nat → DWord} {upd : Warp → Warp}

theorem Opnd.warpAfter_result (hm : o.i.mask ≠ 0) (wp : Warp) :
    o.warpAfter id (some (o.lanes.map fun l => (l, v l))) upd wp =
      o.writeBack id (o.lanes.map fun l => (l, cutW o.sh.d.width (v l))) (upd (o.popAll id wp)) := by
  rw [Opnd.warpAfter, if_neg hm, Option.isSome_some, if_pos rfl, Option.getD_some, List.map_map]
  rfl

variable (hw : o.sh.d.width = 32 ∨ o.sh.d.width = 64) (hupd : ∀ w, (upd w).regs = w.regs)
include hw hupd

theorem Opnd.warpAfter_landed : o.Landed v (o.warpAfter id (some (o.lanes.map fun l => (l, v l))) upd o.i.w) := by
  obtain ⟨-, -, hx⟩ := Warp.regs_eq ((hupd _).trans (o.popAll_regs id o.i.w))
  intro hm hnw
  rw [o.warpAfter_result hm]
  refine ⟨fun n hd hs l hl hbit => ?_, fun n hd hs => ?_⟩
  · have hd := (Warp.vDest_of_x hx o.f.d).trans hd
    simp only [Opnd.vReg_writeBack hd hw hnw hs hl, hbit, if_true]
    exact ⟨by rw [destWord_cutW_low hw]; rfl, fun h64 => by rw [destWord_cutW_high h64]; rfl⟩
  · simp only [Opnd.sReg_writeBack hd hw hnw hs]
    exact ⟨by rw [destWord_cutW_low hw]; rfl, fun h64 => by rw [destWord_cutW_high h64]; rfl⟩

theorem Opnd.warpAfter_zeroed : o.Zeroed (o.warpAfter id (some (o.lanes.map fun l => (l, v l))) upd o.i.w) := by
  obtain ⟨-, -, hx⟩ := Warp.regs_eq ((hupd _).trans (o.popAll_regs id o.i.w))
  intro hm hnw hz hs n hd l hl hact hbit
  rw [o.warpAfter_result hm]
  have hd := (Warp.vDest_of_x hx o.f.d).trans hd
  simp only [Opnd.vReg_writeBack hd hw hnw hs hl, hbit, hz, hact]
  exact ⟨by simp [destWord], fun h64 => by simp [destWord, h64]⟩

theorem Opnd.warpAfter_spared (hsc : o.scalar = true → o.vNum o.f.d = none) :
    o.Spared (o.warpAfter id (some (o.lanes.map fun l => (l, v l))) upd o.i.w) := by
  obtain ⟨hv, hs, hx⟩ := Warp.regs_eq ((hupd _).trans (o.popAll_regs id o.i.w))
  have hns : ∀ n, o.vNum o.f.d = some n → o.scalar = false := fun n hn => by
    by_contra h
    simp [hsc (by simpa using h)] at hn
  by_cases hm : o.i.mask = 0
  · rw [o.warpAfter_empty _ hm]
    exact ⟨fun _ _ _ _ => rfl, fun _ _ _ _ _ _ => ⟨rfl, rfl⟩, fun _ _ => rfl, fun _ => ⟨rfl, rfl⟩⟩
  rw [o.warpAfter_result hm]
  by_cases hnw : o.f.nw = true
  · rw [o.writeBack_nw hnw]
    exact ⟨fun m l _ _ => Warp.vReg_of_v hv m l, fun n _ l _ _ _ => ⟨Warp.vReg_of_v hv n l, Warp.vReg_of_v hv (n + 1) l⟩,
      fun m _ => Warp.sReg_of_s hs m, fun _ => ⟨hv, hs⟩⟩
  have hnw : o.f.nw = false := by simpa using hnw
  refine ⟨fun m l hl hd => ?_, fun n hn l hl hbit hz => ?_, fun m hd => ?_, fun h => h.elim (absurd · hm) fun h => by simp [hnw] at h⟩
  · rw [← Warp.vReg_of_v hv m l]
    cases hn : o.vNum o.f.d with
    | none => exact Warp.vReg_of_v (Opnd.writeBack_v ((Warp.vDest_of_x hx o.f.d).trans hn)) m l
    | some n =>
      rw [Opnd.vReg_writeBack ((Warp.vDest_of_x hx o.f.d).trans hn) hw hnw (hns n hn) hl, destWord_none (hd n hn), destWord_none (hd n hn)]
      simp
  · have hs : o.scalar = false := by
      cases h : o.scalar with
      | false => rfl
      | true => rw [hsc h] at hn; cases hn
    have hd := (Warp.vDest_of_x hx o.f.d).trans hn
    have hz : ¬ (o.i.zm = true ∧ o.i.fl.active.getLsbD l = true) := by rcases hz with h | h <;> simp [h]
    simp only [Opnd.vReg_writeBack hd hw hnw (hns n hn) hl, hbit, hz, if_false, Warp.vReg_of_v hv, Bool.false_eq_true, and_self]
  · rw [← Warp.sReg_of_s hs m]
    exact Opnd.sReg_writeBack_other hw hd

end

theorem Warp.addFlags_regs (fl : Flags5) (w : Warp) : (w.addFlags fl).regs = w.regs := rfl

/-- Settles O19: the result is written to its lanes, then ZM's zeros to the others, and FLAGS alone changes beside. -/
theorem resultsLandInRegisters : Obligations.results_land_in_registers := by
  intro s o len v fl hi hw hsc
  have hat := o.warpAt_commit (res := some (o.lanes.map fun l => (l, v l))) (upd := fun w => w.addFlags fl) hi fun _ => rfl
  have hland := Opnd.warpAfter_landed (o := o) (id := s.nextId) (v := v) hw (Warp.addFlags_regs fl)
  have hzero := Opnd.warpAfter_zeroed (o := o) (id := s.nextId) (v := v) hw (Warp.addFlags_regs fl)
  have hspare := Opnd.warpAfter_spared (o := o) (id := s.nextId) (v := v) hw (Warp.addFlags_regs fl) hsc
  have hkeep {α : Type} (g : Warp → α) (hg : ∀ w, g w.bare = g w) (hfl : ∀ w, g (w.addFlags fl) = g w) :=
    Opnd.warpAfter_addFlags g hg hfl o s.nextId (some (o.lanes.map fun l => (l, v l))) o.i.w
  have hm := hkeep Warp.m (fun _ => rfl) fun _ => rfl
  have hx := hkeep Warp.x (fun _ => rfl) fun _ => rfl
  have hmode := hkeep Warp.mode (fun _ => rfl) fun _ => rfl
  have hsr := hkeep Warp.srseq (fun _ => rfl) fun _ => rfl
  generalize o.warpAfter s.nextId (some (o.lanes.map fun l => (l, v l))) (fun w => w.addFlags fl) o.i.w = w at *
  exact ⟨_, State.warpAt_retire len o.f.lnd _ hat, hland, hzero, hspare, hm, hx, hmode, hsr⟩

end Sys2Proof.Machine

/-! ## Control flow (O21) -/
namespace Sys2Proof.Machine
open Sys2Proof

/-! ### NOP and branches -/

theorem exec_nop {s : State} {i : Iss} (hi : s.issuing = some i) (lnd : Bool) :
    exec (.nop lnd) s = .next (s.retire i 4 lnd Left.none) := issue_of_issuing hi _

theorem threadsGo_retire {s : State} {i : Iss} (hi : s.issuing = some i) (len : Nat) (lnd : Bool) (lv : Left) :
    ∃ w, (s.retire i len lnd lv).warpAt i.w.key = some w ∧ ThreadsGo i (fun _ => some (i.nxt len)) w :=
  ⟨_, State.warpAt_retire len lnd lv (State.issuing_warpAt hi), threadsGo_moveLanes rfl⟩

/-- A branch sends the threads that take it to its target and the rest of the active set on (R137). -/
theorem branchGoes_branchTo {s : State} {i : Iss} {t : LaneMask} (hi : s.issuing = some i) (len : Nat) (lnd : Bool) (tgt : Pc)
    (ht : ∀ l, t.getLsbD l = true → i.fl.active.getLsbD l = true) :
    BranchGoes s i len lnd t tgt (branchTo s i len lnd t tgt) := by
  have hat := State.warpAt_sendThreads (fun ps => moveLanes tgt t (moveLanes (i.nxt len) (i.fl.active &&& ~~~t) ps))
    (State.issuing_warpAt hi)
  refine ⟨_, _, rfl, (State.retireAt_warpAt ..).trans hat, fun l hl => ?_, flightGoesOn_retireAt rfl (by simp [and_assoc])⟩
  rw [Warp.pcOf_eq, Warp.pcOf_eq, threadPc_moveLanes, threadPc_moveLanes, BitVec.getLsbD_and, BitVec.getLsbD_not]
  have := ht l
  cases hb : t.getLsbD l <;> simp_all

theorem branchTakers_active (i : Iss) (neg : Bool) (m : BitVec 3) (l : Nat) (h : (branchTakers i neg m).getLsbD l = true) :
    i.fl.active.getLsbD l = true := by
  rw [branchTakers, BitVec.getLsbD_and, Bool.and_eq_true] at h
  exact h.1

theorem targetOk_iff {t : Int} : targetOk t = true ↔ 0 ≤ t ∧ t < 2 ^ 57 := by
  simp [targetOk]

theorem shortBranch_branchShort {s : State} {i : Iss} (hi : s.issuing = some i) (lnd : Bool) (m : BitVec 3) (neg : Bool)
    (imm : BitVec 8) : ShortBranch s i lnd (branchTakers i neg m) imm (branchShort s lnd m neg imm) := by
  have hrun : branchShort s lnd m neg imm =
      if branchTakers i neg m ≠ 0 ∧ ¬ targetOk (shortTarget i imm) = true then raise s i 0x043
      else branchTo s i 4 lnd (branchTakers i neg m) (BitVec.ofInt 57 (shortTarget i imm)) := by
    rw [branchShort, issue_of_issuing hi]
    simp [branchTakers]
  constructor
  · intro ht hout
    rw [hrun, if_pos ⟨ht, by rw [targetOk_iff, shortTarget]; omega⟩]
  · intro hin
    rw [hrun, if_neg fun h => by rw [targetOk_iff, shortTarget] at h; rcases hin with h0 | h0; exacts [h.1 h0, h.2 h0]]
    exact branchGoes_branchTo hi 4 lnd _ (branchTakers_active i neg m)

theorem branchGoes_branchLong {s : State} {i : Iss} (hi : s.issuing = some i) (lnd : Bool) (m : BitVec 3) (neg : Bool)
    (target : BitVec 55) :
    BranchGoes s i 12 lnd (branchTakers i neg m) (target ++ (0 : BitVec 2)) (branchLong s lnd m neg target) := by
  rw [branchLong, issue_of_issuing hi]
  exact branchGoes_branchTo hi 12 lnd _ (branchTakers_active i neg m)

/-! ### CALL -/

theorem Opnd.warpAfter_id_bare (o : Opnd) (n : Nat) (res : Option (List (Nat × DWord))) (wp : Warp) :
    (o.warpAfter n res id wp).bare = wp.bare :=
  (o.warpAfter_bare n res wp fun _ _ h => h).trans (ite_self _)

/-- A call leaves its link in its destination and sends the active threads to its target (R138). -/
theorem callGoes_callTo {s : State} {o : Opnd} {f : IForm} {len : Nat} (tgt : Iss → Int)
    (h : Ready s (baseShape 0x23 f.toX) f.toX noExtra o) (hlen : len = if f.lit.isSome then 12 else 4) :
    CallGoes s o len f.lnd (tgt o.i) (callTo s f tgt) := by
  have hw : o.sh.d.width = 32 ∨ o.sh.d.width = 64 := by rw [h.shape]; exact .inr rfl
  have hat := o.warpAt_commit (res := some (o.lanes.map fun l => (l, (o.i.nxt len).setWidth 64))) (upd := id) h.issues fun _ => rfl
  have hland := Opnd.warpAfter_landed (o := o) (id := s.nextId) (v := fun _ => (o.i.nxt len).setWidth 64) (upd := id) hw fun _ => rfl
  have hpcs := of_bare Warp.pcs (fun _ => rfl) (o.warpAfter_id_bare s.nextId
    (some (o.lanes.map fun l => (l, (o.i.nxt len).setWidth 64))) o.i.w)
  rw [callTo, operate_ready h, ← hlen]
  constructor
  · intro hout
    have hbad : targetOk (tgt o.i) = false := by
      by_contra h
      rw [Bool.not_eq_false, targetOk_iff] at h
      omega
    simp only [hbad, Bool.not_false, if_true]
  · intro h0 h1
    simp only [targetOk_iff.2 ⟨h0, h1⟩, Bool.not_true, Bool.false_eq_true, if_false]
    generalize o.warpAfter s.nextId (some (o.lanes.map fun l => (l, (o.i.nxt len).setWidth 64))) id o.i.w = w at *
    refine ⟨_, _, rfl, (State.retireAt_warpAt ..).trans
      (State.warpAt_sendThreads (moveLanes (BitVec.ofInt 57 (tgt o.i)) o.i.fl.active) hat),
      threadsGo_moveLanes ?_, flightGoesOn_retireAt rfl (by simp), hland⟩
    rw [hpcs]

theorem longTarget_toNat (t : BitVec 55) : (longTarget t).toNat = 4 * t.toNat := by
  rw [longTarget, BitVec.toNat_append]
  simp [Nat.shiftLeft_eq, Nat.mul_comm]

/-! ### RET -/

theorem getLsbD_laneBit {l j : Nat} (hj : j < 64) : (laneBit l).getLsbD j = decide (j = l) := by
  rw [laneBit, BitVec.getLsbD_ofNat, Nat.testBit_two_pow]
  simp [hj, eq_comm]

/-- Sends each of some threads to its own link (R139). -/
def sendEach (ls : List Nat) (link : Nat → DWord) (ps : List PcSet) : List PcSet :=
  (ls.map fun l => (l, link l)).foldl (fun ps t => moveLanes (t.2.setWidth 57) (laneBit t.1) ps) ps

theorem threadPc_sendEach {ls : List Nat} {link : Nat → DWord} {ps : List PcSet} {l : Nat} (hl : l < 64) :
    threadPc (sendEach ls link ps) l = if l ∈ ls then some ((link l).setWidth 57) else threadPc ps l := by
  induction ls generalizing ps with
  | nil => simp [sendEach]
  | cons k ls ih =>
    rw [show sendEach (k :: ls) link ps = sendEach ls link (moveLanes ((link k).setWidth 57) (laneBit k) ps) from rfl, ih,
      threadPc_moveLanes, getLsbD_laneBit hl]
    by_cases hk : l = k <;> simp [hk]

theorem any_link_iff {m : LaneMask} {g : Nat → DWord} {p : DWord → Bool} {q : Nat → Bool} (h : ∀ x, p x = q x.toNat) :
    (((lanesOf m).map fun l => (l, g l)).any fun t => p t.2) = true ↔
      ∃ l < 64, m.getLsbD l = true ∧ q (g l).toNat = true := by
  simp [List.any_map, mem_lanesOf, h, and_assoc]

theorem link_misaligned (x : DWord) : (x.extractLsb' 0 2 != 0) = (x.toNat % 4 != 0) := by
  rw [Bool.eq_iff_iff]
  simp [BitVec.toNat_eq]

theorem link_beyond (x : DWord) : (x.extractLsb' 57 7 != 0) = decide (2 ^ 57 ≤ x.toNat) := by
  rw [Bool.eq_iff_iff]
  simp [BitVec.toNat_eq, Nat.shiftRight_eq_div_pow]
  omega

/-- What RET answers where it is ready: the two causes, or each thread at its link (R139). -/
theorem exec_ret_ready {s : State} {o : Opnd} {lnd : Bool} {a : BitVec 7}
    (h : Ready s (baseShape 0x24 (⟨lnd, 0, a, 0, false, false⟩ : RForm).toX) (⟨lnd, 0, a, 0, false, false⟩ : RForm).toX noExtra o) :
    exec (.ret lnd a) s =
      let link := o.rd64 (extCode a)
      let ts := (lanesOf o.i.fl.active).map fun l => (l, link l)
      if ts.any fun t => t.2.extractLsb' 0 2 != 0 then raise s o.i 0x040
      else if ts.any fun t => t.2.extractLsb' 57 7 != 0 then raise s o.i 0x041
      else .next ((s.updWarp o.i.w.key fun w =>
        { w with pcs := sendEach (lanesOf o.i.fl.active) link w.pcs }).retireAt o.i lnd
          (1 < (ts.map (·.2)).eraseDups.length) Left.none) := by
  rw [show exec (.ret lnd a) s = execRet lnd a s from rfl, execRet, operate_ready h]
  rfl

/-- Settles O21: what is sent where, by the rules of moved threads. -/
theorem controlTransfers : Obligations.control_transfers := by
  refine ⟨fun s i lnd hi => ?_,
    fun s i lnd m imm hi => ⟨shortBranch_branchShort hi lnd m false imm, shortBranch_branchShort hi lnd m true imm⟩,
    fun s i lnd m target hi => ⟨branchGoes_branchLong hi lnd m false target, branchGoes_branchLong hi lnd m true target⟩,
    fun s o lnd d imm h => callGoes_callTo (fun i => shortTarget i imm) h rfl, fun s o lnd d target h => ?_, ?_⟩
  · obtain ⟨w, hw, hgo⟩ := threadsGo_retire hi 4 lnd Left.none
    exact ⟨_, w, exec_nop hi lnd, hw, hgo, flightGoesOn_retire rfl⟩
  · rw [← longTarget_toNat]
    exact callGoes_callTo (fun _ => ((longTarget target).toNat : Int)) h rfl
  · intro s o lnd a x bad h
    have hmis : bad (fun n => n % 4 != 0) ↔ _ :=
      (any_link_iff (m := o.i.fl.active) (g := o.rd64 x.a) (q := fun n => n % 4 != 0) link_misaligned).symm
    have hfar : bad (fun n => 2 ^ 57 ≤ n) ↔ _ :=
      (any_link_iff (m := o.i.fl.active) (g := o.rd64 x.a) (q := fun n => decide (2 ^ 57 ≤ n)) link_beyond).symm
    rw [exec_ret_ready h, hmis, hfar]
    dsimp only
    refine ⟨fun h0 => if_pos h0, fun h0 h1 => (if_neg h0).trans (if_pos h1), fun h0 h1 => ⟨_, _, (if_neg h0).trans (if_neg h1),
      (State.retireAt_warpAt ..).trans (State.warpAt_sendThreads
        (sendEach (lanesOf o.i.fl.active) (o.rd64 x.a)) (State.issuing_warpAt h.issues)), fun l hl => ?_⟩⟩
    rw [Warp.pcOf_eq, Warp.pcOf_eq, threadPc_sendEach hl]
    simp [mem_lanesOf, hl]

end Sys2Proof.Machine

/-! ## Ends, syncs and prefixes (O22) -/
namespace Sys2Proof.Machine
open Sys2Proof

/-! ### PFX, TFENCE and words that are no instruction -/

theorem exec_pfx_first {s : State} {i : Iss} (hi : s.issuing = some i) (p : PForm) (h : i.fl.pfx = none) :
    exec (.pfx p) s = .next { s with flights := { i.fl with pfx := some p } :: s.flights.drop 1 } := by
  rw [show exec (.pfx p) s = execPfx p s from rfl, execPfx, issue_of_issuing hi, h]
  rfl

theorem exec_pfx_second {s : State} {i : Iss} (hi : s.issuing = some i) (p : PForm) (h : i.fl.pfx ≠ none) :
    exec (.pfx p) s = raise s i 0x003 := by
  rw [show exec (.pfx p) s = execPfx p s from rfl, execPfx, issue_of_issuing hi, if_pos (Option.isSome_iff_ne_none.2 h)]

theorem exec_tfence_due {s : State} {i : Iss} (hi : s.issuing = some i) (lnd : Bool) (h : s.flagsDue i.w = true) :
    exec (.tfence lnd) s = .next s := by
  rw [show exec (.tfence lnd) s = execTfence lnd s from rfl, execTfence, issue_of_issuing hi, if_pos h]

theorem exec_tfence_raises {s : State} {i : Iss} {c : Cause} (hi : s.issuing = some i) (lnd : Bool) (h : s.flagsDue i.w = false)
    (hc : tfenceCause i.w.flags i.w.mode = some c) : exec (.tfence lnd) s = raise s i c := by
  rw [show exec (.tfence lnd) s = execTfence lnd s from rfl, execTfence, issue_of_issuing hi, if_neg (by simp [h]), hc]

theorem exec_tfence_completes {s : State} {i : Iss} (hi : s.issuing = some i) (lnd : Bool) (h : s.flagsDue i.w = false)
    (hc : tfenceCause i.w.flags i.w.mode = none) : exec (.tfence lnd) s = exec (.nop lnd) s := by
  rw [exec_nop hi, show exec (.tfence lnd) s = execTfence lnd s from rfl, execTfence, issue_of_issuing hi, if_neg (by simp [h]), hc]

/-- Flag n of FLAGS is set and MODE enables its trap (R404). -/
def flagEnabled (flags mode : Word) (n : Nat) : Bool := flags.getLsbD n && mode.getLsbD (4 + n)

theorem enabled_bit {flags mode : Word} {n : Nat} (hn : n < 5) :
    (flags.extractLsb' 0 5 &&& mode.extractLsb' 4 5).getLsbD n = flagEnabled flags mode n := by
  simp only [flagEnabled, BitVec.getLsbD_and, BitVec.getLsbD_extractLsb', hn, decide_true, Bool.true_and, Nat.zero_add]

/-- TFENCE's cause goes by the enabled flags, the lowest first. -/
theorem tfenceCause_eq (flags mode : Word) : tfenceCause flags mode =
    if flagEnabled flags mode 0 then some 0x0A0 else if flagEnabled flags mode 1 then some 0x0A1
    else if flagEnabled flags mode 2 then some 0x0A2 else if flagEnabled flags mode 3 then some 0x0A3
    else if flagEnabled flags mode 4 then some 0x0A4 else none := by
  simp only [tfenceCause, enabled_bit (show 0 < 5 by decide), enabled_bit (show 1 < 5 by decide), enabled_bit (show 2 < 5 by decide),
    enabled_bit (show 3 < 5 by decide), enabled_bit (show 4 < 5 by decide)]

theorem tfenceCause_lowest {flags mode : Word} {n : Nat} (hn : n < 5) (h : flagEnabled flags mode n = true)
    (hlow : ∀ j < n, flagEnabled flags mode j = false) : tfenceCause flags mode = some (BitVec.ofNat 9 (0x0A0 + n)) := by
  rw [tfenceCause_eq]
  interval_cases n <;> simp [h, hlow]

theorem tfenceCause_none {flags mode : Word} (h : ∀ j < 5, flagEnabled flags mode j = false) : tfenceCause flags mode = none := by
  simp [tfenceCause_eq, h]

theorem flagEnabled_eq_false {flags mode : Word} {n : Nat} :
    flagEnabled flags mode n = false ↔ flags.getLsbD n = false ∨ mode.getLsbD (4 + n) = false := by
  rw [flagEnabled, Bool.and_eq_false_iff]

/-! ### WSYNC -/

theorem exec_wsync_one {s : State} {i : Iss} (hi : s.issuing = some i) (lnd : Bool) (h : i.w.pcs.length = 1) :
    exec (.wsync lnd) s = exec (.nop lnd) s := by
  obtain ⟨p, hp⟩ := List.length_eq_one_iff.1 h
  rw [exec_nop hi, show exec (.wsync lnd) s = execWsync lnd s from rfl, execWsync, issue_of_issuing hi, hp]

theorem exec_wsync_more {s : State} {i : Iss} (hi : s.issuing = some i) (lnd : Bool) (h : i.w.pcs.length ≠ 1) :
    exec (.wsync lnd) s = .next ((s.block i .wsync).checkWsync i.w.key) := by
  rw [show exec (.wsync lnd) s = execWsync lnd s from rfl, execWsync, issue_of_issuing hi]
  split
  next p hp => simp [hp] at h
  · rfl

theorem State.checkWsync_of_not_stuck {s : State} {k : WarpKey} {w : Warp} (hw : s.warpAt k = some w) (h : w.wsyncStuck = none) :
    s.checkWsync k = s := by
  simp only [State.checkWsync, hw, h]

theorem Warp.not_wsyncStuck {w : Warp} (h : ∃ p ∈ w.pcs, p.blocked ≠ some .wsync) : w.wsyncStuck = none := by
  unfold Warp.wsyncStuck
  split
  · rw [if_neg]
    rw [List.all_eq_true]
    intro hall
    obtain ⟨p, hp, hb⟩ := h
    exact hb (by simpa using hall p hp)
  · rfl

/-- The sets of a warp after the one with some threads is blocked. -/
def blockSet (active : LaneMask) (c : Wait) (ps : List PcSet) : List PcSet :=
  ps.map fun p => if p.lanes &&& active != 0 then { p with blocked := some c } else p

theorem State.warpAt_block {s : State} {i : Iss} (hi : s.issuing = some i) (c : Wait) :
    (s.block i c).warpAt i.w.key = some { i.w with pcs := blockSet i.fl.active c i.w.pcs } :=
  State.warpAt_sendThreads (blockSet i.fl.active c) (State.issuing_warpAt hi)

/-! ### EXIT -/

/-- A state that differs from another in the team memberships of its warps alone. -/
def OnlyTeams (s t : State) : Prop :=
  ∃ g : Warp → Option Team, t = { s with warps := s.warps.map fun v => { v with team := g v } }

theorem OnlyTeams.refl (s : State) : OnlyTeams s s := by
  refine ⟨Warp.team, ?_⟩
  have h : (fun v : Warp => { v with team := v.team }) = id := rfl
  rw [h, List.map_id]

theorem OnlyTeams.trans {s t u : State} (h : OnlyTeams s t) (k : OnlyTeams t u) : OnlyTeams s u := by
  obtain ⟨g, rfl⟩ := h
  obtain ⟨g', rfl⟩ := k
  refine ⟨fun v => g' { v with team := g v }, ?_⟩
  simp only [List.map_map]
  rfl

theorem OnlyTeams.warpAt {s t : State} (h : OnlyTeams s t) {k : WarpKey} {w : Warp} (hw : s.warpAt k = some w) :
    ∃ x, t.warpAt k = some { w with team := x } := by
  obtain ⟨g, rfl⟩ := h
  exact ⟨g w, by rw [State.warpAt_map (g := fun v => { v with team := g v }) rfl (fun _ => rfl), hw]; rfl⟩

theorem State.breakTeam_onlyTeams (s : State) (w : Warp) : OnlyTeams s (s.breakTeam w) := by
  unfold State.breakTeam
  split
  · exact .refl s
  next t ht =>
    split
    · refine ⟨fun v => if v.wg ≠ w.wg && (s.teamMates w t).any fun u => u.core = v.core && u.idx = v.idx then
        v.team.map fun u => { u with broken := true } else v.team, ?_⟩
      congr 1
      refine List.map_congr_left fun v _ => ?_
      dsimp only
      split <;> rfl
    · exact .refl s

@[simp] theorem State.breakTeam_flights (s : State) (w : Warp) : (s.breakTeam w).flights = s.flights := by
  obtain ⟨g, h⟩ := s.breakTeam_onlyTeams w
  rw [h]

@[simp] theorem State.notePhases_flights (s : State) (k : WgKey) : (s.notePhases k).flights = s.flights := by
  unfold State.notePhases
  split
  · dsimp only; split <;> rfl
  · rfl

@[simp] theorem State.notePhases_warps (s : State) (k : WgKey) : (s.notePhases k).warps = s.warps := by
  unfold State.notePhases
  split
  · dsimp only; split <;> rfl
  · rfl

@[simp] theorem State.checkDone_flights (s : State) (k : WgKey) : (s.checkDone k).flights = s.flights := by
  unfold State.checkDone
  dsimp only
  split <;> rfl

@[simp] theorem State.checkDone_warps (s : State) (k : WgKey) : (s.checkDone k).warps = s.warps := by
  unfold State.checkDone
  dsimp only
  split <;> rfl

@[simp] theorem State.noteEnd_flights (s : State) (k : WgKey) (how : EndKind) : (s.noteEnd k how).flights = s.flights := by
  unfold State.noteEnd
  split <;> rfl

@[simp] theorem State.noteEnd_warps (s : State) (k : WgKey) (how : EndKind) : (s.noteEnd k how).warps = s.warps := by
  unfold State.noteEnd
  split <;> rfl

@[simp] theorem State.warpEnded_flights (s : State) (w : Warp) : (s.warpEnded w).flights = s.flights := by
  simp [State.warpEnded]

/-- The end of a warp leaves its threads' places. -/
theorem State.warpAt_warpEnded {s : State} {w v : Warp} (h : s.warpAt w.key = some v) :
    ∃ u, (s.warpEnded w).warpAt w.key = some u ∧ u.pcs = v.pcs := by
  obtain ⟨x, hx⟩ := (s.breakTeam_onlyTeams w).warpAt h
  have hat := State.warpAt_updWarp_same (f := fun v => { v with team := none, watch := [], recorded := none }) (fun _ => rfl) hx
  refine ⟨_, Eq.trans (State.warpAt_congr ?_ _) hat, rfl⟩
  simp [State.warpEnded]

theorem Warp.wsyncStuck_congr {w v : Warp} (h : w.pcs = v.pcs) : w.wsyncStuck = v.wsyncStuck := by
  rw [Warp.wsyncStuck, h, Warp.wsyncStuck]

/-- The state after an EXIT, before the warp's WSYNCs are looked at (R140). -/
def State.exited (s : State) (i : Iss) : State :=
  let left := dropLanes i.fl.active i.w.pcs
  let s2 := ((s.updWarp i.w.key fun w => { w with pcs := left }).dropLoads i.w.key i.fl.active left.isEmpty).endFlight
  if left.isEmpty then s2.warpEnded i.w else s2

theorem exec_exit {s : State} {i : Iss} (hi : s.issuing = some i) (lnd : Bool) :
    exec (.exit lnd) s = .next ((s.exited i).checkWsync i.w.key) := issue_of_issuing hi _

theorem State.exited_flights (s : State) (i : Iss) : (s.exited i).flights = s.flights.drop 1 := by
  unfold State.exited
  dsimp only
  split
  · rw [State.warpEnded_flights]; rfl
  · rfl

theorem State.exited_mem (s : State) (i : Iss) : (s.exited i).mem = s.mem := by
  unfold State.exited
  dsimp only
  split <;> simp

theorem State.warpAt_exited {s : State} {i : Iss} (hi : s.issuing = some i) :
    ∃ w, (s.exited i).warpAt i.w.key = some w ∧ w.pcs = dropLanes i.fl.active i.w.pcs := by
  have hat := State.warpAt_sendThreads (fun _ => dropLanes i.fl.active i.w.pcs) (State.issuing_warpAt hi)
  unfold State.exited
  dsimp only
  split
  · exact State.warpAt_warpEnded (v := { i.w with pcs := dropLanes i.fl.active i.w.pcs }) hat
  · exact ⟨_, hat, rfl⟩

/-- Settles O22: each of the seven by what it answers for the issuing instruction. -/
theorem endsSyncsAndPrefixes : Obligations.ends_syncs_and_prefixes := by
  refine ⟨fun s i lnd hi hfree => ?_, fun s i lnd hi h => exec_wsync_one hi lnd h, fun s i lnd hi h hother => ?_, fun s i lnd hi => ?_,
    fun s i p hi => ⟨exec_pfx_first hi p, exec_pfx_second hi p⟩, fun s i c hi => issue_of_issuing hi _⟩
  · obtain ⟨w, hw, hpcs⟩ := State.warpAt_exited hi
    have hstuck : w.wsyncStuck = none := (Warp.wsyncStuck_congr hpcs).trans hfree
    refine ⟨_, w, exec_exit hi lnd, ?_, fun l _ => ?_, ?_, fun a => ?_⟩
    · rw [State.checkWsync_of_not_stuck hw hstuck, hw]
    · rw [Warp.pcOf_eq, hpcs, threadPc_dropLanes, Warp.pcOf_eq]
    · rw [State.checkWsync_of_not_stuck hw hstuck, State.exited_flights]
    · rw [State.checkWsync_of_not_stuck hw hstuck, State.exited_mem]
  · have hat := State.warpAt_block hi .wsync
    have hfree := State.checkWsync_of_not_stuck hat (Warp.not_wsyncStuck (by
      obtain ⟨p, hp, hout, hb⟩ := hother
      exact ⟨p, List.mem_map.2 ⟨p, hp, by simp [hout]⟩, hb⟩))
    refine ⟨_, _, exec_wsync_more hi lnd h, by rw [hfree]; exact hat, by rw [hfree]; rfl, ?_⟩
    simp only [blockSet, bne_iff_ne]
  · refine ⟨exec_tfence_due hi lnd, fun hdue n hn hf hm hlow => exec_tfence_raises hi lnd hdue (tfenceCause_lowest hn ?_ ?_),
      fun hdue hlow => exec_tfence_completes hi lnd hdue (tfenceCause_none fun j hj => flagEnabled_eq_false.2 (hlow j hj))⟩
    · rw [flagEnabled, hf, hm]
      rfl
    · exact fun j hj => flagEnabled_eq_false.2 (hlow j hj)

end Sys2Proof.Machine

/-! ## Causes are delivered (O25) -/
namespace Sys2Proof.Machine
open Sys2Proof

/-! ### Warps keep their places -/

/-- Two states hold the same warps by their keys and workgroups, in the same order. -/
def SamePlaces (s t : State) : Prop := ∃ g : Warp → Warp, t.warps = s.warps.map g ∧ ∀ w, (g w).key = w.key ∧ (g w).wg = w.wg

theorem SamePlaces.of_warps {s t : State} (h : t.warps = s.warps) : SamePlaces s t :=
  ⟨id, by rw [h, List.map_id], fun _ => ⟨rfl, rfl⟩⟩

theorem SamePlaces.trans {s t u : State} (h : SamePlaces s t) (k : SamePlaces t u) : SamePlaces s u := by
  obtain ⟨g, hg, hgk⟩ := h
  obtain ⟨g', hg', hgk'⟩ := k
  exact ⟨g' ∘ g, by rw [hg', hg, List.map_map], fun w => ⟨(hgk' _).1.trans (hgk w).1, (hgk' _).2.trans (hgk w).2⟩⟩

theorem OnlyTeams.samePlaces {s t : State} (h : OnlyTeams s t) : SamePlaces s t := by
  obtain ⟨g, rfl⟩ := h
  exact ⟨_, rfl, fun _ => ⟨rfl, rfl⟩⟩

theorem State.updWarp_samePlaces (s : State) (k : WarpKey) {f : Warp → Warp} (hf : ∀ w, (f w).key = w.key ∧ (f w).wg = w.wg) :
    SamePlaces s (s.updWarp k f) := ⟨_, rfl, fun w => by split; exacts [hf w, ⟨rfl, rfl⟩]⟩

theorem State.updWarpsOf_samePlaces (s : State) (k : WgKey) {f : Warp → Warp} (hf : ∀ w, (f w).key = w.key ∧ (f w).wg = w.wg) :
    SamePlaces s (s.updWarpsOf k f) := ⟨_, rfl, fun w => by split; exacts [hf w, ⟨rfl, rfl⟩]⟩

theorem SamePlaces.wg {s t : State} (h : SamePlaces s t) {k : WarpKey} {w : Warp} (hw : t.warpAt k = some w) :
    ∃ v, s.warpAt k = some v ∧ v.wg = w.wg := by
  obtain ⟨g, hg, hgk⟩ := h
  rw [State.warpAt_map hg fun w => (hgk w).1] at hw
  obtain ⟨v, hv, rfl⟩ := Option.map_eq_some_iff.1 hw
  exact ⟨v, hv, (hgk v).2.symm⟩

/-- Once the flights of a workgroup have been stopped, none of them is one of its warps'. -/
theorem SamePlaces.flights_stopped {s t : State} {k : WgKey} (h : SamePlaces s t) (hf : t.flights = (s.stopFlights k).flights) :
    ∀ f ∈ t.flights, ∀ w, t.warpAt ⟨f.core, f.warp⟩ = some w → w.wg ≠ k := by
  intro f hmem w hw
  obtain ⟨v, hv, hwg⟩ := h.wg hw
  rw [hf] at hmem
  have hkeep := (List.mem_filter.1 hmem).2
  simp only [hv, decide_eq_true_eq] at hkeep
  rwa [← hwg]

/-- A warp of a workgroup after a change of all its warps is a changed one. -/
theorem State.mem_updWarpsOf {s : State} {k : WgKey} {f : Warp → Warp} {w : Warp} (h : w ∈ (s.updWarpsOf k f).warps)
    (hw : w.wg = k) : ∃ v, w = f v := by
  obtain ⟨v, -, rfl⟩ := List.mem_map.1 h
  by_cases hv : v.wg = k
  · exact ⟨v, if_pos hv⟩
  · rw [if_neg hv] at hw
    exact absurd hw hv

theorem State.wgAt_updWg_same {s : State} {k : WgKey} {f : Workgroup → Workgroup} {g : Workgroup} (hf : ∀ g, (f g).key = g.key)
    (h : s.wgAt k = some g) : (s.updWg k f).wgAt k = some (f g) := by
  have hg : g.key = k := by simpa using List.find?_some h
  have hkey : (fun x : Workgroup => decide (x.key = k)) ∘ (fun x => if x.key = k then f x else x) = fun x => decide (x.key = k) := by
    funext x
    simp only [Function.comp_apply]
    split <;> simp [hf]
  have h : s.wgs.find? (fun x => decide (x.key = k)) = some g := h
  rw [State.wgAt, State.updWg, List.find?_map, hkey, h, Option.map_some, if_pos hg]

theorem State.wgAt_congr {s t : State} (h : t.wgs = s.wgs) (k : WgKey) : t.wgAt k = s.wgAt k := by
  rw [State.wgAt, h, State.wgAt]

/-! ### What stopping a workgroup leaves -/

theorem OnlyTeams.keeps {α : Type} (g : State → α) (hg : ∀ s ws, g { s with warps := ws } = g s) {s t : State} (h : OnlyTeams s t) :
    g t = g s := by
  obtain ⟨f, rfl⟩ := h
  exact hg _ _

theorem State.breakTeams_onlyTeams (s : State) (k : WgKey) : OnlyTeams s (s.breakTeams k) := by
  have h : ∀ (l : List Warp) (t : State), OnlyTeams t (l.foldl (fun t w => t.breakTeam w) t) := by
    intro l
    induction l with
    | nil => exact .refl
    | cons w l ih => exact fun t => (t.breakTeam_onlyTeams w).trans (ih _)
  exact h _ s

/-- What a taken cause stops of a workgroup: flights, teams, fetches and loads. -/
def State.quiet (s : State) (k : WgKey) : State := (((s.stopFlights k).breakTeams k).dropFetches k).discardLoads k

theorem State.quiet_samePlaces (s : State) (k : WgKey) : SamePlaces s (s.quiet k) :=
  (SamePlaces.of_warps rfl).trans (((s.stopFlights k).breakTeams_onlyTeams k).samePlaces.trans (.of_warps rfl))

theorem State.quiet_flights (s : State) (k : WgKey) : (s.quiet k).flights = (s.stopFlights k).flights :=
  ((s.stopFlights k).breakTeams_onlyTeams k).keeps State.flights fun _ _ => rfl
theorem State.quiet_wgs (s : State) (k : WgKey) : (s.quiet k).wgs = s.wgs :=
  ((s.stopFlights k).breakTeams_onlyTeams k).keeps State.wgs fun _ _ => rfl
theorem State.quiet_ports (s : State) (k : WgKey) : (s.quiet k).ports = s.ports :=
  ((s.stopFlights k).breakTeams_onlyTeams k).keeps State.ports fun _ _ => rfl
theorem State.quiet_evSeq (s : State) (k : WgKey) : (s.quiet k).evSeq = s.evSeq :=
  ((s.stopFlights k).breakTeams_onlyTeams k).keeps State.evSeq fun _ _ => rfl
theorem State.quiet_time (s : State) (k : WgKey) : (s.quiet k).time = s.time :=
  ((s.stopFlights k).breakTeams_onlyTeams k).keeps State.time fun _ _ => rfl

/-! ### Unwinding to a region -/

theorem Warp.scramble_bare (seed : Nat) (w : Warp) (ks : List Nat) : (w.scramble seed ks).bare = w.bare := by
  induction ks generalizing seed w with
  | nil => rfl
  | cons k ks ih =>
    rw [Warp.scramble, ih]
    split <;> rfl

theorem State.scrambleDests_samePlaces (s : State) (l : List (WarpKey × List Nat)) : SamePlaces s (s.scrambleDests l) := by
  induction l generalizing s with
  | nil => exact .of_warps rfl
  | cons x l ih =>
    refine ((s.updWarp_samePlaces x.1 fun w => ?_).trans (.of_warps rfl)).trans (ih _)
    have h := w.scramble_bare s.freeCtr x.2
    exact ⟨of_bare Warp.key (fun _ => rfl) h, of_bare Warp.wg (fun _ => rfl) h⟩

@[simp] theorem State.scrambleDests_flights (s : State) (l : List (WarpKey × List Nat)) : (s.scrambleDests l).flights = s.flights := by
  induction l generalizing s with
  | nil => rfl
  | cons x l ih => rw [State.scrambleDests, ih]; rfl

@[simp] theorem State.scrambleDests_wgs (s : State) (l : List (WarpKey × List Nat)) : (s.scrambleDests l).wgs = s.wgs := by
  induction l generalizing s with
  | nil => rfl
  | cons x l ih => rw [State.scrambleDests, ih]; rfl

theorem Warp.unwindTo_place (r : Region) (c : Cause) (self : Nat) (w : Warp) :
    (w.unwindTo r c self).key = w.key ∧ (w.unwindTo r c self).wg = w.wg ∧ (w.unwindTo r c self).num = w.num := by
  unfold Warp.unwindTo
  cases r.reg <;> exact ⟨rfl, rfl, rfl⟩

theorem Warp.unwindTo_free (r : Region) (c : Cause) (self : Nat) (w : Warp) :
    (w.unwindTo r c self).hold = none ∧ (w.unwindTo r c self).team = none := ⟨rfl, rfl⟩

theorem Warp.unwindTo_pcs_eq (r : Region) (c : Cause) (self : Nat) (w : Warp) : (w.unwindTo r c self).pcs =
    if w.alive then [⟨r.handler, (w.pcs.map (·.lanes)).foldl (· ||| ·) 0, none⟩] else [] := by
  unfold Warp.unwindTo
  cases r.reg <;> rfl

theorem Warp.unwindTo_pcs (r : Region) (c : Cause) (self : Nat) (w : Warp) :
    ∀ p ∈ (w.unwindTo r c self).pcs, (w.unwindTo r c self).pcs.length = 1 ∧ p.pc = r.handler ∧ p.blocked = none := by
  rw [Warp.unwindTo_pcs_eq]
  cases w.alive <;> simp

theorem Warp.unwindTo_reg {r : Region} {n : Nat} (h : r.reg = some n) (c : Cause) (self : Nat) (w : Warp) :
    (w.unwindTo r c self).sReg n = causeWord (w.num = self) self c := by
  unfold Warp.unwindTo
  rw [h]
  exact (Warp.sReg_setS w n n _).trans (if_pos rfl)

section
variable (s : State) (k : WgKey) (r : Region) (outer : List Region) (c : Cause) (self : Nat)

/-- What unwinding changes before the workgroup's own regions and warps. -/
def State.unwindBody : State :=
  let s' := (s.quiet k).scrambleDests (s.flightDests k)
  { s' with
    cores := s'.cores.map fun (x : Core) => { x with mq := x.mq.filter fun m => m.wg ≠ k || m.started }
    records := s'.records.map fun (x : CopyRec) => if x.wg = k then { x with suspended := none } else x
    galOps := s'.galOps.map fun (x : GalOp) => if x.wg = k then { x with suspended := none } else x }

theorem State.unwind_eq : s.unwind k r outer c self =
    ((s.unwindBody k).updWg k fun g => { g with regions := outer }).updWarpsOf k fun w => w.unwindTo r c self := rfl

theorem State.unwindBody_samePlaces : SamePlaces s (s.unwindBody k) :=
  (s.quiet_samePlaces k).trans (((s.quiet k).scrambleDests_samePlaces (s.flightDests k)).trans (.of_warps rfl))

theorem State.unwindBody_wgs : (s.unwindBody k).wgs = s.wgs := by
  rw [State.unwindBody, State.scrambleDests_wgs, State.quiet_wgs]

theorem State.unwind_flights : (s.unwind k r outer c self).flights = (s.stopFlights k).flights := by
  rw [State.unwind_eq, State.updWarpsOf_flights, State.updWg_flights, State.unwindBody, State.scrambleDests_flights, State.quiet_flights]

theorem State.unwind_samePlaces : SamePlaces s (s.unwind k r outer c self) :=
  (s.unwindBody_samePlaces k).trans ((SamePlaces.of_warps rfl).trans
    (State.updWarpsOf_samePlaces _ k fun w =>
      have ⟨hkey, hwg, _⟩ := w.unwindTo_place r c self
      ⟨hkey, hwg⟩))

theorem State.wgAt_unwind {g : Workgroup} (h : s.wgAt k = some g) :
    (s.unwind k r outer c self).wgAt k = some { g with regions := outer } :=
  State.wgAt_updWg_same (f := fun g => { g with regions := outer }) (fun _ => rfl)
    ((State.wgAt_congr (s.unwindBody_wgs k) k).trans h)

/-! ### The end of a workgroup -/

theorem State.endWorkgroup_eq (how : EndKind) : s.endWorkgroup k how =
    (((s.quiet k).dropCommits k).updWg k fun g => { g with regions := [], ended := some (g.endsAs how), saved := false }).updWarpsOf k
      fun w => { w with pcs := [], begun := [], hold := none, recorded := none, team := none, watch := [] } := rfl

theorem State.endWorkgroup_flights (how : EndKind) : (s.endWorkgroup k how).flights = (s.stopFlights k).flights :=
  s.quiet_flights k
theorem State.endWorkgroup_ports (how : EndKind) : (s.endWorkgroup k how).ports = s.ports := s.quiet_ports k
theorem State.endWorkgroup_evSeq (how : EndKind) : (s.endWorkgroup k how).evSeq = s.evSeq := s.quiet_evSeq k
theorem State.endWorkgroup_time (how : EndKind) : (s.endWorkgroup k how).time = s.time := s.quiet_time k

theorem State.endWorkgroup_samePlaces (how : EndKind) : SamePlaces s (s.endWorkgroup k how) :=
  (s.quiet_samePlaces k).trans ((SamePlaces.of_warps rfl).trans (State.updWarpsOf_samePlaces _ k fun _ => ⟨rfl, rfl⟩))

theorem State.wgAt_endWorkgroup (how : EndKind) {g : Workgroup} (h : s.wgAt k = some g) :
    (s.endWorkgroup k how).wgAt k = some { g with regions := [], ended := some (g.endsAs how), saved := false } :=
  State.wgAt_updWg_same (f := fun g => { g with regions := [], ended := some (g.endsAs how), saved := false }) (fun _ => rfl)
    ((State.wgAt_congr (s.quiet_wgs k) k).trans h)

end

/-! ### Records reach the hosts -/

/-- A record is written to the ring of every port that has room for it (R497). -/
theorem message_mem_pushPorts {e : EventRec} {ps : List HostPort} {n j : Nat} {p : HostPort} {r : EvRing} (hp : ps[j]? = some p)
    (hr : p.ring = some r) (hroom : r.tail - r.head < 2 ^ r.k) : r.message (n + j) e ∈ (pushPorts e n ps).2 := by
  induction ps generalizing n j with
  | nil => simp at hp
  | cons q ps ih =>
    cases j with
    | zero =>
      obtain rfl : q = p := by simpa using hp
      simp [pushPorts, hr, EvRing.push, hroom]
    | succ j =>
      have := ih (n := n + 1) (j := j) (by simpa using hp)
      rw [show n + 1 + j = n + (j + 1) by omega] at this
      unfold pushPorts
      dsimp only
      split
      · exact this
      · exact List.mem_append_right _ this

theorem State.postEvent_evSeq (s : State) (e : EventRec) : (s.postEvent e).evSeq = s.evSeq + 1 := by
  unfold State.postEvent
  dsimp only
  split <;> simp

theorem State.message_mem_postEvent {s : State} {e : EventRec} {n : Nat} {p : HostPort} {r : EvRing} (hp : s.ports[n]? = some p)
    (hr : p.ring = some r) (hroom : r.tail - r.head < 2 ^ r.k) :
    r.message n { e with time := s.time, seq := s.evSeq } ∈ (s.postEvent e).hostOut := by
  have h := List.mem_append_right s.hostOut (message_mem_pushPorts (e := { e with time := s.time, seq := s.evSeq }) (n := 0) hp hr hroom)
  rw [Nat.zero_add] at h
  unfold State.postEvent
  dsimp only
  split <;> simpa using h

/-! ### Delivery -/

theorem State.deliver_caught {s : State} {w : Warp} {g : Workgroup} {c : Cause} {r : Region} {outer : List Region}
    (hg : s.wgAt w.wg = some g) (h : catching c g.regions = some (r, outer)) (pc : Pc) (addr : Nat) :
    s.deliver w pc c addr = (s.triggerOn c).unwind w.wg r outer c w.num := by
  simp only [State.deliver, hg, h]

theorem State.deliver_uncaught {s : State} {w : Warp} {g : Workgroup} {c : Cause} (hg : s.wgAt w.wg = some g)
    (h : catching c g.regions = none) (pc : Pc) (addr : Nat) :
    s.deliver w pc c addr =
      ((s.triggerOn c).endWorkgroup w.wg .fault).postEvent { EventRec.ofWarp 3 c w pc.toNat with addr := addr } := by
  simp only [State.deliver, hg, h]

/-- Settles O25: a cause that is caught unwinds the workgroup, and one that is not ends it and is reported. -/
theorem raisedCausesAreDelivered : Obligations.raised_causes_are_delivered := by
  intro s i c addr _ hi
  have hg : s.endFlight.wgAt i.w.wg = some i.wg :=
    (State.wgAt_congr (State.endFlight_wgs s) _).trans (State.issuing_wgAt hi)
  have hgc : (s.endFlight.triggerOn c).wgAt i.w.wg = some i.wg := (State.wgAt_congr (State.triggerOn_wgs ..) _).trans hg
  refine ⟨_, rfl, fun a => by simp, ?_⟩
  cases hcatch : catching c i.wg.regions with
  | some x =>
    obtain ⟨r, outer⟩ := x
    rw [State.deliver_caught hg hcatch]
    refine ⟨(State.unwind_samePlaces ..).flights_stopped (State.unwind_flights ..), ?_, fun h => by cases h⟩
    rintro r outer ⟨⟩
    refine ⟨⟨_, State.wgAt_unwind _ _ _ _ _ _ hgc, rfl, rfl⟩, fun w hw hwg => ?_⟩
    obtain ⟨v, rfl⟩ := State.mem_updWarpsOf hw hwg
    obtain ⟨hhold, hteam⟩ := v.unwindTo_free r c i.w.num
    refine ⟨hhold, hteam, v.unwindTo_pcs r c i.w.num, fun n hn => ?_⟩
    obtain ⟨-, -, hnum⟩ := v.unwindTo_place r c i.w.num
    rw [Warp.unwindTo_reg hn, hnum]
  | none =>
    rw [State.deliver_uncaught hg hcatch]
    refine ⟨?_, fun r outer h => (by cases h), fun _ => ⟨?_, fun w hw hwg => ?_, ?_, fun p _ n hp r hr hroom => ?_⟩⟩
    · refine SamePlaces.flights_stopped (s := s.endFlight.triggerOn c) ?_ ?_
      · exact (State.endWorkgroup_samePlaces ..).trans (.of_warps (State.postEvent_warps ..))
      · rw [State.postEvent_flights, State.endWorkgroup_flights]
    · exact ⟨_, (State.wgAt_congr (State.postEvent_wgs ..) _).trans (State.wgAt_endWorkgroup _ _ .fault hgc), rfl, rfl⟩
    · rw [State.postEvent_warps, State.endWorkgroup_eq] at hw
      obtain ⟨v, rfl⟩ := State.mem_updWarpsOf hw hwg
      exact ⟨rfl, rfl⟩
    · rw [State.postEvent_evSeq, State.endWorkgroup_evSeq, State.triggerOn_evSeq]
      rfl
    · have hport : (((s.endFlight.triggerOn c).endWorkgroup i.w.wg .fault).ports)[n]? = some p := by
        rw [State.endWorkgroup_ports, State.triggerOn_ports]
        exact hp
      have h := State.message_mem_postEvent (e := { EventRec.ofWarp 3 c i.w i.pc.toNat with addr := addr }) hport hr hroom
      rw [State.endWorkgroup_time, State.endWorkgroup_evSeq, State.triggerOn_time, State.triggerOn_evSeq] at h
      exact h

end Sys2Proof.Machine

/-! ## A step issues what is decoded (O4) -/
namespace Sys2Proof.Machine
open Sys2Proof

/-! ### What the use of words leaves -/

@[simp] theorem State.touchL2_flights (s : State) (line : Nat) (write ef : Bool) : (s.touchL2 line write ef).flights = s.flights := by
  unfold State.touchL2
  split <;> rfl
@[simp] theorem State.touchL2_warps (s : State) (line : Nat) (write ef : Bool) : (s.touchL2 line write ef).warps = s.warps := by
  unfold State.touchL2
  split <;> rfl
@[simp] theorem State.touchL2_wgs (s : State) (line : Nat) (write ef : Bool) : (s.touchL2 line write ef).wgs = s.wgs := by
  unfold State.touchL2
  split <;> rfl
@[simp] theorem State.touchL2_grids (s : State) (line : Nat) (write ef : Bool) : (s.touchL2 line write ef).grids = s.grids := by
  unfold State.touchL2
  split <;> rfl

/-- The instruction that issues is the same once the lines of its words are used. -/
theorem State.useWords_issuing (s : State) (core ctx n : Nat) (va : Pc) : (s.useWords core ctx n va).issuing = s.issuing := by
  induction n generalizing s va with
  | zero => rfl
  | succ n ih =>
    unfold State.useWords
    split
    · rfl
    · rw [ih]
      exact State.issuing_congr (by simp) (by simp) (by simp) (by simp)

/-! ### The flight of a slot comes to the front -/

theorem State.frontSlot_perm (s : State) (core slot : Nat) : (s.frontSlot core slot).flights.Perm s.flights :=
  List.filter_append_perm _ s.flights

/-- The flight at the front is one of the slot, where it has one. -/
theorem State.frontSlot_issuing {s : State} {core slot : Nat} {i : Iss} (h : ∃ f ∈ s.flights, f.core = core ∧ f.slot = slot)
    (hi : (s.frontSlot core slot).issuing = some i) : i.fl.core = core ∧ i.fl.slot = slot := by
  have hfl := State.issuing_flights hi
  obtain ⟨f, hf, hc, hs⟩ := h
  have hmine : f ∈ s.flights.filter fun f => decide (f.core = core) && decide (f.slot = slot) :=
    List.mem_filter.2 ⟨hf, by simp [hc, hs]⟩
  cases hl : s.flights.filter fun f => decide (f.core = core) && decide (f.slot = slot) with
  | nil => rw [hl] at hmine; cases hmine
  | cons g gs =>
    have hfront : (s.frontSlot core slot).flights =
        (g :: gs) ++ s.flights.filter fun f => !(decide (f.core = core) && decide (f.slot = slot)) := by
      rw [← hl]
      rfl
    rw [hfront] at hfl
    have hg : g ∈ s.flights.filter fun f => decide (f.core = core) && decide (f.slot = slot) := hl ▸ List.mem_cons_self
    rw [← (List.cons.inj hfl).1]
    simpa using (List.mem_filter.1 hg).2

/-- The flight has joined the threads of its warp's set at its address (R122). -/
theorem State.merge_active {s : State} {i0 i : Iss} (hi : (s.merge i0).issuing = some i) :
    ∀ p ∈ i0.w.pcs.find? fun p => p.pc = i0.pc, i.fl.active = p.lanes := by
  intro p hp
  have hfl := State.issuing_flights hi
  have hmerge : (s.merge i0).flights = { i0.fl with active := p.lanes } :: s.flights.drop 1 := by
    unfold State.merge
    rw [Option.mem_def.1 hp]
    dsimp only
    split <;> rfl
  rw [hmerge] at hfl
  rw [← (List.cons.inj hfl).1]

/-! ### The issue of an instruction -/

/-- The instruction that decoded words issue: their own, or none that is assigned (R51). -/
def issuedBy : Dec → Instr
  | .ok ins _ => ins
  | .bad c => .unassignedInstruction c

/-- Where no recorded cause is taken and the words are there, the issue goes by what they decode to. -/
theorem State.issueNext_fetched {s : State} {i0 i : Iss} {ws : List Word} (h0 : s.issuing = some i0)
    (hrec : i0.fl.takes = true → i0.fl.count = 0 → i0.fl.pfx = none → i0.w.recorded = none) (hi : (s.merge i0).issuing = some i)
    (hws : (s.merge i0).fetchInstr i.w.core i.w.wg.ctx i.ipc i.fl.pfx.isSome = .ok ws false) :
    s.issueNext = exec (issuedBy (i.decode ws)) ((s.merge i0).useWords i.w.core i.w.wg.ctx ws.length i.ipc) := by
  have hnone : (if i0.fl.takes && i0.fl.count = 0 && i0.fl.pfx.isNone then i0.w.recorded else none) = none := by
    split
    next h =>
      simp only [Bool.and_eq_true, decide_eq_true_eq, Option.isNone_iff_eq_none] at h
      obtain ⟨⟨htakes, hcount⟩, hpfx⟩ := h
      exact hrec htakes hcount hpfx
    · rfl
  simp only [State.issueNext, h0, hnone, hi, hws, Bool.false_eq_true, if_false]
  cases i.decode ws <;> rfl

theorem step_issue {s : State} {core slot : Nat} {cs : List Choice} (ha : s.agenda = .issue core slot :: cs)
    (h : ∃ f ∈ s.flights, f.core = core ∧ f.slot = slot) :
    step s = (({ s with agenda := cs } : State).frontSlot core slot).issueNext := by
  have hany : ({ s with agenda := cs } : State).flights.any (fun f => decide (f.core = core) && decide (f.slot = slot)) = true := by
    simpa using h
  rw [step, ha]
  exact if_pos hany

/-- Settles O4: the flight of the slot comes to the front, joins its set and issues what its words decode to. -/
theorem stepRunsTheDecodedInstruction : Obligations.step_runs_the_decoded_instruction := by
  refine ⟨?_, fun s e cs ha => ?_, fun s c ha hp => ?_⟩
  · intro s core slot cs i0 i ws ha hfl u h0 hrec hi hws
    have hstep := (step_issue ha hfl).trans (State.issueNext_fetched h0 hrec hi hws)
    obtain ⟨hcore, hslot⟩ := State.frontSlot_issuing (s := { s with agenda := cs }) hfl h0
    refine ⟨State.frontSlot_perm { s with agenda := cs } core slot, hcore, hslot, State.merge_active hi, fun ins len hd => ?_, fun c hd => ?_⟩
    · rw [hstep, hd]
      rfl
    · rw [hstep, hd]
      exact issue_of_issuing ((State.useWords_issuing ..).trans hi) _
  · simp only [step, ha]
    rfl
  · simp only [step, ha, hp]

end Sys2Proof.Machine

/-! ## Moves and immediates (O8) -/
namespace Sys2Proof.Machine
open Sys2Proof

/-! ### Words as numbers -/

theorem toNat_setWidth_word (x : Word) : (x.setWidth 64 : DWord).toNat = x.toNat := by
  rw [BitVec.toNat_setWidth]
  omega

/-- A signed byte is added to a word modulo 2^32 (R210). -/
theorem toNat_add_signExtend (a : Word) (b : BitVec 8) :
    (a + b.signExtend 32).toNat = ((a.toNat + b.toInt) % 2 ^ 32).toNat := by
  have h : a + b.signExtend 32 = BitVec.ofInt 32 (a.toNat + b.toInt) := by
    rw [BitVec.ofInt_add, BitVec.ofInt_natCast, BitVec.ofNat_toNat, BitVec.setWidth_eq]
    rfl
  rw [h, BitVec.toNat_ofInt]
  rfl

theorem toNat_sshiftRight_word (a : Word) (n : Nat) : (a.sshiftRight n).toNat = (a.toInt / 2 ^ n % 2 ^ 32).toNat := by
  rw [BitVec.sshiftRight, BitVec.toNat_ofInt, Int.shiftRight_eq_div_pow]
  norm_num

/-- A rotation to the left is the product by 2^n with what passes bit 31 added below (R211). -/
theorem toNat_rotateLeft_word (a : Word) {n : Nat} (hn : n < 32) :
    (a.rotateLeft n).toNat = (a.toNat * 2 ^ n + a.toNat * 2 ^ n / 2 ^ 32) % 2 ^ 32 := by
  have hpow : 2 ^ 32 = 2 ^ n * 2 ^ (32 - n) := by rw [← pow_add]; congr 1; omega
  have hlow : a.toNat * 2 ^ n % 2 ^ 32 = 2 ^ n * (a.toNat % 2 ^ (32 - n)) := by
    rw [hpow, Nat.mul_comm a.toNat, Nat.mul_mod_mul_left]
  have hhigh : a.toNat * 2 ^ n / 2 ^ 32 = a.toNat / 2 ^ (32 - n) := by
    rw [hpow, Nat.mul_comm a.toNat, Nat.mul_div_mul_left _ _ (by positivity)]
  have hlt : a.toNat / 2 ^ (32 - n) < 2 ^ n := by
    rw [Nat.div_lt_iff_lt_mul (by positivity), ← hpow]
    exact a.isLt
  have hmod : a.toNat % 2 ^ (32 - n) + 1 ≤ 2 ^ (32 - n) := Nat.mod_lt _ (by positivity)
  have hsum : 2 ^ n * (a.toNat % 2 ^ (32 - n)) + a.toNat / 2 ^ (32 - n) < 2 ^ 32 := by
    calc _ < 2 ^ n * (a.toNat % 2 ^ (32 - n)) + 2 ^ n := Nat.add_lt_add_left hlt _
      _ = 2 ^ n * (a.toNat % 2 ^ (32 - n) + 1) := by ring
      _ ≤ 2 ^ n * 2 ^ (32 - n) := Nat.mul_le_mul_left _ hmod
      _ = 2 ^ 32 := hpow.symm
  rw [BitVec.toNat_rotateLeft, Nat.mod_eq_of_lt hn, Nat.shiftLeft_eq, Nat.shiftRight_eq_div_pow, hlow,
    ← Nat.two_pow_add_eq_or_of_lt hlt, hhigh, ← Nat.mod_add_mod, hlow, Nat.mod_eq_of_lt hsum]

/-! ### The values of the rules -/

theorem toNat_iselVal (c a b : Word) : ((if c != 0 then a else b).setWidth 64 : DWord).toNat = if c = 0 then b.toNat else a.toNat := by
  rw [toNat_setWidth_word]
  by_cases h : c = 0
  · simp [h]
  · rw [if_pos (by simpa using h), if_neg h]

/-- The number that ISHI gives for a kind and a count (R211). -/
def ishiNat (kind n : Nat) (a : Word) : Nat :=
  match kind with
  | 0 => a.toNat * 2 ^ n % 2 ^ 32
  | 1 => a.toNat / 2 ^ n
  | 2 => (a.toInt / 2 ^ n % 2 ^ 32).toNat
  | _ => (a.toNat * 2 ^ n + a.toNat * 2 ^ n / 2 ^ 32) % 2 ^ 32

theorem toNat_ishiVal (a : Word) (imm : BitVec 8) :
    ((ishiVal a imm).setWidth 64 : DWord).toNat = ishiNat (imm.toNat / 64) (imm.toNat % 32) a := by
  have hn : (imm.extractLsb' 0 5).toNat = imm.toNat % 32 := by simp
  have hk : (imm.extractLsb' 6 2).toNat = imm.toNat / 64 := by
    have := imm.isLt
    simp [Nat.shiftRight_eq_div_pow]
    omega
  rw [toNat_setWidth_word]
  simp only [ishiVal, hn, hk]
  match imm.toNat / 64 with
  | 0 => exact (BitVec.toNat_shiftLeft ..).trans (by rw [Nat.shiftLeft_eq]; rfl)
  | 1 => exact (BitVec.toNat_ushiftRight ..).trans (Nat.shiftRight_eq_div_pow ..)
  | 2 => exact toNat_sshiftRight_word ..
  | k + 3 => exact toNat_rotateLeft_word _ (Nat.mod_lt _ (by decide))

/-- Settles O8: each is an integer operation, and its value is that of its rule. -/
theorem baseMovesAndImmediates : Obligations.base_moves_and_immediates := by
  refine ⟨fun s f o h => ?_, fun s f o h => ?_, fun s f o h => ?_, fun s f o h => ?_, fun s f o h => ?_, fun s f o h => ?_,
    fun s f o h => ?_⟩
  · rw [show exec (.imad f) s = execImad f s from rfl, execImad, intOp_ready h]
    refine ⟨_, rfl, fun l _ => ?_⟩
    rw [toNat_setWidth_word, BitVec.toNat_add, BitVec.toNat_mul, Nat.mod_add_mod]
  · rw [show exec (.isel f) s = execIsel f s from rfl, execIsel, intOp_ready h]
    refine ⟨_, rfl, fun l _ => ?_⟩
    cases o.i.pfxC with
    | none => exact toNat_iselVal ..
    | some c => exact toNat_iselVal ..
  · rw [show exec (.iaddi f) s = execIaddi f s from rfl, execIaddi, intOp_ready h]
    exact ⟨_, rfl, fun l _ => by rw [toNat_setWidth_word, toNat_add_signExtend]⟩
  · rw [show exec (.ishi f) s = execIshi f s from rfl, execIshi, intOp_ready h]
    exact ⟨_, rfl, fun l _ => toNat_ishiVal ..⟩
  · rw [show exec (.mov f) s = execMov f s from rfl, execMov, intOp_ready h]
    exact ⟨_, rfl, fun l _ => toNat_setWidth_word _⟩
  · rw [show exec (.movLiteral f) s = execMovLiteral f s from rfl, execMovLiteral, intOp_ready h]
  · rw [show exec (.movi f) s = execMovi f s from rfl, execMovi, intOp_ready h]
    exact ⟨_, rfl, fun l _ => BitVec.toInt_signExtend_of_le (by decide)⟩

end Sys2Proof.Machine

/-! ## Divisions (O10) -/
namespace Sys2Proof.Machine
open Sys2Proof

/-! ### Operands as numbers -/

theorem toNat_setWidth_lt {n : Nat} (m : Nat) (x : BitVec n) : (x.setWidth m).toNat < 2 ^ n := by
  rw [BitVec.toNat_setWidth]
  exact lt_of_le_of_lt (Nat.mod_le ..) x.isLt

theorem Opnd.le_of_mem_lanes {o : Opnd} {l : Nat} (h : l ∈ o.lanes) : l ≤ 64 := by
  unfold Opnd.lanes at h
  split at h
  · simp_all [warpLane]
  · exact (mem_lanesOf.1 h).1.le

/-- A value read in w bits is a number of w bits. -/
theorem Opnd.rdN_lt (o : Opnd) (c : BitVec 8) {l w : Nat} (hw : w = 32 ∨ w = 64) (hl : l ≤ 64) : o.rdN c l w < 2 ^ w := by
  have h128 : w ≠ 128 := by omega
  have hpack (reg : Nat → Word) : (if w = 128 then reg 3 ++ reg 2 ++ reg 1 ++ reg 0
      else if w = 64 then (reg 1 ++ reg 0).setWidth 128 else (reg 0).setWidth 128 : BitVec 128).toNat < 2 ^ w := by
    rw [if_neg h128]
    rcases hw with rfl | rfl <;> exact toNat_setWidth_lt 128 _
  have hcut (x : DWord) : (if w = 32 then (x.setWidth 32).setWidth 128 else x.setWidth 128 : BitVec 128).toNat < 2 ^ w := by
    rcases hw with rfl | rfl <;> exact toNat_setWidth_lt 128 _
  have hlid : (BitVec.ofNat 128 l).toNat < 2 ^ w := by
    rw [BitVec.toNat_ofNat]
    rcases hw with rfl | rfl <;> omega
  have hzero : (0 : BitVec 128).toNat < 2 ^ w := Nat.two_pow_pos w
  unfold Opnd.rdN Opnd.rd128
  dsimp only
  split
  next n _ => exact hpack fun j => o.i.w.vReg (n + j) l
  next n _ => exact hpack fun j => o.i.w.vReg ((o.i.w.xReg n).val + j) l
  next n _ => exact hpack fun j => o.i.w.sReg (n + j)
  · exact hcut _
  · split
    · exact hcut _
    · exact hzero
  · split
    · exact hcut _
    · exact hzero
  · exact hlid
  · exact hcut _
  · exact hzero
  · exact hzero

theorem tyW_cases (f : XForm) : f.tyW = 32 ∨ f.tyW = 64 := by
  rw [XForm.tyW]
  split
  · exact .inr rfl
  · exact .inl rfl

/-! ### Quotients and remainders -/

theorem toNat_ofInt_eq_wrapTo (w : Nat) (i : Int) : (BitVec.ofInt w i).toNat = wrapTo w i := by
  rw [BitVec.toNat_ofInt, wrapTo]
  norm_num

theorem wrapTo_natCast {w n : Nat} (h : n < 2 ^ w) : wrapTo w n = n := by
  have h : (n : Int) % 2 ^ w = n := Int.emod_eq_of_lt (by positivity) (by exact_mod_cast h)
  rw [wrapTo, h, Int.toNat_natCast]

theorem sval_eq_zero {w n : Nat} (h : n < 2 ^ w) : sval w n = 0 ↔ n = 0 := by
  have hz : sval w n = (0 : BitVec w).toInt ↔ BitVec.ofNat w n = 0 := BitVec.toInt_inj
  rw [show (0 : BitVec w).toInt = 0 from BitVec.toInt_zero] at hz
  rw [hz, ← BitVec.toNat_inj, BitVec.toNat_ofNat, Nat.mod_eq_of_lt h]
  rfl

/-- The quotient and the remainder that the model takes of two numbers of w bits (R217). -/
def divPair (sg : Bool) (w a b : Nat) : BitVec w × BitVec w :=
  if sg then quotRemS w (BitVec.ofNat w a).toInt (BitVec.ofNat w b).toInt else quotRemU w a b

theorem toNat_divPair_signed {rm : Bool} {w a b : Nat} (ha : a < 2 ^ w) (hb : b < 2 ^ w) :
    (if rm then (divPair true w a b).2 else (divPair true w a b).1).toNat = divValue true rm w a b := by
  have hzero : (BitVec.ofNat w b).toInt = 0 ↔ b = 0 := sval_eq_zero hb
  rw [divPair, if_pos rfl, quotRemS, divValue]
  by_cases h : b = 0
  · rw [if_pos (hzero.2 h), if_pos h]
    cases rm
    · simp
    · simpa using Nat.mod_eq_of_lt ha
  · rw [if_neg fun h0 => h (hzero.1 h0), if_neg h]
    cases rm
    · exact toNat_ofInt_eq_wrapTo ..
    · exact toNat_ofInt_eq_wrapTo ..

theorem toNat_divPair_unsigned {rm : Bool} {w a b : Nat} (ha : a < 2 ^ w) :
    (if rm then (divPair false w a b).2 else (divPair false w a b).1).toNat = divValue false rm w a b := by
  have hq : a / b < 2 ^ w := lt_of_le_of_lt (Nat.div_le_self ..) ha
  have hr : a % b < 2 ^ w := lt_of_le_of_lt (Nat.mod_le ..) ha
  have hdiv : Int.tdiv (a : Int) b = ((a / b : Nat) : Int) := rfl
  have hmod : (a : Int) - ((a / b : Nat) : Int) * b = ((a % b : Nat) : Int) := by
    have h : ((a / b * b + a % b : Nat) : Int) = a := congrArg _ (Nat.div_add_mod' a b)
    rw [Nat.cast_add, Nat.cast_mul] at h
    omega
  rw [divPair, if_neg Bool.false_ne_true, quotRemU, divValue]
  by_cases h : b = 0
  · rw [if_pos h, if_pos h]
    cases rm
    · exact BitVec.toNat_allOnes
    · exact (BitVec.toNat_ofNat ..).trans (Nat.mod_eq_of_lt ha)
  · rw [if_neg h, if_neg h]
    simp only [divNum, Bool.false_eq_true, if_false, hdiv, hmod]
    cases rm
    · exact ((BitVec.toNat_ofNat ..).trans (Nat.mod_eq_of_lt hq)).trans (wrapTo_natCast hq).symm
    · exact ((BitVec.toNat_ofNat ..).trans (Nat.mod_eq_of_lt hr)).trans (wrapTo_natCast hr).symm

theorem toNat_divPair {rm : Bool} (sg : Bool) {w a b : Nat} (ha : a < 2 ^ w) (hb : b < 2 ^ w) :
    (if rm then (divPair sg w a b).2 else (divPair sg w a b).1).toNat = divValue sg rm w a b := by
  cases sg
  · exact toNat_divPair_unsigned ha
  · exact toNat_divPair_signed ha hb

/-! ### The instruction -/

/-- The value of a lane of a division. -/
def Opnd.divLane (o : Opnd) (f : XForm) (sg rm : Bool) (l : Nat) : DWord :=
  let r := divPair sg f.tyW (o.rdN f.a l f.tyW) (o.rdN f.b l f.tyW)
  if rm then r.2.setWidth 64 else r.1.setWidth 64

theorem Opnd.toNat_divLane {o : Opnd} {f : XForm} {sg rm : Bool} {l : Nat} (hf : o.f = f) (hl : l ∈ o.lanes) :
    (o.divLane f sg rm l).toNat = divValue sg rm f.tyW (o.rdN o.f.a l f.tyW) (o.rdN o.f.b l f.tyW) := by
  have hlt (c : BitVec 8) : o.rdN c l f.tyW < 2 ^ f.tyW := o.rdN_lt c (tyW_cases f) (o.le_of_mem_lanes hl)
  have hw : f.tyW ≤ 64 := by rcases tyW_cases f with h | h <;> omega
  rw [hf, ← toNat_divPair sg (hlt f.a) (hlt f.b), Opnd.divLane]
  cases rm <;> exact BitVec.toNat_setWidth_of_le hw

theorem Opnd.after_of_complete (o : Opnd) (s : State) (len : Nat) (v : Nat → DWord) :
    o.complete s len (some (o.lanes.map fun l => (l, v l))) id = .next (o.after s len (some v) 0) := by
  rw [Opnd.complete, Opnd.after, show (fun w : Warp => w.addFlags 0) = id from funext Warp.addFlags_zero]
  rfl

/-- A division that is ready raises for a zero divisor, or completes with its lanes' values (R217). -/
theorem divide_ready {s : State} {xop : Nat} {f : XForm} {o : Opnd} (sg rm : Bool) (h : Ready s (shapeInt xop f) f noExtra o) :
    divide s xop f sg rm =
      if o.i.mask ≠ 0 ∧ f.bit 0 = false ∧ ∃ l ∈ o.lanes, o.rdN o.f.b l f.tyW = 0 then raise s o.i 0x0A5
      else .next (o.after s f.len (some (o.divLane f sg rm)) 0) := by
  have hcond : (o.i.mask != 0 && !f.bit 0 && o.lanes.any fun l => o.rdN f.b l f.tyW == 0) = true ↔
      o.i.mask ≠ 0 ∧ f.bit 0 = false ∧ ∃ l ∈ o.lanes, o.rdN o.f.b l f.tyW = 0 := by
    rw [h.fields]
    simp [and_assoc]
  rw [divide, operate_ready h, ← o.after_of_complete]
  exact if_congr hcond rfl rfl

theorem divide_results {s : State} {xop : Nat} {f : XForm} {o : Opnd} (sg rm : Bool) (h : Ready s (shapeInt xop f) f noExtra o) :
    ((o.i.mask ≠ 0 ∧ f.bit 0 = false ∧ ∃ l ∈ o.lanes, o.rdN o.f.b l f.tyW = 0) → divide s xop f sg rm = raise s o.i 0x0A5) ∧
    ((o.i.mask = 0 ∨ f.bit 0 = true ∨ ∀ l ∈ o.lanes, o.rdN o.f.b l f.tyW ≠ 0) →
      ∃ v : Nat → DWord, divide s xop f sg rm = .next (o.after s f.len (some v) 0) ∧
        ∀ l ∈ o.lanes, (v l).toNat = divValue sg rm f.tyW (o.rdN o.f.a l f.tyW) (o.rdN o.f.b l f.tyW)) := by
  refine ⟨fun hz => (divide_ready sg rm h).trans (if_pos hz), fun hnz => ⟨_, (divide_ready sg rm h).trans (if_neg ?_),
    fun l hl => Opnd.toNat_divLane h.fields hl⟩⟩
  rintro ⟨hm, hnt, l, hl, hz⟩
  rcases hnz with h0 | h1 | hall
  · exact hm h0
  · rw [hnt] at h1; cases h1
  · exact hall l hl hz

/-- Settles O10: each row is the division of its signedness and result. -/
theorem divisionResultsAndZeroDivisor : Obligations.division_results_and_zero_divisor := by
  intro row hrow s f o h
  simp only [divisions, List.mem_cons, List.not_mem_nil, or_false] at hrow
  rcases hrow with rfl | rfl | rfl | rfl
  · exact divide_results true false h
  · exact divide_results false false h
  · exact divide_results true true h
  · exact divide_results false true h

end Sys2Proof.Machine

/-! ## Float results and slot conversions (O11, O13) -/
namespace Sys2Proof.Machine
open Sys2Proof

/-! ### A completed instruction with flags -/

/-- A warp's change by an instruction's flags, and by a stochastic conversion's count (R76, R80). -/
def Warp.flagged (sr : Bool) (fl : Flags5) (w : Warp) : Warp := if sr then (w.addFlags fl).bumpSr else w.addFlags fl

theorem Warp.flagged_eq (sr : Bool) (fl : Flags5) :
    Warp.flagged sr fl = fun w => if sr then (w.addFlags fl).bumpSr else w.addFlags fl := rfl

theorem Warp.flagged_bare (sr : Bool) (fl : Flags5) (w : Warp) : (w.flagged sr fl).bare = w.bare.flagged sr fl := by
  cases sr <;> rfl

theorem Warp.flagged_key (sr : Bool) (fl : Flags5) (w : Warp) : (w.flagged sr fl).key = w.key := by cases sr <;> rfl

theorem Warp.flagged_regs (sr : Bool) (fl : Flags5) (w : Warp) : (w.flagged sr fl).regs = w.regs := by cases sr <;> rfl

/-- A field that is neither register nor stream is as the flags and the count leave it. -/
theorem Opnd.warpAfter_flagged {α : Type} (g : Warp → α) (hg : ∀ w, g w.bare = g w) (o : Opnd) (id : Nat)
    (res : Option (List (Nat × DWord))) (sr : Bool) (fl : Flags5) (wp : Warp) :
    g (o.warpAfter id res (Warp.flagged sr fl) wp) = if o.i.mask = 0 then g wp else g (wp.flagged sr fl) := by
  have h := o.warpAfter_bare id res (upd := Warp.flagged sr fl) wp fun w v hwv => by
    rw [Warp.flagged_bare, hwv, Warp.flagged_bare]
  split at h
  next hm => rw [if_pos hm, of_bare g hg h]
  next hm => rw [if_neg hm, of_bare g hg h]

/-- An instruction whose destination decides its class is no scalar where that is a v register (R43). -/
theorem Opnd.vNum_of_scalar {o : Opnd} (he : o.sh.exec = .byDst) {n : Nat} {cl : DstSet} {rd : Bool} (hd : o.sh.d = .dst n cl rd)
    (hs : o.scalar = true) : o.vNum o.f.d = none := by
  unfold Opnd.scalar isScalar at hs
  simp only [he, hd] at hs
  unfold Opnd.vNum
  split at hs <;> simp_all

section
variable {o : Opnd} {s : State} (hi : s.issuing = some o.i) (hw : o.sh.d.width = 32 ∨ o.sh.d.width = 64)
  (hsc : o.scalar = true → o.vNum o.f.d = none)
include hi hw hsc

/-- What an instruction leaves that completes with a result, flags and, where it rounds stochastically, a count. -/
theorem Opnd.gives_complete (len : Nat) (g : Nat → DWord × Flags5) (sr : Bool) :
    o.Gives s len g sr (o.complete s len (some (o.lanes.map fun l => (l, (g l).1)))
      (Warp.flagged sr (orFlags (o.lanes.map fun l => (g l).2)))) := by
  have hat := o.warpAt_commit (res := some (o.lanes.map fun l => (l, (g l).1)))
    (upd := Warp.flagged sr (orFlags (o.lanes.map fun l => (g l).2))) hi (Warp.flagged_key _ _)
  have hregs := Warp.flagged_regs sr (orFlags (o.lanes.map fun l => (g l).2))
  have hland := Opnd.warpAfter_landed (o := o) (id := s.nextId) (v := fun l => (g l).1) hw hregs
  have hzero := Opnd.warpAfter_zeroed (o := o) (id := s.nextId) (v := fun l => (g l).1) hw hregs
  have hspare := Opnd.warpAfter_spared (o := o) (id := s.nextId) (v := fun l => (g l).1) hw hregs hsc
  have hkeep {α : Type} (p : Warp → α) (hp : ∀ w, p w.bare = p w) :=
    Opnd.warpAfter_flagged p hp o s.nextId (some (o.lanes.map fun l => (l, (g l).1))) sr (orFlags (o.lanes.map fun l => (g l).2)) o.i.w
  have hpcs := hkeep Warp.pcs fun _ => rfl
  have hflags := hkeep Warp.flags fun _ => rfl
  have hsr := hkeep Warp.srseq fun _ => rfl
  have hm := hkeep Warp.m fun _ => rfl
  have hx := hkeep Warp.x fun _ => rfl
  have hmode := hkeep Warp.mode fun _ => rfl
  have hup {α : Type} (p : Warp → α) {fl : Flags5} (h : p (o.i.w.flagged sr fl) = p o.i.w) :
      (if o.i.mask = 0 then p o.i.w else p (o.i.w.flagged sr fl)) = p o.i.w := by rw [h, ite_self]
  refine ⟨_, _, rfl, State.warpAt_retire _ _ _ hat, ?_, flightGoesOn_retire (o.commit_flights ..), hland, ?_, ?_, hzero, hspare,
    hm.trans (hup Warp.m (by cases sr <;> rfl)), hx.trans (hup Warp.x (by cases sr <;> rfl)),
    hmode.trans (hup Warp.mode (by cases sr <;> rfl)), ?_, ?_, ?_, fun a => ?_⟩
  · exact threadsGo_moveLanes (congrArg (moveLanes (o.i.nxt len) o.i.fl.active)
      (hpcs.trans (hup Warp.pcs (by cases sr <;> rfl))))
  · exact hflags.trans (by cases sr <;> rfl)
  · refine hsr.trans ?_
    cases sr
    · simp [Warp.flagged, Warp.addFlags]
    · by_cases h0 : o.i.mask = 0 <;> simp [h0, Warp.flagged, Warp.bumpSr, Warp.addFlags]
  all_goals simp

end

/-- What a lane-by-lane instruction whose destination decides its class leaves where it is ready. -/
theorem aluOp_gives {s : State} {sh : Shape} {f : XForm} {o : Opnd} {len n : Nat} {cl : DstSet} {rd : Bool}
    {fn : Opnd → Nat → DWord × Flags5} (h : Ready s sh f noExtra o) (he : sh.exec = .byDst) (hd : sh.d = .dst n cl rd)
    (hn : n = 32 ∨ n = 64) : o.Gives s len (fn o) false (aluOp s len sh f fn) := by
  have hsh := h.shape
  rw [aluOp, operate_ready h]
  have hg := Opnd.gives_complete h.issues (by rw [hsh, hd]; exact hn) (o.vNum_of_scalar (by rw [hsh, he]) (by rw [hsh, hd])) len (fn o) false
  simpa only [List.map_map, Function.comp_def, Warp.flagged_eq, Bool.false_eq_true, if_false] using hg

/-! ### Additions, products, divisions and minima -/

/-- A base float operation's value, as a lane's. -/
theorem baseF2_gives {s : State} {op : Nat} {f : RForm} {o : Opnd} {p : PfxOk} (g : FOp) (hs : baseShape op f.toX = shapeDab p)
    (h : Ready s (baseShape op f.toX) f.toX noExtra o) :
    o.Gives s 4 (fun l => codeLane (g.elem o.i.w.ftz o.i.rndNoSr fp32 (o.rdN o.f.a l 32) (o.rdN o.f.b l 32))) false (baseF2 s op f g) :=
  aluOp_gives h (by rw [hs]; rfl) (by rw [hs]; rfl) (.inl rfl)

theorem extF2_gives {s : State} {xop m : Nat} {f : XForm} {o : Opnd} (g : FOp) (hs : shapeFloat xop f false = fltShape f true true false m)
    (h : Ready s (shapeFloat xop f false) f noExtra o) :
    o.Gives s f.len (fun l => perElem f.ty.toNat (fun fm x => g.elem o.i.w.ftz o.i.rndNoSr fm (x 0) (x 1)) fun j =>
      if j = 0 then o.rdN f.a l 32 else if j = 1 then o.rdN f.b l 32 else o.rdN f.c l 32) false (extF2 s xop f g) := by
  have he : (shapeFloat xop f false).exec = .byDst := by rw [hs]; rfl
  have hd : (shapeFloat xop f false).d = dstR 32 := by rw [hs]; rfl
  unfold extF2 extF
  generalize shapeFloat xop f false = sh at *
  exact aluOp_gives h he hd (.inl rfl)

/-- Settles O11: each is an instruction of 32-bit results whose destination decides its class. -/
theorem floatArithmeticResults : Obligations.float_arithmetic_results := by
  constructor
  · intro row hrow s f o h
    simp only [baseFloat, List.mem_cons, List.not_mem_nil, or_false] at hrow
    rcases hrow with rfl | rfl | rfl | rfl | rfl
    · exact baseF2_gives .add rfl h
    · exact baseF2_gives .sub rfl h
    · exact baseF2_gives .mul rfl h
    · exact baseF2_gives .min rfl h
    · exact baseF2_gives .max rfl h
  · intro row hrow s f o h
    simp only [extFloat2, List.mem_cons, List.not_mem_nil, or_false] at hrow
    rcases hrow with rfl | rfl | rfl | rfl | rfl | rfl | rfl | rfl
    · exact extF2_gives .add rfl h
    · exact extF2_gives .sub rfl h
    · exact extF2_gives .mul rfl h
    · exact extF2_gives .min rfl h
    · exact extF2_gives .max rfl h
    · exact extF2_gives .minm rfl h
    · exact extF2_gives .maxm rfl h
    · exact extF2_gives .div rfl h

/-! ### Conversions through slots -/

/-- A conversion through slots gives what its final fields make of it, and counts where it rounds stochastically (R80, R170). -/
theorem slotOp_gives {s : State} {f : XForm} {sh : Shape} {i : Iss} {o : Opnd} {n : Nat} {cl : DstSet} {rd : Bool}
    {pre fin : Opnd → Shape} {chk : Opnd → Option Cause} {fn : Opnd → Nat → DWord × Flags5} {dst : Opnd → Nat}
    (hi : s.issuing = some i) (hpre : (Opnd.withShape ⟨i, f, sh⟩ (pre ⟨i, f, sh⟩)).check1to7 = none) (hchk : chk ⟨i, f, sh⟩ = none)
    (h : Ready s (fin ⟨i, f, sh⟩) f noExtra o) (he : (fin ⟨i, f, sh⟩).exec = .byDst) (hd : (fin ⟨i, f, sh⟩).d = .dst n cl rd)
    (hn : n = 32 ∨ n = 64) :
    o.Gives s f.len (fn o) (isStochastic o (dst o)) (slotOp s f sh pre chk fin fn dst) := by
  have hsh := h.shape
  rw [slotOp, issue_of_issuing hi]
  simp only [hpre, hchk]
  rw [operate_ready h]
  have hg := Opnd.gives_complete h.issues (by rw [hsh, hd]; exact hn) (o.vNum_of_scalar (by rw [hsh, he]) (by rw [hsh, hd])) f.len (fn o)
    (isStochastic o (dst o))
  simpa only [List.map_map, Function.comp_def, Warp.flagged_eq] using hg

theorem cvtShape_d (o : Opnd) (f : XForm) : ∃ n, (n = 32 ∨ n = 64) ∧ (cvtShape o f).d = dstR n := by
  by_cases h : 32 < 2 ^ f.fld 7 6 * fmtBits (slotFmt (o.i.slot (f.fld 2 0)))
  · exact ⟨64, .inr rfl, by simp only [cvtShape, if_pos h]⟩
  · exact ⟨32, .inl rfl, by simp only [cvtShape, if_neg h]⟩

/-- An instruction of EXT.FLOAT with the fields that it has before its slots are read (R170). -/
def Iss.unslotted (i : Iss) (xop : Nat) (f : XForm) : Opnd := ⟨i, f, shapeFloat xop f false⟩

section
variable {s : State} {i : Iss} {o : Opnd} (hi : s.issuing = some i)
include hi

theorem execCvt_gives (hpre : ((i.unslotted 0x1B o.f).withShape (cvtPre (i.unslotted 0x1B o.f) o.f)).check1to7 = none)
    (hchk : cvtCheck o.f (i.unslotted 0x1B o.f) = none)
    (h : Ready s (cvtShape (i.unslotted 0x1B o.f) o.f) o.f noExtra o) :
    o.Gives s o.f.len (cvtLane o.f o) (isStochastic o (slotFmt (o.i.slot (o.f.fld 2 0)))) (execCvt o.f s) := by
  obtain ⟨n, hn, hd⟩ := cvtShape_d (i.unslotted 0x1B o.f) o.f
  exact slotOp_gives hi hpre hchk h rfl hd hn

theorem execPack_gives (hpre : ((i.unslotted 0x1E o.f).withShape (shapeFloat 0x1E o.f false)).check1to7 = none)
    (hchk : packCheck o.f (i.unslotted 0x1E o.f) = none) (h : Ready s (shapeFloat 0x1E o.f false) o.f noExtra o) :
    o.Gives s o.f.len (packLane o.f o) (isStochastic o (slotFmt (o.i.slot (o.f.fld 2 0)))) (execPack o.f s) :=
  slotOp_gives hi hpre hchk h rfl rfl (.inl rfl)

theorem execUnpack_gives
    (hpre : ((i.unslotted 0x1F o.f).withShape (unpackShape (i.unslotted 0x1F o.f) o.f)).check1to7 = none)
    (hchk : unpackCheck o.f (i.unslotted 0x1F o.f) = none)
    (h : Ready s (unpackShape (i.unslotted 0x1F o.f) o.f) o.f noExtra o) :
    o.Gives s o.f.len (unpackLane o.f o) (isStochastic o 1) (execUnpack o.f s) :=
  slotOp_gives hi hpre hchk h rfl rfl (.inl rfl)

end

/-- Settles O13: the three are the conversions through slots, each with its fields. -/
theorem slotConversionResults : Obligations.slot_conversion_results := by
  intro row hrow s f i o o0 hi hpre hchk h
  obtain rfl : o.f = f := h.fields
  simp only [slotConversions, List.mem_cons, List.not_mem_nil, or_false] at hrow
  rcases hrow with rfl | rfl | rfl
  · exact execCvt_gives hi hpre hchk h
  · exact execPack_gives hi hpre hchk h
  · exact execUnpack_gives hi hpre hchk h

end Sys2Proof.Machine

/-! ## Representable values (O14) -/
namespace Sys2Proof.Machine
open Sys2Proof

/-- Without a remainder and without a tail there is nothing to round up. -/
theorem roundUp_exact (mode : Nat) (neg : Bool) (t k u b : Nat) : roundUp mode neg t 0 k false u b = false := by
  have hhalf : 2 ^ k ≠ 0 := (Nat.two_pow_pos k).ne'
  unfold roundUp
  dsimp only
  split <;> simp [Ne.symm hhalf]

/-- A code is its sign bit and its magnitude (R63). -/
theorem Fmt.sign_add_magnitude {f : Fmt} {c : Nat} (hb : f.bits ≠ 0) (hc : c < 2 ^ f.bits) :
    f.sign (c.testBit (f.bits - 1)) + c % 2 ^ (f.bits - 1) = c := by
  have hpow : 2 ^ f.bits = 2 * 2 ^ (f.bits - 1) := by rw [← pow_succ']; congr 1; omega
  have hq : c / 2 ^ (f.bits - 1) < 2 := by
    rw [Nat.div_lt_iff_lt_mul (Nat.two_pow_pos _), ← hpow]
    exact hc
  have hdm := Nat.div_add_mod c (2 ^ (f.bits - 1))
  rw [Fmt.sign, Nat.testBit_eq_decide_div_mod_eq, Nat.mod_eq_of_lt hq]
  generalize c / 2 ^ (f.bits - 1) = q at hq hdm ⊢
  interval_cases q
  · simpa using hdm
  · simpa using hdm

/-- A significand of a format's own fineness, not above the format, is rounded to the code it stands for, with no flag. -/
theorem roundTo_of_aligned {f : Fmt} {neg : Bool} {m : Nat} {e : Int} (hm : m ≠ 0)
    (hex : max (e + (Nat.log2 m : Int)) (1 - (f.bias : Int)) = e + f.frac)
    (hmax : (e + f.frac - (1 - (f.bias : Int))).toNat * 2 ^ f.frac + m ≤ f.maxFin) (mode u b : Nat) :
    roundTo f mode false u b (.fin neg m e false) =
      ⟨f.sign neg + ((e + f.frac - (1 - (f.bias : Int))).toNat * 2 ^ f.frac + m), 0⟩ := by
  simp only [roundTo, hex]
  simp [hm, roundUp_exact, flagIf, Nat.not_lt.2 hmax]

/-- Rounding a finite value of a format gives its code back. -/
theorem roundTo_decode_finite {f : Fmt} (neg : Bool) {mag : Nat} (hmag : mag ≤ f.maxFin) (mode u b : Nat) :
    roundTo f mode false u b
      (if mag / 2 ^ f.frac = 0 then .fin neg (mag % 2 ^ f.frac) (1 - (f.bias : Int) - f.frac) false
      else .fin neg (2 ^ f.frac + mag % 2 ^ f.frac) (((mag / 2 ^ f.frac : Nat) : Int) - f.bias - f.frac) false) =
      ⟨f.sign neg + mag, 0⟩ := by
  have hdm := Nat.div_add_mod mag (2 ^ f.frac)
  have hlt := Nat.mod_lt mag (Nat.two_pow_pos f.frac)
  split
  next hsub =>
    have hfr : mag % 2 ^ f.frac = mag := by simpa [hsub] using hdm
    rw [hfr] at hlt ⊢
    by_cases h0 : mag = 0
    · simp [roundTo, h0]
    · have hlog : Nat.log2 mag < f.frac := (Nat.log2_lt h0).2 hlt
      rw [roundTo_of_aligned h0 (by omega) (by simpa using hmag)]
      simp
  next hnorm =>
    have hlog : Nat.log2 (2 ^ f.frac + mag % 2 ^ f.frac) = f.frac := by
      rw [Nat.log2_eq_iff (by positivity), pow_succ]
      omega
    have hcode : (mag / 2 ^ f.frac - 1) * 2 ^ f.frac + (2 ^ f.frac + mag % 2 ^ f.frac) = mag := by
      obtain ⟨q, hq⟩ := Nat.exists_eq_succ_of_ne_zero hnorm
      rw [hq] at hdm ⊢
      rw [Nat.succ_sub_one]
      linarith [show 2 ^ f.frac * q.succ = q * 2 ^ f.frac + 2 ^ f.frac by rw [Nat.succ_eq_add_one]; ring]
    generalize mag / 2 ^ f.frac = q at hnorm hcode ⊢
    have hexp : (((q : Int) - f.bias - f.frac) + f.frac - (1 - (f.bias : Int))).toNat = q - 1 := by omega
    rw [roundTo_of_aligned (by positivity) (by rw [hlog]; omega) (by rw [hexp, hcode]; exact hmag), hexp, hcode]

/-- Settles O14: an infinity is its own code, and a finite value has the fineness of its format. -/
theorem roundingKeepsRepresentableValues : Obligations.rounding_keeps_representable_values := by
  intro f hf c mode u b hc hnan
  have hb : f.bits ≠ 0 := by
    simp only [List.mem_cons, List.not_mem_nil, or_false] at hf
    rcases hf with rfl | rfl | rfl | rfl | rfl | rfl <;> decide
  have hcode := Fmt.sign_add_magnitude hb hc
  unfold decodeFmt at hnan ⊢
  dsimp only at hnan ⊢
  split
  next hinf =>
    rw [Bool.and_eq_true, beq_iff_eq] at hinf
    simp [roundTo, hinf.1, ← hinf.2, hcode, Nat.add_assoc]
  next hfin =>
    rw [if_neg hfin] at hnan
    split
    next hbig => rw [if_pos hbig] at hnan; simp [FVal.isNan] at hnan
    next hle => rw [roundTo_decode_finite _ (Nat.not_lt.1 hle), hcode]

end Sys2Proof.Machine

/-! ## Reduction trees (O17) -/
namespace Sys2Proof.Machine
open Sys2Proof

theorem Opnd.complete_result (o : Opnd) (s : State) (len : Nat) (v : Nat → DWord) (fl : Flags5) :
    o.complete s len (some (o.lanes.map fun l => (l, v l))) (fun w => w.addFlags fl) = .next (o.after s len (some v) fl) := rfl

/-- What an instruction that reads across lanes leaves where no entry that it reads is poisoned (R253, R413). -/
theorem crossOp_clean {s : State} {sh : Shape} {f : XForm} {o : Opnd} {reads : Opnd → List Nat} {fn : Opnd → Nat → DWord}
    {fl : Opnd → Flags5} (h : Ready s sh f noExtra o) (hclean : o.lanesPoisoned (reads o) = false) :
    crossOp s sh f reads fn fl = .next (o.after s f.len (some (fn o)) (fl o)) := by
  rw [crossOp, operate_ready h, hclean, if_neg Bool.false_ne_true, o.complete_result]

theorem joinNodes_isSome (op : Nat → Nat → Nat × Flags5) (a b : Option Nat × Flags5) :
    (joinNodes op a b).1.isSome = true ↔ a.1.isSome = true ∨ b.1.isSome = true := by
  obtain ⟨a, fa⟩ := a
  obtain ⟨b, fb⟩ := b
  cases a <;> cases b <;> simp [joinNodes]

/-- A node has a value where a lane below it has one (R87). -/
theorem treeNode_isSome_iff (op : Nat → Nat → Nat × Flags5) (v : Nat → Option Nat) (j lo : Nat) :
    (treeNode op v j lo).1.isSome = true ↔ ∃ l, lo ≤ l ∧ l < lo + 2 ^ j ∧ (v l).isSome = true := by
  induction j generalizing lo with
  | zero =>
    refine ⟨fun h => ⟨lo, le_rfl, by omega, h⟩, fun ⟨l, hlo, hhi, hl⟩ => ?_⟩
    obtain rfl : l = lo := by omega
    exact hl
  | succ j ih =>
    rw [treeNode, joinNodes_isSome, ih, ih, pow_succ]
    constructor
    · rintro (⟨l, hlo, hhi, hl⟩ | ⟨l, hlo, hhi, hl⟩)
      · exact ⟨l, hlo, by omega, hl⟩
      · exact ⟨l, by omega, by omega, hl⟩
    · rintro ⟨l, hlo, hhi, hl⟩
      by_cases hmid : l < lo + 2 ^ j
      · exact .inl ⟨l, hlo, hmid, hl⟩
      · exact .inr ⟨l, by omega, by omega, hl⟩

/-- Settles O17: both read the lanes of their mask, and a node joins the nodes of its halves. -/
theorem reductionTrees : Obligations.reduction_trees := by
  refine ⟨fun s f o h hclean => ?_, fun s f o h hclean => ?_, treeNode_isSome_iff⟩
  · rw [show exec (.redux f) s = execRedux f s from rfl, execRedux, crossOp_clean h hclean]
    rfl
  · rw [show exec (.scan f) s = execScan f s from rfl, execScan, crossOp_clean h hclean]

end Sys2Proof.Machine

/-! ## Index and status registers (O18) -/
namespace Sys2Proof.Machine
open Sys2Proof

/-! ### Index registers -/

/-- The warp of an instruction whose only effect on it beside its pops is upd. -/
theorem Opnd.warpAt_afterUpd {o : Opnd} {s : State} {upd : Warp → Warp} (hi : s.issuing = some o.i) (hm : o.i.mask ≠ 0)
    (hkey : ∀ w, (upd w).key = w.key) (len : Nat) : ∃ pcs,
    (o.afterUpd s len upd).warpAt o.i.w.key = some { upd (o.popAll s.nextId o.i.w) with pcs := pcs } := by
  have hat := o.warpAt_commit (res := none) hi hkey
  rw [Opnd.warpAfter, if_neg hm, Option.isSome_none, if_neg Bool.false_ne_true] at hat
  exact ⟨_, State.warpAt_retire len o.f.lnd _ hat⟩

theorem Opnd.xReg_popAll (o : Opnd) (id n : Nat) (w : Warp) : (o.popAll id w).xReg n = w.xReg n := by
  obtain ⟨-, -, hx⟩ := Warp.regs_eq (o.popAll_regs id w)
  rw [Warp.xReg, hx, Warp.xReg]

theorem Warp.xReg_setX (w : Warp) (n : Nat) (x : XReg) : (w.setX n x).xReg n = x := by
  rw [Warp.xReg, Warp.setX, SMap.get_set, if_pos rfl]

/-- An instruction that changes an index register leaves it with what the change makes of its old value (R154, R155). -/
theorem Opnd.xReg_afterUpd {o : Opnd} {s : State} (hi : s.issuing = some o.i) (hm : o.i.mask ≠ 0) (len n : Nat) (g : XReg → XReg) :
    ∃ w, (o.afterUpd s len fun w => w.setX n (g (w.xReg n))).warpAt o.i.w.key = some w ∧ w.xReg n = g (o.i.w.xReg n) := by
  obtain ⟨pcs, hw⟩ := o.warpAt_afterUpd (upd := fun w => w.setX n (g (w.xReg n))) hi hm (fun _ => rfl) len
  exact ⟨_, hw, (Warp.xReg_setX ..).trans (by rw [o.xReg_popAll])⟩

theorem xsetVal_eq (opr imm : Nat) (x : XReg) (a : Word) : xsetVal opr x.val imm a =
    let n : Int := match opr with
      | 0 => a.toNat
      | 1 => imm
      | 2 => x.val + a.toInt
      | _ => x.val + sval 8 imm
    if 0 ≤ n ∧ n ≤ 255 then n.toNat else 255 := by
  match opr with
  | 0 => rfl
  | 1 => rfl
  | 2 => rfl
  | _ + 3 => rfl

/-! ### Status registers -/

theorem wrsrValue_eq (opr : Nat) (old a : Word) : wrsrValue opr old a =
    match opr with
    | 0 => a
    | 1 => old ||| a
    | _ => old &&& ~~~a := by
  match opr with
  | 0 => rfl
  | 1 => rfl
  | _ + 2 => rfl

/-- What WRSR answers where it is ready and no flags are due: the cause, or the register written (R169). -/
theorem execWrsr_ready {s : State} {f : XForm} {o : Opnd} (h : Ready s (shapeSys 0x03 f) f (wrsrCheck f) o)
    (hdue : f.d.toNat = 1 → s.flagsDue o.i.w = false) {v : Word}
    (hv : v = wrsrValue (f.fld 1 0) (statusReg s o.i f.d.toNat) (o.rd f.a warpLane)) :
    exec (.wrsr f) s =
      if statusValueOk f.d.toNat v = false then raise s o.i 0x027
      else .next ((writeStatus (o.commit s none id).1 o.i f.d.toNat v).retire o.i f.len f.lnd (o.commit s none id).2) := by
  rw [show exec (.wrsr f) s = execWrsr f s from rfl, execWrsr, operate_ready h]
  have hnd : (decide (f.d.toNat = 1) && s.flagsDue o.i.w) = false := by
    by_cases h1 : f.d.toNat = 1
    · rw [hdue h1, Bool.and_false]
    · rw [decide_eq_false h1, Bool.false_and]
  simp [hnd, hv]

/-- What writing a status register changes (R163, R167). -/
theorem writeStatus_warpAt {s : State} {i : Iss} {w : Warp} (hw : s.warpAt i.w.key = some w) (n : Nat) (v : Word) :
    ∃ u, (writeStatus s i n v).warpAt i.w.key = some u ∧ (n = 0 → u.mode = v) ∧ (n = 1 → u.flags = v) ∧ (n = 2 → u.srseq = v) := by
  have hupd {f : Warp → Warp} (hf : ∀ w, (f w).key = w.key) := State.warpAt_updWarp_same hf hw
  match n with
  | 0 => exact ⟨_, hupd (f := fun w => { w with mode := v }) fun _ => rfl, by simp, by simp, by simp⟩
  | 1 => exact ⟨_, hupd (f := fun w => { w with flags := v }) fun _ => rfl, by simp, by simp, by simp⟩
  | 2 => exact ⟨_, hupd (f := fun w => { w with srseq := v }) fun _ => rfl, by simp, by simp, by simp⟩
  | 3 => exact ⟨_, hw, by simp, by simp, by simp⟩
  | 4 => exact ⟨_, hw, by simp, by simp, by simp⟩
  | _ + 5 => exact ⟨_, hw, by simp, by simp, by simp⟩

theorem writeStatus_limit {s : State} {i : Iss} {g : Workgroup} (hg : s.wgAt i.w.wg = some g) (v : Word) :
    ∃ h, (writeStatus s i 4 v).wgAt i.w.wg = some h ∧ h.infltLimit = v :=
  ⟨_, State.wgAt_updWg_same (f := fun g => { g with infltLimit := v }) (fun _ => rfl) hg, rfl⟩

/-- Settles O18: each by what it answers where it is ready. -/
theorem statusAndIndexRegisters : Obligations.status_and_index_registers := by
  refine ⟨fun s f o h hm => ?_, fun s f o h hm => ?_, fun s f o h => ?_, fun s f o h hdue => ?_, fun s f o h hdue => ?_⟩
  · rw [show exec (.xset f) s = execXset f s from rfl, execXset, operate_ready h]
    obtain ⟨w, hw, hx⟩ := o.xReg_afterUpd h.issues hm f.len f.d.toNat
      fun x => { x with val := xsetVal (f.fld 9 8) x.val (f.fld 7 0) (o.rd f.a warpLane) }
    exact ⟨_, w, rfl, hw, hx.trans (by rw [xsetVal_eq] <;> rfl)⟩
  · rw [show exec (.xwin f) s = execXwin f s from rfl, execXwin, operate_ready h]
    obtain ⟨w, hw, hx⟩ := o.xReg_afterUpd h.issues hm f.len f.d.toNat fun _ => ⟨f.fld 7 0, f.fld 7 0, f.fld 15 8⟩
    exact ⟨_, w, rfl, hw, hx⟩
  · rw [show exec (.rdid f) s = execRdid f s from rfl, execRdid, operate_ready h, o.after_of_complete]
  · have hnd : (decide (f.a = 1) && s.flagsDue o.i.w) = false := by
      by_cases h1 : f.a = 1
      · rw [hdue h1, Bool.and_false]
      · rw [decide_eq_false h1, Bool.false_and]
    rw [show exec (.rdsr f) s = execRdsr f s from rfl, execRdsr, operate_ready h, hnd, if_neg Bool.false_ne_true, o.after_of_complete]
  · intro old a v
    have hv : v = wrsrValue (f.fld 1 0) old a := (wrsrValue_eq ..).symm
    rw [execWrsr_ready h hdue hv]
    clear_value v
    refine ⟨fun hbad => if_pos hbad, fun hok => ?_⟩
    rw [if_neg (by rw [hok]; exact Bool.noConfusion)]
    obtain ⟨u, hu, hmode, hflags, hsr⟩ := writeStatus_warpAt (o.warpAt_commit (res := none) (upd := id) h.issues fun _ => rfl)
      f.d.toNat v
    refine ⟨_, _, rfl, State.warpAt_retire f.len f.lnd _ hu, fun hd => hmode (by rw [hd]; rfl), fun hd => hflags (by rw [hd]; rfl),
      fun hd => hsr (by rw [hd]; rfl), fun hd => ?_⟩
    have hg : (o.commit s none id).1.wgAt o.i.w.wg = some o.i.wg :=
      (State.wgAt_congr (o.commit_wgs ..) _).trans (State.issuing_wgAt h.issues)
    obtain ⟨g, hg, hlim⟩ := writeStatus_limit hg v
    exact ⟨g, (State.wgAt_congr (State.retire_wgs ..) _).trans (by rw [hd]; exact hg), hlim⟩

end Sys2Proof.Machine


/-! ## A chunk of a record whose operation is not one of the eight (O37)

The statement bounds the operation of a record nowhere, and asks the chunk's destination to stay clear of the record's barrier object
only for the operations 0, 2 and 3. The model writes the chunk of every operation that names neither global memory nor a bay into the
scratchpad, so a record of operation 8 overwrites the object it counts down on. KICK makes no such record: the counterexample is a
state, not a run. -/

namespace Sys2Proof.Machine
open Sys2Proof

/-- A record of operation 8 of 16 bytes, all issued as one chunk, that counts down at offset 256. -/
def strayRecord : CopyRec :=
  { id := 3, warp := ⟨0, 0⟩, wg := ⟨0, 0, 0⟩, op := 8, src := 0, dst := 256, rows := 1, rowb := 16, sstr := 0, dstr := 0, bar := some 256,
    slot := 0, aux := 0, arg := none, admitted := true, row := 1, ofs := 0, open_ := 1, suspended := none, bayTiles := [], fences := [] }

/-- Its chunk, whose destination is the object. -/
def strayChunk : Chunk :=
  { id := 4, rec_ := 3, src := 0, dst := 256, bytes := 16, elem := 0, dstVa := 0, scales := [], srcKey := ⟨0, 0⟩, dstKey := ⟨0, 0⟩ }

/-- The scratchpad of a live object at offset 256 with nothing pending and nothing counted: only its state byte is not zero. -/
def liveObject : List Host.Cell := [(271, 0x40)]

/-- A device with one resident workgroup, whose scratchpad is the object, and the chunk about to be performed. -/
def strayState : State :=
  let s := State.reset.placeWords []
  { s with
    wgs := s.wgs.map fun (g : Workgroup) => { g with scratch := liveObject }
    records := [strayRecord]
    chunks := [strayChunk] }

theorem strayState_chunk : (strayState.chunks.find? fun x => x.id = strayChunk.id) = some strayChunk := by decide +kernel

theorem strayState_record : (strayState.records.find? fun x => x.id = strayChunk.rec_) = some strayRecord := by decide +kernel

theorem strayState_scratch : (strayState.wgAt strayRecord.wg).map (·.scratch) = some liveObject := by decide +kernel

theorem liveObject_is : ObjIs liveObject 256 ⟨0, 0, 0, 0, 1, 0, 0, 0⟩ := by
  unfold ObjIs
  decide +kernel

/-- The chunk leaves the zero bytes of its source where the object was, and counts down on nothing. -/
theorem strayState_performed : (match exec (.chunkPerformed strayChunk.id) strayState with
    | .next t => (t.wgAt strayRecord.wg).map fun g => readLE g.scratch (256 + 14) 2
    | _ => none) = some 0 := by decide +kernel

/-- Refutes O37: in `strayState` a chunk of a record with operation 8 has the record's live object as its destination. The statement's
last but one clause then promises the object counted down and still live, since its premise keeps only the destinations of the
operations 0, 2 and 3 clear of the object, and the model leaves the 16 zero bytes of the source there. -/
theorem not_copyChunksMoveBytes : ¬ Obligations.copy_chunks_move_bytes := by
  unfold Obligations.copy_chunks_move_bytes
  rintro ⟨-, performed⟩
  obtain ⟨t, ht, -, -, -, -, -, -, -, -, object, -⟩ := performed strayState strayChunk strayRecord strayState_chunk strayState_record
    (fun h => absurd h (by decide)) (fun h => absurd h (by decide))
  obtain ⟨g, hg, hscratch⟩ := Option.map_eq_some_iff.mp strayState_scratch
  obtain ⟨g', hg', -, -, -, -, -, -, -, -, hstate⟩ := object 256 ⟨0, 0, 0, 0, 1, 0, 0, 0⟩ g rfl hg (hscratch ▸ liveObject_is)
    (fun h => absurd h (by decide))
  have hzero := strayState_performed
  rw [ht] at hzero
  simp only [hg', Option.map_some, Option.some.injEq] at hzero
  exact absurd (hstate.symm.trans hzero) (by decide)

end Sys2Proof.Machine


/-! ## A team pass whose list of parts names another entry (O48)

The completion of a team pass performs every queued entry that its list of ids names, and the statement neither asks those entries to
be parts of the pass nor bounds what they do: the only premise on them, that none is a part that reads poison, holds of every entry that
is no part of a team pass. MMAT never names such an entry: the counterexample is a state, not a run. -/

namespace Sys2Proof.Machine
open Sys2Proof

/-- A started team pass at the head of a queue whose list names the entry 2 alone. -/
def strayTeam : MEntry :=
  { id := 1, warp := 0, wg := ⟨0, 0, 0⟩, pc := 0, work := .team 0 0 0 0 0 1 true ⟨0, 0, 0⟩ 0 16 0 none [2], started := true, fences := [] }

/-- The entry 2: an SCLD of the scratchpad's first 64 bytes. -/
def strayLoad : MEntry :=
  { id := 2, warp := 0, wg := ⟨0, 0, 0⟩, pc := 0, work := .scld 0 0 1, started := false, fences := [] }

/-- A device with one resident workgroup, whose scratchpad is poisoned at its start, and the two entries on its core's queue. -/
def strayTeamState : State :=
  let s := State.reset.placeWords []
  { s with
    wgs := s.wgs.map fun (g : Workgroup) => { g with scratchPoison := [0] }
    cores := s.cores.map fun (c : Core) => { c with mq := [strayTeam, strayLoad] } }

theorem strayTeamState_queue : strayTeamState.mqOf 0 = [strayTeam, strayLoad] := by decide +kernel

theorem strayTeamState_clean : (strayTeamState.partsOf strayTeam).any (fun p => strayTeamState.partBad p.2) = false := by decide +kernel

theorem strayTeamState_runs : (strayTeamState.warps.any fun w => !w.pcs.isEmpty) = true := by decide +kernel

/-- The SCLD reads the poison: its workgroup ends, and with it the threads of its warp. -/
theorem strayTeamState_completed : (match exec (.matrixPassComplete 0) strayTeamState with
    | .next t => t.warps.any fun w => !w.pcs.isEmpty
    | _ => true) = false := by decide +kernel

/-- Refutes O48: the last clause lets a team pass name any queued entries as its parts. In `strayTeamState` the head's list names an SCLD
of poisoned bytes, which is no part that reads poison (`partBad` asks for a team pass); the completion performs it, its workgroup ends,
and the warps are not as before. -/
theorem not_matrixEntriesComplete : ¬ Obligations.matrix_entries_complete := by
  unfold Obligations.matrix_entries_complete
  rintro ⟨-, -, team⟩
  obtain ⟨t, ht, hwarps, -⟩ := team strayTeamState 0 strayTeam [strayLoad] 0 0 0 0 0 1 true ⟨0, 0, 0⟩ 0 16 0 none [2]
    strayTeamState_queue rfl rfl strayTeamState_clean
  have hended := strayTeamState_completed
  rw [ht] at hended
  simp only [hwarps, strayTeamState_runs] at hended
  exact absurd hended (by decide)

end Sys2Proof.Machine


/-! ## What reads, writes and records of memory leave alone

Each erasure below forgets the fields that a family of updates may change: an update that keeps the erasure of a state keeps whatever
does not depend on those fields, which `of_erased` reads off. -/
namespace Sys2Proof.Machine
open Sys2Proof

/-- Two states with the same erasure agree in all that the erasure does not forget. -/
theorem of_erased {α : Type} (e : State → State) (g : State → α) (hg : ∀ s, g (e s) = g s) {s t : State} (h : e s = e t) :
    g s = g t := by
  rw [← hg s, h, hg]

/-! ### Translations and lines in use -/

/-- A state without its cached translations, its L2 lines and the count of its free values. -/
def State.sansCaches (s : State) : State := { s with l2 := [], tlb := [], freeCtr := 0 }

theorem State.touchL2_sansCaches (s : State) (line : Nat) (write ef : Bool) : (s.touchL2 line write ef).sansCaches = s.sansCaches := by
  unfold State.touchL2
  split <;> rfl

theorem State.keepEntry_sansCaches (s : State) (e : TlbEntry) : (s.keepEntry e).sansCaches = s.sansCaches := by
  unfold State.keepEntry
  generalize (if e.tab < 192 then 64 else 8) = room
  dsimp only
  split
  · rfl
  · split <;> rfl

theorem State.keepLeaf_sansCaches (s : State) (site ctx b n : Nat) (e : BitVec 64) :
    (s.keepLeaf site ctx b n e).sansCaches = s.sansCaches := by
  unfold State.keepLeaf
  dsimp only
  split <;> simp only [State.keepEntry_sansCaches]

/-- A walk keeps entries and uses lines, and nothing else (R363, R389). -/
theorem State.fill_sansCaches (s : State) (site ctx va : Nat) : (s.fill site ctx va).sansCaches = s.sansCaches := by
  unfold State.fill
  split
  · rfl
  split
  · exact State.keepEntry_sansCaches ..
  split
  · have step (t : State) (l : List (Nat × Nat × BitVec 64)) : (l.foldl (fun (t : State) (x : Nat × Nat × BitVec 64) =>
        let u := t.touchL2 (lineOf x.2.1) false false
        if x.1 = 3 || !entryFollows x.1 x.2.2 then u
        else u.keepEntry ⟨secondLevel site, ctx, va / 2 ^ levelShift x.1 * 2 ^ levelShift x.1, 2 ^ levelShift x.1, x.2.2⟩) t).sansCaches =
        t.sansCaches :=
      foldl_keeps (g := State.sansCaches) (fun t x => by
        dsimp only
        split <;> simp only [State.keepEntry_sansCaches, State.touchL2_sansCaches]) l t
    dsimp only
    split
    · rw [State.keepLeaf_sansCaches, step]
    · exact step ..
  · rfl

theorem State.reached_sansCaches (s : State) (site ctx va n : Nat) (write : Bool) :
    (s.reached site ctx va n write).sansCaches = s.sansCaches :=
  foldl_keeps (g := State.sansCaches) (fun t l => by
    dsimp only
    split <;> simp only [State.touchL2_sansCaches, State.fill_sansCaches]) _ s

theorem State.useDeps_sansCaches (s : State) (core : Nat) (k : WgKey) : (s.useDeps core k).sansCaches = s.sansCaches :=
  foldl_keeps (g := State.sansCaches) (fun _ _ => State.reached_sansCaches ..) _ s

theorem State.touchLines_sansCaches (s : State) (pa n : Nat) (write ef : Bool) :
    (s.touchLines pa n write ef).sansCaches = s.sansCaches :=
  foldl_keeps (g := State.sansCaches) (fun _ _ => State.touchL2_sansCaches ..) _ s

/-! ### What is told of a write -/

/-- A state without what a write leads to beside its bytes: records to the hosts, the poison record, watches, lines in use. -/
def State.sansNotices (s : State) : State :=
  { s.sansCaches with
    memPoison := [], contA := State.reset.contA, contB := State.reset.contB, ports := [], hostOut := [], evSeq := 0,
    snap := State.reset.snap, warps := [] }

theorem State.triggerOn_sansNotices (s : State) (c : Cause) : (s.triggerOn c).sansNotices = s.sansNotices := by
  unfold State.triggerOn State.trigger
  split
  · split <;> rfl
  · rfl

theorem State.postEvent_sansNotices (s : State) (e : EventRec) : (s.postEvent e).sansNotices = s.sansNotices := by
  unfold State.postEvent
  dsimp only
  split
  · rw [State.triggerOn_sansNotices]; rfl
  · rfl

theorem State.poisonMem_sansNotices (s : State) (gs : List Nat) : (s.poisonMem gs).sansNotices = s.sansNotices := by
  unfold State.poisonMem State.poisonAt
  dsimp only
  rw [foldl_keeps (g := State.sansNotices) fun _ _ => State.postEvent_sansNotices ..]
  exact (foldl_keeps (g := State.sansNotices) (fun t g => (rfl : (t.countPoison _ 1).sansNotices = _)) _ _).trans rfl

theorem State.touchLines_sansNotices (s : State) (pa n : Nat) (write ef : Bool) :
    (s.touchLines pa n write ef).sansNotices = s.sansNotices :=
  of_erased State.sansCaches State.sansNotices (fun _ => rfl) (s.touchLines_sansCaches pa n write ef)

theorem State.copiedLines_sansNotices (s : State) (src dst : Nat) : (s.copiedLines src dst).sansNotices = s.sansNotices := by
  rw [State.copiedLines, State.touchLines_sansNotices, State.useLines, if_neg (by decide), State.touchLines_sansNotices]

theorem State.notifyG_sansNotices (s : State) (pa n : Nat) : (s.notifyG pa n).sansNotices = s.sansNotices := rfl

/-! ### Lines and their keys (R395, R396) -/

theorem keysAgree_iff {s : State} {key : KeyNo} {pa n : Nat} :
    s.keysAgree key pa n = true ↔ ∀ l ∈ linesOf pa n, ∀ x, s.lineKeys.find l = some x → x = s.keyIn key := by
  rw [State.keysAgree, List.all_eq_true]
  refine forall₂_congr fun l _ => ?_
  cases s.lineKeys.find l <;> simp

/-- A line that no other key has been used for reads as it stands, and stays so. -/
theorem State.openLine_of_keys {s : State} {key : List Byte} {write : Bool} {line : Nat}
    (h : ∀ x, s.lineKeys.find line = some x → x = key) :
    (s.openLine key write line).mem = s.mem ∧
      ∀ l x, (s.openLine key write line).lineKeys.find l = some x → s.lineKeys.find l = some x ∨ x = key := by
  unfold State.openLine
  cases hk : s.lineKeys.find line with
  | some k => rw [h k hk]; simpa using fun l x hx => .inl hx
  | none =>
    cases write
    · simpa using fun l x hx => .inl hx
    · refine ⟨rfl, fun l x hx => ?_⟩
      simp only [if_true, SMap.find_put] at hx
      split at hx
      · exact .inr (Option.some.inj hx).symm
      · exact .inl hx

theorem State.openLines_mem {s : State} {key : List Byte} {write : Bool} {ls : List Nat}
    (h : ∀ l ∈ ls, ∀ x, s.lineKeys.find l = some x → x = key) :
    (ls.foldl (fun t l => t.openLine key write l) s).mem = s.mem := by
  induction ls generalizing s with
  | nil => rfl
  | cons l ls ih =>
    obtain ⟨hmem, hkeys⟩ := State.openLine_of_keys (write := write) (h l List.mem_cons_self)
    rw [List.foldl_cons, ih fun m hm x hx => (hkeys m x hx).elim (h m (List.mem_cons_of_mem _ hm) x) id, hmem]

theorem State.openBytes_mem_of_keysAgree {s : State} {key : KeyNo} {pa n : Nat} (h : s.keysAgree key pa n = true) (write : Bool) :
    (s.openBytes key write pa n).mem = s.mem := by
  unfold State.openBytes State.openUnder
  split
  · rfl
  · exact State.openLines_mem (keysAgree_iff.1 h)

theorem State.seen_of_keysAgree {s : State} {key : KeyNo} {pa n : Nat} (h : s.keysAgree key pa n = true) : s.seen key pa n = s.mem :=
  State.openBytes_mem_of_keysAgree h false

/-- Bytes that lie in one line. -/
theorem linesOf_of_line {pa n : Nat} (h : (pa + n - 1) / 128 = pa / 128) : linesOf pa n = [pa / 128] := by
  simp [linesOf, h, natRange]

theorem keysAgree_byte {s : State} {key : KeyNo} {pa : Nat} (h : ∀ x, s.lineKeys.find (pa / 128) = some x → x = s.keyIn key) :
    s.keysAgree key pa 1 = true := by
  rw [keysAgree_iff, linesOf_of_line (by rw [Nat.add_sub_cancel])]
  simpa using h

/-! ### What frozen views keep of a page (R484) -/

/-- A state without memory, the keys of its lines, views and registrations, and without what a write tells. -/
def State.sansBytes (s : State) : State := { s.sansNotices with mem := [], lineKeys := [], views := [], buffers := [] }

theorem SMap.find_filter {α : Type} {p : Nat → Bool} (m : SMap α) {n : Nat} (h : p n = true) :
    SMap.find (m.filter fun x => p x.1) n = m.find n := by
  induction m with
  | nil => rfl
  | cons x m ih =>
    obtain ⟨k, v⟩ := x
    by_cases hk : k = n
    · subst hk; simp [SMap.find, h]
    · by_cases hp : p k = true <;> simp [SMap.find, hp, hk, ih]

/-- The keys of lines once the frame f holds what stood at src: its lines have the keys of those they were copied from. -/
def copiedKeys (m : SMap (List Byte)) (src f : Nat) : SMap (List Byte) :=
  (List.range 512).foldl (fun k l => match m.find (src / 128 + l) with
    | some x => k.put (512 * f + l) x
    | none => k) (m.filter fun x => x.1 / 512 ≠ f)

theorem copiedKeys_find {m : SMap (List Byte)} {f l : Nat} (h : l / 512 ≠ f) (src : Nat) : (copiedKeys m src f).find l = m.find l := by
  refine (List.foldlRecOn (List.range 512) _ (motive := fun k : SMap (List Byte) => k.find l = SMap.find (m.filter fun x => x.1 / 512 ≠ f) l)
    rfl fun k hk j hj => ?_).trans (SMap.find_filter (p := fun n => n / 512 ≠ f) _ (by simpa using h))
  split
  · rw [SMap.find_put, if_neg fun e => h (by rw [e]; have := List.mem_range.1 hj; omega), hk]
  · exact hk

/-- The state in which a view has taken the frame f of its pool for the bytes of a page; nothing of it has been told yet. -/
def State.frameTaken (s : State) (src f : Nat) (page : List Byte) (views : List View) : State :=
  { s with mem := writeBytes s.mem (65536 * f) page, lineKeys := copiedKeys s.lineKeys src f, views := views }

theorem length_readBytes (m : List Host.Cell) (a n : Nat) : (readBytes m a n).length = n := by
  induction n generalizing a with
  | zero => rfl
  | succ n ih => rw [readBytes, List.length_cons, ih]

/-- Before a page is written a view leaves the state alone, gives up, or takes a frame of its pool. -/
theorem State.keepPage_cases (s : State) (pa : Nat) (v : View) :
    s.keepPage pa v = s ∨ (∃ vs bs, s.keepPage pa v = { s with views := vs, buffers := bs }) ∨
    ∃ src f page vs, f ∈ v.pool ∧ page.length = 65536 ∧ (s.keepPage pa v).sansNotices = (s.frameTaken src f page vs).sansNotices := by
  unfold State.keepPage
  split
  · exact .inl rfl
  next i _ =>
  split
  · exact .inl rfl
  dsimp only
  split
  · exact .inr (.inl ⟨_, _, rfl⟩)
  next f fs hpool =>
    have hf : f ∈ v.pool := by rw [hpool]; exact List.mem_cons_self
    refine .inr (.inr ⟨pa / 65536 * 65536, f, _, ?vs, hf, length_readBytes s.mem (pa / 65536 * 65536) 65536, ?_⟩)
    case vs => exact s.views.map fun (x : View) =>
      if x.comm = v.comm && x.name = v.name then { x with pool := fs, pages := x.pages.put i f } else x
    rw [State.notifyG_sansNotices, State.copiedLines_sansNotices, State.poisonMem_sansNotices]
    rfl

theorem State.keepPage_sansBytes (s : State) (pa : Nat) (v : View) : (s.keepPage pa v).sansBytes = s.sansBytes := by
  obtain h | ⟨vs, bs, h⟩ | ⟨src, f, page, vs, -, -, h⟩ := s.keepPage_cases pa v
  · rw [h]
  · rw [h]; rfl
  · exact (of_erased State.sansNotices State.sansBytes (fun _ => rfl) h).trans rfl

theorem State.byteAt_keepPage {s : State} {v : View} {b : Nat} (h : b / 65536 ∉ v.pool) (pa : Nat) :
    byteAt (s.keepPage pa v).mem b = byteAt s.mem b := by
  obtain h' | ⟨vs, bs, h'⟩ | ⟨src, f, page, vs, hf, hlen, h'⟩ := s.keepPage_cases pa v
  · rw [h']
  · rw [h']
  · have hne : b / 65536 ≠ f := fun e => h (e ▸ hf)
    have hmem := of_erased State.sansNotices State.mem (fun _ => rfl) h'
    rw [hmem]
    exact byteAt_writeBytes_other _ _ _ _ (by omega)

theorem State.lineKeys_keepPage {s : State} {v : View} {l : Nat} (h : l / 512 ∉ v.pool) (pa : Nat) :
    (s.keepPage pa v).lineKeys.find l = s.lineKeys.find l := by
  obtain h' | ⟨vs, bs, h'⟩ | ⟨src, f, page, vs, hf, hlen, h'⟩ := s.keepPage_cases pa v
  · rw [h']
  · rw [h']
  · have hne : l / 512 ≠ f := fun e => h (e ▸ hf)
    have hkeys := of_erased State.sansNotices State.lineKeys (fun _ => rfl) h'
    simp only [hkeys, State.frameTaken, copiedKeys_find hne]

/-- What the views keep before a write of a page. -/
theorem State.keepPages_keeps (s : State) (pa : Nat) :
    (s.keepPages pa).sansBytes = s.sansBytes ∧
    (∀ b, NoKeptFrame s b → byteAt (s.keepPages pa).mem b = byteAt s.mem b) ∧
    ∀ l, NoKeptFrame s (128 * l) → (s.keepPages pa).lineKeys.find l = s.lineKeys.find l := by
  unfold State.keepPages
  split
  · exact ⟨rfl, fun _ _ => rfl, fun _ _ => rfl⟩
  · refine List.foldlRecOn (s.views.filter fun v => v.frozen) _ (motive := fun t : State => t.sansBytes = s.sansBytes ∧
      (∀ b, NoKeptFrame s b → byteAt t.mem b = byteAt s.mem b) ∧
      ∀ l, NoKeptFrame s (128 * l) → t.lineKeys.find l = s.lineKeys.find l) ⟨rfl, fun _ _ => rfl, fun _ _ => rfl⟩ ?_
    intro t ⟨hs, hb, hl⟩ v hv
    have hv := (List.mem_filter.1 hv).1
    refine ⟨(t.keepPage_sansBytes pa v).trans hs, fun b h => (State.byteAt_keepPage (h v hv) pa).trans (hb b h), fun l h => ?_⟩
    refine (State.lineKeys_keepPage ?_ pa).trans (hl l h)
    rw [show l / 512 = 128 * l / 65536 by omega]
    exact h v hv

/-! ### Bytes written on any path -/

theorem State.openBytes_sansBytes (s : State) (key : KeyNo) (write : Bool) (pa n : Nat) :
    (s.openBytes key write pa n).sansBytes = s.sansBytes := by
  unfold State.openBytes State.openUnder
  split
  · rfl
  · refine foldl_keeps (g := State.sansBytes) (fun t l => ?_) _ s
    unfold State.openLine
    split
    · split <;> rfl
    · split <;> rfl

/-- A write changes memory, its keys, views and what is told of it. -/
theorem State.storeG_sansBytes (s : State) (key : KeyNo) (pa : Nat) (bs : List Byte) : (s.storeG key pa bs).sansBytes = s.sansBytes :=
  calc (s.storeG key pa bs).sansBytes = (s.putBytes key pa bs).sansBytes :=
        of_erased State.sansNotices State.sansBytes (fun _ => rfl) ((s.putBytes key pa bs).touchLines_sansNotices pa bs.length true false)
    _ = ((s.keepPages pa).openBytes key true pa bs.length).sansBytes := rfl
    _ = s.sansBytes := (State.openBytes_sansBytes ..).trans (s.keepPages_keeps pa).1

theorem State.storeG_mem (s : State) (key : KeyNo) (pa : Nat) (bs : List Byte) :
    (s.storeG key pa bs).mem = writeBytes ((s.keepPages pa).openBytes key true pa bs.length).mem pa bs := by
  rw [State.storeG, State.storeHint, State.notifyG_mem, State.touchLines_mem, State.putBytes]

theorem State.byteAt_storeG_same (s : State) (key : KeyNo) {pa i : Nat} {bs : List Byte} (h : i < bs.length) :
    byteAt (s.storeG key pa bs).mem (pa + i) = bs.getD i 0 := by
  rw [State.storeG_mem, byteAt_writeBytes_same _ _ _ _ h, List.getD_eq_getElem _ _ h]

/-- Bytes written to one line that is under the same key and no frame that a view keeps change no other byte (R396, R484). -/
theorem State.byteAt_storeG_other {s : State} {key : KeyNo} {pa b : Nat} {bs : List Byte} (hline : (pa + bs.length - 1) / 128 = pa / 128)
    (hkey : s.keysAgree key pa bs.length = true) (hpa : NoKeptFrame s pa) (hb : b < pa ∨ pa + bs.length ≤ b) (hkept : NoKeptFrame s b) :
    byteAt (s.storeG key pa bs).mem b = byteAt s.mem b := by
  obtain ⟨hsame, hbytes, hkeys⟩ := s.keepPages_keeps pa
  have hfind : (s.keepPages pa).lineKeys.find (pa / 128) = s.lineKeys.find (pa / 128) :=
    hkeys _ fun v hv => by rw [show 128 * (pa / 128) / 65536 = pa / 65536 by omega]; exact hpa v hv
  have hagree : (s.keepPages pa).keysAgree key pa bs.length = true := by
    have hk : (s.keepPages pa).keyIn key = s.keyIn key := of_erased State.sansBytes (State.keyIn · key) (fun _ => rfl) hsame
    rw [State.keysAgree, linesOf_of_line hline] at hkey ⊢
    simpa only [List.all_cons, List.all_nil, hfind, hk] using hkey
  rw [State.storeG_mem, byteAt_writeBytes_other _ _ _ _ hb, State.openBytes_mem_of_keysAgree hagree, hbytes b hkept]

end Sys2Proof.Machine


/-! ## Dependences and marks (O42) -/
namespace Sys2Proof.Machine
open Sys2Proof

/-! ### Completions without a result -/

theorem State.issuing_gridAt {s : State} {i : Iss} (h : s.issuing = some i) : s.gridAt (gridOfWg i.w.wg) = some i.gr := by
  unfold State.issuing at h
  split at h
  · cases h
  split at h
  · cases h
  split at h
  next hgr _ => cases h; exact hgr
  · cases h

theorem Opnd.warpAfter_pops_regs (o : Opnd) (n : Nat) (w : Warp) : (o.warpAfter n none id w).regs = w.regs := by
  unfold Opnd.warpAfter
  split
  · rfl
  · exact o.popAll_regs n w

/-- An instruction that completes from a state u with no result of its own sends its threads on, and leaves its warp's registers as
they stand in u. -/
theorem Opnd.goes_complete {o : Opnd} {s u : State} {v : Warp} (hv : u.warpAt o.i.w.key = some v) (hpcs : v.pcs = o.i.w.pcs)
    (hregs : RegsKept o.i v) (hfl : u.flights = s.flights) (len : Nat) :
    ∃ t w, o.complete u len none id = .next t ∧ Goes s t o.i len o.f.lnd w ∧ RegsKept o.i w ∧ w.depDone = v.depDone ∧
      t.mem = u.mem ∧ t.wgs = u.wgs ∧ t.cores = u.cores := by
  have hat : (o.commit u none id).1.warpAt o.i.w.key = some (o.warpAfter u.nextId none id v) := by
    rw [State.warpAt_congr (o.commit_warps u none id)]
    exact State.warpAt_updWarp_same (o.warpAfter_key _ _ fun _ => rfl) hv
  have hbare := o.warpAfter_id_bare u.nextId none v
  have hdone := of_bare Warp.depDone (fun _ => rfl) hbare
  obtain ⟨hv', hs', hx'⟩ := Warp.regs_eq (o.warpAfter_pops_regs u.nextId v)
  generalize o.warpAfter u.nextId none id v = w at hat hbare hdone hv' hs' hx'
  obtain ⟨hv, hs, hm, hx, hmode, hflags, hsr⟩ := hregs
  refine ⟨_, _, rfl, ⟨State.warpAt_retire len o.f.lnd _ hat, threadsGo_moveLanes ?_, flightGoesOn_retire hfl⟩,
    ⟨hv'.trans hv, hs'.trans hs, ?_, hx'.trans hx, ?_, ?_, ?_⟩, hdone, ?_, ?_, ?_⟩
  · rw [← hpcs, ← of_bare Warp.pcs (fun _ => rfl) hbare]
  · exact (of_bare Warp.m (fun _ => rfl) hbare).trans hm
  · exact (of_bare Warp.mode (fun _ => rfl) hbare).trans hmode
  · exact (of_bare Warp.flags (fun _ => rfl) hbare).trans hflags
  · exact (of_bare Warp.srseq (fun _ => rfl) hbare).trans hsr
  · rw [State.retire_mem, o.commit_mem]
  · rw [State.retire_wgs, o.commit_wgs]
  · rw [State.retire_cores]; rfl

theorem RegsKept.refl (i : Iss) : RegsKept i i.w := ⟨rfl, rfl, rfl, rfl, rfl, rfl, rfl⟩

theorem Opnd.onlyGoes_complete {o : Opnd} {s : State} (hi : s.issuing = some o.i) (len : Nat) :
    OnlyGoes s o.i len o.f.lnd (o.complete s len none id) := by
  obtain ⟨t, w, ht, hgoes, hregs, -, hmem, hwgs, -⟩ := o.goes_complete (s := s) (State.issuing_warpAt hi) rfl (RegsKept.refl _) rfl len
  exact ⟨t, w, ht, hgoes, hregs, fun a => by rw [hmem], hwgs⟩

/-! ### DEPDONE (R315) -/

/-- Where one of its warps has issued DEPDONE, a workgroup's mark is due once every other has or has ended. -/
theorem State.wgAt_checkDone {s : State} {k : WgKey} {g : Workgroup} (hg : s.wgAt k = some g)
    (hone : ∃ w ∈ s.warps, w.wg = k ∧ w.depDone = true) : ∃ g', (s.checkDone k).wgAt k = some g' ∧
      ((∀ w ∈ s.warps, w.wg = k → w.depDone = true ∨ w.pcs = []) → g'.doneAt.isSome = true) := by
  unfold State.checkDone
  dsimp only
  split
  · exact ⟨_, State.wgAt_updWg_same (f := fun g => { g with doneAt := some (g.doneAt.getD s.nextId) }) (fun _ => rfl) hg, fun _ => rfl⟩
  next hno =>
    refine ⟨g, hg, fun hall => absurd ?_ hno⟩
    obtain ⟨w, hw, hwg, hdone⟩ := hone
    simp only [Bool.and_eq_true, List.any_eq_true, List.all_eq_true, State.warpsOf, List.mem_filter, decide_eq_true_eq]
    refine ⟨⟨w, ⟨hw, hwg⟩, hdone⟩, fun v ⟨hv, hvwg⟩ => ?_⟩
    simpa [Warp.alive] using hall v hv hvwg

theorem exec_depdone {s : State} {f : XForm} {o : Opnd} (h : Ready s (shapeAsync 0x0D f) f noExtra o) : exec (.depdone f) s =
    if o.i.gr.rec_.compl = 0 then o.complete s f.len none id
    else o.complete ((s.updWarp o.i.w.key fun w => { w with depDone := true }).checkDone o.i.w.wg) f.len none id := by
  rw [show exec (.depdone f) s = execDepdone f s from rfl, execDepdone, operate_ready h]

/-! ### Completion areas (R117) -/

theorem State.markArea_of_translate {s : State} {k : WgKey} {base i pa : Nat} {leaf : BitVec 64}
    (ht : s.translate newelSite k.ctx (base + i / 8) .write = .ok pa leaf) : s.markArea k base i =
      (s.fill newelSite k.ctx (base + i / 8)).storeG (keyOf k.ctx leaf) pa
        [byteAt (s.seen (keyOf k.ctx leaf) pa 1) pa ||| BitVec.ofNat 8 (2 ^ (i % 8))] := by
  simp only [State.markArea, ht]

theorem getLsbD_ofNat_two_pow {i j : Nat} (hj : j < 8) : (BitVec.ofNat 8 (2 ^ i)).getLsbD j = (j == i) := by
  rw [BitVec.getLsbD_ofNat, Nat.testBit_two_pow, decide_eq_true hj, Bool.true_and, Bool.eq_iff_iff, decide_eq_true_iff, beq_iff_eq]
  exact eq_comm

/-- A bit that is set in a completion area (R117). -/
def BitSet (s t : State) (pa n : Nat) : Prop :=
  (∀ b, b ≠ pa → NoKeptFrame s b → byteAt t.mem b = byteAt s.mem b) ∧
  ∀ j < 8, (byteAt t.mem pa).getLsbD j = ((byteAt s.mem pa).getLsbD j || j == n)

/-- A bit of an area whose byte translates is set, and nothing but bytes and what is told of them changes. -/
theorem State.markArea_sets {s : State} {k : WgKey} {base i pa : Nat} {leaf : BitVec 64}
    (ht : s.translate newelSite k.ctx (base + i / 8) .write = .ok pa leaf) (hkey : s.keysAgree (keyOf k.ctx leaf) pa 1 = true)
    (hpa : NoKeptFrame s pa) : (s.markArea k base i).sansBytes = s.sansBytes ∧ BitSet s (s.markArea k base i) pa (i % 8) := by
  have hfill := s.fill_sansCaches newelSite k.ctx (base + i / 8)
  have hmem := of_erased State.sansCaches State.mem (fun _ => rfl) hfill
  have hkept (b : Nat) : NoKeptFrame (s.fill newelSite k.ctx (base + i / 8)) b = NoKeptFrame s b :=
    of_erased State.sansCaches (NoKeptFrame · b) (fun _ => rfl) hfill
  rw [State.markArea_of_translate ht, State.seen_of_keysAgree hkey]
  refine ⟨(State.storeG_sansBytes ..).trans (of_erased State.sansCaches State.sansBytes (fun _ => rfl) hfill), fun b hb hk => ?_, fun j hj => ?_⟩
  · rw [State.byteAt_storeG_other (by rw [List.length_singleton, Nat.add_sub_cancel]) ?_ ((hkept pa).mpr hpa) ?_ ((hkept b).mpr hk), hmem]
    · exact (of_erased State.sansCaches (State.keysAgree · (keyOf k.ctx leaf) pa 1) (fun _ => rfl) hfill).trans hkey
    · rw [List.length_singleton]; omega
  · refine (congrArg (BitVec.getLsbD · j) (State.byteAt_storeG_same (i := 0) _ _ ?_)).trans ?_
    · exact Nat.one_pos
    rw [List.getD_cons_zero, BitVec.getLsbD_or, getLsbD_ofNat_two_pow hj]

theorem State.mark_of_area {s : State} {k : WgKey} {g : Workgroup} {gr : Grid} (hg : s.wgAt k = some g)
    (hgr : s.gridAt (gridOfWg k) = some gr) (hc : gr.rec_.compl ≠ 0) (hm : g.doneMade = false) (fault : Bool) : s.mark k fault =
      (s.markArea k (gr.rec_.compl + if fault then bitmapBytes gr.count else 0) k.wgid).updWg k fun w => { w with doneMade := true } := by
  simp [State.mark, hg, hgr, hc, hm]

theorem State.mark_of_none {s : State} {k : WgKey} {g : Workgroup} {gr : Grid} (hg : s.wgAt k = some g)
    (hgr : s.gridAt (gridOfWg k) = some gr) (h : gr.rec_.compl = 0 ∨ g.doneMade = true) (fault : Bool) : s.mark k fault = s := by
  simp only [State.mark, hg, hgr]
  rw [if_pos (by simpa using h)]

theorem State.markPending_eq_false {s : State} {k : WgKey} {g : Workgroup} {gr : Grid} {pa : Nat} {leaf : BitVec 64} {fault : Bool}
    (hg : s.wgAt k = some g) (hgr : s.gridAt (gridOfWg k) = some gr)
    (hwalk : s.walkersBusy newelSite k.ctx (gr.rec_.compl + (if fault then bitmapBytes gr.count else 0) + k.wgid / 8) = false)
    (ht : s.translate newelSite k.ctx (gr.rec_.compl + (if fault then bitmapBytes gr.count else 0) + k.wgid / 8) .write = .ok pa leaf)
    (hp : s.paPending pa 1 = false) : s.markPending k fault = false := by
  simp [State.markPending, hg, hgr, hwalk, ht, hp]

/-- The mark of a workgroup whose area's byte translates: its bit is set, and it is made (R117). -/
theorem State.mark_sets {s : State} {k : WgKey} {g : Workgroup} {gr : Grid} {pa : Nat} {leaf : BitVec 64} {fault : Bool}
    (hg : s.wgAt k = some g) (hgr : s.gridAt (gridOfWg k) = some gr) (hc : gr.rec_.compl ≠ 0) (hm : g.doneMade = false)
    (ht : s.translate newelSite k.ctx (gr.rec_.compl + (if fault then bitmapBytes gr.count else 0) + k.wgid / 8) .write = .ok pa leaf)
    (hkey : s.keysAgree (keyOf k.ctx leaf) pa 1 = true) (hpa : NoKeptFrame s pa) :
    (s.mark k fault).wgAt k = some { g with doneMade := true } ∧ (s.mark k fault).grids = s.grids ∧
      BitSet s (s.mark k fault) pa (k.wgid % 8) := by
  obtain ⟨hsame, hset⟩ := State.markArea_sets ht hkey hpa
  have hgrids := of_erased State.sansBytes State.grids (fun _ => rfl) hsame
  have hwgs := of_erased State.sansBytes State.wgs (fun _ => rfl) hsame
  rw [State.mark_of_area hg hgr hc hm]
  exact ⟨State.wgAt_updWg_same (f := fun w => { w with doneMade := true }) (fun _ => rfl) ((State.wgAt_congr hwgs k).trans hg),
    hgrids, hset⟩

/-- What is ordered before what plays no part in how a line is found. -/
theorem State.ordersOf_openLine (s : State) (p : WgKey → Bool) (key : List Byte) (write : Bool) (line : Nat) :
    (s.ordersOf p).openLine key write line = (s.openLine key write line).ordersOf p := by
  unfold State.openLine
  cases hk : s.lineKeys.find line with
  | some k =>
    rw [show (s.ordersOf p).lineKeys.find line = some k from hk]
    simp only [apply_ite (State.ordersOf · p)]
    rfl
  | none =>
    rw [show (s.ordersOf p).lineKeys.find line = none from hk]
    simp only [apply_ite (State.ordersOf · p)]
    rfl

theorem State.ordersOf_seen (s : State) (p : WgKey → Bool) (key : KeyNo) (pa n : Nat) : (s.ordersOf p).seen key pa n = s.seen key pa n := by
  have hlines (ls : List Nat) (k : List Byte) (t : State) : ls.foldl (fun t l => t.openLine k false l) (t.ordersOf p) =
      (ls.foldl (fun t l => t.openLine k false l) t).ordersOf p := by
    induction ls generalizing t with
    | nil => rfl
    | cons l ls ih => rw [List.foldl_cons, State.ordersOf_openLine, ih, List.foldl_cons]
  unfold State.seen State.openBytes State.openUnder
  split
  · rfl
  · rw [show (s.ordersOf p).keyIn key = s.keyIn key from rfl, hlines]
    rfl

/-- A translation reads tables, keys and what is cached of them, not what has been ordered. -/
theorem State.ordersOf_translate (s : State) (p : WgKey → Bool) (site ctx va : Nat) (perm : Perm) :
    (s.ordersOf p).translate site ctx va perm = s.translate site ctx va perm := by
  have hword : (s.ordersOf p).tableWord = s.tableWord := by
    funext pa
    rw [State.tableWord, State.ordersOf_seen, State.tableWord]
  simp only [State.translate, State.leafFor, State.walk, State.walkAt, hword]
  rfl

/-- DONE_MARK is taken for a due mark that is not made, once what was issued before is performed (R315). -/
theorem exec_doneMark {s : State} {k : WgKey} {g : Workgroup} {u : Nat} (hg : s.wgAt k = some g) (hdue : g.doneAt = some u)
    (hm : g.doneMade = false) (hopen : s.workOpen k (2 ^ 64) (some u) = false) (hp : s.markPending k false = false) :
    exec (.doneMark k) s = .next ((s.ordersOf (· = k)).mark k false) := by
  simp only [show exec (.doneMark k) s = execDoneMark k s from rfl, execDoneMark, hg, hdue, hm, hopen, hp, Bool.or_self,
    Bool.false_eq_true, if_false]

/-! ### DEPWAIT (R316) -/

/-- Bit j of an area of a base reads x for a core: its byte translates, is not waited for and its line is under the same key. -/
def State.AreaBit (s : State) (core ctx base j : Nat) (x : Bool) : Prop :=
  s.walkersBusy core ctx (base + j / 8) = false ∧ ∃ pa leaf, s.translate core ctx (base + j / 8) .read = .ok pa leaf ∧
    s.paPending pa 1 = false ∧ (∀ y, s.lineKeys.find (pa / 128) = some y → y = s.keyIn (keyOf ctx leaf)) ∧
    x = (byteAt s.mem pa).getLsbD (j % 8)

theorem State.areaBits_of_readable {s : State} {core ctx base : Nat} {x : Nat → Bool} {is : List Nat}
    (h : ∀ j ∈ is, s.AreaBit core ctx base j (x j)) : s.areaBits core ctx base is = .ok (is.all x, is.any x) := by
  induction is with
  | nil => rfl
  | cons j is ih =>
    obtain ⟨-, pa, leaf, ht, hp, hkey, hx⟩ := h j List.mem_cons_self
    have hmem : (s.openUnder (s.keyIn (keyOf ctx leaf)) false pa 1).mem = s.mem := State.seen_of_keysAgree (keysAgree_byte hkey)
    simp only [State.areaBits, ht, hp, Bool.false_eq_true, if_false, ih fun i hi => h i (List.mem_cons_of_mem _ hi), hmem, ← hx,
      List.all_cons, List.any_cons]

section
variable {s : State} {core : Nat} {k : WgKey} {gr : Grid} {done bad : Nat → Bool}
  (hgr : s.gridAt (gridOfWg k) = some gr) (hfn : gr.rec_.depfn ≠ 0)
  (hbits : ∀ j ∈ gr.rec_.needed k.wgid, s.AreaBit core k.ctx gr.rec_.pred j (done j) ∧
    s.AreaBit core k.ctx (gr.rec_.pred + bitmapBytes (gr.rec_.pgx * gr.rec_.pgy * gr.rec_.pgz)) j (bad j))
include hgr hfn hbits

/-- An evaluation whose bits are readable has no walker to wait for. -/
theorem State.depVas_served : ((s.depVas k).any fun va => s.walkersBusy core k.ctx va) = false := by
  simp only [State.depVas, State.recOf, hgr, Option.map_some, if_neg hfn, List.any_append, List.any_map, Bool.or_eq_false_iff,
    List.any_eq_false, Function.comp_apply, Bool.not_eq_true]
  exact ⟨fun j hj => (hbits j hj).2.1, fun j hj => (hbits j hj).1.1⟩

/-- What an evaluation finds, its bits readable: a fault first, then all done, else it waits. -/
theorem State.depTest_of_readable : s.depTest core k =
    if (gr.rec_.needed k.wgid).any bad then .faulted else if (gr.rec_.needed k.wgid).all done then .satisfied else .waits := by
  simp only [State.depTest, State.recOf, hgr, Option.map_some, if_neg hfn, State.areaBits_of_readable fun j hj => (hbits j hj).2,
    State.areaBits_of_readable fun j hj => (hbits j hj).1]
  cases (gr.rec_.needed k.wgid).any bad <;> cases (gr.rec_.needed k.wgid).all done <;> rfl

end

section
variable {s : State} {f : XForm} {o : Opnd} (h : Ready s (shapeAsync 0x0C f) f noExtra o)
  (hserved : ((s.depVas o.i.w.wg).any fun va => s.walkersBusy o.i.w.core o.i.w.wg.ctx va) = false)
include h hserved

theorem exec_depwait_faulted (hd : s.depTest o.i.w.core o.i.w.wg = .faulted) :
    exec (.depwait f) s = raise (s.useDeps o.i.w.core o.i.w.wg) o.i 0x0E5 := by
  rw [show exec (.depwait f) s = execDepwait f s from rfl, execDepwait, operate_ready h]
  simp only [hserved, hd, Bool.false_eq_true, if_false]

theorem exec_depwait_satisfied (hd : s.depTest o.i.w.core o.i.w.wg = .satisfied) : exec (.depwait f) s =
    if o.i.gr.rec_.depfn = 0 then o.complete s f.len none id
    else o.complete ((s.useDeps o.i.w.core o.i.w.wg).dropL1 o.i.w.core) f.len none id := by
  rw [show exec (.depwait f) s = execDepwait f s from rfl, execDepwait, operate_ready h]
  simp only [hserved, hd, Bool.false_eq_true, if_false]

theorem exec_depwait_waits (hd : s.depTest o.i.w.core o.i.w.wg = .waits) :
    exec (.depwait f) s = .next ((s.useDeps o.i.w.core o.i.w.wg).block o.i .depwait) := by
  rw [show exec (.depwait f) s = execDepwait f s from rfl, execDepwait, operate_ready h]
  simp only [hserved, hd, Bool.false_eq_true, if_false]

end

theorem exec_depwait_without_function {s : State} {f : XForm} {o : Opnd} (h : Ready s (shapeAsync 0x0C f) f noExtra o)
    (hfn : o.i.gr.rec_.depfn = 0) : exec (.depwait f) s = o.complete s f.len none id := by
  have hrec : s.recOf o.i.w.wg = some o.i.gr.rec_ := by rw [State.recOf, State.issuing_gridAt h.issues]; rfl
  rw [exec_depwait_satisfied h (by simp [State.depVas, hrec, hfn]) (by simp [State.depTest, hrec, hfn]), if_pos hfn]

theorem State.coreAt_updCore {s : State} {c : Nat} {f : Core → Core} (hf : ∀ x, (f x).phys = x.phys) :
    (s.updCore c f).coreAt c = (s.coreAt c).map f := find?_map_update (key := Core.phys) (f := f) (n := c) hf s.cores

theorem State.l1Copy_of_dropL1 {s t : State} {core : Nat} (h : t.cores = (s.dropL1 core).cores) (key : KeyNo) (line : Nat) :
    t.l1Copy core key line = none := by
  have hcore : t.coreAt core = (s.coreAt core).map fun c => { c with l1 := [] } := by
    rw [State.coreAt, h]
    exact State.coreAt_updCore (f := fun c => { c with l1 := [] }) fun _ => rfl
  rw [State.l1Copy, hcore]
  cases s.coreAt core <;> rfl

/-- Settles O42: the instructions by the completion, raise or block that follows what they read, DONE_MARK by the bit it sets. -/
theorem dependencesAndMarks : Obligations.dependences_and_marks := by
  refine ⟨fun s f o h => ?_, fun s k g gr u pa leaf hg hgr hdue hm hc hopen hwalk ht hp hpa hkey => ?_, fun s f o done bad h => ?_⟩
  · rw [exec_depdone h, ← h.fields]
    refine ⟨fun hc => by rw [if_pos hc]; exact o.onlyGoes_complete h.issues o.f.len, fun hc => ?_⟩
    rw [if_neg hc]
    have hself := State.warpAt_updWarp_issuing (f := fun w => { w with depDone := true }) h.issues fun _ => rfl
    have hwg : (s.updWarp o.i.w.key fun w => { w with depDone := true }).wgAt o.i.w.wg = some o.i.wg :=
      (State.wgAt_congr (s := s) rfl _).trans (State.issuing_wgAt h.issues)
    obtain ⟨g, hg, hdue⟩ := State.wgAt_checkDone hwg ⟨_, List.mem_of_find?_eq_some hself, rfl, rfl⟩
    obtain ⟨t, w, ht, hgoes, hregs, hdone, hmem, hwgs, -⟩ := o.goes_complete (s := s) ((State.warpAt_congr (State.checkDone_warps ..) _).trans hself)
      rfl (RegsKept.refl _) (State.checkDone_flights ..) o.f.len
    refine ⟨t, w, g, ht, hgoes, hregs, fun a => by rw [hmem, State.checkDone_mem]; rfl, hdone, (State.wgAt_congr hwgs _).trans hg,
      fun hall => hdue fun v hv hvwg => ?_⟩
    obtain ⟨x, hx, rfl⟩ := List.mem_map.1 hv
    by_cases hk : x.core = o.i.w.key.core ∧ x.idx = o.i.w.key.idx
    · rw [if_pos hk]; exact .inl rfl
    · rw [if_neg hk] at hvwg ⊢
      exact (hall x hx hvwg).resolve_left fun e => hk ⟨congrArg WarpKey.core e, congrArg WarpKey.idx e⟩
  · have hkeys := keysAgree_byte hkey
    obtain ⟨hmade, -, hframe, hbits⟩ := State.mark_sets (s := s.ordersOf (· = k)) (fault := false) hg hgr hc hm
      ((s.ordersOf_translate ..).trans ht) hkeys hpa
    exact ⟨_, _, exec_doneMark hg hdue hm hopen (State.markPending_eq_false hg hgr hwalk ht hp), hmade, rfl, hframe, hbits⟩
  · intro r area bit need
    refine ⟨fun hfn => ?_, fun hfn hbits => ?_⟩
    · rw [exec_depwait_without_function h hfn, ← h.fields]
      exact o.onlyGoes_complete h.issues o.f.len
    have hgr := State.issuing_gridAt h.issues
    have hused := s.useDeps_sansCaches o.i.w.core o.i.w.wg
    have hmem := of_erased State.sansCaches State.mem (fun _ => rfl) hused
    have hwarps := of_erased State.sansCaches State.warps (fun _ => rfl) hused
    have hwgs := of_erased State.sansCaches State.wgs (fun _ => rfl) hused
    have hflights := of_erased State.sansCaches State.flights (fun _ => rfl) hused
    have hissues : (s.useDeps o.i.w.core o.i.w.wg).issuing = some o.i :=
      (of_erased State.sansCaches State.issuing (fun _ => rfl) hused).trans h.issues
    have hserved := State.depVas_served hgr hfn hbits
    have hfound := State.depTest_of_readable hgr hfn hbits
    refine ⟨fun hbad => ?_, fun hall => ?_, fun hgood hsome => ?_⟩
    · rw [if_pos (List.any_eq_true.2 hbad)] at hfound
      exact ⟨_, exec_depwait_faulted h hserved hfound, fun a => by rw [hmem], hwarps, hwgs⟩
    · rw [if_neg (by simpa using fun j hj => (hall j hj).1), if_pos (List.all_eq_true.2 fun j hj => (hall j hj).2)] at hfound
      rw [exec_depwait_satisfied h hserved hfound, if_neg hfn, ← h.fields]
      obtain ⟨t, w, ht, hgoes, hregs, -, hmem', hwgs', hcores⟩ := o.goes_complete (s := s)
        (u := (s.useDeps o.i.w.core o.i.w.wg).dropL1 o.i.w.core) (State.issuing_warpAt hissues) rfl (RegsKept.refl _) hflights o.f.len
      exact ⟨t, w, ht, hgoes, hregs, fun a => by rw [hmem', State.dropL1_mem, hmem], hwgs'.trans hwgs, State.l1Copy_of_dropL1 hcores⟩
    · obtain ⟨j, hj, hnot⟩ := hsome
      rw [if_neg (by simpa using hgood), if_neg (by simpa using ⟨j, hj, hnot⟩)] at hfound
      refine ⟨_, _, exec_depwait_waits h hserved hfound, State.warpAt_block hissues .depwait, congrArg (List.drop 1) hflights,
        fun a => by rw [State.block_mem, hmem], RegsKept.refl _, ?_⟩
      simp only [blockSet, bne_iff_ne]

end Sys2Proof.Machine


/-! ## Launches and completions of grids (O44) -/
namespace Sys2Proof.Machine
open Sys2Proof

/-! ### What the distributor leaves alone (R102 to R115) -/

/-- A grid without what its placement has come to. -/
def Grid.sansPlaces (g : Grid) : Grid := { g with next := 0, lastCore := none, lastLayer := none, waiting := none, placed := [] }

/-- A state without its cores, residents and contexts and without what the placement of its grids has come to. -/
def State.sansPlaces (s : State) : State :=
  { s with cores := [], wgs := [], warps := [], ctxs := [], freeCtr := 0, gangWaits := 0, grids := s.grids.map Grid.sansPlaces }

theorem State.mapGrids_sansPlaces {f : Grid → Grid} (hf : ∀ g, (f g).sansPlaces = g.sansPlaces) (s : State) :
    ({ s with grids := s.grids.map f } : State).sansPlaces = s.sansPlaces := by
  have hgrids : (s.grids.map f).map Grid.sansPlaces = s.grids.map Grid.sansPlaces := by
    rw [List.map_map]
    exact List.map_congr_left fun g _ => hf g
  simp only [State.sansPlaces, hgrids]

theorem State.updGrid_sansPlaces {f : Grid → Grid} (hf : ∀ g, (f g).sansPlaces = g.sansPlaces) (s : State) (k : GridKey) :
    (s.updGrid k f).sansPlaces = s.sansPlaces :=
  State.mapGrids_sansPlaces (f := fun g => if g.key = k then f g else g) (fun g => by split; exacts [hf g, rfl]) s

theorem State.readyCore_sansPlaces (s : State) (core width carve : Nat) : (s.readyCore core width carve).sansPlaces = s.sansPlaces := by
  unfold State.readyCore
  split
  · rfl
  · split <;> rfl

theorem State.placeWarps_sansPlaces (s : State) (k : WgKey) (core : Nat) (r : LaunchRecord) (n : Nat) (l : List Nat) :
    (s.placeWarps k core r n l).sansPlaces = s.sansPlaces := by
  induction l generalizing s n with
  | nil => rfl
  | cons p ps ih => exact (ih ..).trans rfl

theorem State.placeOn_sansPlaces (s : State) (g : Grid) (wgid : Nat) (x : LCore) (pos : List Nat) :
    (s.placeOn g wgid x pos).sansPlaces = s.sansPlaces := by
  unfold State.placeOn
  dsimp only
  rw [State.updGrid_sansPlaces, State.placeWarps_sansPlaces]
  · exact s.readyCore_sansPlaces x.phys g.rec_.width g.rec_.carve
  · exact fun _ => rfl

theorem State.placeGang_sansPlaces (s : State) (g : Grid) (n : Nat) (l : List (LCore × List Nat)) :
    (s.placeGang g n l).sansPlaces = s.sansPlaces := by
  induction l generalizing s n with
  | nil => rfl
  | cons x xs ih => rw [State.placeGang, ih, State.placeOn_sansPlaces]

theorem State.tryGrid_sansPlaces {s t : State} {c : Context} {g : Grid} {offer : Option LCore} (ht : s.tryGrid c g offer = some t) :
    t.sansPlaces = s.sansPlaces := by
  unfold State.tryGrid at ht
  split at ht
  · cases ht
  split at ht
  · split at ht
    · cases ht
    · obtain ⟨r, -, rfl⟩ := Option.map_eq_some_iff.1 ht
      exact State.placeOn_sansPlaces ..
  · split at ht
    · cases ht
    · obtain ⟨r, -, rfl⟩ := Option.map_eq_some_iff.1 ht
      exact (State.updGrid_sansPlaces (f := fun g => { g with lastLayer := some r.1, waiting := none }) (fun _ => rfl) (s.placeGang g g.next r.2)
        g.key).trans (State.placeGang_sansPlaces ..)

theorem State.tryGrids_sansPlaces {s t : State} {c : Context} {l : List Grid} (ht : s.tryGrids c l = some t) :
    t.sansPlaces = s.sansPlaces := by
  induction l with
  | nil => cases ht
  | cons g gs ih =>
    unfold State.tryGrids at ht
    split at ht
    next hg => exact Option.some.inj ht ▸ State.tryGrid_sansPlaces hg
    · exact ih ht

theorem State.holdLayer_sansPlaces (s : State) (ctx : Nat) : (s.holdLayer ctx).sansPlaces = s.sansPlaces := by
  unfold State.holdLayer
  split
  · rfl
  split
  · rfl
  split
  · rfl
  dsimp only
  split <;> rfl

theorem State.startWaits_sansPlaces (s : State) (found : List GridKey) : (s.startWaits found).sansPlaces = s.sansPlaces := by
  unfold State.startWaits
  dsimp only
  split
  · refine (rfl : _ = _).trans (State.mapGrids_sansPlaces (f := fun (g : Grid) =>
      if found.contains g.key && 1 < g.rec_.gang && g.next < g.count && g.waiting.isNone && !g.killed
      then { g with waiting := some ⟨s.gangWaits, 0⟩ } else g) (fun g => ?_) s)
    split <;> rfl
  · rfl

theorem State.decideOn_sansPlaces (ctx n : Nat) (s : State) : (State.decideOn ctx n s).sansPlaces = s.sansPlaces := by
  induction n generalizing s with
  | zero => rfl
  | succ n ih =>
    unfold State.decideOn
    split
    · rfl
    split
    · rfl
    dsimp only
    split
    next ht => rw [ih, State.startWaits_sansPlaces, State.tryGrids_sansPlaces ht, State.holdLayer_sansPlaces]
    · rw [State.startWaits_sansPlaces, State.holdLayer_sansPlaces]

theorem State.distribute_sansPlaces (s : State) (ctx : Nat) : (s.distribute ctx).sansPlaces = s.sansPlaces :=
  State.decideOn_sansPlaces ..

theorem getD_erased {e : State → State} {o : Option State} {s : State} (h : ∀ t, o = some t → e t = e s) : e (o.getD s) = e s := by
  cases o with
  | none => rfl
  | some t => exact h t rfl

/-- After a retirement the distributor counts waits and places, and nothing else (R105, R111). -/
theorem State.afterRetirement_sansPlaces (s : State) (gk : GridKey) (core : Nat) :
    (s.afterRetirement gk core).sansPlaces = s.sansPlaces := by
  unfold State.afterRetirement
  split
  · rfl
  next c0 _ =>
  split
  · rfl
  dsimp only
  have hheld := (State.holdLayer_sansPlaces _ gk.ctx).trans (State.mapGrids_sansPlaces (f := fun (g : Grid) =>
    if g.key.ctx = gk.ctx then { g with waiting := g.waiting.map fun (w : GangWait) => { w with count := w.count + 1 } } else g)
    (fun g => by split <;> rfl) s)
  rw [State.distribute_sansPlaces]
  split
  · exact (getD_erased fun _ ht => State.tryGrid_sansPlaces ht).trans hheld
  · exact hheld

/-- The grid of a key is the same but for its placement. -/
theorem State.gridAt_of_sansPlaces {s t : State} (h : t.sansPlaces = s.sansPlaces) (k : GridKey) :
    (t.gridAt k).map Grid.sansPlaces = (s.gridAt k).map Grid.sansPlaces := by
  have hgrids : t.grids.map Grid.sansPlaces = s.grids.map Grid.sansPlaces := congrArg State.grids h
  have hfind := congrArg (List.find? fun g : Grid => decide (g.key = k)) hgrids
  rwa [List.find?_map, List.find?_map] at hfind

/-! ### Completions (R500) -/

theorem State.postCompletion_told {s : State} {n : Nat} {x : LQueue} (hx : (s.queues.find? fun y => y.p.queue = n) = some x)
    (tag : Word) (status : Nat) : (s.postCompletion n tag status).hostOut =
      s.hostOut ++ [x.message tag status s.time, .msix x.port x.p.vector] := by
  simp only [State.postCompletion, hx]

theorem State.postCompletion_grids (s : State) (n : Nat) (tag : Word) (status : Nat) : (s.postCompletion n tag status).grids = s.grids := by
  unfold State.postCompletion
  split <;> rfl

/-- A queue that is past its head entry writes completions as before. -/
theorem State.queue_advanced {s : State} {q : LQueue} (hq : (s.queues.find? fun x => x.p.queue = q.p.queue) = some q) :
    ((s.advanceQueue q.p.queue).queues.find? fun x => x.p.queue = q.p.queue) =
      some { q with head := q.head + 1, headAt := s.headStamp } := by
  have h := find?_map_update (key := fun x : LQueue => x.p.queue) (n := q.p.queue)
    (f := fun x => { x with head := x.head + 1, headAt := s.headStamp }) (fun _ => rfl) s.queues
  rw [hq] at h
  exact h

/-- An entry of a queue is answered with a status, and nothing of memory or grids changes (R499, R500). -/
def AnsweredWith (s t : State) (q : LQueue) (tag : Word) (status : Nat) : Prop :=
  SameMemory s t ∧ t.grids = s.grids ∧ t.hostOut = s.hostOut ++ [q.message tag status s.time, .msix q.port q.p.vector]

/-- A head entry that is taken from a state u which differs from s in caches alone. -/
theorem State.answeredWith_postCompletion {s u : State} {q : LQueue} (hu : u.sansCaches = s.sansCaches)
    (hq : (s.queues.find? fun x => x.p.queue = q.p.queue) = some q) (tag : Word) (status : Nat) :
    AnsweredWith s ((u.advanceQueue q.p.queue).postCompletion q.p.queue tag status) q tag status := by
  have hmem := of_erased State.sansCaches State.mem (fun _ => rfl) hu
  have hgrids := of_erased State.sansCaches State.grids (fun _ => rfl) hu
  have hqueues := of_erased State.sansCaches State.queues (fun _ => rfl) hu
  have htold := of_erased State.sansCaches (fun s => (s.hostOut, s.time)) (fun _ => rfl) hu
  obtain ⟨hout, htime⟩ := Prod.mk.inj htold
  refine ⟨fun a => by rw [State.postCompletion_mem, State.advanceQueue_mem, hmem], (State.postCompletion_grids ..).trans hgrids, ?_⟩
  rw [State.postCompletion_told (State.queue_advanced (by rw [hqueues]; exact hq)), ← hout, ← htime]
  rfl

/-! ### Admission (R102, R499) -/

theorem State.launch_other_context {s : State} {c : Context} {queue : Nat} {e : QEntry} {r : LaunchRecord} (h : r.ctx ≠ c.num) :
    s.launch c queue e r = s.postCompletion queue e.tag 0x0C := if_pos h

theorem State.launch_refused {s : State} {c : Context} {queue : Nat} {e : QEntry} {r : LaunchRecord} (h : r.ctx = c.num)
    (hcode : s.checkRecord r ≠ 0) : s.launch c queue e r = s.postCompletion queue e.tag (s.checkRecord r) := by
  rw [State.launch, if_neg (not_not_intro h)]
  split
  next h0 => exact absurd h0 hcode
  · rfl

theorem State.launch_admitted {s : State} {c : Context} {queue : Nat} {e : QEntry} {r : LaunchRecord} (h : r.ctx = c.num)
    (hcode : s.checkRecord r = 0) : s.launch c queue e r = s.admitGrid c r queue e.tag := by
  rw [State.launch, if_neg (not_not_intro h), hcode]
  rfl

/-- A grid that is admitted stands among the grids with its record, queue, tag and number, whatever of it is placed at once. -/
theorem State.admitGrid_admits (s : State) (c : Context) (r : LaunchRecord) (queue : Nat) (tag : Word) :
    (s.admitGrid c r queue tag).admitted = s.admitted + 1 ∧ (s.admitGrid c r queue tag).hostOut = s.hostOut ∧
    ∃ g ∈ (s.admitGrid c r queue tag).grids, g.key = ⟨c.num, c.nextGrid⟩ ∧ g.rec_ = { r with patience := Config.patience } ∧
      g.queue = queue ∧ g.tag = tag ∧ g.order = s.admitted := by
  let new := freshGrid ⟨c.num, c.nextGrid⟩ r s.admitted queue tag
  let s1 : State := { s.updCtx c.num fun c => { c with nextGrid := (c.nextGrid + 1) % 2 ^ 32 } with
    grids := s.grids ++ [new], admitted := s.admitted + 1 }
  have hplaced : (s.admitGrid c r queue tag).sansPlaces = s1.sansPlaces := State.distribute_sansPlaces s1 c.num
  have hgrids : (s.admitGrid c r queue tag).grids.map Grid.sansPlaces = s1.grids.map Grid.sansPlaces := congrArg State.grids hplaced
  have hmem : new.sansPlaces ∈ s1.grids.map Grid.sansPlaces := List.mem_map_of_mem (List.mem_append_right _ List.mem_cons_self)
  rw [← hgrids] at hmem
  obtain ⟨g, hg, hnew⟩ := List.mem_map.1 hmem
  have hout := congrArg State.hostOut hplaced
  exact ⟨congrArg State.admitted hplaced, hout, g, hg, congrArg Grid.key hnew, congrArg Grid.rec_ hnew,
    congrArg Grid.queue hnew, congrArg Grid.tag hnew, congrArg Grid.order hnew⟩

/-! ### What an entry waits for (R498) -/

section
variable {s : State} {ctx : Nat} {w : EntryWait}

/-- All the bits of a wait are set, or one of its faults is. -/
def State.WaitOver (s : State) (ctx : Nat) (w : EntryWait) : Prop :=
  ∃ d f, WaitBits s ctx w d f ∧ ((∀ i < w.wn, bitAt d i) ∨ ∃ i < w.wn, bitAt f i)

/-- One of the faults of a wait is set. -/
def State.WaitFaulted (s : State) (ctx : Nat) (w : EntryWait) : Prop := ∃ d f, WaitBits s ctx w d f ∧ ∃ i < w.wn, bitAt f i

theorem EntryWait.bad_iff : w.bad = true ↔ WaitBad w := by
  simp only [EntryWait.bad, WaitBad, Bool.or_eq_true, decide_eq_true_eq, bne_iff_ne, ne_eq, or_assoc]

theorem State.waitBits_of_read {d f : List Byte} (h : WaitBits s ctx w d f) :
    s.waitBits ctx w = some ((List.range w.wn).all (bitOf d), (List.range w.wn).any (bitOf f)) := by
  obtain ⟨hd, hf⟩ := h
  simp only [State.waitBits, hd, bitmapBytes, hf]

theorem State.waitBits_eq_none_iff : s.waitBits ctx w = none ↔ ¬ ∃ d f, WaitBits s ctx w d f := by
  constructor
  · rintro hnone ⟨d, f, h⟩
    rw [State.waitBits_of_read h] at hnone
    cases hnone
  · intro h
    unfold State.waitBits
    dsimp only
    split
    next d f hd hf => exact absurd ⟨d, f, hd, hf⟩ h
    · rfl

/-- What a wait's bits say of it: over, and with a fault. -/
def waitIsOver (b : Option (Bool × Bool)) : Bool := match b with | some b => b.1 || b.2 | none => true
def waitIsFaulted (b : Option (Bool × Bool)) : Bool := match b with | some b => b.2 | none => false

theorem bitsSet_all (d : List Byte) (n : Nat) : (List.range n).all (bitOf d) = true ↔ ∀ i < n, bitAt d i := by
  simp [List.all_eq_true, bitOf, bitAt]

theorem bitsSet_any (f : List Byte) (n : Nat) : (List.range n).any (bitOf f) = true ↔ ∃ i < n, bitAt f i := by
  simp [List.any_eq_true, bitOf, bitAt]

theorem WaitBits.unique {d f d' f' : List Byte} (h : WaitBits s ctx w d f) (h' : WaitBits s ctx w d' f') : d = d' ∧ f = f' :=
  ⟨Option.some.inj (h.1.symm.trans h'.1), Option.some.inj (h.2.symm.trans h'.2)⟩

theorem State.waitIsOver_iff (hr : ∃ d f, WaitBits s ctx w d f) : waitIsOver (s.waitBits ctx w) = true ↔ s.WaitOver ctx w := by
  obtain ⟨d, f, h⟩ := hr
  rw [State.waitBits_of_read h, waitIsOver, Bool.or_eq_true, bitsSet_all, bitsSet_any]
  refine ⟨fun hb => ⟨d, f, h, hb⟩, ?_⟩
  rintro ⟨d', f', h', hb⟩
  obtain ⟨rfl, rfl⟩ := h.unique h'
  exact hb

theorem State.waitIsFaulted_iff : waitIsFaulted (s.waitBits ctx w) = true ↔ s.WaitFaulted ctx w := by
  constructor
  · intro hb
    by_cases hr : ∃ d f, WaitBits s ctx w d f
    · obtain ⟨d, f, h⟩ := hr
      rw [State.waitBits_of_read h, waitIsFaulted, bitsSet_any] at hb
      exact ⟨d, f, h, hb⟩
    · rw [State.waitBits_eq_none_iff.2 hr] at hb
      cases hb
  · rintro ⟨d, f, h, hb⟩
    rw [State.waitBits_of_read h, waitIsFaulted, bitsSet_any]
    exact hb

end

/-! ### The head entry of a queue (R498, R499) -/

/-- An entry has a wait or a record's address that R498 does not allow. -/
def QEntry.Misplaced (e : QEntry) : Prop := (∃ w ∈ e.waits, WaitBad w) ∨ (e.opc = 1 ∧ e.record % 64 ≠ 0)

/-- The bits of an entry's waits and the record that it launches can be read. -/
def State.EntryReadable (s : State) (ctx : Nat) (e : QEntry) : Prop :=
  (∀ w ∈ e.waits, ∃ d f, WaitBits s ctx w d f) ∧ (e.opc = 1 → ∃ rb, s.virtBytes ctx e.record 256 = some rb)

theorem QEntry.refused_iff {e : QEntry} :
    (e.reserved || (e.opc = 1 && e.record % 64 != 0) || e.waits.any EntryWait.bad) = true ↔ e.reserved = true ∨ e.Misplaced := by
  simp only [QEntry.Misplaced, Bool.or_eq_true, Bool.and_eq_true, decide_eq_true_eq, bne_iff_ne, List.any_eq_true, EntryWait.bad_iff,
    or_assoc, or_comm (a := e.opc = 1 ∧ _)]

section
variable {s : State} {ctx : Nat} {e : QEntry}

theorem State.unreadable_iff : (((e.waits.map fun w => s.waitBits ctx w).any fun w => w.isNone) ||
    (e.opc = 1 && (s.virtBytes ctx e.record 256).isNone)) = true ↔ ¬ s.EntryReadable ctx e := by
  have hrec : s.virtBytes ctx e.record 256 = none ↔ ¬ ∃ rb, s.virtBytes ctx e.record 256 = some rb := by
    rw [Option.eq_none_iff_forall_ne_some, not_exists]
  simp only [State.EntryReadable, Bool.or_eq_true, List.any_map, List.any_eq_true, Function.comp_apply, Option.isNone_iff_eq_none,
    State.waitBits_eq_none_iff, Bool.and_eq_true, decide_eq_true_eq, not_and_or, not_forall, exists_prop, hrec]

theorem State.waitsOver_iff (hr : s.EntryReadable ctx e) :
    (e.waits.map fun w => s.waitBits ctx w).all waitIsOver = true ↔ ∀ w ∈ e.waits, s.WaitOver ctx w := by
  rw [List.all_map, List.all_eq_true]
  exact forall₂_congr fun w hw => State.waitIsOver_iff (hr.1 w hw)

theorem State.waitsFaulted_iff :
    (e.waits.map fun w => s.waitBits ctx w).any waitIsFaulted = true ↔ ∃ w ∈ e.waits, s.WaitFaulted ctx w := by
  simp only [List.any_map, List.any_eq_true, Function.comp_apply, State.waitIsFaulted_iff]

end

/-- The state in which the Newel has read an entry and its queue is past it. -/
def State.pastEntry (s : State) (q : LQueue) (ctx : Nat) (e : QEntry) : State :=
  ((entryReads q e).foldl (fun t x => t.reached newelSite ctx x.1 x.2 false) s).advanceQueue q.p.queue

theorem State.reads_sansCaches (s : State) (ctx : Nat) (l : List (Nat × Nat)) :
    (l.foldl (fun t x => t.reached newelSite ctx x.1 x.2 false) s).sansCaches = s.sansCaches :=
  foldl_keeps (g := State.sansCaches) (fun _ _ => State.reached_sansCaches ..) l s

section
variable {s : State} {q : LQueue} {c : Context} {host bs : List Byte}
  (hq : (s.queues.find? fun x => x.p.queue = q.p.queue) = some q) (hhead : s.headEntry q host = some bs)
include hq hhead

/-- An entry that a kill or QDEL has answered for is taken with 0x22 (R494). -/
theorem exec_launchEntryTaken_drained (hdrain : q.head < q.drain) : exec (.launchEntryTaken q.p.queue host) s =
    .next ((s.advanceQueue q.p.queue).postCompletion q.p.queue (parseEntry bs).tag 0x22) := by
  simp only [show exec (.launchEntryTaken q.p.queue host) s = execLaunchEntryTaken q.p.queue host s from rfl, execLaunchEntryTaken,
    hq, hhead, if_pos hdrain]

variable (hc : s.ctxAt q.p.ctx = some c) (hready : s.ready = true) (hquar : s.quar = false) (hclosing : q.closing = false)
  (htail : q.head < q.tail) (hdrain : q.drain ≤ q.head) (hres : c.st = .resident)
  (hserved : ∀ x ∈ entryReads q (parseEntry bs), s.vaWaits newelSite c.num x.1 x.2 = false)
include hc hready hquar hclosing htail hdrain hres hserved

/-- The course of an open queue's head entry: the checks of R499 in their order. -/
theorem exec_launchEntryTaken_open : exec (.launchEntryTaken q.p.queue host) s =
    let e := parseEntry bs
    let u := s.pastEntry q c.num e
    let ws := e.waits.map fun w => s.waitBits c.num w
    if e.reserved || (e.opc = 1 && e.record % 64 != 0) || e.waits.any EntryWait.bad then .next (u.postCompletion q.p.queue e.tag 0x0A)
    else if (ws.any fun w => w.isNone) || (e.opc = 1 && (s.virtBytes c.num e.record 256).isNone) then
      .next (u.postCompletion q.p.queue e.tag 0x0B)
    else if !(ws.all waitIsOver) then .refused (.notEnabled "LAUNCH_ENTRY_TAKEN")
    else if ws.any waitIsFaulted then .next (u.postCompletion q.p.queue e.tag 0x20)
    else if e.opc = 1 then .next (u.launch c q.p.queue e (parseRecord ((s.virtBytes c.num e.record 256).getD [])))
    else .next (u.postCompletion q.p.queue e.tag 0) := by
  have hwaits : ((entryReads q (parseEntry bs)).any fun x => s.vaWaits newelSite c.num x.1 x.2) = false :=
    List.any_eq_false.2 fun x hx => by rw [hserved x hx]; exact Bool.false_ne_true
  simp only [show exec (.launchEntryTaken q.p.queue host) s = execLaunchEntryTaken q.p.queue host s from rfl, execLaunchEntryTaken,
    hq, hhead, hc, if_neg (Nat.not_lt.2 hdrain)]
  rw [if_neg (by simp [hready, hquar, hclosing, hres, htail])]
  exact if_neg (by rw [← Bool.not_eq_true] at hwaits; exact hwaits)

/-- An entry that says what no entry may, or names a place that R498 does not allow. -/
theorem exec_launchEntryTaken_misplaced (h : (parseEntry bs).reserved = true ∨ (parseEntry bs).Misplaced) :
    exec (.launchEntryTaken q.p.queue host) s =
      .next ((s.pastEntry q c.num (parseEntry bs)).postCompletion q.p.queue (parseEntry bs).tag 0x0A) := by
  rw [exec_launchEntryTaken_open hq hhead hc hready hquar hclosing htail hdrain hres hserved]
  exact if_pos (QEntry.refused_iff.2 h)

variable (hsound : (parseEntry bs).reserved = false) (hplaced : ¬ (parseEntry bs).Misplaced)
include hsound hplaced

theorem exec_launchEntryTaken_unreadable (h : ¬ s.EntryReadable c.num (parseEntry bs)) : exec (.launchEntryTaken q.p.queue host) s =
    .next ((s.pastEntry q c.num (parseEntry bs)).postCompletion q.p.queue (parseEntry bs).tag 0x0B) := by
  rw [exec_launchEntryTaken_open hq hhead hc hready hquar hclosing htail hdrain hres hserved]
  dsimp only
  rw [if_neg (QEntry.refused_iff.not.2 (not_or.2 ⟨Bool.eq_false_iff.1 hsound, hplaced⟩)), if_pos (State.unreadable_iff.2 h)]

variable (hread : s.EntryReadable c.num (parseEntry bs))
include hread

theorem exec_launchEntryTaken_waits (h : ∃ w ∈ (parseEntry bs).waits, ¬ s.WaitOver c.num w) :
    exec (.launchEntryTaken q.p.queue host) s = .refused (.notEnabled "LAUNCH_ENTRY_TAKEN") := by
  rw [exec_launchEntryTaken_open hq hhead hc hready hquar hclosing htail hdrain hres hserved]
  dsimp only
  rw [if_neg (QEntry.refused_iff.not.2 (not_or.2 ⟨Bool.eq_false_iff.1 hsound, hplaced⟩)), if_neg (State.unreadable_iff.not_left.2 hread),
    if_pos]
  rw [Bool.not_eq_true', Bool.eq_false_iff, ne_eq, State.waitsOver_iff hread]
  simpa using h

variable (hover : ∀ w ∈ (parseEntry bs).waits, s.WaitOver c.num w)
include hover

theorem exec_launchEntryTaken_faulted (h : ∃ w ∈ (parseEntry bs).waits, s.WaitFaulted c.num w) :
    exec (.launchEntryTaken q.p.queue host) s =
      .next ((s.pastEntry q c.num (parseEntry bs)).postCompletion q.p.queue (parseEntry bs).tag 0x20) := by
  rw [exec_launchEntryTaken_open hq hhead hc hready hquar hclosing htail hdrain hres hserved]
  dsimp only
  rw [if_neg (QEntry.refused_iff.not.2 (not_or.2 ⟨Bool.eq_false_iff.1 hsound, hplaced⟩)), if_neg (State.unreadable_iff.not_left.2 hread),
    if_neg (by rw [(State.waitsOver_iff hread).2 hover]; decide), if_pos (State.waitsFaulted_iff.2 h)]

variable (hclean : ¬ ∃ w ∈ (parseEntry bs).waits, s.WaitFaulted c.num w)
include hclean

/-- What follows an entry whose waits are over without a fault: its launch, if it has one. -/
theorem exec_launchEntryTaken_free : exec (.launchEntryTaken q.p.queue host) s =
    .next (if (parseEntry bs).opc = 1 then
        (s.pastEntry q c.num (parseEntry bs)).launch c q.p.queue (parseEntry bs)
          (parseRecord ((s.virtBytes c.num (parseEntry bs).record 256).getD []))
      else (s.pastEntry q c.num (parseEntry bs)).postCompletion q.p.queue (parseEntry bs).tag 0) := by
  rw [exec_launchEntryTaken_open hq hhead hc hready hquar hclosing htail hdrain hres hserved]
  dsimp only
  rw [if_neg (QEntry.refused_iff.not.2 (not_or.2 ⟨Bool.eq_false_iff.1 hsound, hplaced⟩)), if_neg (State.unreadable_iff.not_left.2 hread),
    if_neg (by rw [(State.waitsOver_iff hread).2 hover]; decide), if_neg (State.waitsFaulted_iff.not.2 hclean)]
  split <;> rfl

end

end Sys2Proof.Machine


/-! ## Statuses of launch entries and grids (O44) -/
namespace Sys2Proof.Machine
open Sys2Proof

/-- An entry that is read and answered with a status. -/
theorem State.pastEntry_answered {s : State} {q : LQueue} (hq : (s.queues.find? fun x => x.p.queue = q.p.queue) = some q)
    (ctx : Nat) (e : QEntry) (tag : Word) (status : Nat) :
    AnsweredWith s ((s.pastEntry q ctx e).postCompletion q.p.queue tag status) q tag status :=
  State.answeredWith_postCompletion (s.reads_sansCaches ctx (entryReads q e)) hq tag status

/-- A state without its queues and caches. -/
def State.sansQueues (s : State) : State := { s.sansCaches with queues := [] }

theorem State.pastEntry_sansQueues (s : State) (q : LQueue) (ctx : Nat) (e : QEntry) : (s.pastEntry q ctx e).sansQueues = s.sansQueues := by
  have hread := of_erased State.sansCaches State.sansQueues (fun _ => rfl) (s.reads_sansCaches ctx (entryReads q e))
  exact hread

section
variable {s : State} {q : LQueue} {c : Context} {e : QEntry} {r : LaunchRecord}

/-- A record that is refused has its entry answered with the code of its first failing check (R96, R499). -/
theorem State.pastEntry_launch_refused (hq : (s.queues.find? fun x => x.p.queue = q.p.queue) = some q) :
    (r.ctx ≠ c.num → AnsweredWith s ((s.pastEntry q c.num e).launch c q.p.queue e r) q e.tag 0x0C) ∧
    (r.ctx = c.num → s.checkRecord r ≠ 0 → AnsweredWith s ((s.pastEntry q c.num e).launch c q.p.queue e r) q e.tag (s.checkRecord r)) := by
  have hcheck := of_erased State.sansQueues (State.checkRecord · r) (fun _ => rfl) (s.pastEntry_sansQueues q c.num e)
  refine ⟨fun h => ?_, fun h hcode => ?_⟩
  · rw [State.launch_other_context h]
    exact State.pastEntry_answered hq ..
  · rw [← hcheck] at hcode ⊢
    rw [State.launch_refused h hcode]
    exact State.pastEntry_answered hq ..

/-- A record with no fault has its grid admitted under its context's next number (R102, R499). -/
theorem State.pastEntry_launch_admits (h : r.ctx = c.num) (hcode : s.checkRecord r = 0) :
    let t := (s.pastEntry q c.num e).launch c q.p.queue e r
    SameMemory s t ∧ t.admitted = s.admitted + 1 ∧ t.hostOut = s.hostOut ∧
    ∃ g ∈ t.grids, g.key = ⟨c.num, c.nextGrid⟩ ∧ g.rec_ = { r with patience := Config.patience } ∧ g.queue = q.p.queue ∧ g.tag = e.tag ∧
      g.order = s.admitted := by
  have hpast := s.pastEntry_sansQueues q c.num e
  have hcheck := of_erased State.sansQueues (State.checkRecord · r) (fun _ => rfl) hpast
  have hmem := of_erased State.sansQueues State.mem (fun _ => rfl) hpast
  have hadmitted := of_erased State.sansQueues State.admitted (fun _ => rfl) hpast
  have hout := of_erased State.sansQueues State.hostOut (fun _ => rfl) hpast
  rw [← hcheck] at hcode
  rw [State.launch_admitted h hcode, ← hadmitted, ← hout]
  exact ⟨fun a => by rw [State.admitGrid_mem, hmem], State.admitGrid_admits ..⟩

end

/-! ### GRID_COMPLETION (R500) -/

/-- What a grid's completion waits for is over: its workgroups, their accesses here and their Gallery operations (R266, R500). -/
theorem State.gridOpen_eq_false {s : State} {k : GridKey} (hacc : ∀ a, Pending.access a ∈ s.pending → gridOfWg a.wg ≠ k)
    (hgal : ∀ o ∈ s.galOps, gridOfWg o.wg = k → o.doneHere = true) : s.gridOpen k = false := by
  rw [State.gridOpen, Bool.or_eq_false_iff, List.any_eq_false, List.any_eq_false]
  constructor
  · intro p hp
    cases p with
    | access a => simpa using hacc a hp
    | fence f => simp
  · intro o ho
    simpa using hgal o ho

/-- The state that a completed grid leaves, before the distributor decides. -/
def State.gridDone (s : State) (k : GridKey) (g : Grid) : State :=
  let s1 := (s.ordersOf fun w => gridOfWg w = k).postCompletion g.queue g.tag g.status
  { s1 with grids := s1.grids.filter fun x => x.key ≠ k }

theorem exec_gridCompletion {s : State} {k : GridKey} {g : Grid} (hg : s.gridAt k = some g)
    (hhere : ∀ c, s.ctxAt k.ctx = some c → c.st ≠ .saved ∧ c.st ≠ .restoring)
    (hall : g.killed = true ∨ g.count ≤ g.retired.length) (hleft : ∀ w ∈ s.wgs, gridOfWg w.key ≠ k) (hopen : s.gridOpen k = false) :
    exec (.gridCompletion k) s = .next ((s.gridDone k g).distribute k.ctx) := by
  have hwgs : (s.wgs.any fun w => decide (gridOfWg w.key = k)) = false := List.any_eq_false.2 fun w hw => by simpa using hleft w hw
  have hcount : (!g.killed && decide (g.retired.length < g.count)) = false := by
    rcases hall with h | h <;> simp [h]
  simp only [show exec (.gridCompletion k) s = execGridCompletion k s from rfl, execGridCompletion, hg, hwgs, hcount, hopen]
  cases hc : s.ctxAt k.ctx with
  | none => rfl
  | some c =>
    obtain ⟨hsaved, hrestoring⟩ := hhere c hc
    simp only [hsaved, hrestoring]
    rfl

theorem Grid.status_eq (g : Grid) : g.status = if g.killed = true ∨ ∃ r ∈ g.retired, r.2 ≠ .exit then 0x21 else 0 := by
  simp only [Grid.status, Bool.or_eq_true, List.any_eq_true, decide_eq_true_eq]

theorem State.gridDone_completes {s : State} {k : GridKey} {g : Grid} :
    SameMemory s (s.gridDone k g) ∧ (s.gridDone k g).gridAt k = none ∧
    ∀ q, (s.queues.find? fun x => x.p.queue = g.queue) = some q →
      q.message g.tag g.status s.time ∈ (s.gridDone k g).hostOut := by
  refine ⟨fun a => congrArg (byteAt · a) (State.postCompletion_mem ..), ?_, fun q hq => ?_⟩
  · exact List.find?_eq_none.2 fun x hx => by simpa using (List.mem_filter.1 hx).2
  · have htold := State.postCompletion_told (s := s.ordersOf fun w => gridOfWg w = k) hq g.tag g.status
    exact htold ▸ List.mem_append_right _ List.mem_cons_self

end Sys2Proof.Machine


/-! ## What a retirement finds (O44) -/
namespace Sys2Proof.Machine
open Sys2Proof

/-! ### What fences and dropped records leave of a workgroup (R271, R298, R317) -/

/-- A workgroup without its scratchpad's bytes. -/
def Workgroup.sansScratch (g : Workgroup) : Workgroup := { g with scratch := [], scratchPoison := [] }

/-- The grids, memory, and of the workgroups all but their scratchpads. -/
def State.ledger (s : State) : List Grid × List Host.Cell × List Workgroup := (s.grids, s.mem, s.wgs.map Workgroup.sansScratch)

/-- A workgroup stands in any state of the same ledger, with nothing but its scratchpad changed, and so do grids and memory. -/
theorem State.residents_of_ledger {s t : State} {k : WgKey} {g : Workgroup} (h : t.ledger = s.ledger) (hg : s.wgAt k = some g) :
    t.grids = s.grids ∧ t.mem = s.mem ∧ ∃ g', t.wgAt k = some g' ∧ g'.sansScratch = g.sansScratch := by
  obtain ⟨hgrids, h⟩ := Prod.mk.inj h
  obtain ⟨hmem, hwgs⟩ := Prod.mk.inj h
  have hfind := congrArg (List.find? fun g : Workgroup => decide (g.key = k)) hwgs
  rw [List.find?_map, List.find?_map] at hfind
  have hat : (t.wgAt k).map Workgroup.sansScratch = (s.wgAt k).map Workgroup.sansScratch := hfind
  rw [hg, Option.map_some] at hat
  exact ⟨hgrids, hmem, Option.map_eq_some_iff.1 hat⟩

theorem State.freezeViews_ledger (s : State) (id : Nat) : (s.freezeViews id).ledger = s.ledger := by
  have hfill := foldl_keeps (g := State.sansCaches) (fun t x => t.fill_sansCaches newelSite x.1 x.2) (s.frozenPages id) s
  have hledger := of_erased State.sansCaches State.ledger (fun _ => rfl) hfill
  exact hledger

theorem State.fenceActs_ledger (s : State) (f : FenceMark) : (s.fenceActs f).ledger = s.ledger := by
  have hfrozen (t : State) : (if f.freezes && !t.views.isEmpty then t.freezeViews f.id else t).ledger = t.ledger := by
    split
    exacts [t.freezeViews_ledger f.id, rfl]
  refine (hfrozen _).trans ?_
  split <;> rfl

theorem State.settle_ledger (s : State) : s.settle.ledger = s.ledger := by
  have hpasses : s.endPasses.ledger = s.ledger := by
    unfold State.endPasses
    split <;> rfl
  unfold State.settle
  dsimp only
  split
  · exact hpasses
  · rw [foldl_keeps (g := State.ledger) State.fenceActs_ledger]
    exact hpasses

theorem State.updWg_ledger {f : Workgroup → Workgroup} (hf : ∀ g, (f g).sansScratch = g.sansScratch) (s : State) (k : WgKey) :
    (s.updWg k f).ledger = s.ledger := by
  have hwgs : (s.updWg k f).wgs.map Workgroup.sansScratch = s.wgs.map Workgroup.sansScratch := by
    rw [State.updWg, List.map_map]
    refine List.map_congr_left fun g _ => ?_
    dsimp only [Function.comp_apply]
    split
    exacts [hf g, rfl]
  simp only [State.ledger, hwgs]
  rfl

theorem State.notifyS_ledger (s : State) (k : WgKey) (off n : Nat) : (s.notifyS k off n).ledger = s.ledger := by
  unfold State.notifyS
  split <;> rfl

theorem State.updBar_own_ledger (s : State) (k : WgKey) (off : Nat) (b : Bar) : (s.updBar (.own k off) b).ledger = s.ledger := by
  have hput : (s.putBar (.own k off) b).ledger = s.ledger :=
    (State.notifyS_ledger ..).trans (State.updWg_ledger (by intro g; rfl) s k)
  unfold State.updBar
  extract_lets bad
  split
  · exact hput
  · exact (State.updWg_ledger (by intro g; rfl) _ k).trans hput

theorem State.abandon_own_ledger (s : State) (k : WgKey) (off : Nat) : (s.abandon (.own k off)).ledger = s.ledger := by
  unfold State.abandon
  extract_lets b
  split
  exacts [s.updBar_own_ledger k off _, rfl]

/-- Dropping a workgroup's records changes no memory, no grid and nothing of workgroups but objects in scratchpads (R298, R317). -/
theorem State.dropRecords_ledger (s : State) (k : WgKey) : (s.dropRecords k).ledger = s.ledger := by
  rw [State.dropRecords, State.settle_ledger]
  refine (rfl : _ = _).trans (foldl_keeps (g := State.ledger) (fun t r => ?_) _ s)
  split
  · split
    · exact State.abandon_own_ledger ..
    · rfl
  · rfl

/-! ### Nothing that a retirement waits for (R100, R175, R298, R310, R317, R372) -/

section
variable {u : State} {k : WgKey} {g : Workgroup} {gr : Grid}

/-- A workgroup that has its mark or owed objects still before it, with nothing outstanding on any path. -/
theorem NoneOpen.workOpen_eq_false (h : NoneOpen u k g gr) (hlast : g.owed ≠ [] ∨ (gr.rec_.compl ≠ 0 ∧ g.doneMade = false))
    (p : Nat) (upto : Option Nat) : u.workOpen k p upto = false := by
  obtain ⟨hacc, hrec, hgroups, hstreams, hmq, hgal⟩ := h
  simp only [State.workOpen, Bool.or_eq_false_iff, List.any_eq_false]
  refine ⟨⟨⟨⟨⟨fun x hx => ?_, fun r hr => ?_⟩, fun x hx => ?_⟩, fun w hw => ?_⟩, fun c hc => ?_⟩, fun o ho => ?_⟩
  · cases x with
    | access a =>
      have hne : a.wg ≠ k := fun hk => ((hacc a hx).1 hk).2.2.1 hlast
      simp [hne]
    | fence f => exact Bool.false_ne_true
  · simp [hrec r hr]
  · simp [hgroups x hx]
  · by_cases hk : w.wg = k
    · have hopen : ∀ q ∈ w.q, (w.alive || q.2.store) = true → q.2.open_ = [] := fun q hq hl =>
        hstreams w hw hk q hq (by simpa [Warp.alive] using hl)
      simp only [hk, decide_true, Bool.true_and, List.any_eq_true, Bool.and_eq_true, not_exists, not_and]
      intro q hq hl
      simp [hopen q hq hl]
    · simp [hk]
  · simp only [List.any_eq_true, not_exists, not_and]
    intro e he
    simp [(hmq c hc e he).1]
  · by_cases hk : o.wg = k
    · simp [hgal hlast o ho hk]
    · simp [hk]

theorem NoneOpen.nmaHolds_eq_false (h : NoneOpen u k g gr) (hg : u.wgAt k = some g) (hgr : u.gridAt (gridOfWg k) = some gr) :
    u.nmaHolds k = false := by
  obtain ⟨hacc, -, -, -, -, hgal⟩ := h
  simp only [State.nmaHolds, hg, hgr, Bool.or_eq_false_iff, List.any_eq_false]
  constructor
  · intro x hx
    cases x with
    | access a =>
      by_cases hk : a.wg = k
      · obtain ⟨-, -, hlast, hlocks⟩ := (hacc a hx).1 hk
        obtain ⟨howed, hmark⟩ := not_or.1 hlast
        have hmade : (gr.rec_.compl != 0 && !g.doneMade) = false := by simpa using hmark
        rw [hmade, not_not.1 howed]
        rcases hlocks with hl | hl
        · simp [hl]
        · simp [Option.isSome_iff_ne_none.1 hl]
      · simp [hk]
    | fence f => exact Bool.false_ne_true
  · by_cases howed : g.owed = []
    · simp [howed]
    · have hdone : ∀ o ∈ u.galOps, o.wg = k → o.doneHere = true := hgal (.inl howed)
      simpa [howed] using hdone

theorem NoneOpen.windowOpen_eq_false (h : NoneOpen u k g gr) : u.windowOpen k = false := by
  obtain ⟨hacc, -, -, -, hmq, -⟩ := h
  simp only [State.windowOpen, Bool.or_eq_false_iff, List.any_eq_false]
  refine ⟨fun x hx => ?_, fun c hc => ?_⟩
  · cases x with
    | access a =>
      rcases (hacc a hx).2 with h | h | h
      · simp [h]
      · simp [h]
      · simpa using fun _ _ => h
    | fence f => exact Bool.false_ne_true
  · simp only [List.any_eq_true, not_exists, not_and]
    intro e he
    have hteam := (hmq c hc e he).2
    split
    next hw => simpa using hteam _ _ _ _ _ _ _ _ _ _ _ _ _ hw
    · exact Bool.false_ne_true

theorem NoneOpen.holdsRetirement_eq_false (h : NoneOpen u k g gr) (hg : u.wgAt k = some g) (hgr : u.gridAt (gridOfWg k) = some gr) :
    u.holdsRetirement k = false := by
  have hnma := h.nmaHolds_eq_false hg hgr
  have hwindow := h.windowOpen_eq_false
  obtain ⟨hacc, hrec, hgroups, hstreams, hmq, -⟩ := h
  simp only [State.holdsRetirement, hnma, hwindow, Bool.or_eq_false_iff, List.any_eq_false, true_and]
  refine ⟨⟨⟨⟨fun r hr => ?_, fun x hx => ?_⟩, fun w hw => ?_⟩, fun c hc => ?_⟩, fun x hx => ?_⟩
  · simpa using hrec r hr
  · simpa using hgroups x hx
  · simp only [Bool.and_eq_true, decide_eq_true_eq, List.any_eq_true, not_and, not_exists]
    intro hk q hq hstore
    have hopen := hstreams w hw hk q hq (.inr hstore)
    rw [Stream.open_, if_pos hstore, List.map_eq_nil_iff] at hopen
    simp [hopen]
  · simp only [List.any_eq_true, not_exists, not_and]
    intro e he
    simpa using (hmq c hc e he).1
  · cases x with
    | access a =>
      by_cases hk : a.wg = k
      · obtain ⟨hnear, hbuffered, -⟩ := (hacc a hx).1 hk
        simp [hnear, hbuffered]
      · simp [hk]
    | fence f => exact Bool.false_ne_true

theorem NoneOpen.holdsMark_eq_false (h : NoneOpen u k g gr) (hg : u.wgAt k = some g) (hgr : u.gridAt (gridOfWg k) = some gr)
    (how : EndKind) : u.holdsMark k how = false := by
  simp only [State.holdsMark, hg, hgr]
  by_cases hlast : gr.rec_.compl ≠ 0 ∧ g.doneMade = false
  · rw [h.workOpen_eq_false (.inr hlast), Bool.and_false]
  · have hmade : (gr.rec_.compl != 0 && !g.doneMade) = false := by simpa using hlast
    simp [hmade]

end

end Sys2Proof.Machine


/-! ## A workgroup retires (O44) -/
namespace Sys2Proof.Machine
open Sys2Proof

/-! ### What the grid keeps of it (R314, R317) -/

/-- A grid without its tickets. -/
def Grid.sansTickets (g : Grid) : Grid := { g with tickets := [], abandoned := [] }

theorem Grid.bump_sansTickets (g : Grid) (t : Nat) : (g.bump t).sansTickets = g.sansTickets := by
  unfold Grid.bump
  split <;> rfl

theorem Grid.skip_sansTickets (t n : Nat) (g : Grid) : (Grid.skip t n g).sansTickets = g.sansTickets := by
  induction n generalizing g with
  | zero => rfl
  | succ n ih =>
    unfold Grid.skip
    split
    · rfl
    · split
      · rfl
      · rw [ih, Grid.bump_sansTickets]
      · rfl

theorem Grid.skipAll_sansTickets (g : Grid) : g.skipAll.sansTickets = g.sansTickets :=
  foldl_keeps (g := Grid.sansTickets) (fun g t => by split; exacts [rfl, g.skip_sansTickets t _]) _ g

/-- Grids that differ in tickets alone have one key and one list of retired workgroups. -/
theorem Grid.kept_of_sansTickets {g h : Grid} (e : g.sansTickets = h.sansTickets) : g.key = h.key ∧ g.retired = h.retired := by
  obtain ⟨⟩ := g
  obtain ⟨⟩ := h
  simp_all [Grid.sansTickets]

theorem State.leaveOn_grids (s : State) (k : WgKey) : (s.leaveOn k).grids = s.grids := by
  unfold State.leaveOn
  split <;> rfl

theorem State.emptyCore_grids (s : State) (core : Nat) : (s.emptyCore core).grids = s.grids := by
  unfold State.emptyCore
  split <;> rfl

theorem State.gridAt_updGrid {s : State} {k : GridKey} {f : Grid → Grid} {g : Grid} (hf : ∀ g, (f g).key = g.key)
    (hg : s.gridAt k = some g) : (s.updGrid k f).gridAt k = some (f g) := by
  have hk : g.key = k := by simpa using List.find?_some hg
  have hkey : (fun x : Grid => decide (x.key = k)) ∘ (fun x => if x.key = k then f x else x) = fun x => decide (x.key = k) := by
    funext x
    dsimp only [Function.comp_apply]
    split
    exacts [congrArg (fun y => decide (y = k)) (hf x), rfl]
  have hfind : (s.updGrid k f).gridAt k = (s.gridAt k).map fun x => if x.key = k then f x else x := by
    rw [State.gridAt, State.updGrid, List.find?_map, hkey]
    rfl
  rw [hfind, hg, Option.map_some, if_pos hk]

/-- A workgroup's grid as it counts it among its retired. -/
def State.gridWith (s : State) (k : WgKey) (how : EndKind) (g : Grid) : Grid :=
  { g with
    retired := g.retired ++ [(k.wgid, how)]
    gone := if g.rec_.det then g.gone ++ (match s.wgAt k with | some w => [(k.wgid, w.ends)] | none => []) else g.gone }

theorem State.gridAt_removeWg {s : State} {k : WgKey} {gr : Grid} (hgr : s.gridAt (gridOfWg k) = some gr) (how : EndKind) :
    ∃ gr', (s.removeWg k how).gridAt (gridOfWg k) = some gr' ∧ gr'.retired = gr.retired ++ [(k.wgid, how)] := by
  have hleft : (s.leaveOn k).gridAt (gridOfWg k) = some gr := by rw [State.gridAt, s.leaveOn_grids]; exact hgr
  have hkept (g : Grid) := Grid.kept_of_sansTickets (s.gridWith k how g).skipAll_sansTickets
  exact ⟨_, State.gridAt_updGrid (f := fun g => (s.gridWith k how g).skipAll) (fun g => (hkept g).1) hleft, (hkept gr).2⟩

/-- What a workgroup leaves as it retires from a core: its grid counts it, and no memory changes (R100, R314). -/
theorem State.afterRetirement_counts {s : State} {k : WgKey} {gr : Grid} (hgr : s.gridAt (gridOfWg k) = some gr) (how : EndKind)
    (core : Nat) : ∃ gr', (((s.removeWg k how).emptyCore core).afterRetirement (gridOfWg k) core).gridAt (gridOfWg k) = some gr' ∧
      gr'.retired = gr.retired ++ [(k.wgid, how)] := by
  obtain ⟨g, hg, hretired⟩ := State.gridAt_removeWg hgr how
  have hempty : ((s.removeWg k how).emptyCore core).gridAt (gridOfWg k) = some g := by rw [State.gridAt, State.emptyCore_grids]; exact hg
  have hat := State.gridAt_of_sansPlaces (((s.removeWg k how).emptyCore core).afterRetirement_sansPlaces (gridOfWg k) core) (gridOfWg k)
  rw [hempty, Option.map_some] at hat
  obtain ⟨gr', hgr', hsame⟩ := Option.map_eq_some_iff.1 hat
  exact ⟨gr', hgr', ((congrArg Grid.retired hsame :)).trans hretired⟩

end Sys2Proof.Machine


/-! ## Objects that a retirement abandons (O44) -/
namespace Sys2Proof.Machine
open Sys2Proof

/-! ### Little-endian numbers (R5) -/

theorem readLE_add (m : List Host.Cell) (a i j : Nat) : readLE m a (i + j) = readLE m a i + 256 ^ i * readLE m (a + i) j := by
  induction i generalizing a with
  | zero => simp [readLE]
  | succ i ih =>
    rw [Nat.succ_add, readLE, readLE, ih, Nat.pow_succ, show a + 1 + i = a + (i + 1) by omega]
    ring

theorem readLE_lt (m : List Host.Cell) (a n : Nat) : readLE m a n < 256 ^ n := by
  induction n generalizing a with
  | zero => exact Nat.one_pos
  | succ n ih =>
    have hbyte : (byteAt m a).toNat < 256 := BitVec.isLt _
    have hrest := ih (a + 1)
    rw [readLE, Nat.pow_succ]
    omega

theorem length_toBytes (v n : Nat) : (toBytes v n).length = n := by
  induction n generalizing v with
  | zero => rfl
  | succ n ih => rw [toBytes, List.length_cons, ih]

/-- A number that is written little-endian is read back, as far as its bytes go. -/
theorem readLE_of_toBytes {m : List Host.Cell} {a v n : Nat} (h : ∀ i < n, byteAt m (a + i) = (toBytes v n).getD i 0) :
    readLE m a n = v % 256 ^ n := by
  induction n generalizing a v with
  | zero => simp [readLE, Nat.mod_one]
  | succ n ih =>
    have hlow : byteAt m a = BitVec.ofNat 8 v := h 0 n.succ_pos
    have hhigh : readLE m (a + 1) n = v / 256 % 256 ^ n := ih fun i hi => by
      have := h (i + 1) (Nat.succ_lt_succ hi)
      rwa [toBytes, List.getD_cons_succ, ← Nat.add_assoc, Nat.add_right_comm] at this
    rw [readLE, hlow, hhigh, BitVec.toNat_ofNat, Nat.pow_succ' (n := n)]
    exact Nat.mod_mul.symm

/-! ### The fields of an object (R301) -/

/-- An object whose fields fit into theirs. -/
def Bar.Fits (b : Bar) : Prop :=
  b.pend < 2 ^ 16 ∧ b.init < 2 ^ 16 ∧ b.xgr < 2 ^ 32 ∧ b.dgr < 2 ^ 32 ∧ b.phase < 2 ^ 16 ∧ b.resv < 2 ^ 11 ∧ b.scope < 2 ^ 3 ∧
    b.st < 2 ^ 2

theorem Bar.toNat_lt (b : Bar) : b.toNat < 256 ^ 16 := by
  unfold Bar.toNat
  omega

theorem Bar.ofNat_toNat {b : Bar} (h : b.Fits) : Bar.ofNat b.toNat = b := by
  obtain ⟨init, pend, xgr, dgr, st, scope, resv, phase⟩ := b
  obtain ⟨hpend, hinit, hxgr, hdgr, hphase, hresv, hscope, hst⟩ := h
  dsimp only at *
  simp only [Bar.ofNat, Bar.toNat, Bar.mk.injEq]
  omega

/-- The fields of the 16 bytes at an address. -/
def objAt (m : List Host.Cell) (pa : Nat) : Bar where
  init := readLE m (pa + 2) 2
  pend := readLE m pa 2
  xgr := readLE m (pa + 4) 4
  dgr := readLE m (pa + 8) 4
  st := readLE m (pa + 14) 2 / 2 ^ 14
  scope := readLE m (pa + 14) 2 / 2 ^ 11 % 8
  resv := readLE m (pa + 14) 2 % 2 ^ 11
  phase := readLE m (pa + 12) 2

theorem objAt_fits (m : List Host.Cell) (pa : Nat) : (objAt m pa).Fits := by
  have hword := readLE_lt m (pa + 14) 2
  refine ⟨readLE_lt m pa 2, readLE_lt m (pa + 2) 2, readLE_lt m (pa + 4) 4, readLE_lt m (pa + 8) 4, readLE_lt m (pa + 12) 2, ?_, ?_, ?_⟩ <;>
    simp only [objAt] <;> omega

theorem readLE_obj (m : List Host.Cell) (pa : Nat) : readLE m pa 16 = (objAt m pa).toNat := by
  obtain ⟨hpend, hinit, hxgr, hdgr, hphase, -⟩ := objAt_fits m pa
  have hword := readLE_lt m (pa + 14) 2
  rw [readLE_add m pa 14 2, readLE_add m pa 12 2, readLE_add m pa 8 4, readLE_add m pa 4 4, readLE_add m pa 2 2]
  simp only [objAt, Bar.toNat] at *
  omega

theorem objIs_iff {m : List Host.Cell} {pa : Nat} {b : Bar} : ObjIs m pa b ↔ objAt m pa = b := by
  obtain ⟨init, pend, xgr, dgr, st, scope, resv, phase⟩ := b
  have hword := readLE_lt m (pa + 14) 2
  simp only [ObjIs, objAt, Bar.mk.injEq]
  constructor
  · rintro ⟨hpend, hinit, hxgr, hdgr, hphase, hresv, hscope, hst, h⟩
    exact ⟨hinit, hpend, hxgr, hdgr, by omega, by omega, by omega, hphase⟩
  · rintro ⟨hinit, hpend, hxgr, hdgr, hst, hscope, hresv, hphase⟩
    exact ⟨hpend, hinit, hxgr, hdgr, hphase, by omega, by omega, by omega, by omega⟩

/-- Sixteen bytes are an object with the fields of their number. -/
theorem Bar.ofNat_readLE (m : List Host.Cell) (pa : Nat) : Bar.ofNat (readLE m pa 16) = objAt m pa := by
  rw [readLE_obj, Bar.ofNat_toNat (objAt_fits m pa)]

/-- An object that is written whole is one with its fields. -/
theorem objIs_of_toBytes {m : List Host.Cell} {pa : Nat} {b : Bar} (hb : b.Fits)
    (h : ∀ i < 16, byteAt m (pa + i) = (toBytes b.toNat 16).getD i 0) : ObjIs m pa b := by
  rw [objIs_iff, ← Bar.ofNat_readLE, readLE_of_toBytes h, Nat.mod_eq_of_lt b.toNat_lt, Bar.ofNat_toNat hb]

end Sys2Proof.Machine


/-! ## Retirements (O44) -/
namespace Sys2Proof.Machine
open Sys2Proof

/-! ### A global object that a workgroup owes (R310) -/

/-- An object after its workgroup has abandoned it: no more live (R310). -/
def Bar.left (b : Bar) : Bar := { b with st := if b.st = 1 then 2 else b.st }

/-- The object of 16 bytes at pa is abandoned, and no byte beside it has changed but in frames that views keep. -/
def ObjLeft (s t : State) (pa : Nat) (b : Bar) : Prop :=
  ObjIs t.mem pa b.left ∧ ∀ a, (a < pa ∨ pa + 16 ≤ a) → NoKeptFrame s a → byteAt t.mem a = byteAt s.mem a

theorem State.abandon_live {s : State} {r : BarRef} (hr : r.glob = true) (hlive : (s.barAt r).st = 1) :
    s.abandon r = s.storeG r.key r.pa (toBytes { s.barAt r with st := 2 }.toNat 16) := by
  simp [State.abandon, Bar.isLive, hlive, State.updBar, State.putBar, hr]

theorem State.abandon_dead {s : State} {r : BarRef} (hdead : (s.barAt r).st ≠ 1) : s.abandon r = s := by
  simp [State.abandon, Bar.isLive, hdead]

theorem State.abandon_global {s : State} {r : BarRef} {b : Bar} (hr : r.glob = true) (halign : r.pa % 16 = 0)
    (hkey : s.keysAgree r.key r.pa 16 = true) (hpa : NoKeptFrame s r.pa) (hobj : ObjIs s.mem r.pa b) :
    (s.abandon r).grids = s.grids ∧ ObjLeft s (s.abandon r) r.pa b := by
  have hbar : s.barAt r = b := by
    rw [State.barAt, if_pos hr, State.seen_of_keysAgree hkey, Bar.ofNat_readLE, objIs_iff.1 hobj]
  by_cases hlive : b.st = 1
  · rw [State.abandon_live hr (hbar.symm ▸ hlive), hbar]
    have hlen : ∀ v, (toBytes v 16).length = 16 := fun v => length_toBytes v 16
    refine ⟨of_erased State.sansBytes State.grids (fun _ => rfl) (State.storeG_sansBytes ..), ?_, fun a ha hkept => ?_⟩
    · rw [Bar.left, if_pos hlive]
      refine objIs_of_toBytes ?_ fun i hi => State.byteAt_storeG_same _ _ (by rwa [hlen])
      obtain ⟨hpend, hinit, hxgr, hdgr, hphase, hresv, hscope, -⟩ := objIs_iff.1 hobj ▸ objAt_fits s.mem r.pa
      exact ⟨hpend, hinit, hxgr, hdgr, hphase, hresv, hscope, (by decide : 2 < 2 ^ 2)⟩
    · exact State.byteAt_storeG_other (by rw [hlen]; omega) (by rwa [hlen]) hpa (by rwa [hlen]) hkept
  · rw [State.abandon_dead (hbar.symm ▸ hlive)]
    have hleft : b.left = b := by rw [Bar.left, if_neg hlive]
    exact ⟨rfl, hleft.symm ▸ hobj, fun _ _ _ => rfl⟩

theorem State.abandonOwed_one {s : State} {k : WgKey} {va pa : Nat} {leaf : BitVec 64} {b : Bar}
    (ht : s.translate newelSite k.ctx va .both = .ok pa leaf) (halign : pa % 16 = 0) (hkey : s.keysAgree (keyOf k.ctx leaf) pa 16 = true)
    (hpa : NoKeptFrame s pa) (hobj : ObjIs s.mem pa b) :
    (s.abandonOwed k [va]).grids = s.grids ∧ ObjLeft s (s.abandonOwed k [va]) pa b := by
  have hfill := s.fill_sansCaches newelSite k.ctx va
  have hmem := of_erased State.sansCaches State.mem (fun _ => rfl) hfill
  have hgrids := of_erased State.sansCaches State.grids (fun _ => rfl) hfill
  have hkeys := of_erased State.sansCaches (State.keysAgree · (keyOf k.ctx leaf) pa 16) (fun _ => rfl) hfill
  have hkept (a : Nat) : NoKeptFrame (s.fill newelSite k.ctx va) a = NoKeptFrame s a :=
    of_erased State.sansCaches (NoKeptFrame · a) (fun _ => rfl) hfill
  rw [show s.abandonOwed k [va] = (s.fill newelSite k.ctx va).abandon ⟨true, k, pa, keyOf k.ctx leaf⟩ by
    simp only [State.abandonOwed, ht]]
  obtain ⟨hsame, hobj, hframe⟩ := State.abandon_global (r := ⟨true, k, pa, keyOf k.ctx leaf⟩) rfl halign (hkeys.trans hkey)
    ((hkept pa).mpr hpa) (hmem.symm ▸ hobj)
  exact ⟨hsame.trans hgrids, hobj, fun a ha hk => by rw [hframe a ha ((hkept a).mpr hk), hmem]⟩

/-! ### The step (R100, R317) -/

/-- The state in which a retirement finds what is outstanding: a workgroup that a fault ended has its records dropped first. -/
def State.dropped (s : State) (k : WgKey) (how : EndKind) : State := if how = .exit then s else s.dropRecords k

theorem State.dropped_ledger (s : State) (k : WgKey) (how : EndKind) : (s.dropped k how).ledger = s.ledger := by
  unfold State.dropped
  split
  exacts [rfl, s.dropRecords_ledger k]

theorem State.markPending_of_none {s : State} {k : WgKey} {g : Workgroup} {gr : Grid} (hg : s.wgAt k = some g)
    (hgr : s.gridAt (gridOfWg k) = some gr) (h : gr.rec_.compl = 0 ∨ g.doneMade = true) (fault : Bool) : s.markPending k fault = false := by
  have hmade : (gr.rec_.compl != 0 && !g.doneMade) = false := by simpa [or_iff_not_imp_left] using h
  simp only [State.markPending, hg, hgr, hmade, Bool.false_and]

/-- A workgroup retires, and its grid counts it among its retired. -/
def Retires (s t : State) (k : WgKey) (how : EndKind) (gr : Grid) : Prop :=
  exec (.retirement k) s = .next t ∧ ∃ gr', t.gridAt (gridOfWg k) = some gr' ∧ gr'.retired = gr.retired ++ [(k.wgid, how)]

section
variable {s u : State} {k : WgKey} {g : Workgroup} {gr : Grid} {how : EndKind} (hg : s.wgAt k = some g)
  (hended : g.ended = some how) (hkill : how ≠ .kill) (hctx : ∀ c, s.ctxAt k.ctx = some c → c.st ≠ .killing) (hsaved : g.saved = false)
  (hidle : ∀ f ∈ s.flights, ∀ w, s.warpAt ⟨f.core, f.warp⟩ = some w → w.wg ≠ k)
include hg

/-- What a retirement finds once records are dropped: the workgroup but for its scratchpad, its grid and memory. -/
theorem State.dropped_finds (hgr : s.gridAt (gridOfWg k) = some gr) (hu : s.dropped k how = u) :
    u.mem = s.mem ∧ u.gridAt (gridOfWg k) = some gr ∧ ∃ g', u.wgAt k = some g' ∧ g'.sansScratch = g.sansScratch := by
  obtain ⟨hgrids, hmem, hat⟩ := State.residents_of_ledger (hu ▸ s.dropped_ledger k how : u.ledger = s.ledger) hg
  exact ⟨hmem, by rw [State.gridAt, hgrids]; exact hgr, hat⟩

include hended hctx

theorem State.endOf_ended : s.endOf g = some how := by
  have hkey : g.key = k := by simpa using List.find?_some hg
  unfold State.endOf
  rw [hkey]
  split
  next c hc => rw [if_neg (hctx c hc), hended]
  · exact hended

include hkill hsaved hidle

/-- A workgroup with nothing outstanding retires: marked, its owed objects abandoned, counted by its grid. -/
theorem exec_retirement (hu : s.dropped k how = u) (hholds : u.holdsRetirement k = false) (hmark : u.holdsMark k how = false)
    (hpend : u.markPending k (g.faulted how) = false) (howed : ∀ va ∈ g.owed, u.vaWaits newelSite k.ctx va 16 = false) :
    exec (.retirement k) s =
      .next (((((u.mark k (g.faulted how)).abandonOwed k g.owed).removeWg k how).emptyCore g.core).afterRetirement (gridOfWg k) g.core) := by
  have hwaits : (g.owed.any fun va => u.vaWaits newelSite k.ctx va 16) = false := List.any_eq_false.2 fun va hva => by
    rw [howed va hva]; exact Bool.false_ne_true
  simp only [show exec (.retirement k) s = execRetirement k s from rfl, execRetirement, hg, s.endOf_ended hg hended hctx, if_neg hkill]
  rw [if_neg]
  · have hu : (if how = .exit then s else s.dropRecords k) = u := hu
    rw [hu, hholds, hmark, hpend, hwaits]
    rfl
  · rw [hsaved, Bool.false_and, Bool.or_false, List.any_eq_true]
    rintro ⟨f, hf, hbusy⟩
    cases hw : s.warpAt ⟨f.core, f.warp⟩ with
    | none => simp [hw] at hbusy
    | some w => exact hidle f hf w hw (by simpa [hw] using hbusy)

variable (hgr : s.gridAt (gridOfWg k) = some gr) (hu : s.dropped k how = u) (hopen : NoneOpen u k g gr)
include hgr hu hopen

/-- Once what it marks and abandons can be reached, a workgroup with nothing outstanding retires from the state in which it has. -/
theorem retires_of_reachable (hpend : u.markPending k (g.faulted how) = false)
    (howed : ∀ va ∈ g.owed, u.vaWaits newelSite k.ctx va 16 = false) {v : State}
    (hv : (u.mark k (g.faulted how)).abandonOwed k g.owed = v) (hgrids : v.grids = u.grids) :
    ∃ t, Retires s t k how gr ∧ t.mem = v.mem := by
  obtain ⟨-, hugr, g', hg', hsame⟩ := State.dropped_finds hg hgr hu
  have hvgr : v.gridAt (gridOfWg k) = some gr := by rw [State.gridAt, hgrids]; exact hugr
  have hopen' : NoneOpen u k g' gr := by
    have h : NoneOpen u k g.sansScratch gr := hopen
    rwa [← hsame] at h
  have hexec := exec_retirement hg hended hkill hctx hsaved hidle hu (hopen'.holdsRetirement_eq_false hg' hugr)
    (hopen'.holdsMark_eq_false hg' hugr how) hpend howed
  rw [hv] at hexec
  refine ⟨_, ⟨hexec, State.afterRetirement_counts hvgr how g.core⟩, ?_⟩
  rw [State.afterRetirement_mem, State.emptyCore_mem, State.removeWg_mem]

/-- With no mark left to make, only what it owes is left to a retiring workgroup. -/
theorem retires_unmarked (hmark : gr.rec_.compl = 0 ∨ g.doneMade = true)
    (howed : ∀ va ∈ g.owed, u.vaWaits newelSite k.ctx va 16 = false) (hgrids : (u.abandonOwed k g.owed).grids = u.grids) :
    ∃ t, Retires s t k how gr ∧ t.mem = (u.abandonOwed k g.owed).mem := by
  obtain ⟨-, hugr, g', hg', hsame⟩ := State.dropped_finds hg hgr hu
  have hmade : g'.doneMade = g.doneMade := (congrArg Workgroup.doneMade hsame :)
  rw [← hmade] at hmark
  refine retires_of_reachable hg hended hkill hctx hsaved hidle hgr hu hopen (State.markPending_of_none hg' hugr hmark _) howed ?_ hgrids
  rw [State.mark_of_none hg' hugr hmark]

/-- A retiring workgroup with its mark still to make sets its bit (R117). -/
theorem retires_marked {pa : Nat} {leaf : BitVec 64} (hc : gr.rec_.compl ≠ 0) (hmark : g.doneMade = false) (howed : g.owed = [])
    (hwalk : u.walkersBusy newelSite k.ctx (gr.rec_.compl + (if g.faulted how then bitmapBytes gr.count else 0) + k.wgid / 8) = false)
    (ht : u.translate newelSite k.ctx (gr.rec_.compl + (if g.faulted how then bitmapBytes gr.count else 0) + k.wgid / 8) .write = .ok pa leaf)
    (hp : u.paPending pa 1 = false) (hpa : NoKeptFrame u pa) (hkey : u.keysAgree (keyOf k.ctx leaf) pa 1 = true) :
    ∃ t, Retires s t k how gr ∧ BitSet u t pa (k.wgid % 8) := by
  obtain ⟨-, hugr, g', hg', hsame⟩ := State.dropped_finds hg hgr hu
  have hmade : g'.doneMade = g.doneMade := (congrArg Workgroup.doneMade hsame :)
  obtain ⟨-, hgrids, hset⟩ := State.mark_sets hg' hugr hc (hmade.trans hmark) ht hkey hpa
  obtain ⟨t, hretires, hmem⟩ := retires_of_reachable hg hended hkill hctx hsaved hidle hgr hu hopen
    (State.markPending_eq_false hg' hugr hwalk ht hp) (by simp [howed]) (by rw [howed]; rfl) hgrids
  exact ⟨t, hretires, by rwa [BitSet, hmem]⟩

end

end Sys2Proof.Machine


/-! ## What O44 states -/
namespace Sys2Proof.Machine
open Sys2Proof

/-- Settles O44: an entry by the first check of R499 that it fails, a retirement by its mark and what it abandons, a completed grid by
the message of its status. -/
theorem launchesRetirementsAndCompletions : Obligations.launches_retirements_and_completions := by
  refine ⟨?_, ?_, ?_, ?_⟩
  · intro s q c host bs hq hc hhead hready hquar hclosing htail hdrain hresident e hserved misplaced allEnded faulted free readable done
    have answered {status : Nat} (h : exec (.launchEntryTaken q.p.queue host) s =
        .next ((s.pastEntry q c.num e).postCompletion q.p.queue e.tag status)) : done status :=
      ⟨_, h, State.pastEntry_answered hq c.num e e.tag status⟩
    have hcourse (hf : free) (hread : s.EntryReadable c.num e) :=
      exec_launchEntryTaken_free hq hhead hc hready hquar hclosing htail hdrain hresident hserved hf.1 hf.2.1 hread
        (fun w hw => (hf.2.2 w hw).1) fun h => h.elim fun w h => (hf.2.2 w h.1).2 h.2
    have hwaits (hf : free) : ∀ w ∈ e.waits, ∃ d f, WaitBits s c.num w d f := fun w hw =>
      (hf.2.2 w hw).1.imp fun _ h => h.imp fun _ h => h.1
    refine ⟨fun h => ?_, fun hres hplaced hread => ?_, fun hres hplaced hread hwait => ?_, fun hres hplaced hread hover hfault => ?_,
      fun hfree hopc => ?_, fun hfree hopc rb hrb => ?_⟩
    · exact answered (exec_launchEntryTaken_misplaced hq hhead hc hready hquar hclosing htail hdrain hresident hserved h)
    · exact answered (exec_launchEntryTaken_unreadable hq hhead hc hready hquar hclosing htail hdrain hresident hserved hres hplaced hread)
    · exact exec_launchEntryTaken_waits hq hhead hc hready hquar hclosing htail hdrain hresident hserved hres hplaced hread hwait
    · exact answered
        (exec_launchEntryTaken_faulted hq hhead hc hready hquar hclosing htail hdrain hresident hserved hres hplaced hread hover hfault)
    · have hexec := hcourse hfree ⟨hwaits hfree, fun h => absurd h hopc⟩
      rw [if_neg hopc] at hexec
      exact answered hexec
    · have hexec := hcourse hfree ⟨hwaits hfree, fun _ => ⟨rb, hrb⟩⟩
      rw [if_pos hopc, hrb, Option.getD_some] at hexec
      obtain ⟨hother, hrefused⟩ := State.pastEntry_launch_refused (c := c) (e := e) (r := parseRecord rb) hq
      refine ⟨fun h => ⟨_, hexec, hother h⟩, fun h hcode => ⟨_, hexec, hrefused h hcode⟩, fun h hcode => ?_⟩
      obtain ⟨hmem, hcount, hout, g, hg, hkey, hrec, hqueue, htag, horder⟩ := State.pastEntry_launch_admits (q := q) (e := e) h hcode
      exact ⟨_, g, hexec, hmem, hcount, hg, hkey, hrec, hqueue, htag, horder, hout⟩
  · intro s q host bs hq hhead hdrain
    exact ⟨_, exec_launchEntryTaken_drained hq hhead hdrain, State.answeredWith_postCompletion rfl hq _ _⟩
  · intro s k g gr how hg hgr hended hkill hctx hsaved hidle u hopen retired
    have hu : s.dropped k how = u := rfl
    clear_value u
    obtain ⟨hmem, -⟩ := State.dropped_finds hg hgr hu
    refine ⟨fun hmark howed => ?_, fun va pa leaf b hmark howed hwaits ht halign hpa hkey hobj => ?_, ?_⟩
    · obtain ⟨t, hretires, hsame⟩ := retires_unmarked hg hended hkill hctx hsaved hidle hgr hu hopen hmark
        (by simp [howed]) (by rw [howed]; rfl)
      rw [howed] at hsame
      exact ⟨t, hretires, fun a => by rw [hsame, ← hmem]; rfl⟩
    · obtain ⟨hgrids, hleft, hframe⟩ := u.abandonOwed_one ht halign hkey hpa (hmem.symm ▸ hobj)
      obtain ⟨t, hretires, hsame⟩ := retires_unmarked hg hended hkill hctx hsaved hidle hgr hu hopen hmark
        (by simpa [howed] using hwaits) (by rw [howed]; exact hgrids)
      rw [howed] at hsame
      exact ⟨t, hretires, hsame ▸ hleft, fun a ha hkept => by rw [hsame, hframe a ha hkept, hmem]⟩
    · intro bad va pa leaf hc hmark howed hwalk ht hp hpa hkey
      have hbad : g.faulted how = bad := by cases how <;> rfl
      rw [show va = gr.rec_.compl + (if g.faulted how then bitmapBytes gr.count else 0) + k.wgid / 8 by rw [hbad]; rfl] at hwalk ht
      obtain ⟨t, hretires, hset⟩ := retires_marked hg hended hkill hctx hsaved hidle hgr hu hopen hc hmark howed
        hwalk ht hp hpa hkey
      rw [BitSet, hmem] at hset
      exact ⟨t, hretires, hset⟩
  · intro s k g hg hhere hall hleft hacc hgal
    obtain ⟨hmem, hgone, htold⟩ := State.gridDone_completes (s := s) (k := k) (g := g)
    have hplaces := (s.gridDone k g).distribute_sansPlaces k.ctx
    refine ⟨_, exec_gridCompletion hg hhere hall hleft (State.gridOpen_eq_false hacc hgal), fun a => ?_, ?_, fun q hq => ?_⟩
    · rw [State.distribute_mem]; exact hmem a
    · have hat := State.gridAt_of_sansPlaces hplaces k
      rwa [hgone, Option.map_none, Option.map_eq_none_iff] at hat
    · have hout := of_erased State.sansPlaces State.hostOut (fun _ => rfl) hplaces
      rw [← Grid.status_eq, hout]
      exact htold q hq

end Sys2Proof.Machine

/-! ## Base integer operations (O7) -/
namespace Sys2Proof.Machine
open Sys2Proof

/-! ### Results of two words as numbers (R208) -/

theorem toNat_sub_word (a b : Word) : (a - b).toNat = (a.toNat + 2 ^ 32 - b.toNat) % 2 ^ 32 := by
  have := b.isLt
  rw [BitVec.toNat_sub]
  congr 1
  omega

theorem toNat_ofInt_word (n : Int) : (BitVec.ofInt 32 n).toNat = (n % 2 ^ 32).toNat := BitVec.toNat_ofInt ..

theorem toNat_word_of_toInt (a : Word) : a.toNat = (a.toInt % 2 ^ 32).toNat := by
  rw [← toNat_ofInt_word, BitVec.ofInt_toInt]

theorem toNat_mulHighS (a b : Word) : (mulHighS a b).toNat = (a.toInt * b.toInt / 2 ^ 32 % 2 ^ 32).toNat := toNat_ofInt_word _

theorem toNat_mulHighU (a b : Word) : (mulHighU a b).toNat = a.toNat * b.toNat / 2 ^ 32 := by
  rw [mulHighU, BitVec.toNat_ofNat, Nat.mod_eq_of_lt]
  have : a.toNat * b.toNat < 2 ^ 32 * 2 ^ 32 := Nat.mul_lt_mul'' a.isLt b.isLt
  omega

theorem toNat_andNot_word (a b : Word) : (a &&& ~~~b).toNat = a.toNat &&& (2 ^ 32 - 1 - b.toNat) := by
  rw [BitVec.toNat_and, BitVec.toNat_not]

theorem toNat_shlW (a b : Word) : (shlW a b.toNat).toNat = if b.toNat < 32 then a.toNat * 2 ^ b.toNat % 2 ^ 32 else 0 := by
  unfold shlW
  by_cases h : b.toNat < 32
  · rw [if_neg (by omega), if_pos h, BitVec.toNat_shiftLeft, Nat.shiftLeft_eq]
  · rw [if_pos (by omega), if_neg h]
    rfl

theorem toNat_shrW (a b : Word) : (shrW a b.toNat).toNat = if b.toNat < 32 then a.toNat / 2 ^ b.toNat else 0 := by
  unfold shrW
  by_cases h : b.toNat < 32
  · rw [if_neg (by omega), if_pos h, BitVec.toNat_ushiftRight, Nat.shiftRight_eq_div_pow]
  · rw [if_pos (by omega), if_neg h]
    rfl

/-- The lesser of two words by their signed values (R208). -/
theorem toNat_minSigned (a b : Word) : (if a.toInt ≤ b.toInt then a else b).toNat = (min a.toInt b.toInt % 2 ^ 32).toNat := by
  split
  next h => rw [min_eq_left h, toNat_word_of_toInt]
  next h => rw [min_eq_right (by omega), toNat_word_of_toInt]

/-- The greater of two words by their signed values (R208). -/
theorem toNat_maxSigned (a b : Word) : (if b.toInt ≤ a.toInt then a else b).toNat = (max a.toInt b.toInt % 2 ^ 32).toNat := by
  split
  next h => rw [max_eq_left h, toNat_word_of_toInt]
  next h => rw [max_eq_right (by omega), toNat_word_of_toInt]

theorem toNat_minUnsigned (a b : Word) : (if a.toNat ≤ b.toNat then a else b).toNat = min a.toNat b.toNat := by
  rw [apply_ite BitVec.toNat, min_def]

theorem toNat_maxUnsigned (a b : Word) : (if b.toNat ≤ a.toNat then a else b).toNat = max a.toNat b.toNat := by
  rw [apply_ite BitVec.toNat, max_comm, max_def]

/-! ### The instructions -/

/-- What a base operation on two words leaves, its value as a number. -/
theorem base2_results {s : State} {op : Nat} {f : RForm} {o : Opnd} (g : Word → Word → Word) {n : Word → Word → Nat}
    (h : Ready s (baseShape op f.toX) f.toX noExtra o) (hg : ∀ a b, (g a b).toNat = n a b) :
    ∃ v : Nat → DWord, base2 s op f g = .next (o.after s 4 (some v) 0) ∧
      ∀ l ∈ o.lanes, (v l).toNat = n (o.rd o.f.a l) (o.rd o.f.b l) :=
  ⟨_, intOp_ready h, fun _ _ => (toNat_setWidth_word _).trans (hg ..)⟩

/-- Settles O7: each row is a base operation on two words, and its word is the number of its rule. -/
theorem baseIntegerResults : Obligations.base_integer_results := by
  intro row hrow s f o h
  simp only [baseInteger, List.mem_cons, List.not_mem_nil, or_false] at hrow
  rcases hrow with rfl | rfl | rfl | rfl | rfl | rfl | rfl | rfl | rfl | rfl | rfl | rfl | rfl | rfl | rfl | rfl
  · exact base2_results (· + ·) h BitVec.toNat_add
  · exact base2_results (· - ·) h toNat_sub_word
  · exact base2_results (· * ·) h BitVec.toNat_mul
  · exact base2_results mulHighS h toNat_mulHighS
  · exact base2_results mulHighU h toNat_mulHighU
  · exact base2_results (· &&& ·) h BitVec.toNat_and
  · exact base2_results (· ||| ·) h BitVec.toNat_or
  · exact base2_results (· ^^^ ·) h BitVec.toNat_xor
  · exact base2_results (fun a b => a &&& ~~~b) h toNat_andNot_word
  · exact base2_results (fun a b => shlW a b.toNat) h toNat_shlW
  · exact base2_results (fun a b => shrW a b.toNat) h toNat_shrW
  · exact base2_results (fun a b => sarW a b.toNat) h fun a _ => toNat_sshiftRight_word a _
  · exact base2_results (fun a b => if a.toInt ≤ b.toInt then a else b) h toNat_minSigned
  · exact base2_results (fun a b => if b.toInt ≤ a.toInt then a else b) h toNat_maxSigned
  · exact base2_results (fun a b => if a.toNat ≤ b.toNat then a else b) h toNat_minUnsigned
  · exact base2_results (fun a b => if b.toNat ≤ a.toNat then a else b) h toNat_maxUnsigned

end Sys2Proof.Machine

/-! ## A compare of a type that ICMP does not have (O15)

Readiness asks for the checks of R170, which an instruction meets as it issues, and not for those of its encoding (R51), so the statement
also ranges over an ICMP whose TY is none of the four of R251. The model compares 32 bits of each operand there, and the statement's
`icmpNum` takes 64. The decoder reads no such instruction: the counterexample is an instruction given to `exec`, not a run. -/
namespace Sys2Proof.Machine
open Sys2Proof

/-- ICMP.eq m1, s0, zero with TY 4. -/
def strayCompare : XForm := ⟨false, 1, 0, false, 4, 0xC0, 0xFB, 0, 0, 0, none⟩

/-- A device with one warp of 16 threads about to issue, whose s0 is 0 and whose s1 is 1. -/
def pairState : State :=
  let s := State.reset.placeWords []
  { s with warps := s.warps.map fun (w : Warp) => { w with s := [(1, 1)] } }

theorem pairState_issues : pairState.issuing.isSome = true := by decide +kernel

/-- The compare with its operands as it issues there. -/
def pairCompare : Opnd := ⟨pairState.issuing.get pairState_issues, strayCompare, shapeLane 0x00 strayCompare 64⟩

theorem pairCompare_ready : Ready pairState (shapeLane 0x00 strayCompare 64) strayCompare noExtra pairCompare where
  issues := (Option.some_get pairState_issues).symm
  fields := rfl
  shape := rfl
  checks := by decide +kernel
  operands := by decide +kernel
  queues := by decide +kernel
  clean := by decide +kernel
  push := ⟨[], by decide +kernel⟩

/-- Its operands as the statement takes them, 64 bits of s0 and s1 and zero, are not equal. -/
theorem pairCompare_differs : icmpNum pairCompare strayCompare.a 0 ≠ icmpNum pairCompare strayCompare.b 0 := by decide +kernel

/-- The model finds s0 and zero equal. -/
theorem pairCompare_bit : (match exec (.icmp strayCompare) pairState with
    | .next t => (t.warpAt pairCompare.i.w.key).map fun w => (w.maskReg 1).getLsbD 0
    | _ => none) = some true := by decide +kernel

/-- Refutes O15: in `pairState` an ICMP.eq of TY 4 on s0 and zero finds its operands equal, and sets lane 0 of m1. The statement's first
row takes the operands by `icmpNum`, whose last case reads 64 bits for every TY above 2, so that s1 counts and the bit had to be 0. -/
theorem not_compareAndMaskBits : ¬ Obligations.compare_and_mask_bits := by
  unfold Obligations.compare_and_mask_bits
  intro h
  obtain ⟨t, w, ht, hw, -, -, -, -, -, -, -, -, -, -, -, -, -, -, hbits⟩ :=
    h _ List.mem_cons_self pairState strayCompare pairCompare pairCompare_ready (by decide)
  have hset := pairCompare_bit
  rw [show exec (.icmp strayCompare) pairState = .next t from ht] at hset
  simp only [hw, Option.map_some, Option.some.injEq] at hset
  obtain ⟨hlane, -⟩ := hbits (by decide +kernel) 0 (by decide)
  exact pairCompare_differs ((hlane (by decide +kernel)).1 hset)

end Sys2Proof.Machine

/-! ## Waits on barrier objects (O40) -/
namespace Sys2Proof.Machine
open Sys2Proof

/-! ### The object of an instruction (R301, R304) -/

theorem Opnd.toNat_rd_warpLane (o : Opnd) (c : BitVec 8) : (o.rd c warpLane).toNat = o.rdN c warpLane 32 := by
  rw [Opnd.rd, BitVec.toNat_setWidth]
  exact Nat.mod_eq_of_lt (o.rdN_lt c (.inl rfl) (Nat.le_refl 64))

theorem Opnd.toNat_rd64_warpLane (o : Opnd) (c : BitVec 8) : (o.rd64 c warpLane).toNat = o.rdN c warpLane 64 := by
  rw [Opnd.rd64, BitVec.toNat_setWidth]
  exact Nat.mod_eq_of_lt (o.rdN_lt c (.inr rfl) (Nat.le_refl 64))

theorem readLE_nil (a n : Nat) : readLE [] a n = 0 := by
  induction n generalizing a with
  | zero => rfl
  | succ n ih => rw [readLE, ih]; rfl

/-- An object at its home has the fields that its bytes are, where its line is under its own key (R301, R302). -/
theorem State.barAt_of_objIs {s : State} {r : BarRef} {b : Bar} (hkey : r.glob = true → s.keysAgree r.key r.pa 16 = true)
    (hobj : ObjIs (objMem s r) r.pa b) : s.barAt r = b := by
  have hread : Bar.ofNat (readLE (objMem s r) r.pa 16) = b := (Bar.ofNat_readLE ..).trans (objIs_iff.1 hobj)
  unfold objMem at hread
  unfold State.barAt
  cases hg : r.glob with
  | true => rw [if_pos hg] at hread; rw [if_pos rfl, State.seen_of_keysAgree (hkey hg), hread]
  | false =>
    rw [if_neg (by simp [hg])] at hread
    rw [if_neg Bool.false_ne_true]
    cases hw : s.wgAt r.wg with
    | some g => simpa only [hw] using hread
    | none => simpa only [hw, readLE_nil] using hread

/-- The address or offset that A gives an instruction on an object (R304). -/
def Opnd.objPlace (o : Opnd) (r : BarRef) : Nat := if o.f.bit 0 then (o.rd64 o.f.a warpLane).toNat else r.pa

/-- An object that can be used is used in a state with no more than translations and lines in use added (R304, R363, R389). -/
theorem withObject_of_objAt {s : State} {o : Opnd} {p : Perm} {r : BarRef} (h : o.ObjAt s p r) (acc : Acc) :
    ∃ u, u.sansCaches = s.sansCaches ∧ ∀ k, withObject s o p acc k = k u r (o.objPlace r) := by
  obtain ⟨hwg, hglob, hat⟩ := h
  obtain ⟨glob, wg, pa, key⟩ := r
  dsimp only at hwg hglob hat
  subst hwg hglob
  unfold withObject Opnd.objPlace
  split at hat
  next hg =>
    rw [o.toNat_rd64_warpLane] at hat ⊢
    obtain ⟨halign, hin, hwalk, ⟨leaf, ht, rfl⟩, hp, -⟩ := hat
    refine ⟨(s.fill o.i.w.core o.i.w.wg.ctx (o.rdN o.f.a warpLane 64)).touchL2 (lineOf pa) false false,
      (State.touchL2_sansCaches ..).trans (State.fill_sansCaches ..), fun k => ?_⟩
    simp only [hg, halign, hwalk, ht, hp, if_true, if_neg (Nat.not_lt.2 hin), Bool.and_false, Bool.false_eq_true, if_false, bne_self_eq_false]
  next hg =>
    rw [o.toNat_rd_warpLane] at hat
    obtain ⟨rfl, rfl, halign, hin⟩ := hat
    refine ⟨s, rfl, fun k => ?_⟩
    simp only [Bool.not_eq_true] at hg
    simp only [hg, halign, if_neg (Nat.not_lt.2 hin), Bool.false_eq_true, if_false, bne_self_eq_false, BarRef.own]

/-- An object is found as its bytes in the state before, whatever is cached since. -/
theorem Opnd.ObjAt.barAt {s u : State} {o : Opnd} {p : Perm} {r : BarRef} {b : Bar} (h : o.ObjAt s p r) (hobj : ObjIs (objMem s r) r.pa b)
    (hu : u.sansCaches = s.sansCaches) : u.barAt r = b := by
  obtain ⟨-, hglob, hat⟩ := h
  refine State.barAt_of_objIs (fun hg => ?_) ?_
  · rw [hglob] at hg
    rw [if_pos hg] at hat
    obtain ⟨-, -, -, -, -, hkey, -⟩ := hat
    exact (of_erased State.sansCaches (State.keysAgree · r.key r.pa 16) (fun _ => rfl) hu).trans hkey
  · rwa [of_erased State.sansCaches (objMem · r) (fun _ => rfl) hu]

theorem raises_of_sansCaches {s u : State} (hu : u.sansCaches = s.sansCaches) (i : Iss) (c : Cause) : Raises s i c (raise u i c) :=
  ⟨u, rfl, fun _ => congrArg (byteAt · _) (of_erased State.sansCaches State.mem (fun _ => rfl) hu),
    of_erased State.sansCaches State.warps (fun _ => rfl) hu, of_erased State.sansCaches State.wgs (fun _ => rfl) hu⟩

/-! ### The test of a phase (R308) -/

section
variable {b : Bar} {parity : Bool}

theorem Bar.test_dead (h : b.st = 0 ∨ b.st = 3) : b.test parity = .bad 0x0E3 := by
  rcases h with h | h <;> simp [Bar.test, Bar.isLive, Bar.isAbandoned, h]

theorem Bar.test_met (h : b.st = 1 ∨ b.st = 2) (hmet : b.phase.testBit 0 ≠ parity) : b.test parity = .complete := by
  have hdiff : (b.phase.testBit 0 != parity) = true := bne_iff_ne.2 hmet
  rcases h with h | h <;> simp only [Bar.test, Bar.isLive, Bar.isAbandoned, h, hdiff] <;> rfl

theorem Bar.test_abandoned (h : b.st = 2) (hmet : ¬ b.phase.testBit 0 ≠ parity) : b.test parity = .bad 0x0E2 := by
  have hsame : (b.phase.testBit 0 != parity) = false := by simpa using hmet
  simp only [Bar.test, Bar.isLive, Bar.isAbandoned, h, hsame]
  rfl

theorem Bar.test_live (h : b.st = 1) (hmet : ¬ b.phase.testBit 0 ≠ parity) : b.test parity = .waits := by
  have hsame : (b.phase.testBit 0 != parity) = false := by simpa using hmet
  simp only [Bar.test, Bar.isLive, Bar.isAbandoned, h, hsame]
  rfl

end

/-! ### BWAIT and BTEST by what the test finds (R308) -/

section
variable {s : State} {f : XForm} {o : Opnd} {r : BarRef} {b : Bar}

/-- BWAIT goes by its test, in a state with no more than translations and lines in use added. -/
theorem exec_bwait (h : Ready s (shapeAsync 0x07 f) f noExtra o) (hat : o.ObjAt s .read r) (hobj : ObjIs (objMem s r) r.pa b) :
    ∃ u, u.sansCaches = s.sansCaches ∧
      let p := (o.rd f.b warpLane).toNat.testBit 0
      (∀ c, b.test p = .bad c → exec (.bwait f) s = raise u o.i c) ∧
      (b.test p = .complete → exec (.bwait f) s = o.complete (u.dropL1 o.i.w.core) f.len none id) ∧
      (b.test p = .waits → exec (.bwait f) s = .next (u.block o.i (.barrier r.glob (o.objPlace r) p))) := by
  obtain ⟨u, hu, hk⟩ := withObject_of_objAt hat .load
  have hbar := hat.barAt hobj hu
  refine ⟨u, hu, ?_⟩
  rw [show exec (.bwait f) s = execBwait f s from rfl, execBwait, operate_ready h, hk]
  dsimp only
  rw [hbar, o.toNat_rd_warpLane]
  exact ⟨fun c ht => by rw [ht], fun ht => by rw [ht], fun ht => by rw [ht]⟩

/-- BTEST goes by its test, in a state with no more than translations and lines in use added. -/
theorem exec_btest (h : Ready s (shapeAsync 0x08 f) f noExtra o) (hat : o.ObjAt s .read r) (hobj : ObjIs (objMem s r) r.pa b) :
    ∃ u, u.sansCaches = s.sansCaches ∧
      let p := (o.rd f.b warpLane).toNat.testBit 0
      let give (t : State) (v : DWord) : Out := o.complete t f.len (some (o.lanes.map fun l => (l, v))) id
      (∀ c, b.test p = .bad c → exec (.btest f) s = raise u o.i c) ∧
      (b.test p = .complete → exec (.btest f) s = give (u.dropL1 o.i.w.core) 1) ∧
      (b.test p = .waits → exec (.btest f) s = give u 0) := by
  obtain ⟨u, hu, hk⟩ := withObject_of_objAt hat .load
  have hbar := hat.barAt hobj hu
  refine ⟨u, hu, ?_⟩
  rw [show exec (.btest f) s = execBtest f s from rfl, execBtest, operate_ready h, hk]
  dsimp only
  rw [hbar, o.toNat_rd_warpLane]
  exact ⟨fun c ht => by rw [ht], fun ht => by rw [ht], fun ht => by rw [ht]⟩

end

/-! ### Completions after a read of an object -/

/-- An instruction that completes from a state u with one value for its result sends its threads on and lands the value. -/
theorem Opnd.lands_complete {o : Opnd} {s u : State} (hi : u.issuing = some o.i) (hfl : u.flights = s.flights)
    (hw : o.sh.d.width = 32 ∨ o.sh.d.width = 64) (len : Nat) (v : Nat → DWord) :
    ∃ t w, o.complete u len (some (o.lanes.map fun l => (l, v l))) id = .next t ∧ Goes s t o.i len o.f.lnd w ∧ o.Landed v w ∧
      t.mem = u.mem ∧ t.wgs = u.wgs ∧ t.cores = u.cores := by
  have hat := o.warpAt_commit (res := some (o.lanes.map fun l => (l, v l))) (upd := id) hi fun _ => rfl
  have hland := Opnd.warpAfter_landed (o := o) (id := u.nextId) (v := v) (upd := id) hw fun _ => rfl
  have hpcs := of_bare Warp.pcs (fun _ => rfl) (o.warpAfter_id_bare u.nextId (some (o.lanes.map fun l => (l, v l))) o.i.w)
  generalize o.warpAfter u.nextId (some (o.lanes.map fun l => (l, v l))) id o.i.w = w at hat hland hpcs
  refine ⟨_, _, rfl, ⟨State.warpAt_retire len o.f.lnd _ hat, threadsGo_moveLanes ?_, flightGoesOn_retire hfl⟩, hland, ?_, ?_, ?_⟩
  · rw [← hpcs]
  · rw [State.retire_mem, o.commit_mem]
  · rw [State.retire_wgs, o.commit_wgs]
  · rw [State.retire_cores]; rfl

/-- A set blocked after a read of an object. -/
theorem blocks_of_sansCaches {s u : State} {i : Iss} (hi : s.issuing = some i) (hu : u.sansCaches = s.sansCaches) (c : Wait) :
    Blocks s i c (.next (u.block i c)) := by
  have hissues : u.issuing = some i := (of_erased State.sansCaches State.issuing (fun _ => rfl) hu).trans hi
  have hfl : u.flights = s.flights := of_erased State.sansCaches State.flights (fun _ => rfl) hu
  refine ⟨_, _, rfl, State.warpAt_block hissues c, congrArg (List.drop 1) hfl, fun a => ?_, RegsKept.refl _, ?_⟩
  · rw [State.block_mem, of_erased State.sansCaches State.mem (fun _ => rfl) hu]
  · simp only [blockSet, bne_iff_ne]

/-! ### WAIT_CONDITION_HOLDS (R120) -/

theorem exec_waitConditionHolds {s : State} {core warp : Nat} {pc : Pc} {w : Warp} {p : PcSet} {c : Wait}
    (hw : s.settle.warpAt ⟨core, warp⟩ = some w) (hp : (w.pcs.find? fun p => p.pc = pc) = some p) (hc : p.blocked = some c)
    (hold : s.settle.waitHolds w c = true) : exec (.waitConditionHolds core warp pc) s = .next (s.settle.updWarp ⟨core, warp⟩ fun v =>
      { v with pcs := v.pcs.map fun q => if q.pc = pc then { q with blocked := none } else q }) := by
  rw [show exec (.waitConditionHolds core warp pc) s = execWaitConditionHolds core warp pc s from rfl, execWaitConditionHolds]
  simp only [hw, hp, hc, hold, if_true, State.key_of_warpAt hw]

/-- Settles O40: BWAIT and BTEST by what the test of the object's fields finds, WAIT_CONDITION_HOLDS by the set that it frees. -/
theorem barrierWaitsAndConditions : Obligations.barrier_waits_and_conditions := by
  refine ⟨fun f x hx s o r b h hat hobj => ?_, fun s core warp pc w p c hw hp hc hold => ?_⟩
  · intro parity met
    have hcomplete (u : State) (hu : u.sansCaches = s.sansCaches) : u.issuing = some o.i ∧ u.flights = s.flights ∧ u.mem = s.mem ∧
        u.wgs = s.wgs :=
      ⟨(of_erased State.sansCaches State.issuing (fun _ => rfl) hu).trans h.issues, of_erased State.sansCaches State.flights (fun _ => rfl) hu,
        of_erased State.sansCaches State.mem (fun _ => rfl) hu, of_erased State.sansCaches State.wgs (fun _ => rfl) hu⟩
    have haddr : (if f.bit 0 then (o.rd64 f.a warpLane).toNat else r.pa) = o.objPlace r := by rw [Opnd.objPlace, h.fields]
    rw [haddr]
    simp only [List.mem_cons, List.not_mem_nil, or_false] at hx
    rcases hx with rfl | rfl
    · obtain ⟨u, hu, hbad, hdone, hwaits⟩ := exec_bwait h hat hobj
      obtain ⟨hi, hfl, hmem, hwgs⟩ := hcomplete u hu
      refine ⟨fun hst => ?_, fun hst hm => ?_, fun hst hm => ?_, fun _ _ hx => absurd hx (by simp), fun hst hm _ => ?_⟩
      · exact (hbad _ (Bar.test_dead hst)).symm ▸ raises_of_sansCaches hu o.i _
      · exact (hbad _ (Bar.test_abandoned hst hm)).symm ▸ raises_of_sansCaches hu o.i _
      · obtain ⟨t, w, ht, hgoes, hregs, -, hmem', hwgs', hcores⟩ := o.goes_complete (s := s) (u := u.dropL1 o.i.w.core)
          (State.issuing_warpAt hi) rfl (RegsKept.refl _) hfl f.len
        rw [h.fields] at hgoes
        exact ⟨t, w, (hdone (Bar.test_met hst hm)).trans ht, hgoes, fun a => by rw [hmem', State.dropL1_mem, hmem], hwgs'.trans hwgs,
          State.l1Copy_of_dropL1 hcores, fun _ => hregs, fun hx => absurd hx (by simp)⟩
      · exact (hwaits (Bar.test_live hst hm)).symm ▸ blocks_of_sansCaches h.issues hu _
    · obtain ⟨u, hu, hbad, hdone, hwaits⟩ := exec_btest h hat hobj
      obtain ⟨hi, hfl, hmem, hwgs⟩ := hcomplete u hu
      have hwidth : o.sh.d.width = 32 ∨ o.sh.d.width = 64 := by rw [h.shape]; exact .inl rfl
      refine ⟨fun hst => ?_, fun hst hm => ?_, fun hst hm => ?_, fun hst hm _ => ?_, fun _ _ hx => absurd hx (by simp)⟩
      · exact (hbad _ (Bar.test_dead hst)).symm ▸ raises_of_sansCaches hu o.i _
      · exact (hbad _ (Bar.test_abandoned hst hm)).symm ▸ raises_of_sansCaches hu o.i _
      · obtain ⟨t, w, ht, hgoes, hland, hmem', hwgs', hcores⟩ := o.lands_complete (s := s) (u := u.dropL1 o.i.w.core) hi hfl hwidth f.len
          fun _ => 1
        rw [h.fields] at hgoes
        exact ⟨t, w, (hdone (Bar.test_met hst hm)).trans ht, hgoes, fun a => by rw [hmem', State.dropL1_mem, hmem], hwgs'.trans hwgs,
          State.l1Copy_of_dropL1 hcores, fun hx => absurd hx (by simp), fun _ => hland⟩
      · obtain ⟨t, w, ht, hgoes, hland, hmem', hwgs', -⟩ := o.lands_complete (s := s) hi hfl hwidth f.len fun _ => 0
        rw [h.fields] at hgoes
        exact ⟨t, w, (hwaits (Bar.test_live hst hm)).trans ht, hgoes, fun a => by rw [hmem', hmem], hwgs'.trans hwgs, hland⟩
  · have hfreed := State.warpAt_sendThreads (fun ps => ps.map fun q => if q.pc = pc then { q with blocked := none } else q) hw
    refine ⟨_, _, exec_waitConditionHolds hw hp hc hold, hfreed, fun a => ?_, rfl⟩
    rw [State.updWarp_mem, State.settle_mem]

end Sys2Proof.Machine

/-! ## Tickets (O41) -/
namespace Sys2Proof.Machine
open Sys2Proof

/-! ### A counter that moves on (R314) -/

section
variable {g : Grid} {t : Nat}

theorem Grid.bump_last (h : g.ticket t = 2 ^ 32 - 1) : g.bump t = { g with abandoned := g.abandoned ++ [t] } := by
  rw [Grid.bump, if_pos h]

theorem Grid.bump_next (h : g.ticket t ≠ 2 ^ 32 - 1) : g.bump t = { g with tickets := g.tickets.set 0 t (g.ticket t + 1) } := by
  rw [Grid.bump, if_neg h]

theorem Grid.ticket_bump_next (h : g.ticket t ≠ 2 ^ 32 - 1) : (g.bump t).ticket t = g.ticket t + 1 := by
  rw [Grid.bump_next h, Grid.ticket, SMap.get_set, if_pos rfl]

theorem Grid.ticket_le_bump : g.ticket t ≤ (g.bump t).ticket t := by
  by_cases h : g.ticket t = 2 ^ 32 - 1
  · rw [Grid.bump_last h]; exact Nat.le_refl _
  · rw [Grid.ticket_bump_next h]; exact Nat.le_succ _

theorem Grid.bump_other {u : Nat} (hu : u ≠ t) :
    (g.bump t).ticket u = g.ticket u ∧ (u ∈ (g.bump t).abandoned ↔ u ∈ g.abandoned) := by
  by_cases h : g.ticket t = 2 ^ 32 - 1
  · rw [Grid.bump_last h]
    exact ⟨rfl, by simp [hu]⟩
  · rw [Grid.bump_next h]
    exact ⟨by rw [Grid.ticket, SMap.get_set, if_neg hu, Grid.ticket], Iff.rfl⟩

/-! ### A counter that passes retired owners (R314) -/

theorem Grid.skip_of_abandoned (h : t ∈ g.abandoned) (n : Nat) : Grid.skip t n g = g := by
  cases n with
  | zero => rfl
  | succ n => rw [Grid.skip, if_pos (List.contains_iff_mem.2 h)]

theorem Grid.skip_of_owner_left {n : Nat} (h : t ∉ g.abandoned) (hhow : g.retiredHow (g.ticket t % g.count) = none) :
    Grid.skip t (n + 1) g = g := by
  rw [Grid.skip, if_neg (by simpa using h), hhow]

theorem Grid.skip_of_exit {n : Nat} (h : t ∉ g.abandoned) (hhow : g.retiredHow (g.ticket t % g.count) = some .exit) :
    Grid.skip t (n + 1) g = Grid.skip t n (g.bump t) := by
  rw [Grid.skip, if_neg (by simpa using h), hhow]

theorem Grid.skip_of_fault {n : Nat} {e : EndKind} (h : t ∉ g.abandoned) (hhow : g.retiredHow (g.ticket t % g.count) = some e)
    (he : e ≠ .exit) : Grid.skip t (n + 1) g = { g with abandoned := g.abandoned ++ [t] } := by
  rw [Grid.skip, if_neg (by simpa using h), hhow]
  cases e <;> first | rfl | exact absurd rfl he

end

/-- What a counter comes to as it passes retired owners: it falls nowhere, and no other counter changes. -/
theorem Grid.skip_keeps (t n : Nat) (g : Grid) : g.ticket t ≤ (Grid.skip t n g).ticket t ∧
    ∀ u, u ≠ t → (Grid.skip t n g).ticket u = g.ticket u ∧ (u ∈ (Grid.skip t n g).abandoned ↔ u ∈ g.abandoned) := by
  induction n generalizing g with
  | zero => exact ⟨Nat.le_refl _, fun _ _ => ⟨rfl, Iff.rfl⟩⟩
  | succ n ih =>
    by_cases h : t ∈ g.abandoned
    · rw [Grid.skip_of_abandoned h]
      exact ⟨Nat.le_refl _, fun _ _ => ⟨rfl, Iff.rfl⟩⟩
    cases hhow : g.retiredHow (g.ticket t % g.count) with
    | none =>
      rw [Grid.skip_of_owner_left h hhow]
      exact ⟨Nat.le_refl _, fun _ _ => ⟨rfl, Iff.rfl⟩⟩
    | some e =>
      by_cases he : e = .exit
      · rw [Grid.skip_of_exit h (he ▸ hhow)]
        obtain ⟨hle, hother⟩ := ih (g.bump t)
        exact ⟨Grid.ticket_le_bump.trans hle, fun u hu => ⟨(hother u hu).1.trans (Grid.bump_other hu).1,
          (hother u hu).2.trans (Grid.bump_other hu).2⟩⟩
      · rw [Grid.skip_of_fault h hhow he]
        exact ⟨Nat.le_refl _, fun u hu => ⟨rfl, by simp [hu]⟩⟩

section
variable {g h : Grid} {t : Nat} (htickets : h.tickets = (g.bump t).tickets) (habandoned : h.abandoned = (g.bump t).abandoned)
  (hretired : h.retired = g.retired) (hrec : h.rec_ = g.rec_)
include htickets habandoned hretired hrec

/-- A counter that has moved on by one names the next owner. -/
theorem Grid.bumped_next (hlt : g.ticket t < 2 ^ 32 - 1) : h.ticket t = g.ticket t + 1 ∧ h.abandoned = g.abandoned ∧
    h.retiredHow (h.ticket t % h.count) = g.retiredHow ((g.ticket t + 1) % g.count) := by
  have hne : g.ticket t ≠ 2 ^ 32 - 1 := Nat.ne_of_lt hlt
  have hnext : h.ticket t = g.ticket t + 1 := by rw [← Grid.ticket_bump_next hne, Grid.ticket, htickets]; rfl
  refine ⟨hnext, habandoned.trans (by rw [Grid.bump_next hne]), ?_⟩
  rw [hnext, Grid.retiredHow, hretired, Grid.count, hrec]
  rfl

/-- A pass, whatever else of its grid it changes: its counter moves on by one and then past retired owners (R314). -/
theorem Grid.ticketMoved_skip (n : Nat) : TicketMoved g (Grid.skip t (n + 1) h) t := by
  have hnext := Grid.bumped_next htickets habandoned hretired hrec
  refine ⟨fun hlast => ?_, fun hlt hhow => ?_, fun hlt e hhow he => ?_, fun hlt hhow => ?_, fun u hu => ?_⟩
  · have hin : t ∈ h.abandoned := by rw [habandoned, Grid.bump_last hlast]; simp
    rwa [Grid.skip_of_abandoned hin]
  · obtain ⟨hticket, hsame, howner⟩ := hnext hlt
    have hstays : Grid.skip t (n + 1) h = h := by
      by_cases hin : t ∈ h.abandoned
      · exact Grid.skip_of_abandoned hin _
      · exact Grid.skip_of_owner_left hin (howner.trans hhow)
    rw [hstays, hsame]
    exact ⟨hticket, Iff.rfl⟩
  · obtain ⟨-, -, howner⟩ := hnext hlt
    by_cases hin : t ∈ h.abandoned
    · rwa [Grid.skip_of_abandoned hin]
    · rw [Grid.skip_of_fault hin (howner.trans hhow) he]
      simp
  · obtain ⟨hticket, -, howner⟩ := hnext hlt
    by_cases hin : t ∈ h.abandoned
    · exact .inr (by rwa [Grid.skip_of_abandoned hin])
    rw [Grid.skip_of_exit hin (howner.trans hhow)]
    by_cases hlast : h.ticket t = 2 ^ 32 - 1
    · have hend : t ∈ (h.bump t).abandoned := by rw [Grid.bump_last hlast]; simp
      exact .inr (by rwa [Grid.skip_of_abandoned hend])
    · have hle := (Grid.skip_keeps t n (h.bump t)).1
      rw [Grid.ticket_bump_next hlast, hticket] at hle
      exact .inl hle
  · obtain ⟨hticket, hin⟩ := (Grid.skip_keeps t (n + 1) h).2 u hu
    obtain ⟨hticket', hin'⟩ := Grid.bump_other (g := g) hu
    refine ⟨hticket.trans ?_, hin.trans (by rw [habandoned, hin'])⟩
    rw [Grid.ticket, htickets]
    exact hticket'

end

/-- A grid whose counter has been passed on, with other passes under way (R314). -/
def Grid.passedOn (g : Grid) (t : Nat) (ps : List TicketPass) : Grid :=
  Grid.skip t (g.retired.length + 1) { g.bump t with passes := ps }

theorem Grid.bump_sans (g : Grid) (t : Nat) :
    (g.bump t).retired = g.retired ∧ (g.bump t).rec_ = g.rec_ ∧ (g.bump t).passes = g.passes := by
  unfold Grid.bump
  split <;> exact ⟨rfl, rfl, rfl⟩

theorem Grid.ticketMoved_passedOn (g : Grid) (t : Nat) (ps : List TicketPass) : TicketMoved g (g.passedOn t ps) t :=
  Grid.ticketMoved_skip (h := { g.bump t with passes := ps }) rfl rfl (g.bump_sans t).1 (g.bump_sans t).2.1 _

theorem Grid.passedOn_sans (g : Grid) (t : Nat) (ps : List TicketPass) :
    (g.passedOn t ps).key = g.key ∧ (g.passedOn t ps).passes = ps := by
  have hskip := Grid.skip_sansTickets t (g.retired.length + 1) { g.bump t with passes := ps }
  exact ⟨(congrArg Grid.key hskip :).trans (Grid.kept_of_sansTickets (g.bump_sansTickets t)).1, (congrArg Grid.passes hskip :)⟩

theorem Grid.skip_bump_eq (g : Grid) (t : Nat) : (g.bump t).skip t (g.retired.length + 1) = g.passedOn t g.passes := by
  rw [Grid.passedOn, ← (g.bump_sans t).2.2]

/-! ### The steps -/

/-- Nothing outstanding is due before a pass of a warp that has nothing outstanding (R266). -/
theorem State.passReady_of_noneOut {s : State} {p : TicketPass} (h : NoneOut s p.warp) : s.passReady p = true := by
  rw [State.passReady, Bool.not_eq_true', State.releaseDue, List.any_eq_false]
  intro x hx
  have hother := h x hx
  cases x with
  | access a => simp [show a.warp ≠ p.warp from hother]
  | fence f => simp [show f.warp ≠ p.warp from hother]

theorem Opnd.complete_grids {o : Opnd} {u t : State} {len : Nat} {res : Option (List (Nat × DWord))} {upd : Warp → Warp}
    (h : o.complete u len res upd = .next t) : t.grids = u.grids := by
  cases h
  rw [State.retire_grids, o.commit_grids]

section
variable {s : State} {f : XForm} {o : Opnd}

theorem exec_tktake (h : Ready s (shapeAsync 0x0A f) f noExtra o) : exec (.tktake f) s =
    if o.i.gr.abandoned.contains (f.fld 5 0) then raise s o.i 0x0E4
    else if (o.rd f.a warpLane).toNat % o.i.gr.count != o.i.w.wg.wgid || (o.rd f.a warpLane).toNat < o.i.gr.ticket (f.fld 5 0) then
      raise s o.i 0x0E7
    else if o.i.gr.ticket (f.fld 5 0) < (o.rd f.a warpLane).toNat then
      .next (s.block o.i (.ticket (f.fld 5 0) (o.rd f.a warpLane).toNat))
    else o.complete (s.dropL1 o.i.w.core) f.len none id := by
  rw [show exec (.tktake f) s = execTktake f s from rfl, execTktake, operate_ready h, o.toNat_rd_warpLane]

/-- TKPASS where no pass of its counter is under way: it takes effect at once. -/
theorem exec_tkpass (h : Ready s (shapeAsync 0x0B f) f noExtra o) (hout : NoneOut s o.i.w.key)
    (hpasses : ∀ p ∈ o.i.gr.passes, p.t ≠ f.fld 5 0) (hnow : o.i.gr.ticket (f.fld 5 0) < 2 ^ 32) : exec (.tkpass f) s =
    if o.i.gr.abandoned.contains (f.fld 5 0) then raise s o.i 0x0E4
    else if o.i.gr.ticket (f.fld 5 0) % o.i.gr.count != o.i.w.wg.wgid then raise s o.i 0x0E7
    else o.complete ((s.orders o.i.w.key (BitVec.allOnes 64) 1 s.nextId).updGrid (gridOfWg o.i.w.wg) fun g =>
      g.passedOn (f.fld 5 0) g.passes) f.len none id := by
  have hunder : o.i.gr.passes.filter (fun p => p.t = f.fld 5 0) = [] := by simpa using hpasses
  have hready := State.passReady_of_noneOut (p := ⟨f.fld 5 0, o.i.w.wg.wgid, o.i.w.key, s.nextId⟩) hout
  rw [show exec (.tkpass f) s = execTkpass f s from rfl, execTkpass, operate_ready h]
  simp only [hunder, hready, List.length_nil, Nat.add_zero, decide_eq_false (Nat.not_le.2 hnow), Bool.or_false, decide_true, Bool.and_self,
    if_true, Grid.skip_bump_eq]

end

theorem exec_ticketAdvance {s : State} {k : GridKey} {t : Nat} {g : Grid} {p : TicketPass} (hg : s.gridAt k = some g)
    (hp : (g.passes.find? fun x => x.t = t) = some p) (hout : NoneOut s p.warp) : exec (.ticketAdvance k t) s =
    .next ((s.orders p.warp (BitVec.allOnes 64) 1 p.upto).updGrid k fun g => g.passedOn t (g.passes.erase p)) := by
  rw [show exec (.ticketAdvance k t) s = execTicketAdvance k t s from rfl, execTicketAdvance]
  simp only [hg, hp, State.passReady_of_noneOut hout, Bool.not_true, Bool.false_eq_true, if_false]
  rfl

/-- What TKTAKE answers: the two causes, a wait, or its completion with the core's L1 empty (R313). -/
theorem tktake_answers {s : State} {f : XForm} {o : Opnd} {t v : Nat} (h : Ready s (shapeAsync 0x0A f) f noExtra o) (ht : f.fld 5 0 = t)
    (hv : (o.rd f.a warpLane).toNat = v) :
    (t ∈ o.i.gr.abandoned → exec (.tktake f) s = raise s o.i 0x0E4) ∧
    (t ∉ o.i.gr.abandoned → (v % o.i.gr.count ≠ o.i.w.wg.wgid ∨ v < o.i.gr.ticket t) → exec (.tktake f) s = raise s o.i 0x0E7) ∧
    (t ∉ o.i.gr.abandoned → v % o.i.gr.count = o.i.w.wg.wgid → o.i.gr.ticket t < v →
      Blocks s o.i (.ticket t v) (exec (.tktake f) s)) ∧
    (t ∉ o.i.gr.abandoned → v % o.i.gr.count = o.i.w.wg.wgid → o.i.gr.ticket t = v →
      ∃ u w, exec (.tktake f) s = .next u ∧ Goes s u o.i f.len f.lnd w ∧ RegsKept o.i w ∧ SameMemory s u ∧ u.wgs = s.wgs ∧
        u.grids = s.grids ∧ ∀ key l, u.l1Copy o.i.w.core key l = none) := by
  rw [exec_tktake h, ht, hv, ← h.fields]
  refine ⟨fun hab => if_pos (List.contains_iff_mem.2 hab), fun hab hbad => ?_, fun hab hown hlt => ?_, fun hab hown heq => ?_⟩
  all_goals rw [if_neg (by simpa using hab)]
  · exact if_pos (by simpa using hbad)
  · rw [if_neg (by simp [hown, hlt.le]), if_pos hlt]
    exact blocks_of_sansCaches h.issues rfl _
  · rw [if_neg (by simp [hown, heq]), if_neg heq.not_lt]
    obtain ⟨u, w, hu, hgoes, hregs, -, hmem, hwgs, hcores⟩ := o.goes_complete (s := s) (u := s.dropL1 o.i.w.core)
      (v := o.i.w) (State.issuing_warpAt h.issues :) rfl (RegsKept.refl _) rfl o.f.len
    have hgrids := Opnd.complete_grids hu
    exact ⟨u, w, hu, hgoes, hregs, fun a => by rw [hmem, State.dropL1_mem], hwgs, hgrids, State.l1Copy_of_dropL1 hcores⟩

/-- What TKPASS answers where its pass takes effect at once: the two causes, or its completion with the counter moved on (R314). -/
theorem tkpass_answers {s : State} {f : XForm} {o : Opnd} {t : Nat} (h : Ready s (shapeAsync 0x0B f) f noExtra o)
    (hout : NoneOut s o.i.w.key) (ht : f.fld 5 0 = t) (hpasses : ∀ p ∈ o.i.gr.passes, p.t ≠ t) (hnow : o.i.gr.ticket t < 2 ^ 32) :
    (t ∈ o.i.gr.abandoned → exec (.tkpass f) s = raise s o.i 0x0E4) ∧
    (t ∉ o.i.gr.abandoned → o.i.gr.ticket t % o.i.gr.count ≠ o.i.w.wg.wgid → exec (.tkpass f) s = raise s o.i 0x0E7) ∧
    (t ∉ o.i.gr.abandoned → o.i.gr.ticket t % o.i.gr.count = o.i.w.wg.wgid →
      ∃ u w g, exec (.tkpass f) s = .next u ∧ Goes s u o.i f.len f.lnd w ∧ RegsKept o.i w ∧ SameMemory s u ∧ u.wgs = s.wgs ∧
        u.gridAt (gridOfWg o.i.w.wg) = some g ∧ TicketMoved o.i.gr g t) := by
  subst ht
  rw [exec_tkpass h hout hpasses hnow, ← h.fields]
  refine ⟨fun hab => if_pos (List.contains_iff_mem.2 hab), fun hab hown => ?_, fun hab hown => ?_⟩
  all_goals rw [if_neg (by simpa using hab)]
  · exact if_pos (by simpa using hown)
  · rw [if_neg (by simpa using hown)]
    obtain ⟨u, w, hu, hgoes, hregs, -, hmem, hwgs, -⟩ := o.goes_complete (s := s)
      (u := (s.orders o.i.w.key (BitVec.allOnes 64) 1 s.nextId).updGrid (gridOfWg o.i.w.wg) fun g => g.passedOn (o.f.fld 5 0) g.passes)
      (v := o.i.w) (State.issuing_warpAt h.issues :) rfl (RegsKept.refl _) rfl o.f.len
    have hgrid := State.gridAt_updGrid (s := s.orders o.i.w.key (BitVec.allOnes 64) 1 s.nextId)
      (f := fun g => g.passedOn (o.f.fld 5 0) g.passes) (fun g => (g.passedOn_sans _ _).1) (State.issuing_gridAt h.issues)
    refine ⟨u, w, _, hu, hgoes, hregs, fun a => by rw [hmem]; rfl, hwgs, ?_, o.i.gr.ticketMoved_passedOn _ o.i.gr.passes⟩
    rw [State.gridAt, Opnd.complete_grids hu]
    exact hgrid

/-- Settles O41: TKTAKE by where its value stands, TKPASS and TICKET_ADVANCE by how a counter moves on. -/
theorem ticketsPassInOrder : Obligations.tickets_pass_in_order := by
  refine ⟨fun s f o h => tktake_answers h rfl rfl, fun s f o h hout hpasses hnow => tkpass_answers h hout rfl hpasses hnow,
    fun s k t g p hg hp hout => ?_⟩
  have hgrid := State.gridAt_updGrid (s := s.orders p.warp (BitVec.allOnes 64) 1 p.upto)
    (f := fun g => g.passedOn t (g.passes.erase p)) (fun g => (g.passedOn_sans _ _).1) hg
  exact ⟨_, _, exec_ticketAdvance hg hp hout, hgrid, (g.passedOn_sans _ _).2, g.ticketMoved_passedOn _ _, fun _ => rfl, rfl, rfl⟩

end Sys2Proof.Machine

/-! ## Starts of flights (O43) -/
namespace Sys2Proof.Machine
open Sys2Proof

/-! ### Which warp goes first (R129) -/

theorem State.before_iff {u : State} {n : Nat} {a b : Warp} : u.before n a b = true ↔ GoesBefore u n a b := by
  unfold State.before GoesBefore
  dsimp only
  split
  next hone =>
    simp only [bne_iff_ne, ne_eq, decide_eq_decide] at hone
    rw [decide_eq_true_iff]
    omega
  next hboth =>
    simp only [bne_iff_ne, ne_eq, decide_eq_decide, Decidable.not_not] at hboth
    split
    next hclass =>
      simp only [Bool.and_eq_true, Bool.not_eq_true', decide_eq_false_iff_not, bne_iff_ne] at hclass
      rw [decide_eq_true_iff]
      omega
    next hclass =>
      simp only [Bool.and_eq_true, Bool.not_eq_true', decide_eq_false_iff_not, bne_iff_ne] at hclass
      split
      next hage =>
        rw [bne_iff_ne] at hage
        rw [decide_eq_true_iff]
        omega
      next hage =>
        rw [bne_iff_ne, Decidable.not_not] at hage
        rw [decide_eq_true_iff]
        omega

theorem GoesBefore.asymm {u : State} {n : Nat} {a b : Warp} (h : GoesBefore u n a b) : ¬ GoesBefore u n b a := by
  unfold GoesBefore at *
  omega

/-- A warp that goes before another goes before a third, or the third goes before the other. -/
theorem GoesBefore.or_before {u : State} {n : Nat} {a b : Warp} (h : GoesBefore u n a b) (c : Warp) :
    GoesBefore u n a c ∨ GoesBefore u n c b := by
  unfold GoesBefore at *
  omega

theorem State.best_isSome {u : State} {n : Nat} {l : List Warp} (h : l ≠ []) : (u.best n l).isSome = true := by
  cases l with
  | nil => exact absurd rfl h
  | cons w ws =>
    rw [State.best]
    split
    · rfl
    · split <;> rfl

/-- The first of a list is one of them that no other goes before. -/
theorem State.best_first {u : State} {n : Nat} {l : List Warp} {v : Warp} (h : u.best n l = some v) :
    v ∈ l ∧ ∀ x ∈ l, ¬ GoesBefore u n x v := by
  induction l generalizing v with
  | nil => cases h
  | cons w ws ih =>
    cases hb : u.best n ws with
    | none =>
      rw [State.best, hb] at h
      cases h
      obtain rfl : ws = [] := by
        by_contra hne
        simpa [hb] using State.best_isSome (u := u) (n := n) hne
      refine ⟨List.mem_cons_self, fun x hx hgo => ?_⟩
      rw [List.mem_singleton.1 hx] at hgo
      exact hgo.asymm hgo
    | some b =>
      obtain ⟨hmem, hfirst⟩ := ih hb
      rw [State.best, hb] at h
      dsimp only at h
      split at h
      next hlt =>
        cases h
        rw [State.before_iff] at hlt
        refine ⟨List.mem_cons_of_mem _ hmem, fun x hx => ?_⟩
        rcases List.mem_cons.1 hx with rfl | hx
        exacts [hlt.asymm, hfirst x hx]
      next hge =>
        cases h
        rw [State.before_iff] at hge
        refine ⟨List.mem_cons_self, fun x hx hgo => ?_⟩
        rcases List.mem_cons.1 hx with rfl | hx
        exacts [hgo.asymm hgo, (hgo.or_before b).elim (hfirst x hx) hge]

/-! ### Which set goes first (R121, R128, R131) -/

/-- The first of a rising list that meets a test is the lowest that does. -/
theorem find?_le_of_rising {l : List PcSet} {P : PcSet → Bool} {p : PcSet} (hl : l.Pairwise fun a b => a.pc.toNat < b.pc.toNat)
    (hp : l.find? P = some p) : ∀ q ∈ l, P q = true → p.pc.toNat ≤ q.pc.toNat := by
  obtain ⟨-, as, bs, rfl, has⟩ := List.find?_eq_some_iff_append.1 hp
  intro q hq hP
  obtain ⟨-, hbs, -⟩ := List.pairwise_append.1 hl
  rcases List.mem_append.1 hq with hq | hq
  · exact absurd hP (by simpa using has q hq)
  · rcases List.mem_cons.1 hq with rfl | hq
    · exact Nat.le_refl _
    · exact (List.rel_of_pairwise_cons hbs hq).le

section
variable {u : State} {v : Warp}

theorem began_iff {q : PcSet} : (v.begun.any fun b => b.pc = q.pc) = true ↔ ∃ b ∈ v.begun, b.pc = q.pc := by simp

theorem began_none_iff : (v.pcs.find? fun q => v.begun.any fun b => b.pc = q.pc) = none ↔ ∀ q ∈ v.pcs, ¬ ∃ b ∈ v.begun, b.pc = q.pc := by
  rw [List.find?_eq_none]
  simp only [began_iff]

/-- A flight that takes a recorded cause is for the lowest set (R128). -/
theorem setChosen_recorded {p : PcSet} {ps : List PcSet} (hr : v.recorded.isSome = true) (hpcs : v.pcs = p :: ps) :
    u.chooseSet v = some (p, v.lowRuns, v.sweep) ∧ (SetsRise v → SetChosen u v p v.lowRuns v.sweep) := by
  have hnot : v.recorded ≠ none := Option.isSome_iff_ne_none.1 hr
  refine ⟨by rw [State.chooseSet, hpcs]; simp only [hr, if_true], fun hrise => ⟨fun _ => ⟨fun q hq => ?_, rfl, rfl⟩,
    fun h => absurd h hnot, fun h => absurd h.1 hnot, fun h => absurd h.1 hnot, fun h => absurd h.1 hnot⟩⟩
  rw [SetsRise, hpcs] at hrise
  rw [hpcs] at hq
  rcases List.mem_cons.1 hq with rfl | hq
  exacts [Nat.le_refl _, (List.rel_of_pairwise_cons hrise hq).le]

/-- A flight that has begun goes on (R339). -/
theorem setChosen_begun {p : PcSet} (hr : v.recorded = none) (hp : (v.pcs.find? fun q => v.begun.any fun b => b.pc = q.pc) = some p) :
    u.chooseSet v = some (p, v.lowRuns, v.sweep) ∧ (SetsRise v → SetChosen u v p v.lowRuns v.sweep) := by
  have hmem := List.mem_of_find?_eq_some hp
  have hbegan : ∃ b ∈ v.begun, b.pc = p.pc := by simpa using List.find?_some hp
  have hnot (h : v.recorded = none ∧ ∀ q ∈ v.pcs, ¬ ∃ b ∈ v.begun, b.pc = q.pc) : False := h.2 p hmem hbegan
  refine ⟨?_, fun hrise => ⟨fun h => absurd hr (Option.isSome_iff_ne_none.1 h), fun _ _ => ⟨hbegan, fun q hq hb => ?_, rfl, rfl⟩,
    fun h => (hnot h).elim, fun h => (hnot h).elim, fun h => (hnot h).elim⟩⟩
  · obtain ⟨p0, ps, hpcs⟩ := List.exists_cons_of_ne_nil (List.ne_nil_of_mem hmem)
    rw [hpcs] at hp
    simp only [State.chooseSet, hpcs, hr, hp, Option.isSome_none, Bool.false_eq_true, if_false]
  · exact find?_le_of_rising hrise hp q hq (began_iff.2 hb)

theorem mem_eligible {p : PcSet} (h : p ∈ u.eligible v) : p ∈ v.pcs := List.mem_of_mem_filter h

theorem SetsRise.eligible (h : SetsRise v) : (u.eligible v).Pairwise fun a b => a.pc.toNat < b.pc.toNat := List.Pairwise.filter _ h

/-- No two sets of a warp stand at one address (R119). -/
theorem SetsRise.eq_of_pc {p q : PcSet} (h : SetsRise v) (hp : p ∈ v.pcs) (hq : q ∈ v.pcs) (hpc : p.pc = q.pc) : p = q := by
  have hnodup : (v.pcs.map PcSet.pc).Nodup := List.pairwise_map.2 (h.imp fun hlt heq => absurd (congrArg BitVec.toNat heq) hlt.ne)
  exact List.inj_on_of_nodup_map hnodup hp hq hpc

section
variable (hr : v.recorded = none) (hb : (v.pcs.find? fun q => v.begun.any fun b => b.pc = q.pc) = none)
include hr hb

/-- The choice of a warp with neither a recorded cause nor a flight that has begun is among its eligible sets. -/
theorem setChosen_plain {p : PcSet} {runs : Nat} {sweep : List (Pc × LaneMask)}
    (hsweep : ∀ x xs, u.sweepLeft v = x :: xs → p.pc = x.1 ∧ p.lanes = x.2 ∧ runs = 0 ∧ sweep = xs)
    (hlow : u.sweepLeft v = [] → ((u.eligible v).length = 1 ∨ v.lowRuns + (u.eligible v).length < 258) →
      p ∈ u.eligible v ∧ (∀ q ∈ u.eligible v, p.pc.toNat ≤ q.pc.toNat) ∧
        runs = (if (u.eligible v).length = 1 then v.lowRuns else v.lowRuns + 1) ∧ sweep = [])
    (hnext : u.sweepLeft v = [] → 2 ≤ (u.eligible v).length → 258 ≤ v.lowRuns + (u.eligible v).length →
      ∃ low rest, u.eligible v = low :: p :: rest ∧ runs = 0 ∧ sweep = rest.map fun q => (q.pc, q.lanes)) :
    SetChosen u v p runs sweep :=
  ⟨fun h => absurd hr (Option.isSome_iff_ne_none.1 h), fun _ ⟨q, hq, hbegan⟩ => absurd hbegan (began_none_iff.1 hb q hq),
    fun _ => hsweep, fun _ => hlow, fun _ => hnext⟩

theorem chooseSet_sweep {x : Pc × LaneMask} {xs : List (Pc × LaneMask)} (hleft : u.sweepLeft v = x :: xs) :
    ∃ p ∈ u.eligible v, p.pc = x.1 ∧ (SetsRise v → p.lanes = x.2) ∧ u.chooseSet v = some (p, 0, xs) := by
  have hx : x ∈ u.sweepLeft v := by rw [hleft]; exact List.mem_cons_self
  have hmeets := List.of_mem_filter hx
  obtain ⟨q, hq, hpc, hlanes⟩ : ∃ q ∈ u.eligible v, q.pc = x.1 ∧ q.lanes = x.2 := by simpa using hmeets
  obtain ⟨p, hp⟩ := Option.isSome_iff_exists.1 (List.find?_isSome.2 ⟨q, hq, decide_eq_true hpc⟩ :
    ((u.eligible v).find? fun p => p.pc = x.1).isSome = true)
  have hppc : p.pc = x.1 := by simpa using List.find?_some hp
  have hmem := List.mem_of_find?_eq_some hp
  refine ⟨p, hmem, hppc, fun hrise => ?_, ?_⟩
  · rw [hrise.eq_of_pc (mem_eligible hmem) (mem_eligible hq) (hppc.trans hpc.symm), hlanes]
  · obtain ⟨p0, ps, hpcs⟩ := List.exists_cons_of_ne_nil (List.ne_nil_of_mem (mem_eligible hmem))
    obtain ⟨low, others, hel⟩ := List.exists_cons_of_ne_nil (List.ne_nil_of_mem hmem)
    rw [hpcs] at hb
    rw [hel] at hp
    simp only [State.chooseSet, hpcs, hr, hb, hel, hleft, hp, Option.isSome_none, Bool.false_eq_true, if_false, Option.map_some]

theorem chooseSet_unswept {low : PcSet} {others : List PcSet} (hel : u.eligible v = low :: others) (hleft : u.sweepLeft v = []) :
    (others = [] → u.chooseSet v = some (low, v.lowRuns, [])) ∧
    (∀ o os, others = o :: os → u.chooseSet v = if 258 ≤ v.lowRuns + (u.eligible v).length then
      some (o, 0, os.map fun p => (p.pc, p.lanes)) else some (low, v.lowRuns + 1, [])) := by
  have hmem : low ∈ v.pcs := mem_eligible (u := u) (by rw [hel]; exact List.mem_cons_self)
  obtain ⟨p0, ps, hpcs⟩ := List.exists_cons_of_ne_nil (List.ne_nil_of_mem hmem)
  rw [hpcs] at hb
  refine ⟨fun h => ?_, fun o os h => ?_⟩
  all_goals
    subst h
    simp only [State.chooseSet, hpcs, hr, hb, hel, hleft, Option.isSome_none, Bool.false_eq_true, if_false]

/-- With no sweep under way the lowest eligible set goes first, but once its flights have been counted the next higher one (R131). -/
theorem setChosen_unswept {low : PcSet} {others : List PcSet} (hel : u.eligible v = low :: others) (hleft : u.sweepLeft v = []) :
    ∃ p runs sweep, p ∈ u.eligible v ∧ u.chooseSet v = some (p, runs, sweep) ∧ (SetsRise v → SetChosen u v p runs sweep) := by
  obtain ⟨hone, hmore⟩ := chooseSet_unswept hr hb hel hleft
  have hlow : low ∈ u.eligible v := by rw [hel]; exact List.mem_cons_self
  have hlowest (hrise : SetsRise v) : ∀ q ∈ u.eligible v, low.pc.toNat ≤ q.pc.toNat := by
    have hsorted := hrise.eligible (u := u)
    rw [hel] at hsorted ⊢
    intro q hq
    rcases List.mem_cons.1 hq with rfl | hq
    exacts [Nat.le_refl _, (List.rel_of_pairwise_cons hsorted hq).le]
  cases others with
  | nil =>
    have hlen : (u.eligible v).length = 1 := by rw [hel]; rfl
    exact ⟨low, v.lowRuns, [], hlow, hone rfl, fun hrise => setChosen_plain hr hb (by simp [hleft])
      (fun _ _ => ⟨hlow, hlowest hrise, (if_pos hlen).symm, rfl⟩) fun _ h => by omega⟩
  | cons o os =>
    have hlen : (u.eligible v).length = os.length + 2 := by rw [hel]; rfl
    by_cases h258 : 258 ≤ v.lowRuns + (u.eligible v).length
    · exact ⟨o, 0, _, by rw [hel]; simp, (hmore o os rfl).trans (if_pos h258), fun _ => setChosen_plain hr hb (by simp [hleft])
        (fun _ h => by omega) fun _ _ _ => ⟨low, os, hel, rfl, rfl⟩⟩
    · exact ⟨low, _, _, hlow, (hmore o os rfl).trans (if_neg h258), fun hrise => setChosen_plain hr hb (by simp [hleft])
        (fun _ _ => ⟨hlow, hlowest hrise, (if_neg (by omega)).symm, rfl⟩) fun _ _ h => absurd h h258⟩

/-- A sweep under way is gone on with (R131). -/
theorem setChosen_swept {x : Pc × LaneMask} {xs : List (Pc × LaneMask)} (hleft : u.sweepLeft v = x :: xs) :
    ∃ p runs sweep, p ∈ u.eligible v ∧ u.chooseSet v = some (p, runs, sweep) ∧ (SetsRise v → SetChosen u v p runs sweep) := by
  obtain ⟨p, hp, hpc, hlanes, hchoice⟩ := chooseSet_sweep hr hb hleft
  refine ⟨p, 0, xs, hp, hchoice, fun hrise => setChosen_plain hr hb (fun y ys h => ?_) (by simp [hleft]) (by simp [hleft])⟩
  obtain ⟨rfl, rfl⟩ := List.cons.inj (hleft.symm.trans h)
  exact ⟨hpc, hlanes hrise, rfl, rfl⟩

end

/-- A ready warp has a set for its flight, by the rules (R121, R128, R131). -/
theorem setChosen_of_isReady (h : u.isReady v = true) :
    ∃ p runs sweep, p ∈ v.pcs ∧ u.chooseSet v = some (p, runs, sweep) ∧ (SetsRise v → SetChosen u v p runs sweep) := by
  simp only [State.isReady, Bool.and_eq_true, Bool.or_eq_true, Warp.alive, Bool.not_eq_true', List.isEmpty_eq_false_iff] at h
  obtain ⟨⟨⟨⟨halive, -⟩, -⟩, hwork⟩, -⟩ := h
  cases hr : v.recorded with
  | some c =>
    obtain ⟨p, ps, hpcs⟩ := List.exists_cons_of_ne_nil halive
    exact ⟨p, _, _, by rw [hpcs]; exact List.mem_cons_self, setChosen_recorded (by rw [hr]; rfl) hpcs⟩
  | none =>
    cases hb : v.pcs.find? fun q => v.begun.any fun b => b.pc = q.pc with
    | some p => exact ⟨p, _, _, List.mem_of_find?_eq_some hb, setChosen_begun hr hb⟩
    | none =>
      obtain ⟨low, others, hel⟩ := List.exists_cons_of_ne_nil (by simpa [hr] using hwork : u.eligible v ≠ [])
      have hchosen : ∃ p runs sweep, p ∈ u.eligible v ∧ u.chooseSet v = some (p, runs, sweep) ∧
          (SetsRise v → SetChosen u v p runs sweep) := by
        cases hleft : u.sweepLeft v with
        | nil => exact setChosen_unswept hr hb hel hleft
        | cons x xs => exact setChosen_swept hr hb hleft
      obtain ⟨p, runs, sweep, hp, hchosen⟩ := hchosen
      exact ⟨p, runs, sweep, mem_eligible hp, hchosen⟩

end

end Sys2Proof.Machine

/-! ## Kept walks, starts of flights and results (O43) -/
namespace Sys2Proof.Machine
open Sys2Proof

/-! ### What a walk finds (R388) -/

/-- A state without the walks of one number. -/
def State.withoutWalk (s : State) (id : Nat) : State := { s with walks := s.walks.filter fun y => y.id ≠ id }

theorem State.withoutWalk_openLine (s : State) (id : Nat) (key : List Byte) (write : Bool) (line : Nat) :
    (s.withoutWalk id).openLine key write line = (s.openLine key write line).withoutWalk id := by
  unfold State.openLine
  cases hk : s.lineKeys.find line with
  | some k =>
    rw [show (s.withoutWalk id).lineKeys.find line = some k from hk]
    simp only [apply_ite (State.withoutWalk · id)]
    rfl
  | none =>
    rw [show (s.withoutWalk id).lineKeys.find line = none from hk]
    simp only [apply_ite (State.withoutWalk · id)]
    rfl

theorem State.withoutWalk_seen (s : State) (id : Nat) (key : KeyNo) (pa n : Nat) : (s.withoutWalk id).seen key pa n = s.seen key pa n := by
  have hlines (ls : List Nat) (k : List Byte) (t : State) : ls.foldl (fun t l => t.openLine k false l) (t.withoutWalk id) =
      (ls.foldl (fun t l => t.openLine k false l) t).withoutWalk id := by
    induction ls generalizing t with
    | nil => rfl
    | cons l ls ih => rw [List.foldl_cons, State.withoutWalk_openLine, ih, List.foldl_cons]
  unfold State.seen State.openBytes State.openUnder
  split
  · rfl
  · rw [show (s.withoutWalk id).keyIn key = s.keyIn key from rfl, hlines]
    rfl

theorem State.withoutWalk_walk (s : State) (id site ctx va : Nat) : (s.withoutWalk id).walk site ctx va = s.walk site ctx va := by
  have hword : (s.withoutWalk id).tableWord = s.tableWord := by
    funext pa
    rw [State.tableWord, State.withoutWalk_seen, State.tableWord]
  simp only [State.walk, State.walkAt, hword]
  rfl

/-- What a walk finds does not depend on which walks are in progress. -/
theorem State.withoutWalk_leafFor (s : State) (id : Nat) (x : Walk) : (s.withoutWalk id).leafFor x.core x.ctx x.va = s.walkResult x := by
  rw [State.leafFor, State.withoutWalk_walk]
  rfl

/-- A leaf that a walk ends at maps the page of its address. -/
theorem walkFrom_leaf {word : Nat → BitVec 64} {va level table b n : Nat} {e : BitVec 64}
    (h : walkFrom word va level table = .leaf b n e) : e.getLsbD 1 = true ∧ b ≤ va ∧ va < b + n := by
  induction level using Nat.strong_induction_on generalizing table with
  | _ level ih =>
    rw [walkFrom] at h
    dsimp only at h
    split at h
    · cases h
    split at h
    · cases h
    split at h
    next hleaf =>
      cases h
      have hpage : 0 < 2 ^ levelShift level := Nat.two_pow_pos _
      exact ⟨hleaf, Nat.div_mul_le_self .., by rw [Nat.mul_comm]; exact Nat.lt_mul_div_succ va hpage⟩
    next =>
      split at h
      · cases h
      · exact ih _ (Nat.lt_succ_self _) h

theorem State.walk_leaf {s : State} {site ctx va b n : Nat} {e : BitVec 64} (h : s.walk site ctx va = .leaf b n e) :
    e.getLsbD 1 = true ∧ b ≤ va ∧ va < b + n := by
  unfold State.walk State.walkAt at h
  split at h
  · cases h
  split at h
  next hw =>
    split at h
    · cases h
      exact walkFrom_leaf hw
    · cases h
  next => exact walkFrom_leaf h

/-! ### What the tables keep (R389) -/

/-- A leaf of a table that covers an address. -/
def TlbEntry.LeafAt (e : TlbEntry) (tab ctx va : Nat) : Prop :=
  e.tab = tab ∧ e.isLeaf = true ∧ e.ctx = ctx ∧ e.base ≤ va ∧ va < e.base + e.size

theorem TlbEntry.leafAt_iff {e : TlbEntry} {tab ctx va : Nat} :
    (decide (e.tab = tab) && e.isLeaf && e.covers ctx va) = true ↔ e.LeafAt tab ctx va := by
  simp only [TlbEntry.LeafAt, TlbEntry.covers, Bool.and_eq_true, decide_eq_true_eq, and_assoc]

theorem State.tableHit_some {s : State} {tab ctx va : Nat} {e : TlbEntry} (h : s.tableHit tab ctx va = some e) :
    e ∈ s.tlb ∧ e.LeafAt tab ctx va :=
  ⟨List.mem_of_find?_eq_some h, TlbEntry.leafAt_iff.1 (List.find?_some (p := fun t : TlbEntry => t.tab = tab && t.isLeaf && t.covers ctx va) h)⟩

theorem State.tableHit_isSome {s : State} {tab ctx va : Nat} {e : TlbEntry} (he : e ∈ s.tlb) (h : e.LeafAt tab ctx va) :
    ∃ f, s.tableHit tab ctx va = some f ∧ f.LeafAt tab ctx va := by
  obtain ⟨f, hf⟩ := Option.isSome_iff_exists.1 (List.find?_isSome.2 ⟨e, he, TlbEntry.leafAt_iff.2 h⟩ :
    (s.tableHit tab ctx va).isSome = true)
  exact ⟨f, hf, (State.tableHit_some hf).2⟩

/-- A part of the device finds a leaf that its own table holds. -/
theorem State.cached_of_leafAt {s : State} {site ctx va : Nat} {e : TlbEntry} (he : e ∈ s.tlb) (h : e.LeafAt site ctx va) :
    ∃ f, s.cached site ctx va = some f ∧ f.ctx = ctx ∧ f.base ≤ va ∧ va < f.base + f.size := by
  obtain ⟨f, hf, -, -, hcovers⟩ := State.tableHit_isSome he h
  exact ⟨f, by rw [State.cached, hf], hcovers⟩

theorem State.mem_keepEntry (s : State) (e : TlbEntry) : e ∈ (s.keepEntry e).tlb := by
  unfold State.keepEntry
  generalize (if e.tab < 192 then 64 else 8) = room
  dsimp only
  split
  next h => exact List.contains_iff_mem.1 h
  next => split <;> exact List.mem_append_right _ (List.mem_singleton_self e)

theorem State.keepEntry_tlb {s : State} {e x : TlbEntry} (h : x ∈ (s.keepEntry e).tlb) : x ∈ s.tlb ∨ x = e := by
  unfold State.keepEntry at h
  generalize (if e.tab < 192 then 64 else 8) = room at h
  dsimp only at h
  split at h
  · exact .inl h
  split at h
  · simpa using h
  · rcases List.mem_append.1 h with h | h
    · exact .inl (List.mem_of_mem_filter h)
    · exact .inr (List.mem_singleton.1 h)

theorem State.touchL2_tlb (s : State) (line : Nat) (write ef : Bool) : (s.touchL2 line write ef).tlb = s.tlb := by
  unfold State.touchL2
  split <;> rfl

/-- A kept leaf is in the table of the part of the device that asked. -/
theorem State.mem_keepLeaf (s : State) (site ctx b n : Nat) (e : BitVec 64) : ⟨site, ctx, b, n, e⟩ ∈ (s.keepLeaf site ctx b n e).tlb := by
  unfold State.keepLeaf
  dsimp only
  split
  next => exact State.mem_keepEntry ..
  next hunit =>
    have hsite : secondLevel site = site := if_neg hunit
    rw [hsite]
    exact State.mem_keepEntry ..

/-- A leaf that a part of the device finds is cached for it afterwards (R389). -/
theorem State.cached_fill {s : State} {site ctx va b n : Nat} {leaf : BitVec 64} (h : s.leafFor site ctx va = .leaf b n leaf) :
    ∃ e, (s.fill site ctx va).cached site ctx va = some e ∧ e.ctx = ctx ∧ e.base ≤ va ∧ va < e.base + e.size := by
  unfold State.fill
  cases hown : s.tableHit site ctx va with
  | some e =>
    obtain ⟨he, hleaf⟩ := State.tableHit_some hown
    exact State.cached_of_leafAt he hleaf
  | none =>
    cases hsecond : s.tableHit (secondLevel site) ctx va with
    | some e =>
      obtain ⟨-, -, hleaf⟩ := State.tableHit_some hsecond
      exact State.cached_of_leafAt (State.mem_keepEntry ..) ⟨rfl, hleaf⟩
    | none =>
      have hwalk : s.walk site ctx va = .leaf b n leaf := by
        rwa [State.leafFor, State.cached, hown, hsecond] at h
      obtain ⟨hleaf, hcovers⟩ := State.walk_leaf hwalk
      cases hctx : s.ctxAt ctx with
      | none => simp [State.walk, hctx] at hwalk
      | some c =>
        simp only [hwalk]
        exact State.cached_of_leafAt (State.mem_keepLeaf ..) ⟨rfl, hleaf, rfl, hcovers⟩

/-- A walk that fails keeps no leaf (R389). -/
theorem State.fill_tlb_of_fail {s : State} {site ctx va : Nat} {c : Cause} (h : s.leafFor site ctx va = .fail c) :
    ∀ e ∈ (s.fill site ctx va).tlb, e ∈ s.tlb ∨ e.isLeaf = false := by
  unfold State.leafFor at h
  cases hcached : s.cached site ctx va with
  | some e => simp [hcached] at h
  | none =>
    have hwalk : s.walk site ctx va = .fail c := by rwa [hcached] at h
    unfold State.cached at hcached
    unfold State.fill
    cases hown : s.tableHit site ctx va with
    | some e => simp [hown] at hcached
    | none =>
      have hsecond : s.tableHit (secondLevel site) ctx va = none := by simpa [hown] using hcached
      simp only [hsecond, hwalk]
      cases s.ctxAt ctx with
      | none => exact fun e he => .inl he
      | some _ =>
        refine List.foldlRecOn (motive := fun t : State => ∀ e ∈ t.tlb, e ∈ s.tlb ∨ e.isLeaf = false) _ _ (fun e he => .inl he)
          fun t ht x _ e he => ?_
        split at he
        next => exact ht e (State.touchL2_tlb t .. ▸ he)
        next hfollows =>
          rcases State.keepEntry_tlb he with he | rfl
          · exact ht e (State.touchL2_tlb t .. ▸ he)
          · simp only [entryFollows, Bool.or_eq_true, Bool.not_eq_true', not_or, Bool.and_eq_true, Bool.not_eq_false] at hfollows
            exact .inr (by simpa [TlbEntry.isLeaf] using hfollows.2.2)

/-! ### WALK_COMPLETE (R202, R389, R391) -/

theorem State.bringLine_sansLines (s : State) (core : Nat) (key : KeyNo) (lvl line : Nat) :
    (s.bringLine core key lvl line).tlb = s.tlb ∧ (s.bringLine core key lvl line).walks = s.walks ∧
      (s.bringLine core key lvl line).warps = s.warps := by
  have htouch := State.touchL2_tlb s line false false
  have hsame := State.touchL2_sansCaches s line false false
  have hwalks := of_erased State.sansCaches State.walks (fun _ => rfl) hsame
  have hwarps := of_erased State.sansCaches State.warps (fun _ => rfl) hsame
  unfold State.bringLine State.fillL1
  dsimp only
  split
  · split
    · exact ⟨htouch, hwalks, hwarps⟩
    · exact ⟨htouch, hwalks, hwarps⟩
  · exact ⟨htouch, hwalks, hwarps⟩

/-- The line that a prefetch brings changes no table, walk or warp. -/
theorem State.bring_sansLines (s : State) (x : Walk) :
    (s.bring x).tlb = s.tlb ∧ (s.bring x).walks = s.walks ∧ (s.bring x).warps = s.warps := by
  unfold State.bring
  split
  · exact State.bringLine_sansLines ..
  · exact ⟨rfl, rfl, rfl⟩

/-- A state once a walk is over and what it found is kept. -/
def State.afterWalk (s : State) (x : Walk) : State := (s.withoutWalk x.id).fill x.core x.ctx x.va

theorem State.afterWalk_sansCaches (s : State) (x : Walk) : (s.afterWalk x).sansCaches = (s.withoutWalk x.id).sansCaches :=
  State.fill_sansCaches ..

theorem State.afterWalk_keeps (s : State) (x : Walk) :
    (∀ y ∈ (s.afterWalk x).walks, y.id ≠ x.id) ∧ (s.afterWalk x).warps = s.warps ∧ SameMemory s (s.afterWalk x) := by
  have hsame := s.afterWalk_sansCaches x
  refine ⟨fun y hy => ?_, (of_erased State.sansCaches State.warps (fun _ => rfl) hsame).trans rfl,
    fun _ => congrArg (byteAt · _) ((of_erased State.sansCaches State.mem (fun _ => rfl) hsame).trans rfl)⟩
  rw [of_erased State.sansCaches State.walks (fun _ => rfl) hsame] at hy
  simpa using List.of_mem_filter hy

section
variable {s : State} {x : Walk} (hx : (s.walks.find? fun y => y.id = x.id) = some x) (hserved : s.walkServed x = true)
  (hline : s.bringPending x = false)
include hx hserved hline

theorem exec_walkComplete_leaf {b n : Nat} {leaf : BitVec 64} (hleaf : s.walkResult x = .leaf b n leaf)
    (hperm : x.waiter.isSome = true → permFail .fetch leaf = none) : exec (.walkComplete x.id) s = .next ((s.afterWalk x).bring x) := by
  have hallowed : (if x.waiter.isSome then permFail .fetch leaf else none) = none := by
    split
    next h => exact hperm h
    next => rfl
  simp only [show exec (.walkComplete x.id) s = execWalkComplete x.id s from rfl, execWalkComplete, hx, hserved, hline,
    hleaf, hallowed, Bool.not_true, Bool.or_self, Bool.false_eq_true, if_false]
  rfl

theorem exec_walkComplete_fail {c : Cause} (hfail : s.walkResult x = .fail c) (hfetch : x.waiter = none) :
    exec (.walkComplete x.id) s = .next (s.afterWalk x) := by
  simp only [show exec (.walkComplete x.id) s = execWalkComplete x.id s from rfl, execWalkComplete, hx, hserved, hline,
    hfail, hfetch, Bool.not_true, Bool.or_self, Bool.false_eq_true, if_false]
  rfl

theorem exec_walkComplete_fault {c : Cause} {k : WarpKey} {i : Iss} (hfail : s.walkResult x = .fail c) (hfetch : x.waiter = some k)
    (hi : ((s.afterWalk x).frontFlight k).issuing = some i) (hk : i.w.key = k) :
    exec (.walkComplete x.id) s = holdFault ((s.afterWalk x).frontFlight k) i c x.va .fetch := by
  simp only [show exec (.walkComplete x.id) s = execWalkComplete x.id s from rfl, execWalkComplete, hx, hserved, hline,
    hfail, hfetch, Bool.not_true, Bool.or_self, Bool.false_eq_true, if_false]
  rw [show (State.frontFlight (State.fill { s with walks := s.walks.filter fun y => decide (y.id ≠ x.id) } x.core x.ctx x.va) k).issuing
    = some i from hi]
  exact if_pos hk

end

/-- What is issuing for a warp does not depend on the walks or on what is cached. -/
theorem State.afterWalk_issuing (s : State) (x : Walk) (k : WarpKey) : ((s.afterWalk x).frontFlight k).issuing = (s.frontFlight k).issuing :=
  (of_erased State.sansCaches (fun t => (t.frontFlight k).issuing) (fun _ => rfl) (s.afterWalk_sansCaches x)).trans rfl

/-- A fault holds its warp and tells the hosts (R391). -/
theorem holdFault_holds {s : State} {i : Iss} (hi : s.issuing = some i) (c : Cause) (va : Nat) (a : Acc) :
    ∃ t w, holdFault s i c va a = .next t ∧ t.warpAt i.w.key = some w ∧ w.hold = some ⟨.fault, c, va, a.code, 0, i.pc⟩ ∧
      t.evSeq = s.evSeq + 1 ∧ SameMemory s t := by
  refine ⟨_, { i.w with hold := some ⟨.fault, c, va, a.code, 0, i.pc⟩ }, rfl, ?_, rfl, State.postEvent_evSeq ..,
    fun _ => congrArg (byteAt · _) (State.hold_mem ..)⟩
  · rw [State.hold, State.warpAt_congr (State.postEvent_warps ..)]
    exact State.warpAt_updWarp_same (s := s.endFlight) (f := fun w => { w with hold := some ⟨.fault, c, va, a.code, 0, i.pc⟩ })
      (fun _ => rfl) ((State.warpAt_congr (s := s) rfl _).trans (State.issuing_warpAt hi))

/-! ### FLIGHT_START (R121, R128, R129) -/

/-- What FLIGHT_START leaves of a warp of its slot, for a flight of the warp of an index. -/
def Warp.afterStart (y : Warp) (idx : Nat) (p : PcSet) (runs : Nat) (sweep : List (Pc × LaneMask)) : Warp :=
  if y.idx = idx then { y.wake p with age := 0, lowRuns := runs, sweep := sweep, begun := y.begun.filter fun b => b.pc ≠ p.pc }
  else { y with age := y.age + 1 }

/-- A state in which a slot's next flight has started. -/
def State.started (u : State) (core slot : Nat) (v : Warp) (p : PcSet) (runs : Nat) (sweep : List (Pc × LaneMask)) : State :=
  { u with
    warps := u.warps.map fun y => if y.core = core ∧ y.pos = slot then y.afterStart v.idx p runs sweep else y
    flights := u.flights ++ [v.flightFor slot p] }

/-- The ready warps of a slot (R127, R128). -/
def State.readyOn (u : State) (core slot : Nat) : List Warp :=
  (u.warps.filter fun v => v.core = core).filter fun v => v.pos = slot && u.isReady v

theorem State.mem_readyOn {u : State} {core slot : Nat} {v : Warp} :
    v ∈ u.readyOn core slot ↔ v ∈ u.warps ∧ v.core = core ∧ v.pos = slot ∧ u.isReady v = true := by
  simp only [State.readyOn, List.mem_filter, Bool.and_eq_true, decide_eq_true_eq, and_assoc]

theorem exec_flightStart {s : State} {core slot : Nat} {v : Warp} {p : PcSet} {runs : Nat} {sweep : List (Pc × LaneMask)}
    (hfree : ∀ f ∈ s.settle.flights, ¬ (f.core = core ∧ f.slot = slot))
    (hbest : s.settle.best (s.settle.warps.filter fun v => v.core = core).length (s.settle.readyOn core slot) = some v)
    (hset : s.settle.chooseSet v = some (p, runs, sweep)) :
    exec (.flightStart core slot) s = .next (s.settle.started core slot v p runs sweep) := by
  have hnone : (s.settle.flights.any fun f => f.core = core && f.slot = slot) = false := by simpa using hfree
  rw [State.readyOn] at hbest
  simp only [show exec (.flightStart core slot) s = execFlightStart core slot s from rfl, execFlightStart, hnone, hbest, hset,
    Bool.false_eq_true, if_false]
  rfl

theorem Warp.wake_eq (w : Warp) (p : PcSet) : w.wake p =
    { w with pcs := if w.recorded.isSome then w.pcs else w.pcs.map fun q => if q.pc = p.pc then { q with blocked := none } else q } := by
  unfold Warp.wake
  split <;> rfl

/-- A warp of the slot after a start is what the start leaves of one before it. -/
theorem State.started_warp {u : State} {core slot : Nat} {v x : Warp} {p : PcSet} {runs : Nat} {sweep : List (Pc × LaneMask)}
    (hx : x ∈ (u.started core slot v p runs sweep).warps) (hcore : x.core = core) (hpos : x.pos = slot) :
    ∃ y ∈ u.warps, y.key = x.key ∧ x.idx = y.idx ∧ x = y.afterStart v.idx p runs sweep := by
  have hkeeps (y : Warp) : (y.afterStart v.idx p runs sweep).key = y.key ∧ (y.afterStart v.idx p runs sweep).idx = y.idx := by
    rw [Warp.afterStart, Warp.wake_eq]
    split <;> exact ⟨rfl, rfl⟩
  obtain ⟨y, hy, rfl⟩ := List.mem_map.1 hx
  split at hcore
  next hslot =>
    rw [if_pos hslot]
    exact ⟨y, hy, (hkeeps y).1.symm, (hkeeps y).2, rfl⟩
  next hslot =>
    rw [if_neg hslot] at hpos
    exact absurd ⟨hcore, hpos⟩ hslot

theorem Warp.flightFor_begun {w : Warp} {slot : Nat} {p : PcSet} {b : Begun} (hr : w.recorded = none)
    (hb : (w.begun.find? fun b => b.pc = p.pc) = some b) :
    w.flightFor slot p = ⟨w.core, slot, w.idx, p.lanes, 1, none, b.l1, b.l2, none, false⟩ := by
  simp only [Warp.flightFor, hr, hb, Option.isSome_none, Bool.false_eq_true, if_false]

theorem Warp.flightFor_new {w : Warp} {slot : Nat} {p : PcSet} (h : w.recorded.isSome = true ∨ ∀ b ∈ w.begun, b.pc ≠ p.pc) :
    w.flightFor slot p = ⟨w.core, slot, w.idx, p.lanes, 0, none, none, none, none, w.recorded.isSome⟩ := by
  have hnone : (if w.recorded.isSome then none else w.begun.find? fun b => b.pc = p.pc) = none := by
    split
    next => rfl
    next hr => simpa [List.find?_eq_none] using h.resolve_left hr
  rw [Warp.flightFor, hnone]

/-- What a flight takes over from its warp and its set, new or begun. -/
theorem Warp.flightFor_keeps (w : Warp) (slot : Nat) (p : PcSet) :
    let fl := w.flightFor slot p
    fl.core = w.core ∧ fl.slot = slot ∧ fl.warp = w.idx ∧ fl.active = p.lanes ∧
      fl.takes = w.recorded.isSome ∧ fl.pfx = none ∧ fl.l0 = none := by
  by_cases hnew : w.recorded.isSome = true ∨ ∀ b ∈ w.begun, b.pc ≠ p.pc
  · rw [Warp.flightFor_new hnew]
    exact ⟨rfl, rfl, rfl, rfl, rfl, rfl, rfl⟩
  · obtain ⟨hr, hbegun⟩ := not_or.1 hnew
    have hr : w.recorded = none := by simpa using hr
    obtain ⟨b, hb⟩ := Option.isSome_iff_exists.1 (by simpa using hbegun : (w.begun.find? fun b => b.pc = p.pc).isSome = true)
    rw [Warp.flightFor_begun hr hb, hr]
    exact ⟨rfl, rfl, rfl, rfl, rfl, rfl, rfl⟩

/-! ### RESULT_WRITEBACK (R148) -/

theorem exec_resultWriteback {s : State} {core warp : Nat} (h : ∃ x ∈ s.scoreboard, x.1 = ⟨core, warp⟩) :
    exec (.resultWriteback core warp) s = .next { s with scoreboard := s.scoreboard.eraseP fun x => x.1 = ⟨core, warp⟩ } := by
  simp only [show exec (.resultWriteback core warp) s = execResultWriteback core warp s from rfl, execResultWriteback,
    List.eraseP_eq_eraseIdx]
  cases hn : s.scoreboard.findIdx? fun x => x.1 = ⟨core, warp⟩ with
  | none =>
    obtain ⟨x, hx, hkey⟩ := h
    exact absurd hkey (by simpa using List.findIdx?_eq_none_iff.1 hn x hx)
  | some n => rfl

/-- Settles O43: arbitration and choice of a set are relations that the model's searches meet, and a completed walk is kept by `State.fill`. -/
theorem flightsWalksAndResults : Obligations.flights_walks_and_results := by
  unfold Obligations.flights_walks_and_results
  refine ⟨?_, fun s core warp h => ?_,
    fun s x hx hserved hline => ⟨fun b n leaf hleaf hperm => ?_, fun c hfail hfetch => ?_, fun c k i hfail hfetch hi hk => ?_⟩⟩
  · intro s core slot u ready n hfree ⟨x, hx⟩
    obtain ⟨v, hv⟩ := Option.isSome_iff_exists.1 (State.best_isSome (u := u) (n := n) (List.ne_nil_of_mem (State.mem_readyOn.2 hx)))
    obtain ⟨hmem, hfirst⟩ := State.best_first hv
    obtain ⟨hwarps, hon, hpos, hready⟩ := State.mem_readyOn.1 hmem
    obtain ⟨p, runs, sweep, hp, hset, hchosen⟩ := setChosen_of_isReady hready
    obtain ⟨hcore, hslot, hwarp, hactive, htakes, hpfx, hl0⟩ := v.flightFor_keeps slot p
    refine ⟨u.started core slot v p runs sweep, v.flightFor slot p, v, p, runs, sweep, exec_flightStart hfree hv hset, rfl,
      ⟨hwarps, hon, hpos, hready⟩, fun y hy => hfirst y (State.mem_readyOn.2 hy), hcore.trans hon, hslot, hwarp, hp, hactive, hchosen, htakes, hpfx, hl0,
      fun b hr hb => ?_, fun hnew => ?_, fun y hy hycore hyslot => ?_, fun _ => congrArg (byteAt · _) (State.settle_mem s)⟩
    · rw [Warp.flightFor_begun hr hb]
      exact ⟨rfl, rfl, rfl⟩
    · rw [Warp.flightFor_new hnew]
      exact ⟨rfl, rfl, rfl⟩
    · obtain ⟨z, hz, hkey, hidx, hafter⟩ := State.started_warp hy hycore hyslot
      refine ⟨z, hz, hkey, ?_⟩
      rw [Warp.afterStart, Warp.wake_eq] at hafter
      rwa [hidx]
  · obtain ⟨x, hx, hkey⟩ := h
    obtain ⟨⟨k, n⟩, pre, post, hpre, hk, hsplit, herase⟩ :=
      List.exists_of_eraseP (p := fun x : WarpKey × List Nat => x.1 = ⟨core, warp⟩) hx (decide_eq_true hkey)
    obtain rfl : k = ⟨core, warp⟩ := of_decide_eq_true hk
    exact ⟨_, pre, post, n, exec_resultWriteback ⟨x, hx, hkey⟩, hsplit, fun y hy => of_decide_eq_false (by simpa using hpre y hy), herase,
      rfl, rfl, fun _ => rfl⟩
  · have hleafFor := (s.withoutWalk_leafFor x.id x).trans hleaf
    obtain ⟨e, he, hctx, hbase, hend⟩ := State.cached_fill hleafFor
    obtain ⟨hwalks, hwarps, hmem⟩ := s.afterWalk_keeps x
    obtain ⟨htlb', hwalks', hwarps'⟩ := (s.afterWalk x).bring_sansLines x
    have hcached : ((s.afterWalk x).bring x).cached x.core x.ctx x.va = some e := by
      simp only [State.cached, State.tableHit, htlb']
      exact he
    refine ⟨_, e, exec_walkComplete_leaf hx hserved hline hleaf hperm, hcached, hctx, hbase, hend, ?_, hwarps'.trans hwarps,
      fun a => by rw [State.bring_mem, hmem a]⟩
    rwa [hwalks']
  · have hleafFor := (s.withoutWalk_leafFor x.id x).trans hfail
    obtain ⟨hwalks, hwarps, hmem⟩ := s.afterWalk_keeps x
    exact ⟨_, exec_walkComplete_fail hx hserved hline hfail hfetch, hwalks, hwarps, State.fill_tlb_of_fail hleafFor, hmem⟩
  · have hi' := (s.afterWalk_issuing x k).trans hi
    obtain ⟨t, w, ht, hw, hhold, hseq, hmem⟩ := holdFault_holds hi' c x.va .fetch
    obtain ⟨-, -, hmem'⟩ := s.afterWalk_keeps x
    have hseq' : (s.afterWalk x).evSeq = s.evSeq :=
      (of_erased State.sansCaches State.evSeq (fun _ => rfl) (s.afterWalk_sansCaches x)).trans rfl
    exact ⟨t, w, (exec_walkComplete_fault hx hserved hline hfail hfetch hi' hk).trans ht, hk ▸ hw, hhold,
      hseq.trans (congrArg (· + 1) hseq'), fun a => (hmem a).trans (hmem' a)⟩

end Sys2Proof.Machine

/-! ## Values that lanes read of one another (O16) -/
namespace Sys2Proof.Machine
open Sys2Proof

theorem getLsbD_maskOf (ls : List Nat) {j : Nat} (hj : j < 64) : (maskOf ls).getLsbD j = decide (j ∈ ls) := by
  have hfold : ∀ m : LaneMask, (ls.foldl (fun m l => m ||| laneBit l) m).getLsbD j = (m.getLsbD j || decide (j ∈ ls)) := by
    induction ls with
    | nil => simp
    | cons l ls ih =>
      intro m
      rw [List.foldl_cons, ih, BitVec.getLsbD_or, getLsbD_laneBit hj]
      simp [Bool.or_assoc]
  rw [maskOf, hfold]
  simp

/-- The bitmap of the lanes of a mask that pass a test (R256, R258). -/
theorem getLsbD_maskOf_filter (m : LaneMask) (p : Nat → Bool) {j : Nat} (hj : j < 64) :
    (maskOf ((lanesOf m).filter p)).getLsbD j = (m.getLsbD j && p j) := by
  rw [getLsbD_maskOf _ hj, Bool.eq_iff_iff]
  simp [mem_lanesOf, hj]

theorem lanesOf_and (a b : LaneMask) : lanesOf (a &&& b) = (List.range 64).filter fun l => a.getLsbD l && b.getLsbD l := by
  simp only [lanesOf, BitVec.getLsbD_and]

/-- The model's source lane is the one of R254: a segment begins at the multiple of its length below the lane. -/
theorem shufSrc_eq_sourceLane {c : Nat} (hc : 0 < c) (mode k l : Nat) : shufSrc mode c k l = sourceLane mode c k l := by
  have hbase : l - l % c = l / c * c := by
    have := Nat.div_add_mod' l c
    omega
  have hin (x : Nat) : l / c * c ≤ x ∧ x < l / c * c + c ↔ x / c = l / c := by
    rw [Nat.div_eq_iff hc, Nat.add_sub_assoc hc]
    omega
  match mode with
  | 0 => simp only [shufSrc, sourceLane, hbase]
  | 1 => rfl
  | 2 => rfl
  | _ + 3 => simp only [shufSrc, sourceLane, hbase, hin]

theorem voteVal_iff (kind : Nat) (vs : List DWord) : voteVal kind vs = true ↔
    match kind with
    | 0 => ∀ v ∈ vs, v ≠ 0
    | 1 => ∃ v ∈ vs, v ≠ 0
    | _ => ∀ v ∈ vs, ∀ u ∈ vs, v = u := by
  match kind with
  | 0 => simp [voteVal]
  | 1 => simp [voteVal]
  | _ + 2 =>
    cases vs with
    | nil => simp [voteVal]
    | cons x xs =>
      simp only [voteVal, List.all_eq_true, beq_iff_eq]
      refine ⟨fun h v hv u hu => ?_, fun h v hv => h v (by simp [hv]) x (by simp)⟩
      have hx : ∀ y ∈ x :: xs, y = x := fun y hy => (List.mem_cons.1 hy).elim id (h y)
      rw [hx v hv, hx u hu]

/-- A value of a typed field as a number, in a lane that the instruction computes (R50). -/
theorem Opnd.toNat_rdTyped (o : Opnd) (c : BitVec 8) {l : Nat} (hl : l ∈ o.lanes) :
    (if o.f.tyW = 64 then o.rd64 c l else (o.rd c l).setWidth 64).toNat = o.rdN c l o.f.tyW := by
  have hle := Opnd.le_of_mem_lanes hl
  rcases tyW_cases o.f with h | h
  · rw [h, if_neg (by decide), toNat_setWidth_word, Opnd.rd, BitVec.toNat_setWidth]
    exact Nat.mod_eq_of_lt (o.rdN_lt c (.inl rfl) hle)
  · rw [h, if_pos rfl, Opnd.rd64, BitVec.toNat_setWidth]
    exact Nat.mod_eq_of_lt (o.rdN_lt c (.inr rfl) hle)

theorem crossOp_poisoned {s : State} {sh : Shape} {f : XForm} {o : Opnd} {reads : Opnd → List Nat} {fn : Opnd → Nat → DWord}
    {fl : Opnd → Flags5} (h : Ready s sh f noExtra o) (hbad : o.lanesPoisoned (reads o) = true) :
    crossOp s sh f reads fn fl = raise s o.i o.i.wg.serCause := by
  rw [crossOp, operate_ready h, hbad, if_pos rfl]

/-- What a row of the table of cross-lane instructions says of an instruction in a state (R253, R413). -/
def CrossAnswers (s : State) (f : XForm) (o : Opnd)
    (row : (XForm → Instr) × Nat × (Opnd → List Nat) × (Opnd → Nat → DWord → Prop)) : Prop :=
  (o.lanesPoisoned (row.2.2.1 o) = true → exec (row.1 f) s = raise s o.i o.i.wg.serCause) ∧
  (o.lanesPoisoned (row.2.2.1 o) = false →
    ∃ v : Nat → DWord, exec (row.1 f) s = .next (o.after s f.len (some v) 0) ∧ ∀ l ∈ o.lanes, row.2.2.2 o l (v l))

/-- An instruction that reads across lanes answers by the entries it reads: the cause of poison, or each lane's value. -/
theorem crossAnswers_of_crossOp {s : State} {f : XForm} {o : Opnd}
    {row : (XForm → Instr) × Nat × (Opnd → List Nat) × (Opnd → Nat → DWord → Prop)} {reads : Opnd → List Nat} {fn : Opnd → Nat → DWord}
    (h : Ready s (shapeLane row.2.1 f 64) f noExtra o)
    (hexec : exec (row.1 f) s = crossOp s (shapeLane row.2.1 f 64) f reads fn fun _ => 0)
    (hreads : reads o = row.2.2.1 o) (hfn : ∀ l ∈ o.lanes, row.2.2.2 o l (fn o l)) : CrossAnswers s f o row := by
  rw [CrossAnswers, hexec, ← hreads]
  exact ⟨crossOp_poisoned h, fun hclean => ⟨fn o, crossOp_clean h hclean, hfn⟩⟩

/-- A shuffle of a mode (R254). -/
theorem crossAnswers_of_shuffle {s : State} {f : XForm} {o : Opnd} {ins : XForm → Instr} (mode : Nat)
    (h : Ready s (shapeLane (0x0A + mode) f 64) f noExtra o) (hexec : exec (ins f) s = shuffle s mode f)
    (hseg : 0 < segLen o.i.w.width (f.fld 2 0)) :
    CrossAnswers s f o (ins, 0x0A + mode,
      fun o => (lanesOf o.i.mask).map fun l => sourceLane mode (segLen o.i.w.width (o.f.fld 2 0)) (o.shufK l) l,
      fun o l r => r = o.aAt (sourceLane mode (segLen o.i.w.width (o.f.fld 2 0)) (o.shufK l) l)) := by
  have hsrc (l : Nat) : shufSrc mode (segLen o.i.w.width (f.fld 2 0)) (o.shufK l) l =
      sourceLane mode (segLen o.i.w.width (o.f.fld 2 0)) (o.shufK l) l := by rw [shufSrc_eq_sourceLane hseg, h.fields]
  refine crossAnswers_of_crossOp h hexec ?_ fun l _ => ?_
  · simp only [hsrc]
  · simp only [hsrc]

/-- Settles O16: every one of them reads its operands and gives each lane the value of its rule. -/
theorem laneValueResults : Obligations.lane_value_results := by
  refine ⟨fun s f o h => ?_, fun s f o h => ?_, fun s f o h => ?_, fun row hrow s f o h hseg => ?_⟩
  · rw [show exec (.mtor f) s = execMtor f s from rfl, execMtor, warpVal_ready h]
  · rw [show exec (.mpopc f) s = execMpopc f s from rfl, execMpopc, warpVal_ready h, lanesOf_and]
  · obtain rfl := h.fields
    rw [show exec (.selm o.f) s = execSelm o.f s from rfl, execSelm, intOp_ready h]
    exact ⟨_, rfl, fun l hl => o.toNat_rdTyped _ hl⟩
  · simp only [crossLane, List.mem_cons, List.not_mem_nil, or_false] at hrow
    rcases hrow with rfl | rfl | rfl | rfl | rfl | rfl | rfl | rfl
    · exact crossAnswers_of_shuffle 0 h rfl hseg
    · exact crossAnswers_of_shuffle 1 h rfl hseg
    · exact crossAnswers_of_shuffle 2 h rfl hseg
    · exact crossAnswers_of_shuffle 3 h rfl hseg
    · exact crossAnswers_of_crossOp h (show _ = execBcast f s from rfl) rfl fun _ _ => rfl
    · refine crossAnswers_of_crossOp h (show _ = execVote f s from rfl) rfl fun l _ => ?_
      have hvote := voteVal_iff (o.f.fld 1 0) ((lanesOf o.i.mask).map o.aAt)
      rw [← h.fields]
      exact ⟨fun hp => if_pos (hvote.2 hp), fun hp => if_neg (mt hvote.1 hp)⟩
    · exact crossAnswers_of_crossOp h (show _ = execBallot f s from rfl) rfl fun l _ j hj => getLsbD_maskOf_filter _ _ hj
    · exact crossAnswers_of_crossOp h (show _ = execMatchLanes f s from rfl) rfl fun l _ j hj => getLsbD_maskOf_filter _ _ hj

end Sys2Proof.Machine

/-! ## A load whose own walk ends what a fence waits for (O27)

R273 holds a memory instruction behind a fence, and R483 lets a fence that freezes views wait for a walker. The statement judges room in
the state before the instruction; the model judges it once the walks of the instruction's own addresses are kept (R389). A leaf that they
bring may map the page that the fence waits to look for, and then nothing is held any more. The counterexample is a state, not a run. -/
namespace Sys2Proof.Machine
open Sys2Proof

/-- A fence at POD that names LSU and GL accesses and waits for nothing but to freeze views. -/
def freezingFence : FenceMark := { id := 7, warp := ⟨0, 0⟩, lanes := 0xFFFF, ord := 3, scope := 6, paths := 0x11, waits := [] }

/-- A load of the warp's threads that the fence holds. -/
def loadBehindFence (n : Nat) : Access :=
  { id := 100 + n, warp := ⟨0, 0⟩, wg := ⟨0, 0, 0⟩, pc := 0, threads := 0xFFFF, phase := 0, kind := .load, glob := true, size := 4,
    signed := false, dst := none, scalar := false, lanes := [], ord := 0, scope := 0, hint := 0, commit := none, buffered := false,
    sent := none, fenced := [], fencedRel := false }

/-- A registration of the page at virtual address 65536. -/
def sourceBuffer : NamedBuffer := ⟨0, ⟨false, 65536, 65536, 0, 0, 0, 0, 0, false, false, false, false, false⟩, false⟩

/-- A device whose page tables map 1 GiB at virtual address 0 by one leaf that no table has cached. All 16 walkers of the reticle are
busy, one of them with the page at 0 and none with the page at 65536; a view of that page is still to be frozen by the fence, behind
which 64 loads are held. -/
def freezeState : State :=
  let s := State.reset.placeWords []
  { s with
    tlb := []
    walks := (List.range 16).map fun n => ⟨n, 0, if n = 0 then 0 else 65536 * (n + 1), none, some (0, 1)⟩
    views := [⟨0, 0, 1, some 7, false, [], [], []⟩]
    buffers := [sourceBuffer]
    pending := .fence freezingFence :: (List.range 64).map fun n => .access (loadBehindFence n) }

/-- LDG v5, [zero]. -/
def ldgZero : IForm := ⟨false, 5, 127, 0, false, none⟩

/-- What it asks for: 4 bytes in each lane. -/
def ldgZeroAsk : MemAsk := .load (.ldg ldgZero) (baseShape 0x1D ldgZero.toX) ldgZero.toX 4 4 0 false

theorem freezeState_issues : freezeState.issuing.isSome = true := by decide +kernel

/-- The load with its operands as it issues there. -/
def ldgZeroOpnd : Opnd := ⟨freezeState.issuing.get freezeState_issues, ldgZero.toX, baseShape 0x1D ldgZero.toX⟩

theorem ldgZero_ready : Ready freezeState ldgZeroAsk.sh ldgZeroAsk.f noExtra ldgZeroOpnd where
  issues := (Option.some_get freezeState_issues).symm
  fields := rfl
  shape := rfl
  checks := by decide +kernel
  operands := by decide +kernel
  queues := by decide +kernel
  clean := by decide +kernel
  push := ⟨[], by decide +kernel⟩

/-- Every lane's address is 0: aligned, in the address space, in a page that a walker serves, and mapped. -/
theorem ldgZero_addresses : ∀ l ∈ ldgZeroOpnd.lanes, ldgZeroAsk.ea ldgZeroOpnd l = 0 := by decide +kernel

theorem freezeState_served : freezeState.walkersBusy ldgZeroOpnd.i.w.core ldgZeroOpnd.i.w.wg.ctx 0 = false := by decide +kernel

theorem freezeState_maps : freezeState.translate ldgZeroOpnd.i.w.core ldgZeroOpnd.i.w.wg.ctx 0 .read = .ok 0 placedLeaf := by decide +kernel

/-- The access that it would issue, as the statement writes it: the parts of its lanes at physical address 0. -/
def ldgZeroAccess : Access :=
  ldgZeroAsk.access freezeState ldgZeroOpnd true (if ldgZeroOpnd.i.gr.rec_.det && false then some ldgZeroOpnd.i.w.phase else none)
    (ldgZeroOpnd.lanes.map fun l => ⟨l, (ldgZeroAsk.ea ldgZeroOpnd l).toNat, 0, 0, ldgZeroAsk.data ldgZeroOpnd l,
      ldgZeroAsk.data2 ldgZeroOpnd l, keyOf ldgZeroOpnd.i.w.wg.ctx placedLeaf⟩)

theorem ldgZeroAccess_commit : ldgZeroAccess.commit = none := by decide +kernel

/-- It would be the 65th that the fence holds. -/
theorem freezeState_full : freezeState.noRoom ldgZeroAccess = some .fenceHold := by decide +kernel

/-- The walk for the load caches the leaf; the fence waits no more, and the load joins what is outstanding. -/
theorem freezeState_issued : (match exec (.ldg ldgZero) freezeState with
    | .next t => t.pending.length
    | _ => 0) = freezeState.pending.length + 1 := by decide +kernel

/-- Refutes O27: in `freezeState` the load would be the 65th memory instruction that a fence holds, for which the statement promises a
blocked set and nothing new outstanding. The model asks for room only after it has kept what the load's own walk found: the leaf of 1 GiB,
which maps the page that the fence waits to freeze. The fence then waits for nothing more, and the load is issued. -/
theorem not_globalAccessesIssue : ¬ Obligations.global_accesses_issue := by
  unfold Obligations.global_accesses_issue
  intro h
  obtain ⟨-, hserved⟩ := h ⟨false, 0, 0, false, 0, 0, 0, 0, 0, 0, none⟩ ldgZero (ldgZeroAsk, .read, .load) List.mem_cons_self freezeState
    ldgZeroOpnd (fun _ => 0) (fun _ => placedLeaf) ldgZero_ready fun l hl => by rw [ldgZero_addresses l hl]; decide
  obtain ⟨-, hfull⟩ := hserved fun l hl => by
    rw [ldgZero_addresses l hl]
    exact ⟨freezeState_served, freezeState_maps⟩
  obtain ⟨t, w, ht, -, -, hpending, -⟩ := hfull .fenceHold
    (fun _ hp => absurd (hp.symm.trans ldgZeroAccess_commit) (Option.some_ne_none _)) freezeState_full
  have hissued := freezeState_issued
  rw [show exec (.ldg ldgZero) freezeState = .next t from ht] at hissued
  simp only [hpending] at hissued
  omega

end Sys2Proof.Machine

/-! ## Scratchpad accesses (O28) -/
namespace Sys2Proof.Machine
open Sys2Proof

/-! ### A warp that an access leaves as it is -/

/-- The issuing warp stands in u with its threads and registers as it issued. -/
def WarpKept (u : State) (i : Iss) : Prop := ∃ v, u.warpAt i.w.key = some v ∧ v.pcs = i.w.pcs ∧ RegsKept i v

/-- Retiring sends the threads on from a state that has kept their warp. -/
theorem WarpKept.retire {s u : State} {i : Iss} (h : WarpKept u i) (hfl : u.flights = s.flights) (len : Nat) (lnd : Bool) (lv : Left) :
    ∃ w, Goes s (u.retire i len lnd lv) i len lnd w ∧ RegsKept i w := by
  obtain ⟨v, hv, hpcs, hregs⟩ := h
  refine ⟨_, ⟨State.warpAt_retire len lnd lv hv, threadsGo_moveLanes ?_, flightGoesOn_retire hfl⟩, hregs⟩
  exact congrArg (moveLanes (i.nxt len) i.fl.active) hpcs

/-- An instruction that leaves no result and changes nothing of its own keeps its warp but for its pops. -/
theorem Opnd.commit_warpKept {o : Opnd} {s : State} (hi : s.issuing = some o.i) : WarpKept (o.commit s none id).1 o.i := by
  have hat := o.warpAt_commit (res := none) (upd := id) hi fun _ => rfl
  have hbare := o.warpAfter_id_bare s.nextId none o.i.w
  obtain ⟨hv, hs, hx⟩ := Warp.regs_eq (o.warpAfter_pops_regs s.nextId o.i.w)
  exact ⟨_, hat, of_bare Warp.pcs (fun _ => rfl) hbare, hv, hs, of_bare Warp.m (fun _ => rfl) hbare, hx,
    of_bare Warp.mode (fun _ => rfl) hbare, of_bare Warp.flags (fun _ => rfl) hbare, of_bare Warp.srseq (fun _ => rfl) hbare⟩

/-! ### What is performed on a scratchpad -/

/-- A warp without its watch slots. -/
def Warp.unwatched (w : Warp) : Warp := { w with watch := [] }

/-- A state without what an operation on a scratchpad may change: workgroups, watch slots, and the notes of unordered atomics. -/
def State.sansScratchpads (s : State) : State :=
  { s with wgs := [], warps := s.warps.map Warp.unwatched, spent := [], spoilt := [], freeCtr := 0 }

theorem State.updWarp_watch_sansScratchpads (s : State) (k : WarpKey) (g : SMap Watch → SMap Watch) :
    (s.updWarp k fun w => { w with watch := g w.watch }).sansScratchpads = s.sansScratchpads := by
  have hwarps : (s.warps.map fun w => if w.core = k.core ∧ w.idx = k.idx then { w with watch := g w.watch } else w).map Warp.unwatched =
      s.warps.map Warp.unwatched := by
    rw [List.map_map]
    exact List.map_congr_left fun w _ => by simp only [Function.comp_apply, apply_ite Warp.unwatched]; exact ite_self _
  simp only [State.sansScratchpads, State.updWarp, hwarps]

theorem State.notifyS_sansScratchpads (s : State) (k : WgKey) (off n : Nat) : (s.notifyS k off n).sansScratchpads = s.sansScratchpads := by
  unfold State.notifyS
  split
  · rfl
  next g _ =>
    simp only [State.sansScratchpads, List.map_map]
    congr 1
    exact List.map_congr_left fun w _ => by simp only [Function.comp_apply, apply_ite Warp.unwatched]; exact ite_self _

theorem State.storeS_sansScratchpads (s : State) (k : WgKey) (off : Nat) (bs : List Byte) :
    (s.storeS k off bs).sansScratchpads = s.sansScratchpads := (State.notifyS_sansScratchpads ..).trans rfl

/-- A lane's access to a scratchpad changes scratchpads and watch slots, and notes of unordered atomics. -/
theorem State.performLane_sansScratchpads {s : State} {a : Access} (hglob : a.glob = false) (x : LaneAcc) :
    (s.performLane a x).1.sansScratchpads = s.sansScratchpads := by
  unfold State.performLane
  rw [hglob, if_neg Bool.false_ne_true]
  split
  · rfl
  dsimp only
  split
  · exact State.updWarp_watch_sansScratchpads s a.warp _
  · rfl
  · exact State.storeS_sansScratchpads ..
  · split
    · exact (State.storeS_sansScratchpads ..).trans rfl
    split
    · rfl
    · exact (State.storeS_sansScratchpads ..).trans rfl

theorem State.performLanes_sansScratchpads {a : Access} (hglob : a.glob = false) (s : State) (ls : List LaneAcc) :
    (s.performLanes a ls).1.sansScratchpads = s.sansScratchpads := by
  induction ls generalizing s with
  | nil => rfl
  | cons x ls ih => exact (ih _).trans (State.performLane_sansScratchpads hglob x)

/-- A state without scratchpads and what a performed access leaves of traffic: outstanding accesses, returns, L1 lines. -/
def State.sansTraffic (s : State) : State := { s.sansScratchpads with pending := [], returns := [], cores := [] }

/-- An access to scratchpads that is performed changes them, watch slots and traffic. -/
theorem State.performAccess_sansTraffic {a : Access} (hglob : a.glob = false) (s : State) :
    (s.performAccess a).sansTraffic = s.sansTraffic := by
  have hlanes (t : State) (ls : List LaneAcc) : (t.performLanes a ls).1.sansTraffic = t.sansTraffic :=
    of_erased State.sansScratchpads State.sansTraffic (fun _ => by simp only [State.sansTraffic, State.sansScratchpads, List.map_map]; rfl)
      (State.performLanes_sansScratchpads hglob t ls)
  have hacquired (t : State) (p : Prop) [Decidable p] : (if p then t.dropL1 a.warp.core else t).sansTraffic = t.sansTraffic := by
    split <;> rfl
  have hcommitted (t : State) : (t.committed a).sansTraffic = t.sansTraffic := by unfold State.committed; split <;> rfl
  have hreleased (t : State) : (t.released a).sansTraffic = t.sansTraffic := by unfold State.released; split <;> rfl
  have hunspoilt (t : State) : (t.unspoil a.id).sansTraffic = t.sansTraffic := rfl
  have hreturned (t : State) (l : List LoadRet) : ({ t with returns := l } : State).sansTraffic = t.sansTraffic := rfl
  have htaken (l : List Pending) : ({ s with pending := l } : State).sansTraffic = s.sansTraffic := rfl
  unfold State.performAccess
  simp only [hreturned, hreleased, hunspoilt, hcommitted, hacquired]
  split
  · exact htaken _
  · rw [hlanes, htaken]

theorem State.sansTraffic_warpAt (s : State) (k : WarpKey) : s.sansTraffic.warpAt k = (s.warpAt k).map Warp.unwatched :=
  State.warpAt_map (g := Warp.unwatched) rfl (fun _ => rfl) k

/-- Beside its scratchpads an access leaves memory, flights and its warp's threads and registers. -/
theorem State.performAccess_keeps {s : State} {a : Access} {i : Iss} (hglob : a.glob = false) (h : WarpKept s i) :
    WarpKept (s.performAccess a) i ∧ (s.performAccess a).flights = s.flights ∧ (s.performAccess a).mem = s.mem := by
  have hsans := State.performAccess_sansTraffic hglob s
  refine ⟨?_, of_erased State.sansTraffic State.flights (fun _ => rfl) hsans,
    of_erased State.sansTraffic State.mem (fun _ => rfl) hsans⟩
  obtain ⟨v, hv, hpcs, hregs⟩ := h
  have hat : ((s.performAccess a).warpAt i.w.key).map Warp.unwatched = some v.unwatched := by
    rw [← State.sansTraffic_warpAt, hsans, State.sansTraffic_warpAt, hv]
    rfl
  obtain ⟨u, hu, huv⟩ := Option.map_eq_some_iff.1 hat
  have hkept {α : Type} (g : Warp → α) (hg : ∀ w, g w.unwatched = g w) : g u = g v := by rw [← hg, huv, hg]
  obtain ⟨hv, hs, hm, hx, hmode, hflags, hsr⟩ := hregs
  exact ⟨u, hu, (hkept Warp.pcs fun _ => rfl).trans hpcs, (hkept Warp.v fun _ => rfl).trans hv, (hkept Warp.s fun _ => rfl).trans hs,
    (hkept Warp.m fun _ => rfl).trans hm, (hkept Warp.x fun _ => rfl).trans hx, (hkept Warp.mode fun _ => rfl).trans hmode,
    (hkept Warp.flags fun _ => rfl).trans hflags, (hkept Warp.srseq fun _ => rfl).trans hsr⟩

/-! ### Lanes of a load and of a store -/

section
variable {a : Access} {k : Nat → LaneAcc} {key : WgKey}

/-- A load's lanes change nothing, and return what stands at their offsets. -/
theorem State.performLanes_load {s : State} {g : Workgroup} {ls : List Nat} (hglob : a.glob = false) (hkind : a.kind = .load)
    (hlane : ∀ l, (k l).lane = l) (hkey : ∀ l ∈ ls, a.targetOf (k l) = key) (hg : s.wgAt key = some g) :
    (s.performLanes a (ls.map k)).1 = s ∧
      ∀ l ∈ ls, SMap.get 0 (s.performLanes a (ls.map k)).2 l = BitVec.ofNat 128 (readLE g.scratch (k l).pa a.size) := by
  induction ls with
  | nil => exact ⟨rfl, by simp⟩
  | cons m ls ih =>
    have hone : s.performLane a (k m) = (s, readLE g.scratch (k m).pa a.size) := by
      simp only [State.performLane, hglob, hkind, hkey m (by simp), hg, Bool.false_eq_true, if_false]
    obtain ⟨hstate, hvals⟩ := ih fun l hl => hkey l (by simp [hl])
    rw [List.map_cons, State.performLanes, hone]
    refine ⟨hstate, fun l hl => ?_⟩
    rw [SMap.get_put, hlane]
    split
    next heq => rw [heq]
    next hne => exact hvals l ((List.mem_cons.1 hl).resolve_left hne)

theorem toBytes_getElem (v : Nat) {n j : Nat} (hj : j < n) : (toBytes v n)[j]'(by rwa [length_toBytes]) = numByte v j := by
  induction n generalizing v j with
  | zero => omega
  | succ n ih =>
    cases j with
    | zero => simp [toBytes, numByte]
    | succ j => simpa [toBytes, numByte, Nat.pow_succ', Nat.div_div_eq_div_mul] using ih (v / 256) (Nat.lt_of_succ_lt_succ hj)

theorem State.storeS_wgAt {s : State} {g : Workgroup} (hg : s.wgAt key = some g) (off : Nat) (bs : List Byte) :
    ∃ g', (s.storeS key off bs).wgAt key = some g' ∧ g'.scratch = writeBytes g.scratch off bs := by
  have hupd := State.wgAt_updWg_same (f := fun g => { g with
    scratch := writeBytes g.scratch off bs, scratchPoison := clearPoison 4 g.scratchPoison off bs.length }) (fun _ => rfl) hg
  have hnotified (t : State) (n : Nat) : (t.notifyS key off n).wgs = t.wgs := by unfold State.notifyS; split <;> rfl
  exact ⟨_, (State.wgAt_congr (hnotified ..) _).trans hupd, rfl⟩

/-- A store's lanes in ascending order: each leaves its data where no later one overlaps, and all else is as before. -/
theorem State.performLanes_store {s : State} {g : Workgroup} {ls : List Nat} (hglob : a.glob = false) (hkind : a.kind = .store)
    (hkey : ∀ l ∈ ls, a.targetOf (k l) = key) (hg : s.wgAt key = some g) (hls : ls.Pairwise (· < ·)) :
    ∃ g', (s.performLanes a (ls.map k)).1.wgAt key = some g' ∧
      (∀ b, (∀ l ∈ ls, b < (k l).pa ∨ (k l).pa + a.size ≤ b) → byteAt g'.scratch b = byteAt g.scratch b) ∧
      ∀ l ∈ ls, ∀ j < a.size, (∀ m ∈ ls, l < m → (k l).pa + j < (k m).pa ∨ (k m).pa + a.size ≤ (k l).pa + j) →
        byteAt g'.scratch ((k l).pa + j) = numByte (k l).data.toNat j := by
  induction ls generalizing s g with
  | nil => exact ⟨g, hg, fun _ _ => rfl, by simp⟩
  | cons m ls ih =>
    obtain ⟨hfirst, hrest⟩ := List.pairwise_cons.1 hls
    have hone : (s.performLane a (k m)).1 = s.storeS key (k m).pa (toBytes (k m).data.toNat a.size) := by
      simp only [State.performLane, hglob, hkind, hkey m (by simp), hg, Bool.false_eq_true, if_false]
    obtain ⟨g₁, hg₁, hwrite⟩ := State.storeS_wgAt hg (k m).pa (toBytes (k m).data.toNat a.size)
    rw [← hone] at hg₁
    obtain ⟨g', hg', hframe, hdata⟩ := ih (fun l hl => hkey l (by simp [hl])) hg₁ hrest
    refine ⟨g', hg', fun b hb => ?_, fun l hl j hj hlast => ?_⟩
    · rw [hframe b fun l hl => hb l (by simp [hl]), hwrite, byteAt_writeBytes_other _ _ _ _ (by rw [length_toBytes]; exact hb m (by simp))]
    · rcases List.mem_cons.1 hl with rfl | hl
      · rw [hframe _ fun n hn => hlast n (by simp [hn]) (hfirst n hn), hwrite,
          byteAt_writeBytes_same _ _ _ _ (by rwa [length_toBytes]), toBytes_getElem _ hj]
      · exact hdata l hl j hj fun n hn => hlast n (by simp [hn])

end

/-! ### The type of a load (R184) -/

theorem SMap.get_map {h : BitVec 128 → BitVec 128} (h0 : h 0 = 0) (m : SMap (BitVec 128)) (n : Nat) :
    SMap.get 0 (m.map fun e => (e.1, h e.2)) n = h (SMap.get 0 m n) := by
  induction m with
  | nil => exact h0.symm
  | cons e m ih => simp only [List.map_cons, SMap.get, ih, apply_ite h]

/-- Sign extension to a register leaves the bytes that were loaded as they are. -/
theorem toNat_signExtend_mod {w : Nat} (hw : w ≤ 32) (x : BitVec w) :
    (((x.signExtend 32).setWidth 128).toNat) % 2 ^ w = x.toNat := by
  rw [← BitVec.toNat_setWidth]
  congr 1
  apply BitVec.eq_of_getLsbD_eq
  intro i hi
  have h32 : i < 32 := Nat.lt_of_lt_of_le hi hw
  simp only [BitVec.getLsbD_setWidth, BitVec.getLsbD_signExtend, hi, h32, Nat.lt_trans h32 (by decide : 32 < 128), decide_true,
    Bool.true_and, if_true]

theorem Access.widen_zero (a : Access) : a.widen 0 = 0 := by
  unfold Access.widen
  split
  · decide
  split
  · decide
  · rfl

/-- A loaded value has the bytes that were read, whatever stands above them (R184). -/
theorem Access.toNat_widen_mod {a : Access} (hsize : a.size ≤ 16) (v : Nat) :
    (a.widen (BitVec.ofNat 128 v)).toNat % 256 ^ a.size = v % 256 ^ a.size := by
  unfold Access.widen
  split
  next h =>
    obtain ⟨-, h1⟩ : a.signed = true ∧ a.size = 1 := by simpa using h
    rw [h1, show (256 : Nat) ^ 1 = 2 ^ 8 from rfl, toNat_signExtend_mod (by decide)]
    simp
  split
  next h =>
    obtain ⟨-, h2⟩ : a.signed = true ∧ a.size = 2 := by simpa using h
    rw [h2, show (256 : Nat) ^ 2 = 2 ^ 16 from rfl, toNat_signExtend_mod (by decide)]
    simp
  next =>
    rw [BitVec.toNat_ofNat, Nat.mod_mod_of_dvd]
    rw [show (256 : Nat) = 2 ^ 8 from rfl, ← Nat.pow_mul]
    exact Nat.pow_dvd_pow 2 (by omega)

/-! ### A load and a store as they are performed -/

/-- A state in which an access is no longer outstanding. -/
def State.withoutAccess (s : State) (id : Nat) : State :=
  { s with pending := s.pending.filter fun p => match p with | .access b => b.id ≠ id | .fence _ => true }

/-- What a load or store that is no commit operation, without order and without poison, leaves of workgroups and returns. -/
theorem State.performAccess_plain {s : State} {a : Access} (hcommit : a.commit = none) (hord : a.ord = 0) (hatomic : a.kind.atomic = false)
    (hclean : ∀ x ∈ a.lanes, s.lanePoison a x = false) :
    (s.performAccess a).wgs = ((s.withoutAccess a.id).performLanes a a.lanes).1.wgs ∧
    (s.performAccess a).returns = ((s.withoutAccess a.id).performLanes a a.lanes).1.returns ++
      if a.dst.isNone then [] else [⟨a.id, a.warp, a.wg, a.pc, a.dst.getD 251, a.scalar, sizeRegs a.size, a.threads,
        ((s.withoutAccess a.id).performLanes a a.lanes).2.map fun e => (e.1, a.widen e.2), [], !(a.kind == .load)⟩] := by
  have hbad : (a.lanes.filterMap fun x => if s.lanePoison a x then some (x.lane, x.va) else none) = [] :=
    List.filterMap_eq_nil_iff.2 fun x hx => by simp [hclean x hx]
  unfold State.performAccess State.released State.committed State.unspoil
  simp only [hbad, hcommit, hord, hatomic, List.isEmpty_nil, Bool.not_true, Bool.false_and, Bool.true_and, Option.isSome_none,
    Bool.false_eq_true, if_false, State.withoutAccess]
  exact ⟨rfl, rfl⟩

section
variable {s : State} {a : Access} {k : Nat → LaneAcc} {key : WgKey} {g : Workgroup} {ls : List Nat}

/-- A load of a workgroup's scratchpad that has no poison: the scratchpads are as before, and the values are on their way. -/
theorem State.performAccess_load {d : BitVec 8} (hglob : a.glob = false) (hkind : a.kind = .load) (hlanes : a.lanes = ls.map k)
    (hlane : ∀ l, (k l).lane = l) (hkey : ∀ l ∈ ls, a.targetOf (k l) = key) (hg : s.wgAt key = some g) (hclean : g.scratchPoison = [])
    (hcommit : a.commit = none) (hord : a.ord = 0) (hdst : a.dst = some d) (hsize : a.size ≤ 16) :
    (s.performAccess a).wgs = s.wgs ∧ ∃ vals : SMap (BitVec 128),
      (s.performAccess a).returns =
        s.returns ++ [⟨a.id, a.warp, a.wg, a.pc, d, a.scalar, sizeRegs a.size, a.threads, vals, [], false⟩] ∧
      ∀ l ∈ ls, (SMap.get 0 vals l).toNat % 256 ^ a.size = readLE g.scratch (k l).pa a.size := by
  have hpoison : ∀ x ∈ a.lanes, s.lanePoison a x = false := by
    rw [hlanes]
    intro x hx
    obtain ⟨l, hl, rfl⟩ := List.mem_map.1 hx
    simp [State.lanePoison, hglob, hkind, hkey l hl, hg, Workgroup.scratchBad, hclean, AccKind.onBar]
  obtain ⟨hwgs, hreturns⟩ := State.performAccess_plain hcommit hord (by rw [hkind]; rfl) hpoison
  obtain ⟨hstate, hvals⟩ := State.performLanes_load (s := s.withoutAccess a.id) hglob hkind hlane hkey hg
  rw [hlanes, hstate] at hwgs hreturns
  rw [hdst, hkind] at hreturns
  refine ⟨hwgs, _, hreturns, fun l hl => ?_⟩
  rw [SMap.get_map a.widen_zero, hvals l hl, Access.toNat_widen_mod hsize, Nat.mod_eq_of_lt (readLE_lt ..)]

/-- A store to a workgroup's scratchpad. -/
theorem State.performAccess_store (hglob : a.glob = false) (hkind : a.kind = .store) (hlanes : a.lanes = ls.map k)
    (hkey : ∀ l ∈ ls, a.targetOf (k l) = key) (hg : s.wgAt key = some g) (hls : ls.Pairwise (· < ·))
    (hcommit : a.commit = none) (hord : a.ord = 0) (hdst : a.dst = none) :
    (s.performAccess a).returns = s.returns ∧ ∃ g', (s.performAccess a).wgAt key = some g' ∧
      (∀ b, (∀ l ∈ ls, b < (k l).pa ∨ (k l).pa + a.size ≤ b) → byteAt g'.scratch b = byteAt g.scratch b) ∧
      ∀ l ∈ ls, ∀ j < a.size, (∀ m ∈ ls, l < m → (k l).pa + j < (k m).pa ∨ (k m).pa + a.size ≤ (k l).pa + j) →
        byteAt g'.scratch ((k l).pa + j) = numByte (k l).data.toNat j := by
  obtain ⟨hwgs, hreturns⟩ := State.performAccess_plain (s := s) hcommit hord (by rw [hkind]; rfl)
    fun x _ => by simp [State.lanePoison, hkind]
  obtain ⟨g', hg', hdata⟩ := State.performLanes_store (s := s.withoutAccess a.id) hglob hkind hkey hg hls
  have hlane : ((s.withoutAccess a.id).performLanes a a.lanes).1.returns = s.returns :=
    of_erased State.sansScratchpads State.returns (fun _ => rfl) (t := s.withoutAccess a.id)
      (State.performLanes_sansScratchpads hglob ..)
  rw [hlane, hdst] at hreturns
  rw [hlanes] at hwgs
  exact ⟨hreturns.trans (List.append_nil _), g', (State.wgAt_congr hwgs _).trans hg', hdata⟩

end

/-! ### Issue (R150, R263, R273) -/

/-- An access as an instruction asks for it, before it is known whether it is buffered (R277). -/
def MemAsk.unbuffered (x : MemAsk) (s : State) (o : Opnd) (glob : Bool) (commit : Option Nat) (lanes : List LaneAcc) : Access :=
  { x.access s o glob commit lanes with buffered := false }

/-- The state in which an instruction's access has joined those outstanding. -/
def Opnd.queued (o : Opnd) (s : State) (a : Access) : State := { (o.commit s none id).1 with pending := s.pending ++ [.access a] }

/-- What becomes of an access whose turn is not over: it waits for room, or is issued, and performed at once where it may be (log 9). -/
def Opnd.tryIssue (o : Opnd) (s : State) (len : Nat) (a : Access) (window res : Bool) : Out :=
  match s.noRoom a with
  | some w => .next (s.block o.i w)
  | none =>
    let due : Option Latch :=
      if res then some ⟨o.scalar, [], if a.size = 16 then 0 else o.latchLanes, s.freeCtr + 128, some a.id⟩ else none
    .next ((if s.atOnce a window then (o.queued s a).performAccess a else o.queued s a).retire o.i len o.f.lnd
      { (o.commit s none id).2 with l0 := due })

theorem MemAsk.issueAccess_eq (x : MemAsk) (s : State) (o : Opnd) (glob : Bool) (commit : Option Nat) (lanes : List LaneAcc)
    (window res : Bool) : o.issueAccess s x.len (x.unbuffered s o glob commit lanes) window res =
      if commit.any fun p => s.turnEnded o.i p then raise s o.i 0x0E8
      else o.tryIssue s x.len (x.access s o glob commit lanes) window res := by
  cases commit <;> rfl

theorem MemAsk.issueAccess_of_room {x : MemAsk} {s : State} {o : Opnd} {glob : Bool} {commit : Option Nat} {lanes : List LaneAcc}
    {a : Access} (ha : a = x.access s o glob commit lanes) (hroom : Room s o a) (window res : Bool) : ∃ lv,
    o.issueAccess s x.len (x.unbuffered s o glob commit lanes) window res =
      .next ((if s.atOnce a window then (o.queued s a).performAccess a else o.queued s a).retire o.i x.len o.f.lnd lv) := by
  subst ha
  obtain ⟨hroom, hturn⟩ := hroom
  have hopen : (commit.any fun p => s.turnEnded o.i p) = false := by
    cases commit with
    | none => rfl
    | some p => exact hturn p rfl
  rw [x.issueAccess_eq, hopen, if_neg Bool.false_ne_true, Opnd.tryIssue, hroom]
  exact ⟨_, rfl⟩

/-! ### What a scratchpad instruction issues (R176, R177, R181) -/

theorem memBytes_toNat : ∀ ty : BitVec 4, memBytes ty.toNat = typeBytes ty := by decide

theorem memW_toNat : ∀ ty : BitVec 4, memW ty.toNat = typeBits ty := by decide

/-- The gang index that the model reads for a lane (R177). -/
def memberRead (field : Option (BitVec 8)) (o : Opnd) (l : Nat) : Nat :=
  match field with
  | some c => o.rdN c l 32
  | none => o.i.ownIndex

theorem memberRead_eq {field : Option (BitVec 8)} {o : Opnd} {l : Nat} (hl : l ∈ o.lanes) :
    memberRead field o l = memberOf field o l := by
  cases field with
  | none => rfl
  | some c =>
    rw [memberRead, memberOf, Opnd.rd, BitVec.toNat_setWidth]
    exact (Nat.mod_eq_of_lt (o.rdN_lt c (.inl rfl) (Opnd.le_of_mem_lanes hl))).symm

/-- The parts of an access to scratchpads, from its checked lanes. -/
def MemAsk.scratchParts (x : MemAsk) (o : Opnd) (ls : List SLane) : List LaneAcc :=
  ls.map fun y => ⟨y.lane, y.off, y.off, o.i.memberId y.member, x.data o y.lane, x.data2 o y.lane, ⟨0, 0⟩⟩

/-- The phase in which an access to scratchpads is a commit operation: a store or atomic that names another member's (R274). -/
def MemAsk.scratchCommit (x : MemAsk) (window : Bool) (o : Opnd) (ls : List SLane) : Option Nat :=
  if x.kind = .load then none else o.i.commitIf (window && ls.any fun y => y.member ≠ o.i.ownIndex)

/-- What a scratchpad instruction does with its checked lanes. -/
def MemAsk.issueScratch (x : MemAsk) (s : State) (o : Opnd) (window : Bool) (ls : List SLane) : Out :=
  o.issueAccess s x.len (x.unbuffered s o false (x.scratchCommit window o ls) (x.scratchParts o ls)) window (x.dst o).isSome

section
variable {s : State} {o : Opnd} {sh : Shape} {f : XForm}

theorem loadScratch_ready (ins : Instr) (h : Ready s sh f noExtra o) (len n : Nat) (signed : Bool) (field : Option (BitVec 8)) :
    loadScratch s sh len f n signed field = scratchLanes s o f.a (modOfs f) n (memberRead field o)
      ((MemAsk.load ins sh f len n 0 signed).issueScratch s o field.isSome) := by
  rw [loadScratch, operate_ready h]
  cases field <;> rfl

theorem storeScratch_ready (ins : Instr) (h : Ready s sh f noExtra o) (len : Nat) (data : BitVec 8) (w n : Nat)
    (field : Option (BitVec 8)) : storeScratch s sh len f data w n field = scratchLanes s o f.a (modOfs f) n (memberRead field o)
      ((MemAsk.store ins sh f len n 0 data w).issueScratch s o field.isSome) := by
  rw [storeScratch, operate_ready h]
  cases field <;> rfl

/-- An atomic names its member by E where MOD bit 9 is set (R192). -/
theorem atomScratch_ready (ins : Instr) {xop : Nat} {kind : AccKind} (hkind : kind = .cas ∨ ∃ n, kind = .atom n)
    (h : Ready s (shapeMem xop f) f noExtra o) : atomScratch s xop f kind =
      scratchLanes s o f.a 0 (typeBytes f.ty) (memberRead (if f.bit 9 then some f.e else none) o)
        ((MemAsk.atomic ins xop f kind).issueScratch s o (if f.bit 9 then some f.e else none : Option (BitVec 8)).isSome) := by
  rw [atomScratch, operate_ready h, memBytes_toNat, memW_toNat]
  rcases hkind with rfl | ⟨n, rfl⟩ <;> cases f.bit 9 <;> rfl

end

/-- Every scratchpad instruction that is ready checks its lanes and issues its access. -/
theorem exec_scratchAsk {f : XForm} {g : IForm} {x : MemAsk × Option (BitVec 8)} (hx : x ∈ scratchAsks f g) {s : State} {o : Opnd}
    (h : Ready s x.1.sh x.1.f noExtra o) : exec x.1.ins s =
      scratchLanes s o x.1.f.a x.1.ofs x.1.size (memberRead x.2 o) (x.1.issueScratch s o x.2.isSome) := by
  simp only [scratchAsks, List.mem_cons, List.not_mem_nil, or_false] at hx
  rcases hx with rfl | rfl | rfl | rfl | rfl | rfl | rfl | rfl
  · exact loadScratch_ready (.lds g) h _ 4 false none
  · exact storeScratch_ready (.sts g) h _ g.toX.d 32 4 none
  · exact memBytes_toNat f.ty ▸ loadScratch_ready (.ldsw f) h f.len (memBytes f.ty.toNat) (typeSigned f.ty) none
  · exact memBytes_toNat f.ty ▸ memW_toNat f.ty ▸
      storeScratch_ready (.stsw f) h f.len f.b (memW f.ty.toNat) (memBytes f.ty.toNat) none
  · exact memBytes_toNat f.ty ▸ loadScratch_ready (.ldl f) h f.len (memBytes f.ty.toNat) (typeSigned f.ty) (some f.b)
  · exact memBytes_toNat f.ty ▸ memW_toNat f.ty ▸
      storeScratch_ready (.stl f) h f.len f.c (memW f.ty.toNat) (memBytes f.ty.toNat) (some f.b)
  · exact atomScratch_ready (.atoms f) (.inr ⟨_, rfl⟩) h
  · exact atomScratch_ready (.cass f) (.inl rfl) h

/-- What the checks of R181 ask of a scratchpad instruction's lanes. -/
def MemAsk.InScratch (x : MemAsk) (o : Opnd) (field : Option (BitVec 8)) (l : Nat) : Prop :=
  memberOf field o l < o.i.gr.rec_.gang ∧ (∀ r ∈ o.i.gr.retired, r.1 ≠ o.i.memberId (memberOf field o l)) ∧
    x.eo o l % x.size = 0 ∧ 0 ≤ x.eo o l ∧ x.eo o l + x.size ≤ o.i.gr.rec_.scratch

/-- Where every lane passes its checks, an instruction goes on with its lanes (R181). -/
theorem scratchLanes_checked {x : MemAsk} {s : State} {o : Opnd} {field : Option (BitVec 8)} (h : ∀ l ∈ o.lanes, x.InScratch o field l)
    (k : List SLane → Out) : scratchLanes s o x.f.a x.ofs x.size (memberRead field o) k =
      k (o.lanes.map fun l => ⟨l, memberOf field o l, (x.eo o l).toNat⟩) := by
  have hes : (o.lanes.map fun l => (l, memberRead field o l, o.eo x.f.a x.ofs x.size l)) =
      o.lanes.map fun l => (l, memberOf field o l, x.eo o l) :=
    List.map_congr_left fun l hl => by rw [memberRead_eq hl]; rfl
  have hnone (p : Nat × Nat × Int → Bool) (hp : ∀ l ∈ o.lanes, p (l, memberOf field o l, x.eo o l) = false) :
      (o.lanes.map fun l => (l, memberOf field o l, x.eo o l)).find? p = none := by
    rw [List.find?_eq_none]
    rintro e he
    obtain ⟨l, hl, rfl⟩ := List.mem_map.1 he
    simp [hp l hl]
  unfold scratchLanes
  dsimp only
  rw [hes, hnone, hnone, hnone, hnone, List.map_map]
  · rfl
  · intro l hl
    obtain ⟨-, -, -, hlow, hhigh⟩ := h l hl
    simp [hlow, hhigh]
  · intro l hl
    obtain ⟨-, -, halign, -⟩ := h l hl
    simp [halign]
  · intro l hl
    obtain ⟨-, hthere, -⟩ := h l hl
    simpa using fun a b hr => hthere (a, b) hr
  · intro l hl
    obtain ⟨hmember, -⟩ := h l hl
    simpa using hmember

/-- A lane's part of an access to scratchpads. -/
def MemAsk.scratchPart (x : MemAsk) (o : Opnd) (field : Option (BitVec 8)) (l : Nat) : LaneAcc :=
  ⟨l, (x.eo o l).toNat, (x.eo o l).toNat, o.i.memberId (memberOf field o l), x.data o l, x.data2 o l, ⟨0, 0⟩⟩

/-- The access that a scratchpad instruction asks for: in a deterministic grid a store or atomic that names another member is a
commit operation (R274). -/
def MemAsk.scratchAccess (x : MemAsk) (s : State) (o : Opnd) (field : Option (BitVec 8)) : Access :=
  let shared := field.isSome && x.kind != .load && o.lanes.any fun l => memberOf field o l != o.i.ownIndex
  x.access s o false (if o.i.gr.rec_.det && shared then some o.i.w.phase else none) (o.lanes.map (x.scratchPart o field))

/-- From its checked lanes a scratchpad instruction issues the access that it asks for, where there is room. -/
theorem MemAsk.issueScratch_of_room {x : MemAsk} {s : State} {o : Opnd} {field : Option (BitVec 8)} {a : Access}
    (ha : a = x.scratchAccess s o field) (hroom : Room s o a) : ∃ lv,
    x.issueScratch s o field.isSome (o.lanes.map fun l => ⟨l, memberOf field o l, (x.eo o l).toNat⟩) =
      .next ((if s.atOnce a field.isSome then (o.queued s a).performAccess a else o.queued s a).retire o.i x.len o.f.lnd lv) := by
  have hcommit : x.scratchCommit field.isSome o (o.lanes.map fun l => ⟨l, memberOf field o l, (x.eo o l).toNat⟩) =
      (x.scratchAccess s o field).commit := by
    unfold MemAsk.scratchCommit Iss.commitIf MemAsk.scratchAccess MemAsk.access
    rw [List.any_map]
    by_cases hk : x.kind = .load
    · simp [hk]
    · simp [hk, bne, Function.comp_def]
  refine MemAsk.issueAccess_of_room (ha.trans ?_) hroom _ _
  rw [hcommit, MemAsk.scratchParts, List.map_map]
  rfl

/-! ### The instructions' kinds -/

theorem typeBytes_le : ∀ ty : BitVec 4, typeBytes ty ≤ 16 := by decide

section
variable {f : XForm} {g : IForm} {x : MemAsk × Option (BitVec 8)}

/-- A scratchpad load returns to its destination, without order. -/
theorem scratchAsks_load (hx : x ∈ scratchAsks f g) (hkind : x.1.kind = .load) :
    x.1.dst = (fun o => some o.dstCode) ∧ x.1.ord = 0 ∧ x.1.size ≤ 16 := by
  simp only [scratchAsks, List.mem_cons, List.not_mem_nil, or_false] at hx
  rcases hx with rfl | rfl | rfl | rfl | rfl | rfl | rfl | rfl
  · exact ⟨rfl, rfl, Nat.le_of_ble_eq_true rfl⟩
  · cases hkind
  · exact ⟨rfl, rfl, typeBytes_le f.ty⟩
  · cases hkind
  · exact ⟨rfl, rfl, typeBytes_le f.ty⟩
  · cases hkind
  · cases hkind
  · cases hkind

/-- A scratchpad store returns nothing and has no order. -/
theorem scratchAsks_store (hx : x ∈ scratchAsks f g) (hkind : x.1.kind = .store) : x.1.dst = (fun _ => none) ∧ x.1.ord = 0 := by
  simp only [scratchAsks, List.mem_cons, List.not_mem_nil, or_false] at hx
  rcases hx with rfl | rfl | rfl | rfl | rfl | rfl | rfl | rfl
  · cases hkind
  · exact ⟨rfl, rfl⟩
  · cases hkind
  · exact ⟨rfl, rfl⟩
  · cases hkind
  · exact ⟨rfl, rfl⟩
  · cases hkind
  · cases hkind

end

theorem Opnd.lanes_pairwise (o : Opnd) : o.lanes.Pairwise (· < ·) := by
  unfold Opnd.lanes
  split
  · exact List.pairwise_singleton ..
  · exact List.pairwise_lt_range.filter _

/-- A direct access names its own workgroup. -/
theorem Iss.memberId_ownIndex (i : Iss) : i.memberId i.ownIndex = i.w.wg.wgid := Nat.div_add_mod' ..

/-! ### What becomes of the access -/

section
variable {s : State} {o : Opnd} {a : Access}

/-- A state in which an access is outstanding keeps its warp. -/
theorem Opnd.queued_warpKept (hi : s.issuing = some o.i) : WarpKept (o.queued s a) o.i := Opnd.commit_warpKept hi

theorem Opnd.queued_wgAt (hi : s.issuing = some o.i) : (o.queued s a).wgAt o.i.w.wg = some o.i.wg :=
  (State.wgAt_congr (t := s) rfl _).trans (State.issuing_wgAt hi)

/-- An access that is not performed as it issues is outstanding from then on. -/
theorem Opnd.issuesAccess_queued (hi : s.issuing = some o.i) (len : Nat) (lv : Left) :
    IssuesAccess s o len a (.next ((o.queued s a).retire o.i len o.f.lnd lv)) := by
  obtain ⟨w, hgoes, hregs⟩ := (Opnd.queued_warpKept (a := a) hi).retire (s := s) rfl len o.f.lnd lv
  exact ⟨_, w, rfl, hgoes, hregs, State.retire_pending .., State.retire_returns .., State.retire_wgs .., State.retire_grids ..,
    fun b => by rw [State.retire_mem]; rfl⟩

/-- An access through a window, or one of a warp with others outstanding, is not performed as it issues (log 9). -/
theorem State.atOnce_eq_false {window : Bool} (h : window = true ∨
    ∃ p ∈ s.pending, match p with | .access b => b.warp = a.warp | .fence b => b.warp = a.warp) : s.atOnce a window = false := by
  rcases h with rfl | ⟨p, hp, hwarp⟩
  · simp [State.atOnce]
  · rw [State.atOnce, Bool.and_eq_false_iff]
    refine .inr (List.all_eq_false.2 ⟨p, hp, ?_⟩)
    cases p <;> simp_all

/-- A direct access of a warp with nothing outstanding, no commit operation, is performed as it issues (log 9). -/
theorem State.atOnce_eq_true (hglob : a.glob = false) (hcommit : a.commit = none)
    (h : ∀ p ∈ s.pending, match p with | .access b => b.warp ≠ a.warp | .fence b => b.warp ≠ a.warp) : s.atOnce a false = true := by
  rw [State.atOnce, hglob, hcommit, List.all_eq_true.2]
  · rfl
  · intro p hp
    have := h p hp
    cases p <;> simpa using this

end

/-- Settles O28: the issued access stays outstanding, or is performed lane by lane on the issuing workgroup's scratchpad. -/
theorem scratchpadAccessesIssue : Obligations.scratchpad_accesses_issue := by
  intro f g x hx s o h own target hin shared a hroom
  have hi := h.issues
  have hexec : ∃ lv, exec x.1.ins s =
      .next ((if s.atOnce a x.2.isSome then (o.queued s a).performAccess a else o.queued s a).retire o.i x.1.len o.f.lnd lv) := by
    obtain ⟨lv, hlv⟩ := MemAsk.issueScratch_of_room (x := x.1) (field := x.2) (a := a) rfl hroom
    exact ⟨lv, by rw [exec_scratchAsk hx h, scratchLanes_checked hin, hlv]⟩
  obtain ⟨lv, hexec⟩ := hexec
  rw [hexec]
  refine ⟨fun hwait => ?_, fun hdirect halone => ?_⟩
  · rw [State.atOnce_eq_false hwait, if_neg Bool.false_ne_true]
    exact Opnd.issuesAccess_queued hi ..
  have hcommit : a.commit = none := by simp [a, MemAsk.access, shared, hdirect]
  rw [hdirect, Option.isSome_none, State.atOnce_eq_true rfl hcommit halone, if_pos rfl]
  obtain ⟨hkept, hflights, hmem⟩ := State.performAccess_keeps (a := a) rfl (Opnd.queued_warpKept (a := a) hi)
  obtain ⟨w, hgoes, hregs⟩ := hkept.retire (s := s) hflights x.1.len o.f.lnd lv
  have hkey : ∀ l ∈ o.lanes, a.targetOf (x.1.scratchPart o x.2 l) = o.i.w.wg := fun l _ => by
    rw [hdirect, Access.targetOf, show (x.1.scratchPart o none l).target = o.i.w.wg.wgid from o.i.memberId_ownIndex]
    rfl
  refine ⟨_, w, rfl, hgoes, hregs, fun b => by rw [State.retire_mem, hmem]; rfl, fun hload hclean => ?_, fun hstore => ?_⟩
  · obtain ⟨hdst, hord, hsize⟩ := scratchAsks_load hx hload
    rw [State.retire_wgs, State.retire_returns]
    exact State.performAccess_load (s := o.queued s a) (a := a) rfl hload rfl (fun _ => rfl) hkey (Opnd.queued_wgAt hi) hclean hcommit hord
      (congrFun hdst o) hsize
  · obtain ⟨hdst, hord⟩ := scratchAsks_store hx hstore
    obtain ⟨hreturns, g', hg', hframe, hdata⟩ := State.performAccess_store (s := o.queued s a) (a := a) rfl hstore rfl hkey
      (Opnd.queued_wgAt hi) o.lanes_pairwise hcommit hord (congrFun hdst o)
    refine ⟨(State.retire_returns ..).trans hreturns, g', (State.wgAt_congr (State.retire_wgs ..) _).trans hg', fun b hb => ?_,
      fun l hl j hj hlast => ?_⟩
    · refine hframe b fun l hl => ?_
      obtain ⟨-, -, -, hlow, -⟩ := hin l hl
      have := hb l hl
      simp only [a, MemAsk.access]
      omega
    · refine hdata l hl j hj fun m hm hlt => ?_
      obtain ⟨-, -, -, hlow, -⟩ := hin l hl
      obtain ⟨-, -, -, hlow', -⟩ := hin m hm
      have := hlast m hm hlt
      simp only [a, MemAsk.access]
      omega

end Sys2Proof.Machine

/-! ## Returned loads and LDK (O31) -/
namespace Sys2Proof.Machine
open Sys2Proof

/-! ### What a returned value leaves in v registers (R42, R184) -/

/-- A value of 1, 2 or 4 registers goes to them word by word, lowest first. -/
theorem writeV_regs {regs : Nat} (hregs : regs ∈ [1, 2, 4]) (n lane : Nat) (x : BitVec 128) (wp : Warp) :
    writeV n lane x (32 * regs) wp =
      (List.range regs).foldl (fun w k => w.setV (n + k) lane (x.extractLsb' (32 * k) 32)) wp := by
  have hlow : x.setWidth 32 = x.extractLsb' 0 32 := BitVec.setWidth_eq_extractLsb' (by decide)
  simp only [List.mem_cons, List.not_mem_nil, or_false] at hregs
  rcases hregs with rfl | rfl | rfl <;> (unfold writeV; rw [hlow]; rfl)

/-- Registers written one after another in a lane. -/
theorem vReg_foldl_setV {n lane m l : Nat} (y : Nat → Word) (hlane : lane < 64) (hl : l < 64) (regs : Nat) (wp : Warp) :
    ((List.range regs).foldl (fun w k => w.setV (n + k) lane (y k)) wp).vReg m l =
      if l = lane ∧ n ≤ m ∧ m < n + regs then y (m - n) else wp.vReg m l := by
  induction regs with
  | zero => rw [if_neg (by omega)]; rfl
  | succ r ih =>
    rw [List.range_succ, List.foldl_append, List.foldl_cons, List.foldl_nil, Warp.vReg_setV hlane hl, ih]
    by_cases hm : l = lane ∧ m = n + r
    · rw [if_pos hm, if_pos (by omega), hm.2, Nat.add_sub_cancel_left]
    · rw [if_neg hm]
      exact if_congr (by omega) rfl rfl

/-- What stands in a lane's register after a list of returned values: those of its lane decide, in their order. -/
theorem vReg_foldl_writeV {regs n m l : Nat} {vals : List (Nat × BitVec 128)} {wp : Warp} (hregs : regs ∈ [1, 2, 4])
    (hvals : ∀ e ∈ vals, e.1 < 64) (hl : l < 64) :
    (vals.foldl (fun w e => writeV n e.1 e.2 (32 * regs) w) wp).vReg m l =
      (vals.filter fun e => e.1 = l).foldl (fun y e => if n ≤ m ∧ m < n + regs then e.2.extractLsb' (32 * (m - n)) 32 else y)
        (wp.vReg m l) := by
  induction vals generalizing wp with
  | nil => rfl
  | cons e vals ih =>
    rw [List.foldl_cons, ih fun d hd => hvals d (by simp [hd]), writeV_regs hregs, vReg_foldl_setV _ (hvals e (by simp)) hl]
    by_cases hel : e.1 = l
    · simp [hel]
    · simp [hel, Ne.symm hel]

/-! ### LOAD_RETURN (R149) -/

/-- The returned values that are written: those of threads that are still there. -/
def Warp.landing (w : Warp) (r : LoadRet) : List (Nat × BitVec 128) :=
  r.vals.filter fun e => if r.scalar then w.alive else w.liveLanes.getLsbD e.1

/-- A warp with a clean return's values in its registers. -/
def Warp.returned (w : Warp) (r : LoadRet) : Warp := writeLanes r.dst (32 * r.regs) (w.landing r) w

/-- A state in which returned data is no longer on its way. -/
def State.sansReturn (s : State) (id : Nat) : State := { s with returns := s.returns.filter fun x => x.id ≠ id }

/-- The state that a clean return to a warp leaves. -/
def State.afterReturn (s : State) (r : LoadRet) (w : Warp) : State :=
  let u := (s.sansReturn r.id).updWarp r.warp fun v => writeLanes r.dst (32 * r.regs) (w.landing r) v
  { u with flights := u.flights.map fun (f : Flight) =>
      if f.core = r.warp.core ∧ f.warp = r.warp.idx then { f with l0 := fillLatch r.id r.vals f.l0 } else f }

section
variable {s : State} {r : LoadRet} {w : Warp}

theorem execLoadReturn_clean (hr : (s.returns.find? fun x => x.id = r.id) = some r) (hw : s.warpAt r.warp = some w)
    (hclean : r.poisoned = []) : exec (.loadReturn r.id) s = .next (s.afterReturn r w) := by
  rw [show exec (.loadReturn r.id) s = execLoadReturn r.id s from rfl, execLoadReturn, hr]
  dsimp only
  rw [hw]
  dsimp only
  rw [hclean]
  rfl

theorem execLoadReturn_poisoned {g : Workgroup} {lane va : Nat} {rest : List (Nat × Nat)}
    (hr : (s.returns.find? fun x => x.id = r.id) = some r) (hw : s.warpAt r.warp = some w) (hpoison : r.poisoned = (lane, va) :: rest)
    (hg : s.wgAt r.wg = some g) (hfault : g.ended ≠ some .fault) (hkill : g.ended ≠ some .kill) : exec (.loadReturn r.id) s =
      .next ((s.sansReturn r.id).deliver w r.pc (if g.regions = [] then 0x121 else 0x120) va) := by
  have hg' : ({ s with returns := s.returns.filter fun x => x.id ≠ r.id } : State).wgAt r.wg = some g := hg
  have hbroken : g.broken = false := by simp [Workgroup.broken, hfault, hkill]
  have hcause : g.serCause = if g.regions = [] then 0x121 else 0x120 := by simp [Workgroup.serCause]
  rw [show exec (.loadReturn r.id) s = execLoadReturn r.id s from rfl, execLoadReturn, hr]
  dsimp only
  rw [hw]
  dsimp only
  rw [hpoison]
  dsimp only
  rw [hg']
  dsimp only
  rw [hbroken, if_neg Bool.false_ne_true, hcause]
  rfl

theorem State.warpAt_afterReturn (hw : s.warpAt r.warp = some w) : (s.afterReturn r w).warpAt r.warp = some (w.returned r) :=
  (State.warpAt_congr rfl _).trans
    (State.warpAt_updWarp_same (s := s.sansReturn r.id) (fun _ => of_bare Warp.key (fun _ => rfl) (writeLanes_bare ..)) hw)

theorem Warp.returned_bare : (w.returned r).bare = w.bare := writeLanes_bare ..

end

/-- A warp's registers after a clean return to v registers: what the returned values of a lane whose thread is still there leave, in
their order; in the other lanes, what stood there. -/
theorem vReg_returned {r : LoadRet} {w : Warp} {n m l : Nat} (hdst : clsOf r.dst = .v n) (hscalar : r.scalar = false)
    (hregs : r.regs ∈ [1, 2, 4]) (hvals : ∀ e ∈ r.vals, e.1 < 64) (hl : l < 64) : (w.returned r).vReg m l =
      if w.liveLanes.getLsbD l = true then
        (r.vals.filter fun e => e.1 = l).foldl (fun y e => if n ≤ m ∧ m < n + r.regs then e.2.extractLsb' (32 * (m - n)) 32 else y)
          (w.vReg m l)
      else w.vReg m l := by
  have hlane : ((w.landing r).filter fun e => e.1 = l) =
      if w.liveLanes.getLsbD l = true then r.vals.filter fun e => e.1 = l else [] := by
    rw [Warp.landing, List.filter_filter, hscalar]
    simp only [Bool.false_eq_true, if_false]
    cases hlive : w.liveLanes.getLsbD l with
    | true => exact List.filter_congr fun e _ => by by_cases he : e.1 = l <;> simp [he, hlive]
    | false => exact List.filter_eq_nil_iff.2 fun e _ => by by_cases he : e.1 = l <;> simp [he, hlive]
  rw [Warp.returned, writeLanes, hdst]
  dsimp only
  rw [vReg_foldl_writeV (vals := w.landing r) hregs (fun e he => hvals e (List.mem_filter.1 he).1) hl, hlane]
  cases w.liveLanes.getLsbD l <;> rfl

/-! ### LDK (R191) -/

theorem numByte_zero (v : Nat) : numByte v 0 = BitVec.ofNat 8 v := by rw [numByte, Nat.pow_zero, Nat.div_one]

theorem numByte_succ (v j : Nat) : numByte v (j + 1) = numByte (v / 256) j := by
  rw [numByte, numByte, Nat.pow_succ', Nat.div_div_eq_div_mul]

/-- The low n bytes of a number decide its bytes below n. -/
theorem numByte_congr {u v n j : Nat} (h : u % 256 ^ n = v % 256 ^ n) (hj : j < n) : numByte u j = numByte v j := by
  have hmod (x : Nat) : numByte (x % 256 ^ n) j = numByte x j := by
    apply BitVec.eq_of_toNat_eq
    have hsplit : 256 ^ n = 256 ^ j * 256 ^ (n - j) := by rw [← Nat.pow_add, Nat.add_sub_cancel' hj.le]
    have hbyte : 2 ^ 8 ∣ 256 ^ (n - j) := dvd_pow_self 256 (Nat.sub_ne_zero_of_lt hj)
    rw [numByte, numByte, BitVec.toNat_ofNat, BitVec.toNat_ofNat, hsplit, Nat.mod_mul_right_div_self, Nat.mod_mod_of_dvd _ hbyte]
  rw [← hmod u, h, hmod]

theorem numByte_ofBytes (bs : List Byte) (j : Nat) : numByte (ofBytes bs) j = bs.getD j 0 := by
  induction bs generalizing j with
  | nil => simp [ofBytes, numByte]
  | cons b bs ih =>
    have hb := b.isLt
    cases j with
    | zero =>
      rw [numByte_zero, ofBytes, List.getD_cons_zero]
      apply BitVec.eq_of_toNat_eq
      rw [BitVec.toNat_ofNat]
      omega
    | succ j =>
      rw [numByte_succ, ofBytes, List.getD_cons_succ, ← ih]
      congr 1
      omega

/-- Byte b of a table of numbers of n bytes each. -/
theorem getD_flatMap_toBytes (v : Nat → Nat) {n k b : Nat} (hb : b < k * n) :
    ((List.range k).flatMap fun m => toBytes (v m) n).getD b 0 = numByte (v (b / n)) (b % n) := by
  have hlength (k : Nat) : ((List.range k).flatMap fun m => toBytes (v m) n).length = k * n := by simp [length_toBytes]
  induction k with
  | zero => omega
  | succ k ih =>
    rw [Nat.succ_mul] at hb
    rw [List.range_succ, List.flatMap_append, List.flatMap_singleton]
    by_cases hk : b < k * n
    · rw [List.getD_append _ _ _ _ (by rwa [hlength]), ih hk]
    · have hlow : b - k * n < n := by omega
      have hdiv : b / n = k := Nat.div_eq_of_lt_le (by omega) (by rw [Nat.succ_mul]; exact hb)
      have hmod : b % n = b - k * n := by rw [Nat.mod_eq_sub, hdiv, Nat.mul_comm]
      rw [List.getD_append_right _ _ _ _ (by rw [hlength]; omega), hlength, hdiv, hmod,
        List.getD_eq_getElem _ _ (by rwa [length_toBytes]), toBytes_getElem _ hlow]

theorem length_discTable (c : Context) : (discTable c).length = 256 := by simp [discTable, length_toBytes]

section
variable {s : State} {i : Iss} {tbl : Nat}

theorem length_ldkTable (htbl : tbl < 3) (hctx : (s.ctxAt i.w.wg.ctx).isSome = true) : (ldkTable s i tbl).length = tableBytesOf tbl := by
  obtain ⟨c, hc⟩ := Option.isSome_iff_exists.1 hctx
  match tbl with
  | 0 => rw [ldkTable, hc]; exact length_discTable c
  | 1 => simp [ldkTable, tableBytesOf, length_toBytes]
  | 2 => simp [ldkTable, tableBytesOf, length_toBytes]

theorem ldkTable_getD {b : Nat} (htbl : tbl < 3) (hb : b < tableBytesOf tbl) : (ldkTable s i tbl).getD b 0 = tableByte s i tbl b := by
  match tbl with
  | 0 =>
    rw [ldkTable, tableByte]
    cases s.ctxAt i.w.wg.ctx <;> rfl
  | 1 => exact getD_flatMap_toBytes (fun n => (i.kReg n).toNat) hb
  | 2 => exact getD_flatMap_toBytes (fun n => (i.slot n).toNat) hb

end

theorem SMap.get_foldl_put {α : Type} (d : α) (y : Nat → α) {l : Nat} {ls : List Nat} (m : SMap α)
    (h : l ∈ ls ∨ m.get d l = y l) :
    (ls.foldl (fun m l => SMap.put m l (y l)) m).get d l = y l := by
  induction ls generalizing m with
  | nil => exact h.resolve_left (by simp)
  | cons k ls ih =>
    refine ih _ (or_iff_not_imp_left.2 fun hl => ?_)
    rw [SMap.get_put]
    split
    next hlk => rw [hlk]
    next hlk => exact h.resolve_left (by simp [hlk, hl])

/-- A lane's offset into a table. -/
def Opnd.ldkAt (o : Opnd) (f : XForm) (l : Nat) : Int := ((o.rd f.a l).toNat : Int) + modOfs f * typeBytes f.ty

/-- The load that LDK makes of its table. -/
def Opnd.ldkAccess (o : Opnd) (s : State) (f : XForm) : Access :=
  { o.newAccess s .load false (typeBytes f.ty) o.loadDst [] with signed := memSigned f.ty }

/-- The value that LDK returns to a lane. -/
def Opnd.ldkValue (o : Opnd) (s : State) (f : XForm) (l : Nat) : BitVec 128 :=
  (o.ldkAccess s f).widen (BitVec.ofNat 128 (ofBytes (((ldkTable s o.i (f.fld 9 8)).drop (o.ldkAt f l).toNat).take (typeBytes f.ty))))

/-- The values that LDK puts on their way. -/
def Opnd.ldkReturn (o : Opnd) (s : State) (f : XForm) : LoadRet :=
  ⟨s.nextId, o.i.w.key, o.i.w.wg, o.i.pc, o.dstCode, o.scalar, sizeRegs (typeBytes f.ty), o.i.mask,
    o.lanes.foldl (fun m l => SMap.put m l (o.ldkValue s f l)) [], [], false⟩

/-- The state in which LDK's values are on their way. -/
def Opnd.ldkReturned (o : Opnd) (s : State) (f : XForm) : State :=
  { (o.commit s none id).1 with returns := s.returns ++ [o.ldkReturn s f] }

section
variable {s : State} {f : XForm} {o : Opnd}

/-- Where every lane's bytes lie aligned in the table, LDK completes with its values on their way. -/
theorem execLdk_checked (h : Ready s (shapeMem 0x06 f) f noExtra o) (htbl : f.fld 9 8 < 3) (hctx : (s.ctxAt o.i.w.wg.ctx).isSome = true)
    (hin : ∀ l ∈ o.lanes, o.ldkAt f l % typeBytes f.ty = 0 ∧ 0 ≤ o.ldkAt f l ∧
      o.ldkAt f l + typeBytes f.ty ≤ tableBytesOf (f.fld 9 8)) :
    ∃ lv, exec (.ldk f) s = .next ((o.ldkReturned s f).retire o.i f.len f.lnd lv) := by
  have hnone (p : Nat × Int → Bool) (hp : ∀ l ∈ o.lanes, p (l, o.ldkAt f l) = false) :
      (o.lanes.map fun l => (l, o.ldkAt f l)).find? p = none := by
    rw [List.find?_eq_none]
    rintro e he
    obtain ⟨l, hl, rfl⟩ := List.mem_map.1 he
    simp [hp l hl]
  have hes : (o.lanes.map fun l => (l, o.eo f.a (ofs8 (f.fld 7 0)) (typeBytes f.ty) l)) = o.lanes.map fun l => (l, o.ldkAt f l) := rfl
  rw [show exec (.ldk f) s = execLdk f s from rfl, execLdk, operate_ready h, memBytes_toNat]
  dsimp only
  rw [hes, hnone, hnone, List.foldl_map]
  · exact ⟨_, rfl⟩
  · intro l hl
    obtain ⟨-, hlow, hhigh⟩ := hin l hl
    rw [length_ldkTable htbl hctx]
    simp [hlow, hhigh]
  · intro l hl
    obtain ⟨halign, -⟩ := hin l hl
    simp [halign]

/-- Each byte of a value that LDK returns is the table's. -/
theorem numByte_ldkValue {l j : Nat} (htbl : f.fld 9 8 < 3) (hj : j < typeBytes f.ty)
    (hhigh : o.ldkAt f l + typeBytes f.ty ≤ tableBytesOf (f.fld 9 8)) (hlow : 0 ≤ o.ldkAt f l) :
    numByte (o.ldkValue s f l).toNat j = tableByte s o.i (f.fld 9 8) ((o.ldkAt f l).toNat + j) := by
  rw [Opnd.ldkValue, numByte_congr (Access.toNat_widen_mod (a := o.ldkAccess s f) (typeBytes_le f.ty) _) hj, numByte_ofBytes,
    ← ldkTable_getD htbl (by omega)]
  simp [List.getD_eq_getElem?_getD, List.getElem?_take_of_lt hj, List.getElem?_drop]

end

/-- Settles O31: a clean return writes its v registers lane by lane, a poisoned one is delivered, and LDK's values are its table's bytes. -/
theorem loadedValuesArrive : Obligations.loaded_values_arrive := by
  refine ⟨fun s r w hr hw hclean => ?_, fun s r w g hr hw lane va rest hpoison hg hfault hkill => ?_,
    fun s f o h htbl hctx => ?_⟩
  · refine ⟨_, w.returned r, execLoadReturn_clean hr hw hclean, State.warpAt_afterReturn hw, fun _ => rfl, fun x hx => ?_,
      of_bare Warp.m (fun _ => rfl) Warp.returned_bare, of_bare Warp.x (fun _ => rfl) Warp.returned_bare,
      of_bare Warp.pcs (fun _ => rfl) Warp.returned_bare, fun n hdst hscalar hregs hvals => ⟨?_, fun l x hone hlive j hj => ?_,
      fun m l hl hother => ?_⟩⟩
    · simpa using (List.mem_filter.1 hx).2
    · rw [Warp.returned, writeLanes, hdst]
      exact foldl_keeps (g := Warp.s) (fun _ _ => writeV_s ..) _ w
    · have hmem : (l, x) ∈ r.vals := (List.mem_filter.1 (hone ▸ List.mem_singleton_self (l, x))).1
      rw [vReg_returned hdst hscalar hregs hvals (hvals _ hmem), if_pos hlive, hone, List.foldl_cons, List.foldl_nil,
        if_pos ⟨Nat.le_add_right .., Nat.add_lt_add_left hj n⟩, Nat.add_sub_cancel_left]
    · rw [vReg_returned hdst hscalar hregs hvals hl]
      split
      next hlive =>
        by_cases hm : n ≤ m ∧ m < n + r.regs
        · have hnone : (r.vals.filter fun e => e.1 = l) = [] :=
            List.filter_eq_nil_iff.2 fun e he => by
              rcases hother with hm' | hm' | hdead | hnone
              · omega
              · omega
              · simp [hlive] at hdead
              · simpa using hnone e he
          rw [hnone, List.foldl_nil]
        · simp only [if_neg hm]
          exact foldl_keeps (g := id) (fun _ _ => rfl) _ _
      next => rfl
  · exact execLoadReturn_poisoned hr hw hpoison hg hfault hkill
  · intro n at_ hin
    obtain ⟨lv, hexec⟩ := execLdk_checked h htbl hctx hin
    have hkept : WarpKept (o.ldkReturned s f) o.i := Opnd.commit_warpKept h.issues
    obtain ⟨w, hgoes, hregs⟩ := hkept.retire (s := s) rfl f.len f.lnd lv
    refine ⟨_, w, hexec, hgoes, hregs, fun b => by rw [State.retire_mem]; rfl, State.retire_wgs .., o.ldkReturn s f,
      State.retire_returns .., rfl, rfl, rfl, rfl, fun l hl j hj => ?_⟩
    obtain ⟨-, hlow, hhigh⟩ := hin l hl
    rw [Opnd.ldkReturn, SMap.get_foldl_put 0 (o.ldkValue s f) [] (.inl hl)]
    exact numByte_ldkValue htbl hj hhigh hlow

end Sys2Proof.Machine

/-! ## An answer that waits for an image (O60)

R298 has an answer to a suspended record of a saved context rewritten in its image, and R364 has a write wait for a pending line. The
model looks for neither before it knows whom the command names: a FAULTANS of a saved context whose image lies on a pending line is not
answered yet, also where it names no held warp, for which the statement promises status 2 at once. The counterexample is a state, not a
run. -/
namespace Sys2Proof.Machine
open Sys2Proof

set_option Elab.async false  -- one theorem at a time: beside the text before it, more at once exhaust the threads

/-- A near-memory atomic of another context in transit to the line at physical address 0. -/
def atomicInTransit : Access :=
  { id := 7, warp := ⟨0, 0⟩, wg := ⟨1, 0, 0⟩, pc := 0, threads := 1, phase := 0, kind := .nma 0, glob := true, size := 4,
    signed := false, dst := none, scalar := false, lanes := [⟨0, 0, 0, 0, 1, 0, ⟨0, 1⟩⟩], ord := 0, scope := 0, hint := 0,
    commit := none, buffered := false, sent := some 3, fenced := [], fencedRel := false }

/-- Context 0, saved to a buffer whose ranges begin at offset 0 of each stack. -/
def savedContext : Context :=
  { num := 0, st := .saved, troot := 0, podSize := 1, slots := [], dbg := false, part := [], nextGrid := 0, hold := none, held := [],
    buf := some ⟨9, List.replicate 8 0⟩, mailbox := [], mailSeq := 0, away := [], awayGrids := [], awayIds := [], kept := [] }

/-- A ready device with no warps, on which the header of the saved context's image lies on the pending line. -/
def imageState : State :=
  { State.reset with
    ready := true
    ports := [⟨true, none, 0⟩, ⟨true, none, 0⟩]
    ctxs := [savedContext]
    pending := [.access atomicInTransit] }

def answerHdr : AdminHdr := ⟨0, 0x77, 0x1000, 0x2000, true⟩

theorem imageState_takes : Cmd imageState answerHdr := by unfold Cmd; decide

theorem imageState_waits : imageState.answerWaits 0 = true := by decide +kernel

/-- Refutes O60: in `imageState` no warp is held, and FAULTANS is not answered with 2 but waits for the image's pending line. -/
theorem not_answersToHeldWarps : ¬ Obligations.answers_to_held_warps := by
  unfold Obligations.answers_to_held_warps
  intro h
  obtain ⟨-, hnone, -⟩ := h imageState answerHdr 0 0 0 0 imageState_takes (by decide) (by decide)
  obtain ⟨-, hanswered⟩ := hnone rfl
  have hanswer := hanswered false
  rw [show exec (.faultans answerHdr 0 0 0 false false 0) imageState = execFaultans answerHdr 0 0 0 false false 0 imageState from rfl,
    execFaultans, imageState_takes.accepts_ready, imageState_waits, Bool.and_self, if_pos rfl] at hanswer
  cases hanswer

end Sys2Proof.Machine

/-! ## A write that ends what a fence waits for (O30, O35)

The statements judge whether an operation of another path meets a lane's bytes once, before the access; the model judges it lane by lane,
as each is performed (R192, R269). A lane that writes to a page of a frozen view with no frame left breaks the view, and its buffer goes
(R485). A fence that waits for a walker to freeze a view of that buffer (R389, R483) has then nothing left to look for and waits no more;
the atomic that it held may be performed from then on, and the next lane meets it. The counterexamples are states, not runs. -/
namespace Sys2Proof.Machine
open Sys2Proof

set_option Elab.async false  -- one theorem at a time: beside the text before it, more at once exhaust the threads

/-! ### The state -/

/-- A frozen view of the page in frame 0, its pool used up. -/
def fullView : View := { comm := 0, source := 0, name := 1, fence := some 3, frozen := true, pool := [], frames := [(0, 0)], pages := [] }

/-- A view of that view, which `freezingFence` is still to freeze. -/
def viewOfFullView : View := { comm := 0, source := 1, name := 2, fence := some 7, frozen := false, pool := [], frames := [], pages := [] }

/-- The buffer that the full view is, of the page at virtual address 65536. -/
def fullViewBuffer : NamedBuffer := ⟨0, ⟨true, 65536, 65536, 1, 0, 0, 0, 0, true, false, false, false, true⟩, false⟩

/-- An atomic on the first word of frame 1 that the fence holds. -/
def atomicBehindFence (kind : AccKind) : Access :=
  { loadBehindFence 0 with kind := kind, lanes := [⟨0, 0, 65536, 0, 1, 0, ⟨0, 0⟩⟩] }

/-- All 16 walkers are busy with other pages than the one that the fence looks for; an atomic is held by the fence. -/
def breakingState (held : AccKind) : State :=
  { State.reset with
    walks := (List.range 16).map fun n => ⟨n, 0, 65536 * (n + 2), none, some (0, 1)⟩
    views := [fullView, viewOfFullView]
    buffers := [fullViewBuffer]
    pending := [.fence freezingFence, .access (atomicBehindFence held)] }

/-- A number that is written is read back, as far as its bytes go. -/
theorem State.readLE_storeG (s : State) (key : KeyNo) (pa v n : Nat) : readLE (s.storeG key pa (toBytes v n)).mem pa n = v % 256 ^ n :=
  readLE_of_toBytes fun _ hi => s.byteAt_storeG_same key (by rwa [length_toBytes])

/-! ### An access of two lanes (O30) -/

/-- A lane that writes to the viewed page. -/
def viewedLane : LaneAcc := ⟨0, 0, 0, 0, 0, 0, ⟨0, 0⟩⟩

/-- A lane that writes d to frame 1. -/
def metLane (d : Fin 2) : LaneAcc := ⟨1, 65536, 65536, 0, BitVec.ofNat 128 d, 0, ⟨0, 0⟩⟩

/-- An exchange of both. -/
def exchange (d : Fin 2) : Access :=
  { id := 1, warp := ⟨0, 1⟩, wg := ⟨0, 0, 0⟩, pc := 0, threads := 3, phase := 0, kind := .atom 8, glob := true, size := 4,
    signed := false, dst := none, scalar := false, lanes := [viewedLane, metLane d],
    ord := 0, scope := 0, hint := 0, commit := none, buffered := false, sent := none, fenced := [], fencedRel := false }

def exchangeState (d : Fin 2) : State :=
  { breakingState (.nma 0) with pending := .access (exchange d) :: (breakingState (.nma 0)).pending }

/-- Its first lane performed. -/
def exchangeBegun (d : Fin 2) : State :=
  (((exchangeState d).settle.withoutAccess 1).performLane (exchange d) viewedLane).1

/-- What the statement asks of the access and of its second lane, which no operation of another path meets before the access; once the
first lane is performed, one meets it. -/
theorem exchange_meets : ∀ d, (exchangeState d).settle.accessById 1 = some (exchange d) ∧
    (exchangeState d).settle.mayPerform (exchange d) = true ∧
    (∀ x ∈ (exchange d).lanes, (exchangeState d).settle.lanePoison (exchange d) x = false) ∧
    Keyed (exchangeState d) (exchange d) ∧ Aligned (exchange d) (metLane d) ∧ NoKeptFrame (exchangeState d) (metLane d).pa ∧
    Unraced (exchangeState d) .lsu (exchange d) (metLane d) ∧
    (exchangeBegun d).raced .lsu 1 none 65536 4 = true ∧ (exchangeBegun d).freeCtr = 0 := by
  unfold Keyed OneKey Aligned NoKeptFrame Unraced
  decide +kernel

theorem metLane_alone (d : Fin 2) : Alone (exchange d) (metLane d) :=
  ⟨[viewedLane], [], rfl, by simp [Apart, exchange, viewedLane, metLane]⟩

/-! ### What an access leaves of memory -/

theorem exec_accessPerformed {s : State} {a : Access} (ha : s.settle.accessById a.id = some a) (hmay : s.settle.mayPerform a = true)
    (hkind : ∀ opc, a.kind ≠ .nma opc) (hbar : ∀ op, a.kind ≠ .bar op) :
    exec (.accessPerformed a.id) s = .next (s.settle.performAccess a).settle := by
  have hplaced : a.placed = true := by
    simp only [State.mayPerform, State.mayReach, Bool.and_eq_true] at hmay
    obtain ⟨⟨⟨⟨⟨⟨⟨hplaced, -⟩, -⟩, -⟩, -⟩, -⟩, -⟩, -⟩ := hmay
    exact hplaced
  have hfor : s.settleFor a.id = s.settle := by simp [State.settleFor, ha, hplaced]
  rw [show exec (.accessPerformed a.id) s = execAccessPerformed a.id s from rfl, execAccessPerformed, hfor]
  simp only [ha, hmay, Bool.not_true, Bool.false_eq_true, if_false]
  split
  next hk => exact absurd hk (hkind _)
  next hk _ => exact absurd hk (hbar _)
  · rfl

/-- Where no lane reads poison, an access leaves the memory that its lanes do. -/
theorem State.performAccess_mem {s : State} {a : Access} (hclean : ∀ x ∈ a.lanes, s.lanePoison a x = false) :
    (s.performAccess a).mem = ((s.withoutAccess a.id).performLanes a a.lanes).1.mem := by
  have hbad : (a.lanes.filterMap fun x => if s.lanePoison a x then some (x.lane, x.va) else none) = [] :=
    List.filterMap_eq_nil_iff.2 fun x hx => by simp [hclean x hx]
  unfold State.performAccess
  simp only [hbad, List.isEmpty_nil, Bool.not_true, Bool.false_and, Bool.false_eq_true, if_false, State.released_mem, State.unspoil_mem,
    State.committed_mem]
  split
  · rfl
  · rfl

theorem State.performLanes_two (s : State) (a : Access) (x y : LaneAcc) :
    (s.performLanes a [x, y]).1 = ((s.performLane a x).1.performLane a y).1 := rfl

/-- An atomic lane that an operation of another path meets leaves a free value. -/
theorem State.performLane_raced {s : State} {a : Access} {x : LaneAcc} {opc : Nat} (hglob : a.glob = true) (hkind : a.kind = .atom opc)
    (hraced : s.raced .lsu a.id none x.pa a.size = true) :
    readLE (s.performLane a x).1.mem x.pa a.size = (s.freeVal 0).toNat % 256 ^ a.size := by
  simp only [State.performLane, hglob, hkind, hraced, if_true, State.dropL1Line_mem, State.readLE_storeG]

/-- Whatever it was to write, the second lane leaves the free value. -/
theorem exchange_leaves_free (d : Fin 2) {t : State} (ht : exec (.accessPerformed 1) (exchangeState d) = .next t) :
    readLE t.mem 65536 4 = (Config.free 0).toNat % 256 ^ 4 := by
  obtain ⟨hout, hmay, hclean, -, -, -, -, hraced, hctr⟩ := exchange_meets d
  have hexec := exec_accessPerformed (a := exchange d) hout hmay (by simp [exchange]) (by simp [exchange])
  have hlane := State.performLane_raced (s := exchangeBegun d) (a := exchange d) (x := metLane d) rfl rfl hraced
  rw [State.freeVal, hctr] at hlane
  rw [← Host.Outcome.next.inj (hexec.symm.trans ht), State.settle_mem, State.performAccess_mem hclean,
    show (exchange d).lanes = [viewedLane, metLane d] from rfl, State.performLanes_two]
  exact hlane

/-- Refutes O30: in `exchangeState` the second lane of an exchange meets no operation of another path as the access reaches its ordering
point, for which the statement promises its data at its address. The first lane's write ends the fence, and a free value is left,
which cannot be both of two data. -/
theorem not_aPerformedAccessLeaves : ¬ Obligations.a_performed_access_leaves := by
  unfold Obligations.a_performed_access_leaves
  intro h
  have hleft (d : Fin 2) : (Config.free 0).toNat % 256 ^ 4 = (d : Nat) := by
    obtain ⟨hout, hmay, hclean, hkeyed, haligned, hunkept, hunraced, -⟩ := exchange_meets d
    obtain ⟨t, ht, -, -, hvalue, -⟩ := h (exchangeState d) (exchange d) hout (by simp [exchange]) (by simp [exchange])
      (by simp [exchange]) (by simp [exchange]) hmay hclean
    have hpromised := hvalue rfl hkeyed (metLane d) (metLane_alone d) haligned hunkept fun _ => hunraced
    rw [← exchange_leaves_free d ht]
    refine hpromised.trans ?_
    fin_cases d <;> rfl
  exact absurd ((hleft 0).symm.trans (hleft 1)) (by decide)

/-! ### A store group of two elements (O35) -/

/-- A pushed group whose first element is written to the viewed page, and whose second is d at frame 1. -/
def metGroup (d : Fin 2) : StoreGroup :=
  { id := 1, queue := some 0, warp := ⟨0, 1⟩, wg := ⟨0, 0, 0⟩, wide := false,
    elems := [(0, 0, 0, ⟨0, 0⟩), (1, 65536, BitVec.ofNat 64 d, ⟨0, 0⟩)], vas := [], poison := 0, fences := [] }

def groupState (d : Fin 2) : State := { breakingState (.atom 0) with storeGroups := [metGroup d] }

/-- Its first element written. -/
def groupBegun (d : Fin 2) : State := (groupState d).storeElem (metGroup d) (0, 0, 0, ⟨0, 0⟩)

/-- What the statement asks of the group and of its second element, which no LSU atomic meets before the group is written; once the
first element is written, one meets it. -/
theorem metGroup_meets : ∀ d, (groupState d).groupMayWrite (metGroup d) = true ∧
    (∀ x ∈ (groupState d).storeGroups.takeWhile fun x => x.id ≠ (metGroup d).id,
      ¬ (x.warp = (metGroup d).warp ∧ x.queue = (metGroup d).queue)) ∧
    (groupState d).isSaved (metGroup d).wg = false ∧ ((metGroup d).elems.any fun e => (groupState d).paPending e.2.1 8) = false ∧
    OneKey (groupState d) 4 ((metGroup d).elems.map fun e => (e.2.1, e.2.2.2)) ∧
    (∀ e ∈ (metGroup d).elems, (groupState d).raced .plain 1 none e.2.1 4 = false) ∧
    65536 % (if (metGroup d).wide = true then 8 else 4) = 0 ∧ NoKeptFrame (groupState d) 65536 ∧
    (groupBegun d).raced .plain 1 none 65536 4 = true ∧ (groupBegun d).pending.isEmpty = false ∧ (groupBegun d).freeCtr = 4 := by
  unfold OneKey NoKeptFrame
  decide +kernel

/-- The first byte of a write that an operation of another path meets in its first word is a free value. -/
theorem State.mixed_raced {s : State} {k : Rival} {id : Nat} {sp : Space} {pa : Nat} (base : Nat) {bs : List Byte} (hp : s.pending.isEmpty = false)
    (hraced : s.raced k id sp pa 4 = true) (hbs : bs ≠ []) :
    (s.mixed k id sp pa base bs).length = bs.length ∧ (s.mixed k id sp pa base bs).getD 0 0 = (s.freeVal base).setWidth 8 := by
  obtain ⟨b, bs, rfl⟩ := List.exists_cons_of_ne_nil hbs
  simp [State.mixed, hp, List.zipIdx_cons, hraced]

theorem State.storeElem_mem (s : State) (g : StoreGroup) (l pa : Nat) (v : DWord) (key : KeyNo) : (s.storeElem g (l, pa, v, key)).mem =
    ((((s.spoil .plain none pa (if g.wide then 8 else 4)).useFree (if g.wide then 8 else 4)).spend
      ⟨.plain, g.warp, g.wg, BitVec.allOnes 64, g.id, none, pa, if g.wide then 8 else 4⟩).storeG key pa
        (s.mixed .plain g.id none pa 0 (toBytes v.toNat (if g.wide then 8 else 4)))).mem := by
  rw [State.storeElem]
  dsimp only
  split
  · rw [State.poisonMem_mem]
  · rfl

theorem exec_storeGroupWritten {s : State} {g : StoreGroup} (hg : (s.storeGroups.find? fun x => x.id = g.id) = some g)
    (hmay : s.groupMayWrite g = true) : ∃ t, exec (.storeGroupWritten g.id) s = .next t ∧
      t.mem = (g.elems.foldl (fun t e => t.storeElem g e) s).mem := by
  rw [show exec (.storeGroupWritten g.id) s = execStoreGroupWritten g.id s from rfl, execStoreGroupWritten, hg]
  simp only [hmay, Bool.not_true, Bool.false_eq_true, if_false]
  exact ⟨_, rfl, by rw [State.settle_mem, State.unspoil_mem]⟩

/-- Whatever the second element was to write, its first byte is the free value. -/
theorem group_leaves_free (d : Fin 2) {t : State} (ht : exec (.storeGroupWritten 1) (groupState d) = .next t) :
    byteAt t.mem 65536 = (Config.free 4).setWidth 8 := by
  obtain ⟨hmay, -, -, -, -, -, -, -, hraced, hpending, hctr⟩ := metGroup_meets d
  obtain ⟨u, hu, hmem⟩ := exec_storeGroupWritten (s := groupState d) (g := metGroup d) rfl hmay
  obtain ⟨hlen, hbyte⟩ := State.mixed_raced 0 (bs := toBytes (BitVec.ofNat 64 d).toNat 4) hpending hraced (by simp [toBytes])
  rw [State.freeVal, hctr] at hbyte
  rw [← Host.Outcome.next.inj (hu.symm.trans ht), hmem, ← hbyte,
    show (metGroup d).elems.foldl (fun t e => t.storeElem (metGroup d) e) (groupState d) =
      (groupBegun d).storeElem (metGroup d) (1, 65536, BitVec.ofNat 64 d, ⟨0, 0⟩) from rfl, State.storeElem_mem]
  exact State.byteAt_storeG_same _ _ (i := 0) (Nat.lt_of_lt_of_eq (Nat.succ_pos 3) (hlen.trans (length_toBytes ..)).symm)

/-- Refutes O35: in `groupState` no LSU atomic meets an element of the group as it is written, for which the statement promises each
element at its address. Writing the first ends the fence, and a free value is left of the second, which cannot be both of two. -/
theorem not_queueStreams : ¬ Obligations.queue_streams := by
  unfold Obligations.queue_streams
  rintro ⟨-, -, -, -, h⟩
  have hleft (d : Fin 2) : ((Config.free 4).setWidth 8 : Byte).toNat = (d : Nat) := by
    obtain ⟨-, hfirst, hunsaved, hfree, hkeyed, hcalm, haligned, hunkept, -⟩ := metGroup_meets d
    obtain ⟨t, ht, -, -, hvalue⟩ := h (groupState d) (metGroup d) rfl hfirst hunsaved rfl hfree
    have hpromised : readLE t.mem 65536 4 = (BitVec.ofNat 64 d).toNat % 256 ^ 4 :=
      hvalue hkeyed hcalm [(0, 0, 0, ⟨0, 0⟩)] (1, 65536, BitVec.ofNat 64 d, ⟨0, 0⟩) [] rfl (by simp) haligned hunkept
    rw [readLE, group_leaves_free d ht] at hpromised
    have hbyte := ((Config.free 4).setWidth 8 : Byte).isLt
    have hd : (BitVec.ofNat 64 d).toNat = d := by fin_cases d <;> rfl
    omega
  exact absurd ((hleft 0).symm.trans (hleft 1)) (by decide)

end Sys2Proof.Machine

/-! ## Checks of addresses (O29)

Both lists of checks search the lanes' addresses in ascending order for the first that fails, so each search finds the address of the
lowest failing lane. -/
namespace Sys2Proof.Machine
open Sys2Proof

set_option Elab.async false  -- one theorem at a time: beside the text before it, more at once exhaust the threads

/-! ### The lowest failing lane (R181) -/

/-- A search through what lanes ask for finds that of the lowest failing lane. -/
theorem find?_map_lowestFailing {α : Type} (e : Nat → α) {q : α → Bool} {bad : Nat → Bool} (h : ∀ l, q (e l) = bad l) (ls : List Nat) :
    (ls.map e).find? q = (lowestFailing ls bad).map e := by
  rw [List.find?_map, lowestFailing, List.head?_filter, show q ∘ e = bad from funext h]

theorem addrOf_eq (a : Int) : addrOf a = (a % 2 ^ 64).toNat := BitVec.toNat_ofInt ..

theorem bne_eq_decide_ne (a b : Int) : (a != b) = decide (a ≠ b) := by
  rw [Bool.eq_iff_iff, bne_iff_ne, decide_eq_true_iff]

theorem or_lt_eq_decide (a b c d : Int) : (decide (a < b) || decide (c < d)) = decide (a < b ∨ c < d) := (Bool.decide_or ..).symm

/-! ### Global addresses (R179, R180, R391) -/

/-- A lane's address is not a multiple of the access size (R180). -/
def MemAsk.misaligned (x : MemAsk) (o : Opnd) (l : Nat) : Bool := decide (x.ea o l % x.size ≠ 0)

/-- A lane's bytes leave the address space (R179). -/
def MemAsk.beyond (x : MemAsk) (o : Opnd) (l : Nat) : Bool := decide (x.ea o l < 0 ∨ 2 ^ 57 < x.ea o l + x.size)

/-- The lanes' addresses, of which the checks look for the first that fails. -/
def MemAsk.globals (x : MemAsk) (o : Opnd) : List (Nat × Int) := o.lanes.map fun l => (l, x.ea o l)

section
variable {x : MemAsk} {s : State} {o : Opnd} {perm : Perm} {acc : Acc} {k : State → List GLane → Out}

theorem MemAsk.find?_misaligned : (x.globals o).find? (fun e => e.2 % (x.size : Int) != 0) =
    (lowestFailing o.lanes (x.misaligned o)).map fun l => (l, x.ea o l) :=
  find?_map_lowestFailing (fun l => (l, x.ea o l)) (fun _ => bne_eq_decide_ne ..) _

theorem MemAsk.find?_beyond : (x.globals o).find? (fun e => e.2 < 0 || (2 ^ 57 : Int) < e.2 + x.size) =
    (lowestFailing o.lanes (x.beyond o)).map fun l => (l, x.ea o l) :=
  find?_map_lowestFailing (fun l => (l, x.ea o l)) (fun _ => or_lt_eq_decide ..) _

/-- What is done with addresses that pass both checks: they are translated (R181). -/
def translateLanes (s : State) (o : Opnd) (es : List (Nat × Int)) (perm : Perm) (acc : Acc) (k : State → List GLane → Out) : Out :=
  let vas := es.map fun e => e.2.toNat
  if vas.any fun va => s.walkersBusy o.i.w.core o.i.w.wg.ctx va then .next s
  else match s.translateAll o.i.w.core o.i.w.wg.ctx perm vas with
  | .noMem pa => .fault (.noSuchMemory pa)
  | .fail c va => holdFault (s.fillAll o.i.w.core o.i.w.wg.ctx vas) o.i c va acc
  | .ok ts => k (s.fillAll o.i.w.core o.i.w.wg.ctx vas) (glanes es ts)

/-- The checks of global addresses, by the lowest lane that fails each. -/
theorem MemAsk.globalLanes_eq : globalLanes s o x.f.a x.ofs x.size perm acc k =
    match lowestFailing o.lanes (x.misaligned o) with
    | some l => raiseAt s o.i 0x090 (x.ea o l % 2 ^ 64).toNat
    | none => match lowestFailing o.lanes (x.beyond o) with
      | some l => raiseAt s o.i 0x095 (x.ea o l % 2 ^ 64).toNat
      | none => translateLanes s o (x.globals o) perm acc k := by
  unfold globalLanes
  dsimp only
  rw [show (o.lanes.map fun l => (l, o.ea x.f.a x.ofs x.size l)) = x.globals o from rfl, x.find?_misaligned, x.find?_beyond]
  cases lowestFailing o.lanes (x.misaligned o) with
  | some l => exact congrArg (raiseAt s o.i _) (addrOf_eq _)
  | none => cases lowestFailing o.lanes (x.beyond o) with
    | some l => exact congrArg (raiseAt s o.i _) (addrOf_eq _)
    | none => rfl

theorem MemAsk.globals_vas : (x.globals o).map (fun e => e.2.toNat) = o.lanes.map fun l => (x.ea o l).toNat := by
  rw [globals, List.map_map]
  rfl

theorem any_walkersBusy_eq_false {core ctx : Nat} {vas : List Nat} (h : ∀ va ∈ vas, s.walkersBusy core ctx va = false) :
    (vas.any fun va => s.walkersBusy core ctx va) = false := by
  simpa using h

/-- A translation that fails holds the warp (R391). -/
theorem MemAsk.translateLanes_fails {c : Cause} {va : Nat}
    (hwalk : ∀ va ∈ o.lanes.map fun l => (x.ea o l).toNat, s.walkersBusy o.i.w.core o.i.w.wg.ctx va = false)
    (hfail : s.translateAll o.i.w.core o.i.w.wg.ctx perm (o.lanes.map fun l => (x.ea o l).toNat) = .fail c va) :
    translateLanes s o (x.globals o) perm acc k =
      .next ((s.fillAll o.i.w.core o.i.w.wg.ctx (o.lanes.map fun l => (x.ea o l).toNat)).hold o.i 1 ⟨.fault, c, va, acc.code, 0, o.i.pc⟩) := by
  unfold translateLanes
  dsimp only
  rw [x.globals_vas, any_walkersBusy_eq_false hwalk, if_neg Bool.false_ne_true, hfail]
  rfl

end

section
variable {s : State} {o : Opnd} {sh : Shape} {f : XForm}

theorem loadGlobal_ready (h : Ready s sh f noExtra o) (len n hint : Nat) (signed : Bool) :
    ∃ k, loadGlobal s sh len f n hint signed = globalLanes s o f.a (modOfs f) n .read .load k :=
  ⟨_, operate_ready h⟩

theorem storeGlobal_ready (h : Ready s sh f noExtra o) (len : Nat) (data : BitVec 8) (w n hint : Nat) :
    ∃ k, storeGlobal s sh len f data w n hint = globalLanes s o f.a (modOfs f) n .write .store k :=
  ⟨_, operate_ready h⟩

theorem atomGlobal_ready {xop : Nat} (h : Ready s (shapeMem xop f) f noExtra o) (kind : AccKind) :
    ∃ k, atomGlobal s xop f kind = globalLanes s o f.a 0 (typeBytes f.ty) .both .atomic k :=
  memBytes_toNat f.ty ▸ ⟨_, operate_ready h⟩

theorem execNma_ready (h : Ready s (shapeMem 0x0C f) f noExtra o) :
    ∃ k, execNma f s = globalLanes s o f.a (modOfs f) (typeBytes f.ty) .both .nma k :=
  memBytes_toNat f.ty ▸ ⟨_, operate_ready h⟩

end

/-- Every global memory instruction that is ready checks its lanes' addresses. -/
theorem exec_globalAsk {f : XForm} {g : IForm} {x : MemAsk × Perm × Acc} (hx : x ∈ globalAsks f g) {s : State} {o : Opnd}
    (h : Ready s x.1.sh x.1.f noExtra o) :
    ∃ k, exec x.1.ins s = globalLanes s o x.1.f.a x.1.ofs x.1.size x.2.1 x.2.2 k := by
  simp only [globalAsks, List.mem_cons, List.not_mem_nil, or_false] at hx
  rcases hx with rfl | rfl | rfl | rfl | rfl | rfl | rfl | rfl
  · exact loadGlobal_ready h _ 4 0 false
  · exact storeGlobal_ready h _ g.toX.d 32 4 0
  · exact memBytes_toNat f.ty ▸ loadGlobal_ready h f.len (memBytes f.ty.toNat) (f.fld 9 8) (typeSigned f.ty)
  · exact memBytes_toNat f.ty ▸ storeGlobal_ready h f.len f.b (memW f.ty.toNat) (memBytes f.ty.toNat) (f.fld 9 8)
  · exact atomGlobal_ready h _
  · exact atomGlobal_ready h _
  · exact atomGlobal_ready h _
  · exact execNma_ready h

/-! ### Scratchpad offsets (R176, R177, R180) -/

/-- A lane names a member beyond the gang (R177). -/
def Opnd.noMember (o : Opnd) (field : Option (BitVec 8)) (l : Nat) : Bool := decide (o.i.gr.rec_.gang ≤ memberOf field o l)

/-- A lane names a member that has retired (R177). -/
def Opnd.memberGone (o : Opnd) (field : Option (BitVec 8)) (l : Nat) : Bool :=
  o.i.gr.retired.any fun r => r.1 == o.i.memberId (memberOf field o l)

/-- A lane's offset is not a multiple of the access size (R180). -/
def MemAsk.offMisaligned (x : MemAsk) (o : Opnd) (l : Nat) : Bool := decide (x.eo o l % x.size ≠ 0)

/-- A lane's bytes leave the scratchpad (R176). -/
def MemAsk.offBeyond (x : MemAsk) (o : Opnd) (l : Nat) : Bool := decide (x.eo o l < 0 ∨ (o.i.gr.rec_.scratch : Int) < x.eo o l + x.size)

/-- What a lane of a scratchpad access asks for: its member and its offset. -/
def MemAsk.scratchAt (x : MemAsk) (o : Opnd) (field : Option (BitVec 8)) (l : Nat) : Nat × Nat × Int := (l, memberOf field o l, x.eo o l)

/-- The checks of scratchpad offsets, by the lowest lane that fails each. -/
theorem MemAsk.scratchLanes_eq {x : MemAsk} {s : State} {o : Opnd} {field : Option (BitVec 8)} {k : List SLane → Out} :
    scratchLanes s o x.f.a x.ofs x.size (memberRead field o) k =
      match lowestFailing o.lanes (o.noMember field) with
      | some l => raiseAt s o.i 0x092 (x.eo o l % 2 ^ 64).toNat
      | none => match lowestFailing o.lanes (o.memberGone field) with
        | some l => raiseAt s o.i 0x093 (x.eo o l % 2 ^ 64).toNat
        | none => match lowestFailing o.lanes (x.offMisaligned o) with
          | some l => raiseAt s o.i 0x090 (x.eo o l % 2 ^ 64).toNat
          | none => match lowestFailing o.lanes (x.offBeyond o) with
            | some l => raiseAt s o.i 0x091 (x.eo o l % 2 ^ 64).toNat
            | none => k ((o.lanes.map (x.scratchAt o field)).map fun e => ⟨e.1, e.2.1, e.2.2.toNat⟩) := by
  have hes : (o.lanes.map fun l => (l, memberRead field o l, o.eo x.f.a x.ofs x.size l)) = o.lanes.map (x.scratchAt o field) :=
    List.map_congr_left fun l hl => by rw [memberRead_eq hl]; rfl
  unfold scratchLanes
  dsimp only
  rw [hes, find?_map_lowestFailing (x.scratchAt o field) (bad := o.noMember field) (fun _ => rfl),
    find?_map_lowestFailing (x.scratchAt o field) (bad := o.memberGone field) (fun _ => rfl),
    find?_map_lowestFailing (x.scratchAt o field) (bad := x.offMisaligned o) (fun _ => bne_eq_decide_ne ..),
    find?_map_lowestFailing (x.scratchAt o field) (bad := x.offBeyond o) (fun _ => or_lt_eq_decide ..)]
  cases lowestFailing o.lanes (o.noMember field) with
  | some l => exact congrArg (raiseAt s o.i _) (addrOf_eq _)
  | none => cases lowestFailing o.lanes (o.memberGone field) with
    | some l => exact congrArg (raiseAt s o.i _) (addrOf_eq _)
    | none => cases lowestFailing o.lanes (x.offMisaligned o) with
      | some l => exact congrArg (raiseAt s o.i _) (addrOf_eq _)
      | none => cases lowestFailing o.lanes (x.offBeyond o) with
        | some l => exact congrArg (raiseAt s o.i _) (addrOf_eq _)
        | none => rfl

/-! ### The obligation -/

/-- Settles O29: each check takes the lowest lane that fails it, in the order of R181. -/
theorem accessesAreCheckedInOrder : Obligations.accesses_are_checked_in_order := by
  unfold Obligations.accesses_are_checked_in_order
  constructor
  · intro f g x hx s o h
    obtain ⟨k, hexec⟩ := exec_globalAsk hx h
    rw [hexec, x.1.globalLanes_eq]
    refine ⟨fun l halign => ?_, fun l halign hrange => ?_, fun halign hrange c va hwalk hfail => ?_⟩
    · rw [show lowestFailing o.lanes (x.1.misaligned o) = some l from halign]
    · rw [show lowestFailing o.lanes (x.1.misaligned o) = none from halign,
        show lowestFailing o.lanes (x.1.beyond o) = some l from hrange]
    · rw [show lowestFailing o.lanes (x.1.misaligned o) = none from halign,
        show lowestFailing o.lanes (x.1.beyond o) = none from hrange]
      exact x.1.translateLanes_fails hwalk hfail
  · intro f g x hx s o h
    rw [exec_scratchAsk hx h, x.1.scratchLanes_eq]
    refine ⟨fun l hmember => ?_, fun l hmember hgone => ?_, fun l hmember hgone halign => ?_, fun l hmember hgone halign hrange => ?_⟩
    · rw [show lowestFailing o.lanes (o.noMember x.2) = some l from hmember]
    · rw [show lowestFailing o.lanes (o.noMember x.2) = none from hmember,
        show lowestFailing o.lanes (o.memberGone x.2) = some l from hgone]
    · rw [show lowestFailing o.lanes (o.noMember x.2) = none from hmember,
        show lowestFailing o.lanes (o.memberGone x.2) = none from hgone,
        show lowestFailing o.lanes (x.1.offMisaligned o) = some l from halign]
    · rw [show lowestFailing o.lanes (o.noMember x.2) = none from hmember,
        show lowestFailing o.lanes (o.memberGone x.2) = none from hgone,
        show lowestFailing o.lanes (x.1.offMisaligned o) = none from halign,
        show lowestFailing o.lanes (x.1.offBeyond o) = some l from hrange]

end Sys2Proof.Machine

/-! ## Line operations (O33)

A line that LOCKL refuses stays refused: its operations only ever add pins. So the status of each lane can be read off the pins that are
left in the end, though it is given as the lane's turn comes. -/
namespace Sys2Proof.Machine
open Sys2Proof

set_option Elab.async false  -- one theorem at a time: beside the text before it, more at once exhaust the threads

/-! ### What prefetches, pins and flushes leave alone (R202, R375, R378) -/

/-- A state without what the caches hold, what is asked of them and its count of numbers. -/
def State.sansLines (s : State) : State := { s.sansCaches with cores := [], walks := [], nextId := 0 }

/-- A state without its pins either. -/
def State.sansPins (s : State) : State := { s.sansLines with wgs := [] }

theorem State.sansLines_of_sansCaches {s t : State} (h : s.sansCaches = t.sansCaches) : s.sansLines = t.sansLines :=
  congrArg (fun u : State => { u with cores := [], walks := [], nextId := 0 }) h

theorem State.sansPins_of_sansLines {s t : State} (h : s.sansLines = t.sansLines) : s.sansPins = t.sansPins :=
  congrArg (fun u : State => { u with wgs := [] }) h

theorem State.fillAll_sansCaches (s : State) (site ctx : Nat) (vas : List Nat) : (s.fillAll site ctx vas).sansCaches = s.sansCaches := by
  induction vas generalizing s with
  | nil => rfl
  | cons va vas ih => rw [State.fillAll, ih, State.fill_sansCaches]

theorem State.bringLine_sansLines_eq (s : State) (core : Nat) (key : KeyNo) (lvl line : Nat) :
    (s.bringLine core key lvl line).sansLines = s.sansLines := by
  have htouch := State.sansLines_of_sansCaches (State.touchL2_sansCaches s line false false)
  unfold State.bringLine State.fillL1
  dsimp only
  split
  · split
    · exact htouch
    · exact htouch
  · exact htouch

theorem State.prefetch_sansLines (s : State) (core ctx lvl : Nat) (ea : Int) : (s.prefetch core ctx lvl ea).sansLines = s.sansLines := by
  unfold State.prefetch
  split
  · rfl
  split
  · rfl
  split
  · split
    · rfl
    · exact State.bringLine_sansLines_eq ..
  · rfl

theorem State.flushLine_sansLines (s : State) (core kind line : Nat) : (s.flushLine core kind line).sansLines = s.sansLines := by
  unfold State.flushLine
  dsimp only
  split
  · rfl
  · rfl
  · split
    · rfl
    · rfl

/-! ### Completions after them -/

/-- What an instruction that completes without a result leaves, where only caches and what is asked of them have changed. -/
theorem Opnd.onlyGoes_of_sansLines {o : Opnd} {s u : State} (hi : s.issuing = some o.i) (hu : u.sansLines = s.sansLines) (len : Nat) :
    ∃ t w, o.complete u len none id = .next t ∧ Goes s t o.i len o.f.lnd w ∧ RegsKept o.i w ∧ SameMemory s t ∧ t.wgs = s.wgs ∧
      t.cores = u.cores ∧ t.l2 = u.l2 := by
  have hwarp : u.warpAt o.i.w.key = some o.i.w :=
    (State.warpAt_congr (of_erased State.sansLines State.warps (fun _ => rfl) hu) _).trans (State.issuing_warpAt hi)
  obtain ⟨t, w, ht, hgoes, hregs, -, hmem, hwgs, hcores⟩ :=
    o.goes_complete hwarp rfl (RegsKept.refl _) (of_erased State.sansLines State.flights (fun _ => rfl) hu) len
  have hl2 : t.l2 = u.l2 := by
    rw [← Host.Outcome.next.inj ht, State.retire_l2]
    rfl
  refine ⟨t, w, ht, hgoes, hregs, fun a => ?_, hwgs.trans (of_erased State.sansLines State.wgs (fun _ => rfl) hu), hcores, hl2⟩
  rw [hmem, of_erased State.sansLines State.mem (fun _ => rfl) hu]

/-- What an instruction that completes with the results vs leaves, where besides pins have changed. -/
theorem Opnd.lands_of_sansPins {o : Opnd} {s u : State} (hi : s.issuing = some o.i) (hu : u.sansPins = s.sansPins)
    (hw : o.sh.d.width = 32 ∨ o.sh.d.width = 64) (len : Nat) (vs : List (Nat × DWord)) :
    ∃ t w, o.complete u len (some vs) id = .next t ∧ Goes s t o.i len o.f.lnd w ∧ SameMemory s t ∧ t.wgs = u.wgs ∧
      ∀ v : Nat → DWord, (vs = o.lanes.map fun l => (l, v l)) → o.Landed v w := by
  have hwarp : u.warpAt o.i.w.key = some o.i.w :=
    (State.warpAt_congr (of_erased State.sansPins State.warps (fun _ => rfl) hu) _).trans (State.issuing_warpAt hi)
  have hfl : u.flights = s.flights := of_erased State.sansPins State.flights (fun _ => rfl) hu
  have hat : (o.commit u (some vs) id).1.warpAt o.i.w.key = some (o.warpAfter u.nextId (some vs) id o.i.w) := by
    rw [State.warpAt_congr (o.commit_warps u (some vs) id)]
    exact State.warpAt_updWarp_same (o.warpAfter_key _ _ fun _ => rfl) hwarp
  have hland (v : Nat → DWord) (hvs : vs = o.lanes.map fun l => (l, v l)) : o.Landed v (o.warpAfter u.nextId (some vs) id o.i.w) := by
    rw [hvs]
    exact Opnd.warpAfter_landed hw fun _ => rfl
  have hpcs := of_bare Warp.pcs (fun _ => rfl) (o.warpAfter_id_bare u.nextId (some vs) o.i.w)
  generalize o.warpAfter u.nextId (some vs) id o.i.w = w at hat hland hpcs
  refine ⟨_, _, rfl, ⟨State.warpAt_retire len o.f.lnd _ hat, threadsGo_moveLanes ?_, flightGoesOn_retire hfl⟩, fun a => ?_, ?_, hland⟩
  · rw [← hpcs]
  · rw [State.retire_mem, o.commit_mem, of_erased State.sansPins State.mem (fun _ => rfl) hu]
  · rw [State.retire_wgs, o.commit_wgs]

/-! ### The lanes' lines -/

/-- What the checks give for a lane of a line operation. -/
def Opnd.lineLane (o : Opnd) (c : BitVec 8) (pa : Nat → Nat) (leaf : Nat → BitVec 64) (l : Nat) : GLane :=
  ⟨l, (o.rd64 c l).toNat, pa l, leaf l⟩

/-- A lane's address is inside the address space and translated. -/
def Opnd.LineAt (o : Opnd) (s : State) (c : BitVec 8) (pa : Nat → Nat) (leaf : Nat → BitVec 64) (l : Nat) : Prop :=
  (o.rd64 c l).toNat + 1 ≤ 2 ^ 57 ∧ s.walkersBusy o.i.w.core o.i.w.wg.ctx (o.rd64 c l).toNat = false ∧
    s.translate o.i.w.core o.i.w.wg.ctx (o.rd64 c l).toNat .either = .ok (pa l) (leaf l)

section
variable {s : State} {o : Opnd} {c : BitVec 8} {pa : Nat → Nat} {leaf : Nat → BitVec 64}

theorem Opnd.ea_zero (o : Opnd) (c : BitVec 8) (l : Nat) : o.ea c 0 1 l = (o.rd64 c l).toNat := by
  rw [Opnd.ea, Int.zero_mul, Int.add_zero]

theorem State.translateAll_ok {site ctx : Nat} {p : Perm} {va : Nat → Nat} {ls : List Nat}
    (h : ∀ l ∈ ls, s.translate site ctx (va l) p = .ok (pa l) (leaf l)) :
    s.translateAll site ctx p (ls.map va) = .ok (ls.map fun l => (pa l, leaf l)) := by
  induction ls with
  | nil => rfl
  | cons l ls ih =>
    obtain ⟨hl, hls⟩ := List.forall_mem_cons.1 h
    rw [List.map_cons, State.translateAll, hl, ih hls]
    rfl

theorem glanes_map (e : Nat → Int) (pa : Nat → Nat) (leaf : Nat → BitVec 64) (ls : List Nat) :
    glanes (ls.map fun l => (l, e l)) (ls.map fun l => (pa l, leaf l)) = ls.map fun l => ⟨l, (e l).toNat, pa l, leaf l⟩ := by
  induction ls with
  | nil => rfl
  | cons l ls ih => rw [List.map_cons, List.map_cons, glanes, ih, List.map_cons]

/-- Where every lane's address is good, a line operation goes on with the lanes' lines. -/
theorem globalLanes_lines (h : ∀ l ∈ o.lanes, o.LineAt s c pa leaf l) (acc : Acc) (k : State → List GLane → Out) :
    globalLanes s o c 0 1 .either acc k =
      k (s.fillAll o.i.w.core o.i.w.wg.ctx (o.lanes.map fun l => (o.rd64 c l).toNat)) (o.lanes.map (o.lineLane c pa leaf)) := by
  have hes : (o.lanes.map fun l => (l, o.ea c 0 1 l)) = o.lanes.map fun l => (l, ((o.rd64 c l).toNat : Int)) :=
    List.map_congr_left fun l _ => by rw [o.ea_zero]
  have hnone (p : Nat × Int → Bool) (hp : ∀ l ∈ o.lanes, p (l, ((o.rd64 c l).toNat : Int)) = false) :
      (o.lanes.map fun l => (l, ((o.rd64 c l).toNat : Int))).find? p = none := by
    rw [List.find?_eq_none]
    rintro e he
    obtain ⟨l, hl, rfl⟩ := List.mem_map.1 he
    simp [hp l hl]
  have hbusy : ((o.lanes.map fun l => (o.rd64 c l).toNat).any fun va => s.walkersBusy o.i.w.core o.i.w.wg.ctx va) = false := by
    rw [List.any_map, List.any_eq_false]
    intro l hl
    obtain ⟨-, hwalk, -⟩ := h l hl
    simp [hwalk]
  have hall := State.translateAll_ok (s := s) (p := .either) (va := fun l => (o.rd64 c l).toNat) fun l hl => by
    obtain ⟨-, -, htrans⟩ := h l hl
    exact htrans
  have hvas : (o.lanes.map fun l => (l, ((o.rd64 c l).toNat : Int))).map (fun e => e.2.toNat) = o.lanes.map fun l => (o.rd64 c l).toNat := by
    rw [List.map_map]
    rfl
  unfold globalLanes
  dsimp only
  rw [hes, hnone, hnone, hvas, hbusy, if_neg Bool.false_ne_true, hall]
  · exact congrArg (k _) (glanes_map ..)
  · intro l hl
    obtain ⟨hin, -⟩ := h l hl
    have hin : ((o.rd64 c l).toNat : Int) + 1 ≤ 2 ^ 57 := by exact_mod_cast hin
    simpa using hin
  · intro l _
    simp

end

/-! ### Pins (R375) -/

theorem nodup_eraseDups : (l : List Nat) → l.eraseDups.Nodup
  | [] => List.nodup_nil
  | a :: l => by
    rw [List.eraseDups_cons]
    refine List.nodup_cons.2 ⟨fun h => ?_, nodup_eraseDups _⟩
    simpa using List.of_mem_filter (List.mem_eraseDups.1 h)
termination_by l => l.length
decreasing_by exact Nat.lt_succ_of_le (List.length_filter_le ..)

theorem length_filter_eraseDups_le {A B : List Nat} (h : ∀ x ∈ A, x ∈ B) (p : Nat → Bool) :
    (A.eraseDups.filter p).length ≤ (B.eraseDups.filter p).length := by
  refine (List.subperm_of_subset (List.Nodup.filter _ (nodup_eraseDups A)) fun x hx => ?_).length_le
  obtain ⟨hx, hp⟩ := List.mem_filter.1 hx
  exact List.mem_filter.2 ⟨List.mem_eraseDups.2 (h x (List.mem_eraseDups.1 hx)), hp⟩

/-- A workgroup has pinned a line. -/
def Workgroup.pins (g : Workgroup) (line : Nat) : Prop := ∃ x ∈ g.locks, x.1 = line

/-- A workgroup may pin no further line of a line's set: it has pinned 64, or 12 ways of the set are pinned. -/
def State.pinsFull (s : State) (g : Workgroup) (line : Nat) : Prop := 64 ≤ g.locks.length ∨ 12 ≤ s.pinnedWays line

theorem State.pinsFull_congr {s t : State} (h : t.wgs = s.wgs) (g : Workgroup) (line : Nat) : t.pinsFull g line ↔ s.pinsFull g line := by
  rw [State.pinsFull, State.pinsFull, State.pinnedWays, State.pinnedWays, h]

/-- A state in which a workgroup has pinned one more line. -/
def State.withPin (s : State) (k : WgKey) (line va : Nat) : State :=
  (s.touchL2 line false false).updWg k fun g => { g with locks := g.locks ++ [(line, va)] }

section
variable {s : State} {k : WgKey} {g : Workgroup} {line va : Nat}

theorem Workgroup.any_locks_iff : (g.locks.any fun x => x.1 = line) = true ↔ g.pins line := by
  simp [Workgroup.pins]

theorem State.wgAt_withPin (hg : s.wgAt k = some g) : (s.withPin k line va).wgAt k = some { g with locks := g.locks ++ [(line, va)] } :=
  State.wgAt_updWg_same (f := fun g => { g with locks := g.locks ++ [(line, va)] }) (fun _ => rfl)
    ((State.wgAt_congr (s.touchL2_wgs ..) k).trans hg)

theorem State.withPin_sansPins (s : State) (k : WgKey) (line va : Nat) : (s.withPin k line va).sansPins = s.sansPins :=
  (show (s.withPin k line va).sansPins = (s.touchL2 line false false).sansPins from rfl).trans <| State.sansPins_of_sansLines (State.sansLines_of_sansCaches (State.touchL2_sansCaches s line false false))

/-- A further pin leaves no set with fewer pinned ways. -/
theorem State.pinnedWays_withPin (s : State) (k : WgKey) (line va other : Nat) :
    s.pinnedWays other ≤ (s.withPin k line va).pinnedWays other := by
  refine length_filter_eraseDups_le (fun x hx => ?_) _
  obtain ⟨g, hg, hx⟩ := List.mem_flatMap.1 hx
  refine List.mem_flatMap.2 ⟨_, List.mem_map.2 ⟨g, by rwa [State.touchL2_wgs], rfl⟩, ?_⟩
  by_cases hk : g.key = k
  · rw [if_pos hk]
    dsimp only
    split at hx
    next h => exact absurd hx List.not_mem_nil
    next h =>
      rw [if_neg h, List.map_append]
      exact List.mem_append_left _ hx
  · rwa [if_neg hk]

/-- What LOCKL does on a line: it is pinned already, it may not be pinned, or it is pinned now. -/
theorem State.lockLine_cases (hg : s.wgAt k = some g) :
    (g.pins line ∧ s.lockLine k line va = (s, 1)) ∨
    (¬ g.pins line ∧ s.pinsFull g line ∧ s.lockLine k line va = (s, 0)) ∨
    (¬ g.pins line ∧ ¬ s.pinsFull g line ∧ s.lockLine k line va = (s.withPin k line va, 1)) := by
  rw [State.lockLine, hg]
  dsimp only
  by_cases hp : g.pins line
  · exact .inl ⟨hp, by rw [if_pos (Workgroup.any_locks_iff.2 hp)]⟩
  rw [if_neg (Workgroup.any_locks_iff.not.2 hp)]
  have hfull : (decide (64 ≤ g.locks.length) || decide (12 ≤ s.pinnedWays line)) = true ↔ s.pinsFull g line := by
    simp [State.pinsFull]
  by_cases hf : s.pinsFull g line
  · exact .inr (.inl ⟨hp, hf, by rw [if_pos (hfull.2 hf)]⟩)
  · exact .inr (.inr ⟨hp, hf, by rw [if_neg (hfull.not.2 hf)]; rfl⟩)

theorem State.lockLine_sansPins (hg : s.wgAt k = some g) : (s.lockLine k line va).1.sansPins = s.sansPins := by
  obtain ⟨-, h⟩ | ⟨-, -, h⟩ | ⟨-, -, h⟩ := s.lockLine_cases hg (line := line) (va := va)
  · rw [h]
  · rw [h]
  · rw [h]; exact s.withPin_sansPins ..

/-- The pins of a workgroup after LOCKL on a line. -/
theorem State.lockLine_locks (hg : s.wgAt k = some g) : ∃ g', (s.lockLine k line va).1.wgAt k = some g' ∧
    (∀ x ∈ g.locks, x ∈ g'.locks) ∧ (∀ x ∈ g'.locks, x ∈ g.locks ∨ x.1 = line) := by
  obtain ⟨-, h⟩ | ⟨-, -, h⟩ | ⟨-, -, h⟩ := s.lockLine_cases hg (line := line) (va := va)
  · exact ⟨g, by rw [h]; exact hg, fun _ => id, fun _ => .inl⟩
  · exact ⟨g, by rw [h]; exact hg, fun _ => id, fun _ => .inl⟩
  · refine ⟨_, by rw [h]; exact s.wgAt_withPin hg, fun x hx => List.mem_append_left _ hx, fun x hx => ?_⟩
    obtain hx | hx := List.mem_append.1 hx
    · exact .inl hx
    · rw [List.mem_singleton.1 hx]; exact .inr rfl

/-- A line that a workgroup has not pinned and may not pin stays so, whatever else it pins. -/
theorem State.lockLine_keepsOut (hg : s.wgAt k = some g) {other : Nat} (hnot : ¬ g.pins other) (hfull : s.pinsFull g other) :
    ∃ g', (s.lockLine k line va).1.wgAt k = some g' ∧ ¬ g'.pins other ∧ (s.lockLine k line va).1.pinsFull g' other := by
  obtain ⟨-, h⟩ | ⟨-, -, h⟩ | ⟨-, hroom, h⟩ := s.lockLine_cases hg (line := line) (va := va)
  · exact ⟨g, by rw [h]; exact hg, hnot, by rw [h]; exact hfull⟩
  · exact ⟨g, by rw [h]; exact hg, hnot, by rw [h]; exact hfull⟩
  rw [h]
  refine ⟨_, s.wgAt_withPin hg, ?_, hfull.imp (fun hn => ?_) fun hn => hn.trans (s.pinnedWays_withPin ..)⟩
  · rintro ⟨x, hx, hline⟩
    obtain hx | hx := List.mem_append.1 hx
    · exact hnot ⟨x, hx, hline⟩
    · obtain rfl := List.mem_singleton.1 hx
      obtain rfl : line = other := hline
      exact hroom hfull
  · rw [List.length_append]; omega

end

/-! ### LOCKL on the lanes' lines -/

/-- LOCKL on the lines of lanes, in order. -/
def State.lockLanes (s : State) (k : WgKey) (gs : List GLane) : State × List (Nat × DWord) :=
  lineOps (fun t line va => t.lockLine k line va) s gs

theorem State.lockLanes_cons (s : State) (k : WgKey) (e : GLane) (gs : List GLane) : s.lockLanes k (e :: gs) =
    (((s.lockLine k (lineOf e.pa) e.va).1.lockLanes k gs).1, (e.lane, BitVec.ofNat 64 (s.lockLine k (lineOf e.pa) e.va).2) ::
      ((s.lockLine k (lineOf e.pa) e.va).1.lockLanes k gs).2) := rfl

section
variable {s : State} {k : WgKey} {g : Workgroup} {gs : List GLane}

theorem State.lockLanes_locks (hg : s.wgAt k = some g) : ∃ g', (s.lockLanes k gs).1.wgAt k = some g' ∧
    (∀ x ∈ g.locks, x ∈ g'.locks) ∧ ∀ x ∈ g'.locks, x ∈ g.locks ∨ ∃ e ∈ gs, x.1 = lineOf e.pa := by
  induction gs generalizing s g with
  | nil => exact ⟨g, hg, fun _ => id, fun _ => .inl⟩
  | cons e gs ih =>
    obtain ⟨g1, hg1, hkept1, hnew1⟩ := s.lockLine_locks (line := lineOf e.pa) (va := e.va) hg
    obtain ⟨g', hg', hkept, hnew⟩ := ih hg1
    refine ⟨g', hg', fun x hx => hkept x (hkept1 x hx), fun x hx => ?_⟩
    obtain hx | ⟨d, hd, hline⟩ := hnew x hx
    · exact (hnew1 x hx).imp_right fun hline => ⟨e, List.mem_cons_self, hline⟩
    · exact .inr ⟨d, List.mem_cons_of_mem _ hd, hline⟩

theorem State.lockLanes_sansPins (hg : s.wgAt k = some g) : (s.lockLanes k gs).1.sansPins = s.sansPins := by
  induction gs generalizing s g with
  | nil => rfl
  | cons e gs ih =>
    obtain ⟨g1, hg1, -⟩ := s.lockLine_locks (line := lineOf e.pa) (va := e.va) hg
    exact (ih hg1).trans (s.lockLine_sansPins hg)

theorem State.lockLanes_keepsOut (hg : s.wgAt k = some g) {line : Nat} (hnot : ¬ g.pins line) (hfull : s.pinsFull g line) :
    ∃ g', (s.lockLanes k gs).1.wgAt k = some g' ∧ ¬ g'.pins line := by
  induction gs generalizing s g with
  | nil => exact ⟨g, hg, hnot⟩
  | cons e gs ih =>
    obtain ⟨g1, hg1, hnot1, hfull1⟩ := s.lockLine_keepsOut (line := lineOf e.pa) (va := e.va) hg hnot hfull
    exact ih hg1 hnot1 hfull1

/-- The status of a lane is 1 exactly where its line is pinned in the end (R375). -/
theorem State.lockLanes_statuses (hg : s.wgAt k = some g) {g' : Workgroup} (hg' : (s.lockLanes k gs).1.wgAt k = some g') {v : Nat → DWord}
    (hv : ∀ e ∈ gs, (g'.pins (lineOf e.pa) → v e.lane = 1) ∧ (¬ g'.pins (lineOf e.pa) → v e.lane = 0)) :
    (s.lockLanes k gs).2 = gs.map fun e => (e.lane, v e.lane) := by
  induction gs generalizing s g with
  | nil => rfl
  | cons e gs ih =>
    obtain ⟨g1, hg1, -⟩ := s.lockLine_locks (line := lineOf e.pa) (va := e.va) hg
    obtain ⟨⟨hpinned, hout⟩, hvs⟩ := List.forall_mem_cons.1 hv
    rw [s.lockLanes_cons, ih hg1 hg' hvs, List.map_cons]
    have hend {t : State} {h : Workgroup} (ht : (s.lockLine k (lineOf e.pa) e.va).1 = t) (hh : t.wgAt k = some h)
        (hp : h.pins (lineOf e.pa)) : v e.lane = 1 := by
      obtain ⟨g'', hg'', hkept, -⟩ := t.lockLanes_locks (gs := gs) hh
      rw [s.lockLanes_cons, ht] at hg'
      obtain rfl := Option.some.inj (hg''.symm.trans hg')
      obtain ⟨x, hx, hline⟩ := hp
      exact hpinned ⟨x, hkept x hx, hline⟩
    obtain ⟨hp, h⟩ | ⟨hnot, hfull, h⟩ | ⟨-, -, h⟩ := s.lockLine_cases hg (line := lineOf e.pa) (va := e.va)
    · rw [h, hend (by rw [h]) hg hp]; rfl
    · obtain ⟨g'', hg'', hout'⟩ := s.lockLanes_keepsOut (gs := gs) hg hnot hfull
      rw [s.lockLanes_cons, h] at hg'
      obtain rfl := Option.some.inj (hg''.symm.trans hg')
      rw [h, hout hout']; rfl
    · rw [h, hend (by rw [h]) (s.wgAt_withPin (line := lineOf e.pa) (va := e.va) hg) ⟨_, List.mem_append_right _ (List.mem_singleton.2 rfl), rfl⟩]; rfl

/-- LOCKL on one line leaves it pinned where it was, or where there was room. -/
theorem State.lockLanes_one (hg : s.wgAt k = some g) {e : GLane} {g' : Workgroup} (hg' : (s.lockLanes k [e]).1.wgAt k = some g') :
    g'.pins (lineOf e.pa) ↔ g.pins (lineOf e.pa) ∨ ¬ s.pinsFull g (lineOf e.pa) := by
  have hg' : (s.lockLine k (lineOf e.pa) e.va).1.wgAt k = some g' := hg'
  obtain ⟨hp, h⟩ | ⟨hnot, hfull, h⟩ | ⟨hnot, hroom, h⟩ := s.lockLine_cases hg (line := lineOf e.pa) (va := e.va)
  · rw [h] at hg'
    obtain rfl := Option.some.inj (hg.symm.trans hg')
    exact ⟨fun _ => .inl hp, fun _ => hp⟩
  · rw [h] at hg'
    obtain rfl := Option.some.inj (hg.symm.trans hg')
    exact ⟨.inl, fun hor => hor.resolve_right fun hroom => hroom hfull⟩
  · rw [h] at hg'
    obtain rfl := Option.some.inj ((s.wgAt_withPin hg).symm.trans hg')
    exact ⟨fun _ => .inr hroom, fun _ => ⟨_, List.mem_append_right _ (List.mem_singleton.2 rfl), rfl⟩⟩

end

/-! ### UNLOCKL on the lanes' lines -/

/-- UNLOCKL on the lines of lanes, in order. -/
def State.unlockLanes (s : State) (k : WgKey) (gs : List GLane) : State × List (Nat × DWord) :=
  lineOps (fun t line va => t.unlockLine k line va) s gs

theorem State.unlockLanes_cons (s : State) (k : WgKey) (e : GLane) (gs : List GLane) : s.unlockLanes k (e :: gs) =
    (((s.unlockLine k (lineOf e.pa) e.va).1.unlockLanes k gs).1, (e.lane, BitVec.ofNat 64 (s.unlockLine k (lineOf e.pa) e.va).2) ::
      ((s.unlockLine k (lineOf e.pa) e.va).1.unlockLanes k gs).2) := rfl

section
variable {s : State} {k : WgKey} {g : Workgroup} {line va : Nat}

/-- A workgroup without its pin of a line. -/
def Workgroup.unpinned (g : Workgroup) (line : Nat) : Workgroup := { g with locks := g.locks.filter fun x => x.1 ≠ line }

theorem Workgroup.mem_unpinned {x : Nat × Nat} : x ∈ (g.unpinned line).locks ↔ x ∈ g.locks ∧ x.1 ≠ line := by
  simp [Workgroup.unpinned]

theorem Workgroup.unpinned_pins {other : Nat} : (g.unpinned line).pins other ↔ g.pins other ∧ line ≠ other := by
  constructor
  · rintro ⟨x, hx, rfl⟩
    obtain ⟨hx, hne⟩ := Workgroup.mem_unpinned.1 hx
    exact ⟨⟨x, hx, rfl⟩, hne.symm⟩
  · rintro ⟨⟨x, hx, rfl⟩, hne⟩
    exact ⟨x, Workgroup.mem_unpinned.2 ⟨hx, hne.symm⟩, rfl⟩

theorem Workgroup.unpinned_of_not_pins (h : ¬ g.pins line) : g.unpinned line = g := by
  have hall : g.locks.filter (fun x => decide (x.1 ≠ line)) = g.locks :=
    List.filter_eq_self.2 fun x hx => decide_eq_true fun hline => h ⟨x, hx, hline⟩
  rw [Workgroup.unpinned, hall]

/-- What UNLOCKL does on a line. -/
theorem State.unlockLine_spec (hg : s.wgAt k = some g) : (s.unlockLine k line va).1.wgAt k = some (g.unpinned line) ∧
    (s.unlockLine k line va).1.sansPins = s.sansPins ∧
    (g.pins line → (s.unlockLine k line va).2 = 1) ∧ (¬ g.pins line → (s.unlockLine k line va).2 = 0) := by
  rw [State.unlockLine, hg]
  dsimp only
  by_cases hp : g.pins line
  · rw [if_pos (Workgroup.any_locks_iff.2 hp)]
    exact ⟨State.wgAt_updWg_same (f := fun g => g.unpinned line) (fun _ => rfl) hg, rfl, fun _ => rfl, fun h => absurd hp h⟩
  · rw [if_neg (Workgroup.any_locks_iff.not.2 hp), Workgroup.unpinned_of_not_pins hp]
    exact ⟨hg, rfl, fun h => absurd h hp, fun _ => rfl⟩

theorem State.unlockLanes_locks {gs : List GLane} (hg : s.wgAt k = some g) : ∃ g', (s.unlockLanes k gs).1.wgAt k = some g' ∧
    (s.unlockLanes k gs).1.sansPins = s.sansPins ∧ ∀ x, x ∈ g'.locks ↔ x ∈ g.locks ∧ ∀ e ∈ gs, x.1 ≠ lineOf e.pa := by
  induction gs generalizing s g with
  | nil => exact ⟨g, hg, rfl, fun x => by simp⟩
  | cons e gs ih =>
    obtain ⟨hg1, hsame, -⟩ := s.unlockLine_spec (line := lineOf e.pa) (va := e.va) hg
    obtain ⟨g', hg', hsame', hlocks⟩ := ih hg1
    exact ⟨g', hg', hsame'.trans hsame, fun x => by rw [hlocks, Workgroup.mem_unpinned, List.forall_mem_cons, and_assoc]⟩

/-- The status of a lane is 1 exactly where its line was pinned and no lower lane has named it (R375). -/
theorem State.unlockLanes_statuses {ls : List Nat} {e : Nat → GLane} {v : Nat → DWord} (hls : ls.Pairwise (· < ·))
    (he : ∀ l, (e l).lane = l) (hg : s.wgAt k = some g)
    (hv : ∀ l ∈ ls, (g.pins (lineOf (e l).pa) ∧ (∀ j ∈ ls, j < l → lineOf (e j).pa ≠ lineOf (e l).pa) → v l = 1) ∧
      (¬ (g.pins (lineOf (e l).pa) ∧ ∀ j ∈ ls, j < l → lineOf (e j).pa ≠ lineOf (e l).pa) → v l = 0)) :
    (s.unlockLanes k (ls.map e)).2 = ls.map fun l => (l, v l) := by
  induction ls generalizing s g with
  | nil => rfl
  | cons m ls ih =>
    obtain ⟨hlow, hls⟩ := List.pairwise_cons.1 hls
    obtain ⟨⟨hone, hzero⟩, hvs⟩ := List.forall_mem_cons.1 hv
    obtain ⟨hg1, -, hpinned, hout⟩ := s.unlockLine_spec (line := lineOf (e m).pa) (va := (e m).va) hg
    have hlowest : ∀ j ∈ m :: ls, j < m → lineOf (e j).pa ≠ lineOf (e m).pa :=
      List.forall_mem_cons.2 ⟨fun h => absurd h (lt_irrefl m), fun j hj h => absurd h (hlow j hj).not_gt⟩
    have hiff (l : Nat) (hl : l ∈ ls) : ((g.unpinned (lineOf (e m).pa)).pins (lineOf (e l).pa) ∧
        ∀ j ∈ ls, j < l → lineOf (e j).pa ≠ lineOf (e l).pa) ↔
        (g.pins (lineOf (e l).pa) ∧ ∀ j ∈ m :: ls, j < l → lineOf (e j).pa ≠ lineOf (e l).pa) := by
      rw [Workgroup.unpinned_pins, List.forall_mem_cons, and_assoc, forall_prop_of_true (hlow l hl)]
    rw [List.map_cons, s.unlockLanes_cons, ih hls hg1 fun l hl => by rw [hiff l hl]; exact hvs l hl, List.map_cons, he]
    by_cases hp : g.pins (lineOf (e m).pa)
    · rw [hpinned hp, hone ⟨hp, hlowest⟩]; rfl
    · rw [hout hp, hzero fun h => hp h.1]; rfl

end

/-! ### FLUSHL (R378) -/

/-- A core's L1 holds no copy of a line. -/
def State.NoCopy (s : State) (core line : Nat) : Prop := ∀ key, s.l1Copy core key line = none

/-- A line is not dirty in L2. -/
def State.Clean (s : State) (line : Nat) : Prop := ∀ y ∈ s.l2, y.line = line → y.dirty = false

section
variable {s : State} {core kind line other : Nat}

theorem State.l1Copy_congr {t : State} (h : t.cores = s.cores) (key : KeyNo) : t.l1Copy core key line = s.l1Copy core key line := by
  rw [State.l1Copy, State.l1Copy, State.coreAt, State.coreAt, h]

theorem State.l1Copy_dropL1Line (key : KeyNo) : (s.dropL1Line core line).l1Copy core key other =
    if other = line then none else s.l1Copy core key other := by
  have hcore : (s.dropL1Line core line).coreAt core = (s.coreAt core).map fun c => { c with l1 := c.l1.filter fun x => x.line ≠ line } :=
    State.coreAt_updCore (f := fun c => { c with l1 := c.l1.filter fun x => x.line ≠ line }) fun _ => rfl
  rw [State.l1Copy, State.l1Copy, hcore]
  cases s.coreAt core with
  | none => simp
  | some c =>
    simp only [Option.map_some, Option.bind_some, List.find?_filter]
    split
    next h =>
      refine List.find?_eq_none.2 fun x _ => ?_
      simp +contextual [h]
    next h =>
      congr 1
      funext x
      by_cases hx : x.line = other
      · simp [hx, h]
      · simp [hx]

theorem State.flushLine_cores (hkind : kind ≠ 1) : (s.flushLine core kind line).cores = (s.dropL1Line core line).cores := by
  unfold State.flushLine
  dsimp only
  split
  · rfl
  · exact absurd rfl hkind
  · split
    · rfl
    · rfl

theorem State.noCopy_flushLine (hkind : kind ≠ 1) (h : other = line ∨ s.NoCopy core other) : (s.flushLine core kind line).NoCopy core other := by
  intro key
  rw [State.l1Copy_congr (s.flushLine_cores hkind), State.l1Copy_dropL1Line]
  split
  · rfl
  next hne => exact h.resolve_left hne key

theorem State.clean_flushLine (h : other = line ∨ s.Clean other) : (s.flushLine core 1 line).Clean other := by
  intro y hy hline
  obtain ⟨x, hx, rfl⟩ := List.mem_map.1 hy
  by_cases hx' : x.line = line
  · rw [if_pos hx']
  · rw [if_neg hx'] at hline ⊢
    exact (h.resolve_left fun he => hx' (hline.trans he)) x hx hline

/-- FLUSHL on the lines of lanes, in order. -/
def State.flushLanes (s : State) (core kind : Nat) (gs : List GLane) : State :=
  gs.foldl (fun t e => t.flushLine core kind (lineOf e.pa)) s

theorem State.flushLanes_sansLines (s : State) (core kind : Nat) (gs : List GLane) : (s.flushLanes core kind gs).sansLines = s.sansLines :=
  foldl_keeps (g := State.sansLines) (fun _ _ => State.flushLine_sansLines ..) gs s

/-- What each flush gives its line and leaves the others, flushes of all the lanes give each of their lines. -/
theorem State.flushLanes_all {P : State → Nat → Prop} (hP : ∀ (t : State) (line other : Nat), other = line ∨ P t other →
    P (t.flushLine core kind line) other) (gs : List GLane) (s : State) {other : Nat} (h : (∃ e ∈ gs, other = lineOf e.pa) ∨ P s other) :
    P (s.flushLanes core kind gs) other := by
  induction gs generalizing s with
  | nil => simpa [State.flushLanes] using h
  | cons e gs ih =>
    refine ih _ ?_
    rw [List.exists_mem_cons_iff, or_assoc, or_left_comm] at h
    exact h.imp_right (hP s _ other)

end

/-! ### The obligation -/

section
variable {s : State} {f : XForm} {o : Opnd} {pa : Nat → Nat} {leaf : Nat → BitVec 64}

/-- The state in which the lanes' translations are kept. -/
def Opnd.linesFilled (o : Opnd) (s : State) (c : BitVec 8) : State :=
  s.fillAll o.i.w.core o.i.w.wg.ctx (o.lanes.map fun l => (o.rd64 c l).toNat)

theorem Opnd.linesFilled_sansLines (o : Opnd) (s : State) (c : BitVec 8) : (o.linesFilled s c).sansLines = s.sansLines :=
  State.sansLines_of_sansCaches (s.fillAll_sansCaches ..)

theorem Opnd.linesFilled_wgs (o : Opnd) (s : State) (c : BitVec 8) : (o.linesFilled s c).wgs = s.wgs :=
  of_erased State.sansLines State.wgs (fun _ => rfl) (o.linesFilled_sansLines s c)

theorem Opnd.any_linePending {c : BitVec 8} (h : ∀ l ∈ o.lanes, s.paPending (pa l) 1 = false) :
    ((o.lanes.map (o.lineLane c pa leaf)).any fun e => s.paPending e.pa 1) = false := by
  rw [List.any_map, List.any_eq_false]
  intro l hl
  simp [Opnd.lineLane, h l hl]

theorem lockOp_ready {xop : Nat} {op : State → WgKey → Nat → Nat → State × Nat} (h : Ready s (shapeMem xop f) f noExtra o)
    (hgood : ∀ l ∈ o.lanes, o.LineAt s f.a pa leaf l) (hclear : ∀ l ∈ o.lanes, s.paPending (pa l) 1 = false) : lockOp s xop f op =
      let r := lineOps (fun t line va => op t o.i.w.wg line va) (o.linesFilled s f.a) (o.lanes.map (o.lineLane f.a pa leaf))
      o.complete r.1 f.len (some r.2) id := by
  rw [lockOp, operate_ready h, globalLanes_lines hgood, o.any_linePending hclear, if_neg Bool.false_ne_true]
  rfl

theorem exec_flushl_ready (h : Ready s (shapeMem 0x13 f) f noExtra o) (hgood : ∀ l ∈ o.lanes, o.LineAt s f.a pa leaf l)
    (hclear : f.fld 1 0 ≠ 0 → ∀ l ∈ o.lanes, s.paPending (pa l) 1 = false) : exec (.flushl f) s =
      o.complete ((o.linesFilled s f.a).flushLanes o.i.w.core (f.fld 1 0) (o.lanes.map (o.lineLane f.a pa leaf))) f.len none id := by
  have hopen : (f.fld 1 0 != 0 && (o.lanes.map (o.lineLane f.a pa leaf)).any fun e => s.paPending e.pa 1) = false := by
    by_cases hk : f.fld 1 0 = 0
    · simp [hk]
    · rw [o.any_linePending (hclear hk), Bool.and_false]
  rw [show exec (.flushl f) s = execFlushl f s from rfl, execFlushl, operate_ready h, globalLanes_lines hgood, hopen,
    if_neg Bool.false_ne_true]
  rfl

theorem pref_onlyGoes (h : Ready s (shapeMem 0x10 f) f noExtra o) : OnlyGoes s o.i f.len f.lnd (exec (.pref f) s) := by
  rw [show exec (.pref f) s = execPref f s from rfl, execPref, operate_ready h, ← h.fields]
  obtain ⟨t, w, ht, hgoes, hregs, hmem, hwgs, -⟩ :=
    o.onlyGoes_of_sansLines h.issues (foldl_keeps (g := State.sansLines) (fun _ _ => State.prefetch_sansLines ..) o.lanes s) o.f.len
  exact ⟨t, w, ht, hgoes, hregs, hmem, hwgs⟩

theorem lockl_pins (h : Ready s (shapeMem 0x11 f) f noExtra o) (hgood : ∀ l ∈ o.lanes, o.LineAt s f.a pa leaf l)
    (hclear : ∀ l ∈ o.lanes, s.paPending (pa l) 1 = false) :
    ∃ t w g', exec (.lockl f) s = .next t ∧ Goes s t o.i f.len f.lnd w ∧ SameMemory s t ∧ t.wgAt o.i.w.wg = some g' ∧
      (∀ x ∈ o.i.wg.locks, x ∈ g'.locks) ∧ (∀ x ∈ g'.locks, x ∈ o.i.wg.locks ∨ ∃ l ∈ o.lanes, x.1 = lineOf (pa l)) ∧
      (∀ v : Nat → DWord, (∀ l ∈ o.lanes, (g'.pins (lineOf (pa l)) → v l = 1) ∧ (¬ g'.pins (lineOf (pa l)) → v l = 0)) → o.Landed v w) ∧
      ∀ l, o.lanes = [l] → (g'.pins (lineOf (pa l)) ↔ o.i.wg.pins (lineOf (pa l)) ∨ ¬ s.pinsFull o.i.wg (lineOf (pa l))) := by
  obtain rfl := h.fields
  have hwgs := o.linesFilled_wgs s o.f.a
  have hg := (State.wgAt_congr hwgs o.i.w.wg).trans (State.issuing_wgAt h.issues)
  obtain ⟨g', hg', hkept, hnew⟩ := State.lockLanes_locks (gs := o.lanes.map (o.lineLane o.f.a pa leaf)) hg
  have hsame := (State.lockLanes_sansPins (gs := o.lanes.map (o.lineLane o.f.a pa leaf)) hg).trans
    (State.sansPins_of_sansLines (o.linesFilled_sansLines s o.f.a))
  obtain ⟨t, w, ht, hgoes, hmem, hwgs', hland⟩ := o.lands_of_sansPins h.issues hsame (.inl (by rw [h.shape]; rfl)) o.f.len
    ((o.linesFilled s o.f.a).lockLanes o.i.w.wg (o.lanes.map (o.lineLane o.f.a pa leaf))).2
  refine ⟨t, w, g', (lockOp_ready h hgood hclear).trans ht, hgoes, hmem, (State.wgAt_congr hwgs' _).trans hg', hkept, fun x hx => ?_,
    fun v hv => hland v ?_, fun l hl => ?_⟩
  · simpa [Opnd.lineLane] using hnew x hx
  · rw [State.lockLanes_statuses hg hg' (v := v) (by simpa [Opnd.lineLane] using hv), List.map_map]
    rfl
  · rw [hl] at hg'
    exact (State.lockLanes_one hg hg').trans (or_congr_right (not_congr (State.pinsFull_congr hwgs _ _)))

theorem unlockl_unpins (h : Ready s (shapeMem 0x12 f) f noExtra o) (hgood : ∀ l ∈ o.lanes, o.LineAt s f.a pa leaf l)
    (hclear : ∀ l ∈ o.lanes, s.paPending (pa l) 1 = false) :
    ∃ t w g', exec (.unlockl f) s = .next t ∧ Goes s t o.i f.len f.lnd w ∧ SameMemory s t ∧ t.wgAt o.i.w.wg = some g' ∧
      (∀ x, x ∈ g'.locks ↔ x ∈ o.i.wg.locks ∧ ∀ l ∈ o.lanes, x.1 ≠ lineOf (pa l)) ∧
      ∀ v : Nat → DWord, (∀ l ∈ o.lanes,
        ((o.i.wg.pins (lineOf (pa l)) ∧ ∀ j ∈ o.lanes, j < l → lineOf (pa j) ≠ lineOf (pa l)) → v l = 1) ∧
        (¬ (o.i.wg.pins (lineOf (pa l)) ∧ ∀ j ∈ o.lanes, j < l → lineOf (pa j) ≠ lineOf (pa l)) → v l = 0)) → o.Landed v w := by
  obtain rfl := h.fields
  have hg := (State.wgAt_congr (o.linesFilled_wgs s o.f.a) o.i.w.wg).trans (State.issuing_wgAt h.issues)
  obtain ⟨g', hg', hsame, hlocks⟩ := State.unlockLanes_locks (gs := o.lanes.map (o.lineLane o.f.a pa leaf)) hg
  have hsame := hsame.trans (State.sansPins_of_sansLines (o.linesFilled_sansLines s o.f.a))
  obtain ⟨t, w, ht, hgoes, hmem, hwgs', hland⟩ := o.lands_of_sansPins h.issues hsame (.inl (by rw [h.shape]; rfl)) o.f.len
    ((o.linesFilled s o.f.a).unlockLanes o.i.w.wg (o.lanes.map (o.lineLane o.f.a pa leaf))).2
  refine ⟨t, w, g', (lockOp_ready h hgood hclear).trans ht, hgoes, hmem, (State.wgAt_congr hwgs' _).trans hg', fun x => ?_,
    fun v hv => hland v (State.unlockLanes_statuses o.lanes_pairwise (fun _ => rfl) hg hv)⟩
  rw [hlocks, List.forall_mem_map]
  rfl

theorem flushl_flushes (h : Ready s (shapeMem 0x13 f) f noExtra o) (hgood : ∀ l ∈ o.lanes, o.LineAt s f.a pa leaf l)
    (hclear : f.fld 1 0 ≠ 0 → ∀ l ∈ o.lanes, s.paPending (pa l) 1 = false) :
    ∃ t w, exec (.flushl f) s = .next t ∧ Goes s t o.i f.len f.lnd w ∧ RegsKept o.i w ∧ SameMemory s t ∧ t.wgs = s.wgs ∧
      (f.fld 1 0 ≠ 1 → ∀ l ∈ o.lanes, t.NoCopy o.i.w.core (lineOf (pa l))) ∧
      (f.fld 1 0 = 1 → ∀ l ∈ o.lanes, t.Clean (lineOf (pa l))) := by
  obtain rfl := h.fields
  have hsame := ((o.linesFilled s o.f.a).flushLanes_sansLines o.i.w.core (o.f.fld 1 0) (o.lanes.map (o.lineLane o.f.a pa leaf))).trans
    (o.linesFilled_sansLines s o.f.a)
  obtain ⟨t, w, ht, hgoes, hregs, hmem, hwgs, hcores, hl2⟩ := o.onlyGoes_of_sansLines h.issues hsame o.f.len
  have hlane {l : Nat} (hl : l ∈ o.lanes) : ∃ e ∈ o.lanes.map (o.lineLane o.f.a pa leaf), lineOf (pa l) = lineOf e.pa :=
    ⟨_, List.mem_map_of_mem hl, rfl⟩
  refine ⟨t, w, (exec_flushl_ready h hgood hclear).trans ht, hgoes, hregs, hmem, hwgs, fun hkind l hl key => ?_, fun hkind l hl => ?_⟩
  · rw [State.l1Copy_congr hcores]
    exact State.flushLanes_all (P := fun t line => t.NoCopy o.i.w.core line) (fun _ _ _ => State.noCopy_flushLine hkind) _ _ (.inl (hlane hl)) key
  · rw [State.Clean, hl2, hkind]
    exact State.flushLanes_all (P := State.Clean) (fun _ _ _ => State.clean_flushLine) _ _ (.inl (hlane hl))

end

/-- Settles O33: LOCKL and UNLOCKL by what each line's operation does to the pins, FLUSHL by what each flush does to its line. -/
theorem lineOperations : Obligations.line_operations := by
  refine ⟨fun s f o h => pref_onlyGoes h, fun s f o pa leaf => ⟨fun h hgood hclear => ?_, fun h hgood hclear => ?_, fun h hgood hclear => ?_⟩⟩
  · obtain ⟨t, w, g', ht, hgoes, hmem, hg', hkept, hnew, hland, hone⟩ := lockl_pins h hgood hclear
    refine ⟨t, w, g', ht, hgoes, hmem, hg', hkept, hnew, hland, fun l hl => (hone l hl).trans (or_congr_right ?_)⟩
    rw [State.pinsFull, not_or, not_le, not_le]
    rfl
  · exact unlockl_unpins h hgood hclear
  · exact flushl_flushes h hgood hclear

end Sys2Proof.Machine

/-! ## Extended integer operations (O9) -/
namespace Sys2Proof.Machine
open Sys2Proof

/-! ### Operands and results as numbers (R41, R50) -/

/-- A 32-bit operand as a number, in a lane that the instruction computes. -/
theorem Opnd.toNat_rd (o : Opnd) (c : BitVec 8) {l : Nat} (hl : l ∈ o.lanes) : (o.rd c l).toNat = o.rdN c l 32 := by
  rw [Opnd.rd, BitVec.toNat_setWidth]
  exact Nat.mod_eq_of_lt (o.rdN_lt c (.inl rfl) (Opnd.le_of_mem_lanes hl))

theorem Opnd.rdN_tyW_lt (o : Opnd) (c : BitVec 8) {l : Nat} (hl : l ∈ o.lanes) : o.rdN c l o.f.tyW < 2 ^ o.f.tyW :=
  o.rdN_lt c (tyW_cases o.f) (Opnd.le_of_mem_lanes hl)

/-- A number of a type's width fits a result. -/
theorem lt_dword_of_lt_tyW {f : XForm} {r : Nat} (h : r < 2 ^ f.tyW) : r < 2 ^ 64 := by
  rcases tyW_cases f with hw | hw <;> rw [hw] at h <;> omega

/-- A count of a type's bits fits a result. -/
theorem lt_dword_of_le_tyW {f : XForm} {r : Nat} (h : r ≤ f.tyW) : r < 2 ^ 64 :=
  lt_dword_of_lt_tyW (h.trans_lt Nat.lt_two_pow_self)

/-- A number of a word fits a result. -/
theorem lt_dword_of_lt_word {r : Nat} (h : r < 2 ^ 32) : r < 2 ^ 64 := h.trans (by norm_num)

/-- A code of n bits as a signed number: less 2^n where its highest bit is set. -/
theorem sval_of_lt {n x : Nat} (h : x < 2 ^ n) : sval n x = if x.testBit (n - 1) then (x : Int) - 2 ^ n else x := by
  have hmsb : (BitVec.ofNat n x).msb = x.testBit (n - 1) := by
    rw [BitVec.msb_eq_getLsbD_last, BitVec.getLsbD_ofNat]
    cases n with
    | zero => simp_all
    | succ n => simp
  rw [sval, BitVec.toInt_eq_msb_cond, hmsb, BitVec.toNat_ofNat, Nat.mod_eq_of_lt h]
  norm_num

/-- A code of n bits as a signed number: less 2^n from half of it on. -/
theorem sval_eq_ite {n x : Nat} (h : x < 2 ^ n) : sval n x = if 2 * x < 2 ^ n then (x : Int) else x - 2 ^ n := by
  rw [sval, BitVec.toInt_eq_toNat_cond, BitVec.toNat_ofNat, Nat.mod_eq_of_lt h]
  norm_num

theorem clampI_eq_clampTo {lo hi : Int} (h : lo ≤ hi) (t : Int) : clampI t lo hi = clampTo lo hi t := by
  unfold clampI clampTo
  split
  · omega
  · split <;> omega

/-! ### 64-bit arithmetic (R214 to R216, R225) -/

theorem toNat_sub_dword (a b : DWord) : (a - b).toNat = (a.toNat + 2 ^ 64 - b.toNat) % 2 ^ 64 := by
  have := b.isLt
  rw [BitVec.toNat_sub]
  congr 1
  omega

/-- A word extended to 64 bits by its sign or by zeros. -/
def extendWord (sg : Bool) (x : Word) : DWord := if sg then x.signExtend 64 else x.setWidth 64

theorem extendWord_eq_ofInt (sg : Bool) (x : Word) : extendWord sg x = BitVec.ofInt 64 (if sg then x.toInt else x.toNat) := by
  cases sg
  · exact BitVec.eq_of_toNat_eq (by simp [extendWord])
  · rfl

theorem toNat_mulAdd (sg : Bool) (a b : Word) (c : DWord) : (extendWord sg a * extendWord sg b + c).toNat =
    wrapTo 64 ((if sg then a.toInt else a.toNat) * (if sg then b.toInt else b.toNat) + c.toNat) := by
  rw [← toNat_ofInt_eq_wrapTo, BitVec.ofInt_add, BitVec.ofInt_mul, ← extendWord_eq_ofInt, ← extendWord_eq_ofInt,
    BitVec.ofInt_natCast, BitVec.ofNat_toNat, BitVec.setWidth_eq]

theorem toNat_addCarry (a b c : Word) :
    (a.setWidth 64 + b.setWidth 64 + (if c.getLsbD 0 then 1 else 0) : DWord).toNat = a.toNat + b.toNat + c.toNat % 2 := by
  have hcarry : (if c.getLsbD 0 then 1 else 0 : DWord).toNat = c.toNat % 2 := by
    rw [BitVec.getLsbD, Nat.testBit_zero]
    rcases Nat.mod_two_eq_zero_or_one c.toNat with h | h <;> rw [h] <;> rfl
  have := a.isLt
  have := b.isLt
  rw [BitVec.toNat_add, BitVec.toNat_add, toNat_setWidth_word, toNat_setWidth_word, hcarry]
  omega

theorem toNat_shlW_bitVec {w : Nat} (a : BitVec w) (n : Nat) : (shlW a n).toNat = if n < w then a.toNat * 2 ^ n % 2 ^ w else 0 := by
  unfold shlW
  by_cases h : n < w
  · rw [if_neg (by omega), if_pos h, BitVec.toNat_shiftLeft, Nat.shiftLeft_eq]
  · rw [if_pos (by omega), if_neg h]
    exact BitVec.toNat_zero

theorem toNat_shrW_bitVec {w : Nat} (a : BitVec w) (n : Nat) : (shrW a n).toNat = if n < w then a.toNat / 2 ^ n else 0 := by
  unfold shrW
  by_cases h : n < w
  · rw [if_neg (by omega), if_pos h, BitVec.toNat_ushiftRight, Nat.shiftRight_eq_div_pow]
  · rw [if_pos (by omega), if_neg h]
    exact BitVec.toNat_zero

theorem toNat_sarW_bitVec {w : Nat} (a : BitVec w) (n : Nat) : (sarW a n).toNat = wrapTo w (a.toInt / 2 ^ min n w) := by
  rw [sarW, BitVec.sshiftRight, toNat_ofInt_eq_wrapTo, Int.shiftRight_eq_div_pow]
  norm_num

theorem toNat_select (c : Word) (a b : DWord) : (if c != 0 then a else b).toNat = if c = 0 then b.toNat else a.toNat := by
  by_cases h : c = 0
  · simp [h]
  · rw [if_pos (by simpa using h), if_neg h]

/-! ### Absolute value and negation (R218) -/

theorem absNeg_lt {neg sat : Bool} {w n : Nat} (hn : n < 2 ^ w) : absNeg neg sat w n < 2 ^ w := by
  have hhalf : 2 ^ (w - 1) ≤ 2 ^ w := Nat.pow_le_pow_right (by decide) (by omega)
  unfold absNeg
  split
  · omega
  · split
    · exact Nat.mod_lt _ (by positivity)
    · exact hn

/-- The most negative value is the code with its highest bit alone. -/
theorem sval_eq_least {w n : Nat} (hw : w = 32 ∨ w = 64) (hn : n < 2 ^ w) : sval w n = -(2 ^ (w - 1)) ↔ n = 2 ^ (w - 1) := by
  rw [sval_eq_ite hn]
  rcases hw with rfl | rfl <;> split <;> omega

theorem absNeg_abs {w n : Nat} (hw : w = 32 ∨ w = 64) (hn : n < 2 ^ w) (sat : Bool) :
    absNeg false sat w n = if sat && sval w n = -(2 ^ (w - 1)) then 2 ^ (w - 1) - 1 else (sval w n).natAbs := by
  simp only [absNeg, sval_eq_least hw hn, beq_eq_decide, Bool.false_or, decide_eq_true_eq]
  congr 1
  rw [sval_eq_ite hn]
  rcases hw with rfl | rfl <;> split <;> split <;> omega

theorem absNeg_neg {w n : Nat} (hw : w = 32 ∨ w = 64) (hn : n < 2 ^ w) (sat : Bool) :
    absNeg true sat w n = if sat && sval w n = -(2 ^ (w - 1)) then 2 ^ (w - 1) - 1 else wrapTo w (-sval w n) := by
  simp only [absNeg, sval_eq_least hw hn, beq_eq_decide, Bool.true_or, if_true]
  congr 1
  rw [sval_eq_ite hn, wrapTo]
  rcases hw with rfl | rfl <;> split <;> omega

/-! ### Bit counts (R219) -/

theorem leadZeros_spec {w n : Nat} (hn : n < 2 ^ w) :
    leadZeros w n ≤ w ∧ n < 2 ^ (w - leadZeros w n) ∧ (leadZeros w n < w → 2 ^ (w - leadZeros w n - 1) ≤ n) := by
  unfold leadZeros
  by_cases h : n = 0
  · simp [h]
  · have hlog : Nat.log2 n < w := (Nat.log2_lt h).2 hn
    have hhigh : w - (w - 1 - Nat.log2 n) = Nat.log2 n + 1 := by omega
    rw [if_neg h, hhigh]
    exact ⟨by omega, Nat.lt_log2_self, fun _ => Nat.log2_self_le h⟩

/-- One more power of two divides a number by its next bit. -/
theorem two_pow_succ_dvd {n i : Nat} (h : 2 ^ i ∣ n) : 2 ^ (i + 1) ∣ n ↔ n.testBit i = false := by
  obtain ⟨q, rfl⟩ := h
  rw [pow_succ, Nat.mul_dvd_mul_iff_left (by positivity), Nat.testBit_eq_decide_div_mod_eq,
    Nat.mul_div_cancel_left _ (by positivity), decide_eq_false_iff_not]
  omega

theorem trailZeros_spec (w n : Nat) :
    trailZeros w n ≤ w ∧ 2 ^ trailZeros w n ∣ n ∧ (trailZeros w n < w → ¬ 2 ^ (trailZeros w n + 1) ∣ n) := by
  induction w with
  | zero => simp [trailZeros]
  | succ w ih =>
    obtain ⟨hle, hdvd, hstop⟩ := ih
    have hnext : trailZeros (w + 1) n = if trailZeros w n = w ∧ n.testBit w = false then w + 1 else trailZeros w n := by
      rw [trailZeros, List.range_succ, List.takeWhile_append, List.length_range]
      by_cases h : trailZeros w n = w
      · cases hbit : n.testBit w <;> simp_all [trailZeros]
      · simp_all [trailZeros]
    rw [hnext]
    split
    next h => exact ⟨le_rfl, (two_pow_succ_dvd (h.1 ▸ hdvd)).2 h.2, fun hlt => absurd hlt (lt_irrefl _)⟩
    next h =>
      refine ⟨by omega, hdvd, fun _ hmore => ?_⟩
      by_cases hw : trailZeros w n = w
      · exact h ⟨hw, (two_pow_succ_dvd (hw ▸ hdvd)).1 (hw ▸ hmore)⟩
      · exact hstop (by omega) hmore

theorem popCount_eq_sum (w n : Nat) : popCount w n = ((List.range w).map fun i => n / 2 ^ i % 2).sum := by
  unfold popCount
  induction w with
  | zero => rfl
  | succ w ih =>
    rw [List.range_succ, List.filter_append, List.length_append, List.map_append, List.sum_append, ih]
    cases hbit : n.testBit w <;> simp [← Nat.toNat_testBit, hbit]

theorem popCount_le (w n : Nat) : popCount w n ≤ w := (List.length_filter_le ..).trans_eq List.length_range

/-! ### Numbers made of elements (R219, R222, R223) -/

/-- The number with element d i of k bits at each of n places. -/
def ofElems (k n : Nat) (d : Nat → Nat) : Nat := ∑ i ∈ Finset.range n, d i * 2 ^ (k * i)

theorem foldl_range_add {M : Type} [AddCommMonoid M] (g : Nat → M) (n : Nat) :
    (List.range n).foldl (fun r i => r + g i) 0 = ∑ i ∈ Finset.range n, g i := by
  rw [← List.foldl_map (f := g) (g := (· + ·)), ← List.sum_eq_foldl]
  rfl

theorem ofElems_lt {k : Nat} (n : Nat) {d : Nat → Nat} (hd : ∀ i, d i < 2 ^ k) : ofElems k n d < 2 ^ (k * n) := by
  induction n with
  | zero => simp [ofElems]
  | succ n ih =>
    rw [ofElems, Finset.sum_range_succ]
    calc ofElems k n d + d n * 2 ^ (k * n) < 2 ^ (k * n) + d n * 2 ^ (k * n) := Nat.add_lt_add_right ih _
      _ = (d n + 1) * 2 ^ (k * n) := by ring
      _ ≤ 2 ^ k * 2 ^ (k * n) := Nat.mul_le_mul_right _ (hd n)
      _ = 2 ^ (k * (n + 1)) := by rw [← pow_add]; ring_nf

theorem elemOf_ofElems {k n i : Nat} {d : Nat → Nat} (hd : ∀ i, d i < 2 ^ k) (hi : i < n) : elemOf k (ofElems k n d) i = d i := by
  induction n with
  | zero => omega
  | succ n ih =>
    have hlow := ofElems_lt n hd
    rw [ofElems, Finset.sum_range_succ, ← ofElems, elemOf]
    rcases Nat.lt_succ_iff_lt_or_eq.1 hi with h | rfl
    · obtain ⟨m, rfl⟩ := Nat.exists_eq_add_of_lt h
      have hplace : 2 ^ (k * (i + m + 1)) = 2 ^ (k * i) * (2 ^ k * 2 ^ (k * m)) := by ring
      rw [hplace, Nat.mul_left_comm, Nat.add_mul_div_left _ _ (by positivity), Nat.mul_left_comm, Nat.add_mul_mod_self_left]
      exact ih h
    · rw [Nat.add_mul_div_right _ _ (by positivity), Nat.div_eq_of_lt hlow, Nat.zero_add, Nat.mod_eq_of_lt (hd i)]

/-- Reversed bits are the bits of the other end, place by place. -/
theorem revBits_eq_ofElems (w n : Nat) : revBits w n = ofElems 1 w fun i => (n.testBit (w - 1 - i)).toNat := by
  have hstep : (fun r i => if n.testBit i then r + 2 ^ (w - 1 - i) else r) =
      fun r i => r + (n.testBit i).toNat * 2 ^ (w - 1 - i) := by
    funext r i
    cases n.testBit i <;> simp
  rw [revBits, hstep, foldl_range_add, ← Finset.sum_range_reflect, ofElems]
  refine Finset.sum_congr rfl fun i hi => ?_
  have hi := Finset.mem_range.1 hi
  rw [Nat.one_mul, show w - 1 - (w - 1 - i) = i by omega]

theorem revBits_lt (w n : Nat) : revBits w n < 2 ^ w := by
  rw [revBits_eq_ofElems]
  exact (ofElems_lt w fun i => Bool.toNat_lt _).trans_eq (by rw [Nat.one_mul])

theorem testBit_revBits {w n i : Nat} (hi : i < w) : (revBits w n).testBit i = n.testBit (w - 1 - i) := by
  have helem := elemOf_ofElems (d := fun i => (n.testBit (w - 1 - i)).toNat) (k := 1) (fun i => Bool.toNat_lt _) hi
  rw [← revBits_eq_ofElems, elemOf, Nat.one_mul, pow_one] at helem
  rw [Nat.testBit_eq_decide_div_mod_eq, helem]
  simp

/-! ### Bit fields (R220) -/

theorem fieldCtl_eq (o : Opnd) (f : XForm) (c : BitVec 8) (l : Nat) : fieldCtl o f c l =
    (if f.bit 16 then f.fld 7 0 else (o.rd c l).toNat % 256, if f.bit 16 then f.fld 15 8 else (o.rd c l).toNat / 256 % 256) := by
  unfold fieldCtl
  split <;> rfl

/-- An extracted field is a number of its own length, extended to the width by its sign or by zeros. -/
theorem bitExtract_eq (sg : Bool) (w a pos len : Nat) : bitExtract sg w a pos len =
    if sg then wrapTo w (sval (min len (w - min pos w)) (a / 2 ^ min pos w % 2 ^ min len (w - min pos w)))
    else a / 2 ^ min pos w % 2 ^ min len (w - min pos w) := by
  unfold bitExtract
  dsimp only
  generalize hn : min len (w - min pos w) = n
  have hpow : 2 ^ n ≤ 2 ^ w := Nat.pow_le_pow_right (by decide) (by omega)
  generalize hx : a / 2 ^ min pos w % 2 ^ n = x
  have hlt : x < 2 ^ n := hx ▸ Nat.mod_lt _ (by positivity)
  have hzero : n = 0 → x.testBit (n - 1) = false := by
    rintro rfl
    simp [show x = 0 by omega]
  cases sg with
  | false => rfl
  | true =>
    rw [if_pos rfl, sval_of_lt hlt]
    cases hbit : x.testBit (n - 1) with
    | false => simpa using (wrapTo_natCast (hlt.trans_le hpow)).symm
    | true =>
      have hn0 : n ≠ 0 := fun h => by simp [hzero h] at hbit
      have hcode : (x : Int) - 2 ^ n = (x + 2 ^ w - 2 ^ n : Nat) + (-1) * 2 ^ w := by
        push_cast [Nat.cast_sub (show 2 ^ n ≤ x + 2 ^ w by omega)]
        ring
      have hcut : x + 2 ^ w - 2 ^ n < 2 ^ w := by omega
      rw [if_pos (by simpa using hn0), if_pos rfl, hcode, wrapTo, Int.add_mul_emod_self_right]
      exact (wrapTo_natCast hcut).symm

theorem bitExtract_lt {sg : Bool} {w a : Nat} (ha : a < 2 ^ w) (pos len : Nat) : bitExtract sg w a pos len < 2 ^ w := by
  rw [bitExtract_eq]
  split
  · rw [← toNat_ofInt_eq_wrapTo]
    exact BitVec.isLt _
  · exact (Nat.mod_le ..).trans_lt ((Nat.div_le_self ..).trans_lt ha)

/-- A field put in the place of another stands between what is below and what is above it. -/
theorem replaceField_eq (a b p n : Nat) : b - b / 2 ^ p % 2 ^ n * 2 ^ p + a % 2 ^ n * 2 ^ p =
    2 ^ p * (2 ^ n * (b / 2 ^ p / 2 ^ n) + a % 2 ^ n) + b % 2 ^ p := by
  have hlow := Nat.div_add_mod b (2 ^ p)
  have hfield := congrArg (2 ^ p * ·) (Nat.div_add_mod (b / 2 ^ p) (2 ^ n))
  simp only [Nat.mul_add] at hfield
  rw [Nat.mul_add, Nat.mul_comm _ (2 ^ p), Nat.mul_comm _ (2 ^ p)]
  omega

theorem testBit_bitInsert (w a b pos len i : Nat) :
    let p := min pos w
    let n := min len (w - p)
    (bitInsert w a b pos len).testBit i = if p ≤ i ∧ i < p + n then a.testBit (i - p) else b.testBit i := by
  intro p n
  have hpos (m k : Nat) : m % 2 ^ k < 2 ^ k := Nat.mod_lt _ (by positivity)
  rw [bitInsert, replaceField_eq, Nat.testBit_two_pow_mul_add _ (hpos _ _), Nat.testBit_two_pow_mul_add _ (hpos _ _)]
  by_cases hlow : i < p
  · rw [if_pos hlow, if_neg (by omega), Nat.testBit_mod_two_pow, decide_eq_true hlow, Bool.true_and]
  · by_cases hin : i - p < n
    · rw [if_neg hlow, if_pos hin, if_pos (by omega), Nat.testBit_mod_two_pow, decide_eq_true hin, Bool.true_and]
    · rw [if_neg hlow, if_neg hin, if_neg (by omega), Nat.testBit_div_two_pow, Nat.testBit_div_two_pow]
      congr 1
      omega

theorem bitInsert_lt {w b : Nat} (hb : b < 2 ^ w) (a pos len : Nat) : bitInsert w a b pos len < 2 ^ w := by
  refine Nat.lt_pow_two_of_testBit _ fun i hi => ?_
  rw [testBit_bitInsert, if_neg (by omega)]
  exact Nat.testBit_lt_two_pow (hb.trans_le (Nat.pow_le_pow_right (by decide) hi))

/-! ### Funnel shift and byte selection (R221, R222) -/

theorem toNat_append_word (a b : Word) : (a ++ b : DWord).toNat = a.toNat * 2 ^ 32 + b.toNat := by
  rw [BitVec.toNat_append, ← Nat.shiftLeft_add_eq_or_of_lt b.isLt, Nat.shiftLeft_eq]

theorem toNat_funnel (a b : Word) (n : Nat) : ((((a ++ b : DWord) <<< n).extractLsb' 32 32).setWidth 64 : DWord).toNat =
    (a.toNat * 2 ^ 32 + b.toNat) * 2 ^ n / 2 ^ 32 % 2 ^ 32 := by
  rw [toNat_setWidth_word, BitVec.extractLsb'_toNat, BitVec.toNat_shiftLeft, toNat_append_word, Nat.shiftLeft_eq,
    Nat.shiftRight_eq_div_pow]
  omega

theorem permByte_eq (x : DWord) (nib : Nat) : permByte x nib =
    let b := elemOf 8 x.toNat (nib % 8)
    if nib < 8 then b else if 128 ≤ b then 255 else 0 := by
  rw [permByte, BitVec.extractLsb'_toNat, Nat.shiftRight_eq_div_pow]
  rfl

theorem permByte_lt (x : DWord) (nib : Nat) : permByte x nib < 2 ^ 8 := by
  unfold permByte
  dsimp only
  split
  · exact BitVec.isLt _
  · split <;> decide

theorem permVal_eq_ofElems (a b : Word) (sel : Nat) : permVal a b sel = ofElems 8 4 fun i => permByte (b ++ a) (elemOf 4 sel i) := by
  rw [permVal, foldl_range_add, ofElems]
  exact Finset.sum_congr rfl fun i _ => by rw [elemOf, pow_mul, pow_mul]; rfl

theorem permVal_lt (a b : Word) (sel : Nat) : permVal a b sel < 2 ^ 32 := by
  rw [permVal_eq_ofElems]
  exact ofElems_lt 4 fun _ => permByte_lt ..

theorem elemOf_permVal (a b : Word) (sel : Nat) {i : Nat} (hi : i < 4) : elemOf 8 (permVal a b sel) i =
    let x := elemOf 8 (a.toNat + b.toNat * 2 ^ 32) (elemOf 4 sel i % 8)
    if elemOf 4 sel i < 8 then x else if 128 ≤ x then 255 else 0 := by
  rw [permVal_eq_ofElems, elemOf_ofElems (fun _ => permByte_lt ..) hi, permByte_eq, toNat_append_word, Nat.add_comm]

/-! ### Saturated elements (R223) -/

/-- An element of k bits as a number, signed or not. -/
def elemNum (sg : Bool) (k n : Nat) : Int := if sg then sval k n else n

/-- The least number of k bits, signed or not. -/
def elemMin (sg : Bool) (k : Nat) : Int := if sg then -(2 ^ (k - 1)) else 0
/-- The greatest number of k bits, signed or not. -/
def elemMax (sg : Bool) (k : Nat) : Int := if sg then 2 ^ (k - 1) - 1 else 2 ^ k - 1

theorem elemMin_le_elemMax (sg : Bool) (k : Nat) : elemMin sg k ≤ elemMax sg k := by
  have hpow (n : Nat) : (0 : Int) < 2 ^ n := by positivity
  cases sg
  · exact Int.le_sub_one_of_lt (hpow k)
  · have := hpow (k - 1)
    simp only [elemMin, elemMax, if_true]
    omega

theorem clampTo_mem {lo hi : Int} (h : lo ≤ hi) (t : Int) : lo ≤ clampTo lo hi t ∧ clampTo lo hi t ≤ hi := by
  unfold clampTo
  omega

/-- A number in the range of an element is what its code stands for. -/
theorem elemNum_ofInt {sg : Bool} {k : Nat} (hk : 0 < k) {t : Int} (hlo : elemMin sg k ≤ t) (hhi : t ≤ elemMax sg k) :
    elemNum sg k (BitVec.ofInt k t).toNat = t := by
  cases sg with
  | false =>
    have hhi : t < 2 ^ k := Int.lt_of_le_sub_one hhi
    have hcode : ((BitVec.ofInt k t).toNat : Int) = t % 2 ^ k := by
      rw [toNat_ofInt_eq_wrapTo, wrapTo, Int.toNat_of_nonneg (Int.emod_nonneg _ (by positivity))]
    exact hcode.trans (Int.emod_eq_of_lt hlo hhi)
  | true =>
    have hhi : t < 2 ^ (k - 1) := Int.lt_of_le_sub_one hhi
    show (BitVec.ofNat k (BitVec.ofInt k t).toNat).toInt = t
    rw [BitVec.ofNat_toNat, BitVec.setWidth_eq]
    exact BitVec.toInt_ofInt_eq_self hk (by simpa [elemMin] using hlo) hhi

/-- The exact sum or difference of two elements. -/
def elemSum (sg sub : Bool) (k a b : Nat) : Int :=
  if sub then elemNum sg k a - elemNum sg k b else elemNum sg k a + elemNum sg k b

theorem satOne_eq (k : Nat) (sg sub : Bool) (a b : Nat) : satOne k sg sub a b =
    (BitVec.ofInt k (clampTo (elemMin sg k) (elemMax sg k) (elemSum sg sub k a b))).toNat := by
  rw [← clampI_eq_clampTo (elemMin_le_elemMax sg k)]
  cases sg <;> rfl

theorem satOne_lt (k : Nat) (sg sub : Bool) (a b : Nat) : satOne k sg sub a b < 2 ^ k := BitVec.isLt _

theorem elemNum_satOne {k : Nat} (hk : 0 < k) (sg sub : Bool) (a b : Nat) : elemNum sg k (satOne k sg sub a b) =
    clampTo (elemMin sg k) (elemMax sg k) (elemSum sg sub k a b) := by
  obtain ⟨hlo, hhi⟩ := clampTo_mem (elemMin_le_elemMax sg k) (elemSum sg sub k a b)
  rw [satOne_eq, elemNum_ofInt hk hlo hhi]

/-- The elements of a type fill a word. -/
theorem satElem_fills (ty : Nat) : 0 < (satElem ty).1 ∧ (satElem ty).1 * (32 / (satElem ty).1) = 32 := by
  unfold satElem
  dsimp only
  split
  · decide
  · split <;> decide

theorem satVal_eq_ofElems (ty : Nat) (sub : Bool) (a b : Nat) : satVal ty sub a b = ofElems (satElem ty).1 (32 / (satElem ty).1)
    fun i => satOne (satElem ty).1 (satElem ty).2 sub (elemOf (satElem ty).1 a i) (elemOf (satElem ty).1 b i) := by
  rw [satVal, foldl_range_add, ofElems]
  exact Finset.sum_congr rfl fun i _ => by rw [elemOf, elemOf, Nat.mul_comm i]

theorem satVal_lt (ty : Nat) (sub : Bool) (a b : Nat) : satVal ty sub a b < 2 ^ 32 := by
  rw [satVal_eq_ofElems]
  exact (ofElems_lt _ fun _ => satOne_lt ..).trans_eq (by rw [(satElem_fills ty).2])

theorem elemNum_satVal (ty : Nat) (sub : Bool) (a b : Nat) {i : Nat} (hi : i < 32 / (satElem ty).1) :
    elemNum (satElem ty).2 (satElem ty).1 (elemOf (satElem ty).1 (satVal ty sub a b) i) =
      clampTo (elemMin (satElem ty).2 (satElem ty).1) (elemMax (satElem ty).2 (satElem ty).1)
        (elemSum (satElem ty).2 sub (satElem ty).1 (elemOf (satElem ty).1 a i) (elemOf (satElem ty).1 b i)) := by
  rw [satVal_eq_ofElems, elemOf_ofElems (fun _ => satOne_lt ..) hi, elemNum_satOne (satElem_fills ty).1]

/-! ### Dot product (R224) -/

theorem byteS_eq_elemNum (x : Word) (i : Nat) (sg : Bool) : byteS x i sg = elemNum sg 8 (elemOf 8 x.toNat i) := by
  have hcode : (x.extractLsb' (8 * i) 8).toNat = elemOf 8 x.toNat i := by
    rw [BitVec.extractLsb'_toNat, Nat.shiftRight_eq_div_pow, elemOf]
  have hbyte : x.extractLsb' (8 * i) 8 = BitVec.ofNat 8 (elemOf 8 x.toNat i) := by
    rw [← hcode, BitVec.ofNat_toNat, BitVec.setWidth_eq]
  cases sg
  · exact congrArg Nat.cast hcode
  · exact congrArg BitVec.toInt hbyte

/-- The exact dot product of two words' bytes, added to c. -/
def dotSum (sa sb : Bool) (a b : Nat) (c : Word) : Int :=
  (if sa || sb then c.toInt else c.toNat) +
    ((List.range 4).map fun i => elemNum sa 8 (elemOf 8 a i) * elemNum sb 8 (elemOf 8 b i)).sum

theorem toNat_dot4 (sa mix sat : Bool) (a b c : Word) : (dot4 sa mix sat a b c).toNat =
    wrapTo 32 (if sat then
        clampTo (elemMin (sa || (sa != mix)) 32) (elemMax (sa || (sa != mix)) 32) (dotSum sa (sa != mix) a.toNat b.toNat c)
      else dotSum sa (sa != mix) a.toNat b.toNat c) := by
  have hsum : (List.range 4).foldl (fun r i => r + byteS a i sa * byteS b i (sa != mix)) 0 =
      ((List.range 4).map fun i => elemNum sa 8 (elemOf 8 a.toNat i) * elemNum (sa != mix) 8 (elemOf 8 b.toNat i)).sum := by
    simp only [foldl_range_add, byteS_eq_elemNum]
    rfl
  rw [← clampI_eq_clampTo (elemMin_le_elemMax _ _), ← toNat_ofInt_eq_wrapTo, dot4, hsum]
  cases sat
  · rfl
  · cases h : sa || (sa != mix) <;> simp [h, dotSum, elemMin, elemMax]

theorem clampTo_elem32 (sg : Bool) (t : Int) : clampTo (elemMin sg 32) (elemMax sg 32) t =
    if sg then clampTo (-(2 ^ 31)) (2 ^ 31 - 1) t else clampTo 0 (2 ^ 32 - 1) t := by
  cases sg <;> rfl

/-! ### Rules that the instruction's fields choose among -/

/-- The rule of IMADW, its extension as the type gives it (R215). -/
theorem Opnd.toNat_imadw (o : Opnd) (l : Nat) :
    let x (c : BitVec 8) : DWord := if o.f.ty = 0 then (o.rd c l).signExtend 64 else (o.rd c l).setWidth 64
    let n (c : BitVec 8) : Int := if o.f.ty = 0 then (o.rd c l).toInt else (o.rd c l).toNat
    (x o.f.a * x o.f.b + o.rd64 o.f.c l).toNat = wrapTo 64 (n o.f.a * n o.f.b + (o.rd64 o.f.c l).toNat) := by
  by_cases hty : o.f.ty = 0
  · simp only [hty, if_true]
    exact toNat_mulAdd true ..
  · simp only [hty, if_false]
    exact toNat_mulAdd false ..

/-- The rule of IBFX, its signedness and its field as the instruction gives them (R220). -/
theorem Opnd.ibfx_rule (o : Opnd) (l : Nat) :
    let c := fieldCtl o o.f o.f.b l
    let w := o.f.tyW
    let p := min (if o.f.bit 16 then o.f.fld 7 0 else (o.rd o.f.b l).toNat % 256) w
    let n := min (if o.f.bit 16 then o.f.fld 15 8 else (o.rd o.f.b l).toNat / 256 % 256) (w - p)
    let x := o.rdN o.f.a l w / 2 ^ p % 2 ^ n
    bitExtract (o.f.ty = 0 || o.f.ty = 2) w (o.rdN o.f.a l w) c.1 c.2 = if o.f.ty = 0 ∨ o.f.ty = 2 then wrapTo w (sval n x) else x := by
  dsimp only
  rw [bitExtract_eq, fieldCtl_eq]
  exact if_congr (by simp) rfl rfl

/-- The rule of IBFI, its field as the instruction gives it (R220). -/
theorem Opnd.ibfi_rule (o : Opnd) {l : Nat} (hb : o.rdN o.f.b l o.f.tyW < 2 ^ o.f.tyW) :
    let c := fieldCtl o o.f o.f.c l
    let w := o.f.tyW
    let r := bitInsert w (o.rdN o.f.a l w) (o.rdN o.f.b l w) c.1 c.2
    let p := min (if o.f.bit 16 then o.f.fld 7 0 else (o.rd o.f.c l).toNat % 256) w
    let n := min (if o.f.bit 16 then o.f.fld 15 8 else (o.rd o.f.c l).toNat / 256 % 256) (w - p)
    r < 2 ^ w ∧ ∀ i < w, r.testBit i =
      if p ≤ i ∧ i < p + n then (o.rdN o.f.a l w).testBit (i - p) else (o.rdN o.f.b l w).testBit i := by
  dsimp only
  rw [fieldCtl_eq]
  exact ⟨bitInsert_lt hb .., fun i _ => testBit_bitInsert ..⟩

/-- The rule of IDOT4, its types as the instruction gives them (R224). -/
theorem Opnd.toNat_idot4 (o : Opnd) {l : Nat} (hl : l ∈ o.lanes) :
    ((dot4 (o.f.ty = 6) (o.f.bit 0) o.i.sat (o.rd o.f.a l) (o.rd o.f.b l) (o.rd o.f.c l)).setWidth 64 : DWord).toNat =
      let sa := o.f.ty = 6
      let sb := if o.f.bit 0 then ¬ sa else sa
      let c : Int := if sa ∨ sb then (o.rd o.f.c l).toInt else (o.rd o.f.c l).toNat
      let t := c + ((List.range 4).map fun i =>
        elemNum (decide sa) 8 (elemOf 8 (o.rdN o.f.a l 32) i) * elemNum (decide sb) 8 (elemOf 8 (o.rdN o.f.b l 32) i)).sum
      wrapTo 32 (if ¬ o.i.sat then t else if sa ∨ sb then clampTo (-(2 ^ 31)) (2 ^ 31 - 1) t else clampTo 0 (2 ^ 32 - 1) t) := by
  have hsb : decide (if o.f.bit 0 then ¬ o.f.ty = 6 else o.f.ty = 6) = (decide (o.f.ty = 6) != o.f.bit 0) := by
    cases o.f.bit 0 <;> simp
  have hsg : (o.f.ty = 6 ∨ if o.f.bit 0 then ¬ o.f.ty = 6 else o.f.ty = 6) ↔
      (decide (o.f.ty = 6) || (decide (o.f.ty = 6) != o.f.bit 0)) = true := by
    rw [← hsb, Bool.or_eq_true, decide_eq_true_iff, decide_eq_true_iff]
  rw [toNat_setWidth_word, toNat_dot4, o.toNat_rd _ hl, o.toNat_rd _ hl]
  simp only [hsb, hsg, ite_not, clampTo_elem32, dotSum]

/-! ### The instructions -/

/-- What a row of the table says of an instruction in a state. -/
def IntAnswers (s : State) (f : XForm) (o : Opnd) (row : (XForm → Instr) × Nat × (Opnd → Nat → Nat → Prop)) : Prop :=
  ∃ v : Nat → DWord, exec (row.1 f) s = .next (o.after s f.len (some v) 0) ∧ ∀ l ∈ o.lanes, row.2.2 o l (v l).toNat

theorem intAnswers_of_extInt {s : State} {f : XForm} {o : Opnd} {row : (XForm → Instr) × Nat × (Opnd → Nat → Nat → Prop)}
    {fn : Opnd → Nat → DWord} (h : Ready s (shapeInt row.2.1 f) f noExtra o) (hexec : exec (row.1 f) s = extInt s row.2.1 f fn)
    (hfn : ∀ l ∈ o.lanes, row.2.2 o l (fn o l).toNat) : IntAnswers s f o row :=
  ⟨fn o, hexec.trans (intOp_ready h), hfn⟩

/-- The rule of a result that the model has as a number. -/
theorem intAnswers_of_number {s : State} {f : XForm} {o : Opnd} {row : (XForm → Instr) × Nat × (Opnd → Nat → Nat → Prop)}
    {g : Opnd → Nat → Nat} (h : Ready s (shapeInt row.2.1 f) f noExtra o)
    (hexec : exec (row.1 f) s = extInt s row.2.1 f fun o l => BitVec.ofNat 64 (g o l)) (hlt : ∀ l ∈ o.lanes, g o l < 2 ^ 64)
    (hg : ∀ l ∈ o.lanes, row.2.2 o l (g o l)) : IntAnswers s f o row := by
  refine intAnswers_of_extInt h hexec fun l hl => ?_
  rw [BitVec.toNat_ofNat, Nat.mod_eq_of_lt (hlt l hl)]
  exact hg l hl

theorem intAnswers_of_unary {s : State} {f : XForm} {o : Opnd} {row : (XForm → Instr) × Nat × (Opnd → Nat → Nat → Prop)}
    {g : Nat → Nat → Nat} (h : Ready s (shapeInt row.2.1 f) f noExtra o) (hexec : exec (row.1 f) s = unary s row.2.1 f g)
    (hlt : ∀ l ∈ o.lanes, g f.tyW (o.rdN f.a l f.tyW) < 2 ^ 64)
    (hg : ∀ l ∈ o.lanes, row.2.2 o l (g f.tyW (o.rdN f.a l f.tyW))) : IntAnswers s f o row :=
  intAnswers_of_number (g := fun o l => g f.tyW (o.rdN f.a l f.tyW)) h hexec hlt hg

/-- Settles O9: each row is an EXT.INT operation, and its value is that of its rule. -/
theorem extendedIntegerResults : Obligations.extended_integer_results := by
  intro row hrow s f o h
  obtain rfl := h.fields
  have ha (l : Nat) (hl : l ∈ o.lanes) := o.rdN_tyW_lt o.f.a hl
  have hb (l : Nat) (hl : l ∈ o.lanes) := o.rdN_tyW_lt o.f.b hl
  show IntAnswers s o.f o row
  simp only [extInteger, List.mem_cons, List.not_mem_nil, or_false] at hrow
  rcases hrow with rfl | rfl | rfl | rfl | rfl | rfl | rfl | rfl | rfl | rfl | rfl | rfl | rfl | rfl | rfl | rfl | rfl | rfl | rfl | rfl |
    rfl | rfl
  · exact intAnswers_of_extInt h (show _ = execIadd64 o.f s from rfl) fun _ _ => BitVec.toNat_add ..
  · exact intAnswers_of_extInt h (show _ = execIsub64 o.f s from rfl) fun _ _ => toNat_sub_dword ..
  · exact intAnswers_of_extInt h (show _ = execImul64 o.f s from rfl) fun _ _ => BitVec.toNat_mul ..
  · exact intAnswers_of_extInt h (show _ = execImadw o.f s from rfl) fun l _ => o.toNat_imadw l
  · exact intAnswers_of_extInt h (show _ = execIaddc o.f s from rfl) fun _ _ => toNat_addCarry ..
  · exact intAnswers_of_extInt h (show _ = execIshl64 o.f s from rfl) fun _ _ => toNat_shlW_bitVec ..
  · exact intAnswers_of_extInt h (show _ = execIshr64 o.f s from rfl) fun _ _ => toNat_shrW_bitVec ..
  · exact intAnswers_of_extInt h (show _ = execIsar64 o.f s from rfl) fun _ _ => toNat_sarW_bitVec ..
  · exact intAnswers_of_extInt h (show _ = execIsel64 o.f s from rfl) fun _ _ => toNat_select ..
  · exact intAnswers_of_number h (show _ = execIabs o.f s from rfl) (fun l hl => lt_dword_of_lt_tyW (absNeg_lt (ha l hl)))
      fun l hl => absNeg_abs (tyW_cases o.f) (ha l hl) _
  · exact intAnswers_of_number h (show _ = execIneg o.f s from rfl) (fun l hl => lt_dword_of_lt_tyW (absNeg_lt (ha l hl)))
      fun l hl => absNeg_neg (tyW_cases o.f) (ha l hl) _
  · exact intAnswers_of_unary h (show _ = unary s 0x0B o.f leadZeros from rfl)
      (fun l hl => lt_dword_of_le_tyW (leadZeros_spec (ha l hl)).1) fun l hl => leadZeros_spec (ha l hl)
  · exact intAnswers_of_unary h (show _ = unary s 0x0C o.f trailZeros from rfl)
      (fun _ _ => lt_dword_of_le_tyW (trailZeros_spec ..).1) fun _ _ => trailZeros_spec ..
  · exact intAnswers_of_unary h (show _ = unary s 0x0D o.f popCount from rfl)
      (fun _ _ => lt_dword_of_le_tyW (popCount_le ..)) fun _ _ => popCount_eq_sum ..
  · exact intAnswers_of_unary h (show _ = unary s 0x0E o.f revBits from rfl)
      (fun _ _ => lt_dword_of_lt_tyW (revBits_lt ..)) fun _ _ => ⟨revBits_lt .., fun _ hi => testBit_revBits hi⟩
  · exact intAnswers_of_number h (show _ = execIbfx o.f s from rfl) (fun l hl => lt_dword_of_lt_tyW (bitExtract_lt (ha l hl) ..))
      fun l _ => o.ibfx_rule l
  · exact intAnswers_of_number h (show _ = execIbfi o.f s from rfl) (fun l hl => lt_dword_of_lt_tyW (bitInsert_lt (hb l hl) ..))
      fun l hl => o.ibfi_rule (hb l hl)
  · exact intAnswers_of_extInt h (show _ = execIfshl o.f s from rfl) fun _ _ => toNat_funnel ..
  · exact intAnswers_of_number h (show _ = execIperm o.f s from rfl) (fun _ _ => lt_dword_of_lt_word (permVal_lt ..))
      fun _ _ => ⟨permVal_lt .., fun _ hi => elemOf_permVal _ _ _ hi⟩
  · exact intAnswers_of_number h (show _ = execIaddsat o.f s from rfl) (fun _ _ => lt_dword_of_lt_word (satVal_lt ..))
      fun _ _ => ⟨satVal_lt .., fun _ hi => elemNum_satVal _ false _ _ hi⟩
  · exact intAnswers_of_number h (show _ = execIsubsat o.f s from rfl) (fun _ _ => lt_dword_of_lt_word (satVal_lt ..))
      fun _ _ => ⟨satVal_lt .., fun _ hi => elemNum_satVal _ true _ _ hi⟩
  · exact intAnswers_of_extInt h (show _ = execIdot4 o.f s from rfl) fun _ hl => o.toNat_idot4 hl

end Sys2Proof.Machine

/-! ## Fused, unary, approximate and integer-conversion float results (O12) -/
namespace Sys2Proof.Machine
open Sys2Proof

/-- An EXT.FLOAT instruction by elements gives in each lane what its operation makes of the lane's element codes (R227, R234). -/
theorem extF_gives {s : State} {xop n : Nat} {o : Opnd} {g : Opnd → Fmt → (Nat → Nat) → Rounded}
    (h : Ready s (shapeFloat xop o.f false) o.f noExtra o) (he : (shapeFloat xop o.f false).exec = .byDst)
    (hd : (shapeFloat xop o.f false).d = dstR n) (hn : n = 32 ∨ n = 64) :
    o.Gives s o.f.len (fun l => perElem o.f.ty.toNat (g o) (o.codes l)) false (extF s xop o.f g) :=
  aluOp_gives h he hd hn

/-- CVTFI's result is as wide as the integer type that it names (R247). -/
theorem shapeFloat_cvtfi_d (f : XForm) : ∃ n, (n = 32 ∨ n = 64) ∧ (shapeFloat 0x1C f false).d = dstR n := by
  by_cases h : f.fld 1 0 < 2
  · exact ⟨32, .inl rfl, by simp only [shapeFloat, if_pos h]⟩
  · exact ⟨64, .inr rfl, by simp only [shapeFloat, if_neg h]⟩

/-- CVTFI converts each element to the integer type that its modifiers name (R247). -/
theorem execCvtfi_gives {s : State} {o : Opnd} (h : Ready s (shapeFloat 0x1C o.f false) o.f noExtra o) :
    o.Gives s o.f.len (fun l => perElem o.f.ty.toNat (fun fm x =>
      toIntElem o.i.w.ftz o.i.rndNoSr fm (intTy o.f.ty.toNat (o.f.fld 1 0)).1 (intTy o.f.ty.toNat (o.f.fld 1 0)).2 (x 0)) (o.codes l))
      false (execCvtfi o.f s) := by
  obtain ⟨n, hn, hd⟩ := shapeFloat_cvtfi_d o.f
  exact extF_gives h rfl hd hn

/-- Each row of the operations by elements gives its rule's value in every lane. -/
theorem extFloat_gives {row : (XForm → Instr) × Nat × (Opnd → Fmt → (Nat → Nat) → Rounded)} (hrow : row ∈ extFloat) {s : State} {o : Opnd}
    (h : Ready s (shapeFloat row.2.1 o.f false) o.f noExtra o) :
    o.Gives s o.f.len (fun l => perElem o.f.ty.toNat (row.2.2 o) (o.codes l)) false (exec (row.1 o.f) s) := by
  simp only [extFloat, List.mem_cons, List.not_mem_nil, or_false] at hrow
  rcases hrow with rfl | rfl | rfl | rfl | rfl | rfl | rfl | rfl | rfl | rfl | rfl | rfl | rfl | rfl | rfl | rfl | rfl | rfl
  on_goal 18 => exact execCvtfi_gives h
  -- Every other row writes 32 bits.
  all_goals exact extF_gives h rfl rfl (.inl rfl)

/-- Settles O12: every instruction here is one by lanes whose destination, of 32 or 64 bits, decides its class, and its value is its
rule's. -/
theorem floatUnaryAndFusedResults : Obligations.float_unary_and_fused_results := by
  refine ⟨fun row hrow s f o h => ?_, fun s f o h => ?_, fun s f o h => ?_, fun s f o h => ?_, fun s f o h => ?_, fun s f o h => ?_⟩
  · obtain rfl := h.fields
    exact extFloat_gives hrow h
  · exact (aluOp_gives h rfl rfl (.inl rfl) : o.Gives s 4 _ false (execFfma f s))
  · exact (aluOp_gives h rfl rfl (.inl rfl) : o.Gives s f.len _ false (execFdot2 f s))
  · obtain rfl := h.fields
    exact (aluOp_gives h rfl rfl (.inl rfl) : o.Gives s o.f.len _ false (execExpr o.f s))
  · exact (aluOp_gives h rfl rfl (.inl rfl) : o.Gives s f.len _ false (execCvtif f s))
  · exact (aluOp_gives h rfl rfl (.inr rfl) : o.Gives s f.len _ false (execRand f s))

end Sys2Proof.Machine


/-! ## An arrival whose own walk ends what it waits for (O39)

R266 has an arrival wait for the releasing fences of its warp, and R483 lets one that freezes views wait for a walker. The statement
judges whether such a fence is outstanding in the state before the arrival; the model judges it once the walk for the object's address is
kept (R389). A leaf that this walk brings may map the page that the fence waits to look for; the fence then waits for nothing more, and
the arrival is made as it issues. The counterexample is a state, not a run. -/
namespace Sys2Proof.Machine
open Sys2Proof

set_option Elab.async false  -- one theorem at a time: beside the text before it, more at once exhaust the threads

/-- A live object that expects two more arrivals of three. -/
def expectingBar : Bar := ⟨3, 2, 0, 0, 1, 0, 0, 0⟩

/-- `freezeState` with a live object at physical address 0, and nothing outstanding but the fence. -/
def arrivalState : State :=
  { freezeState with
    mem := writeLE freezeState.mem 0 expectingBar.toNat 16
    pending := [.fence freezingFence]
    nextId := 8 }

/-- BARR on the object at virtual address 0, an arrival of one. -/
def barrGlobal : XForm := ⟨false, 0, 0, false, 0, 251, 251, 251, 0, 3, none⟩

theorem arrivalState_issues : arrivalState.issuing.isSome = true := by decide +kernel

/-- The arrival with its operands as it issues there. -/
def barrGlobalOpnd : Opnd := ⟨arrivalState.issuing.get arrivalState_issues, barrGlobal, shapeAsync 0x04 barrGlobal⟩

theorem barrGlobal_ready : Ready arrivalState (shapeAsync 0x04 barrGlobal) barrGlobal noExtra barrGlobalOpnd where
  issues := (Option.some_get arrivalState_issues).symm
  fields := rfl
  shape := rfl
  checks := by decide +kernel
  operands := by decide +kernel
  queues := by decide +kernel
  clean := by decide +kernel
  push := ⟨[], by decide +kernel⟩

/-- The object that it names. -/
def arrivalObject : BarRef := ⟨true, barrGlobalOpnd.i.w.wg, 0, keyOf barrGlobalOpnd.i.w.wg.ctx placedLeaf⟩

theorem barrGlobal_address : (barrGlobalOpnd.rd64 barrGlobal.a warpLane).toNat = 0 := by decide +kernel

/-- The object is aligned and in the address space, a walker serves its page, which is mapped, and no line of it is pending. -/
theorem arrivalObject_usable : barrGlobalOpnd.ObjAt arrivalState .both arrivalObject := by
  refine ⟨rfl, by decide +kernel, ?_⟩
  rw [if_pos (by decide +kernel), show (barrGlobalOpnd.rd64 barrGlobalOpnd.f.a warpLane).toNat = 0 from barrGlobal_address]
  have hkept : NoKeptFrame arrivalState arrivalObject.pa := by unfold NoKeptFrame; decide +kernel
  exact ⟨rfl, by decide, by decide +kernel, ⟨placedLeaf, by decide +kernel, rfl⟩, by decide +kernel, by decide +kernel, hkept, rfl⟩

theorem arrivalObject_live : ObjIs (objMem arrivalState arrivalObject) arrivalObject.pa expectingBar :=
  objIs_iff.2 (by decide +kernel)

theorem barrGlobal_unstopped : barrGlobalOpnd.arrivalStop false 0 expectingBar = none := by decide +kernel

/-- The fence is outstanding for the arrival to release. -/
theorem arrivalState_releases : arrivalState.releaseDue barrGlobalOpnd.i.w.key barrGlobalOpnd.i.mask arrivalState.nextId = true := by
  decide +kernel

/-- The walk for the object caches the leaf; the fence waits no more, and no update joins what is outstanding. -/
theorem arrivalState_arrived : (match exec (.barr barrGlobal) arrivalState with
    | .next t => t.pending.length
    | _ => 0) = arrivalState.pending.length := by decide +kernel

/-- Refutes O39: in `arrivalState` a releasing fence of the warp is outstanding, for which the statement promises that the arrival joins
what is. The model asks for it only after it has kept what the arrival's own walk found: the leaf of 1 GiB, which maps the page that the
fence waits to freeze. The fence then waits for nothing more, and the arrival is made at once. -/
theorem not_lateBarrierUpdates : ¬ Obligations.late_barrier_updates := by
  unfold Obligations.late_barrier_updates
  rintro ⟨h, -⟩
  obtain ⟨t, w, g, a, x, ht, -, -, -, -, -, -, hpending, -⟩ := h barrGlobal false arrivalState barrGlobalOpnd arrivalObject expectingBar
    barrGlobal_ready (by decide) arrivalObject_usable arrivalObject_live (by decide +kernel)
    (by rw [if_pos (by decide), barrGlobal_address]; exact barrGlobal_unstopped) arrivalState_releases
  have harrived := arrivalState_arrived
  rw [show exec (.barr barrGlobal) arrivalState = .next t from ht] at harrived
  simp only [hpending, List.length_append, List.length_singleton] at harrived
  omega

end Sys2Proof.Machine


/-! ## Fences (O45) -/
namespace Sys2Proof.Machine
open Sys2Proof

set_option Elab.async false  -- one theorem at a time: beside the text before it, more at once exhaust the threads

/-! ### Completions that change what a warp releases -/

theorem Opnd.complete_eq (o : Opnd) (u : State) (len : Nat) (upd : Warp → Warp) :
    o.complete u len none upd = .next (o.afterUpd u len upd) := rfl

theorem Opnd.afterUpd_mem (o : Opnd) (u : State) (len : Nat) (upd : Warp → Warp) : (o.afterUpd u len upd).mem = u.mem := by
  rw [Opnd.afterUpd, State.retire_mem, o.commit_mem]

theorem Opnd.warpAfter_relLanes {o : Opnd} {upd : Warp → Warp} (hupd : ∀ w, ∃ r, upd w = { w with relLanes := r }) (n : Nat)
    (w : Warp) : ∃ r, o.warpAfter n none upd w = { o.warpAfter n none id w with relLanes := r } := by
  unfold Opnd.warpAfter
  split
  · exact ⟨w.relLanes, rfl⟩
  · exact hupd _

/-- An instruction that completes from a state u with no result, and changes of its warp beside its pops what it releases alone, sends its
threads on, and leaves its warp's registers and phase as they stand in u. -/
theorem Opnd.goes_afterUpd {o : Opnd} {s u : State} {v : Warp} {upd : Warp → Warp} (hv : u.warpAt o.i.w.key = some v)
    (hpcs : v.pcs = o.i.w.pcs) (hregs : RegsKept o.i v) (hfl : u.flights = s.flights)
    (hupd : ∀ w, ∃ r, upd w = { w with relLanes := r }) (len : Nat) :
    ∃ w, Goes s (o.afterUpd u len upd) o.i len o.f.lnd w ∧ RegsKept o.i w ∧ w.phase = v.phase := by
  have hkey : ∀ w, (upd w).key = w.key := fun w => by obtain ⟨r, h⟩ := hupd w; rw [h]; rfl
  have hat : (o.commit u none upd).1.warpAt o.i.w.key = some (o.warpAfter u.nextId none upd v) := by
    rw [State.warpAt_congr (o.commit_warps u none upd)]
    exact State.warpAt_updWarp_same (o.warpAfter_key _ _ hkey) hv
  obtain ⟨r, hw⟩ := o.warpAfter_relLanes hupd u.nextId v
  rw [hw] at hat
  have hbare := o.warpAfter_id_bare u.nextId none v
  have hkept (α : Type) (g : Warp → α) (hg : ∀ w, g w.bare = g w) : g (o.warpAfter u.nextId none id v) = g v := of_bare g hg hbare
  obtain ⟨hv', hs', hx'⟩ := Warp.regs_eq (o.warpAfter_pops_regs u.nextId v)
  obtain ⟨hv, hs, hm, hx, hmode, hflags, hsr⟩ := hregs
  refine ⟨_, ⟨State.warpAt_retire len o.f.lnd _ hat, threadsGo_moveLanes ?_, flightGoesOn_retire hfl⟩,
    ⟨hv'.trans hv, hs'.trans hs, ?_, hx'.trans hx, ?_, ?_, ?_⟩, hkept _ Warp.phase fun _ => rfl⟩
  · exact congrArg (moveLanes (o.i.nxt len) o.i.fl.active) ((hkept _ Warp.pcs fun _ => rfl).trans hpcs)
  · exact (hkept _ Warp.m fun _ => rfl).trans hm
  · exact (hkept _ Warp.mode fun _ => rfl).trans hmode
  · exact (hkept _ Warp.flags fun _ => rfl).trans hflags
  · exact (hkept _ Warp.srseq fun _ => rfl).trans hsr

/-! ### What a translation depends on -/

theorem State.openLine_congr {s t : State} (h : s.mem = t.mem ∧ s.lineKeys = t.lineKeys) (key : List Byte) (write : Bool) (line : Nat) :
    (s.openLine key write line).mem = (t.openLine key write line).mem ∧
      (s.openLine key write line).lineKeys = (t.openLine key write line).lineKeys := by
  obtain ⟨hm, hl⟩ := h
  unfold State.openLine
  rw [hl]
  split
  · split
    exacts [⟨hm, hl⟩, by rw [hm]; exact ⟨rfl, rfl⟩]
  · split
    exacts [⟨hm, rfl⟩, ⟨hm, hl⟩]

/-- Memory is seen alike through the same bytes, line keys and key slots. -/
theorem State.seen_congr {s t : State} (hm : s.mem = t.mem) (hl : s.lineKeys = t.lineKeys) (hk : s.keys = t.keys)
    (htk : s.tableKey = t.tableKey) (key : KeyNo) (pa n : Nat) : s.seen key pa n = t.seen key pa n := by
  have hlines (k : List Byte) (ls : List Nat) {s t : State} (h : s.mem = t.mem ∧ s.lineKeys = t.lineKeys) :
      (ls.foldl (fun t l => t.openLine k false l) s).mem = (ls.foldl (fun t l => t.openLine k false l) t).mem := by
    induction ls generalizing s t with
    | nil => exact h.1
    | cons l ls ih => exact ih (State.openLine_congr h k false l)
  have hkey : s.keyIn key = t.keyIn key := by rw [State.keyIn, hk, htk]; rfl
  unfold State.seen State.openBytes State.openUnder
  rw [hkey]
  split
  exacts [hm, hlines _ _ ⟨hm, hl⟩]

/-- A translation reads tables, keys and what is cached of them, not views. -/
theorem State.translate_views (s : State) (vs : List View) (site ctx va : Nat) (p : Perm) :
    ({ s with views := vs } : State).translate site ctx va p = s.translate site ctx va p := by
  have hword : ({ s with views := vs } : State).tableWord = s.tableWord := by
    funext pa
    rw [State.tableWord, State.seen_congr (s := { s with views := vs }) (t := s) rfl rfl rfl rfl, State.tableWord]
  simp only [State.translate, State.leafFor, State.walk, State.walkAt, hword]
  rfl

theorem State.sourceFrames_views (s : State) (vs : List View) (ctx base n : Nat) :
    ({ s with views := vs } : State).sourceFrames ctx base n = s.sourceFrames ctx base n := by
  induction n with
  | zero => rfl
  | succ n ih => rw [State.sourceFrames, State.sourceFrames, State.translate_views, ih]

/-! ### Views that a fence freezes (R483) -/

/-- A view once a fence freezes what it is to freeze. -/
def State.frozenView (s : State) (id : Nat) (v : View) : View :=
  (s.sourceOf v).elim v fun b => if v.frozen || v.fence ≠ some id then v
    else { v with frozen := true, frames := s.sourceFrames b.ctx b.d.base (b.d.length / 65536) }

theorem State.frozenView_views (s : State) (vs : List View) (id : Nat) (v : View) :
    ({ s with views := vs } : State).frozenView id v = s.frozenView id v := by
  simp only [State.frozenView, State.sourceFrames_views]
  rfl

/-- The state in which the translations of the pages that a fence is to freeze are kept (R389). -/
def State.pagesFound (s : State) (id : Nat) : State := (s.frozenPages id).foldl (fun t x => t.fill newelSite x.1 x.2) s

theorem State.pagesFound_sansCaches (s : State) (id : Nat) : (s.pagesFound id).sansCaches = s.sansCaches := by
  unfold State.pagesFound
  exact foldl_keeps (g := State.sansCaches) (fun t x => t.fill_sansCaches newelSite x.1 x.2) (s.frozenPages id) s

theorem State.freezeViews_eq (s : State) (id : Nat) :
    s.freezeViews id = { s.pagesFound id with views := s.views.map ((s.pagesFound id).frozenView id) } := by
  rw [← of_erased State.sansCaches State.views (fun _ => rfl) (s.pagesFound_sansCaches id), State.freezeViews]
  congr 1
  refine List.map_congr_left fun v _ => ?_
  unfold State.frozenView
  cases hb : (s.pagesFound id).sourceOf v with
  | none => rw [show State.sourceOf (List.foldl _ s _) v = none from hb]; rfl
  | some b => rw [show State.sourceOf (List.foldl _ s _) v = some b from hb]; rfl

theorem State.freezeViews_views (s : State) (id : Nat) : (s.freezeViews id).views = s.views.map ((s.freezeViews id).frozenView id) := by
  rw [State.freezeViews_eq]
  exact List.map_congr_left fun v _ => (State.frozenView_views ..).symm

section
variable {s : State} {id : Nat} {v : View}

theorem State.frozenView_freezes {b : NamedBuffer} (hb : s.sourceOf v = some b) (hid : v.fence = some id) (hv : v.frozen = false) :
    s.frozenView id v = { v with frozen := true, frames := s.sourceFrames b.ctx b.d.base (b.d.length / 65536) } := by
  simp [State.frozenView, hb, hid, hv]

theorem State.frozenView_other (hid : v.fence ≠ some id) : s.frozenView id v = v := by
  unfold State.frozenView
  cases s.sourceOf v <;> simp [hid]

/-- A view that is to be frozen is the same view frozen; any other is as it was. -/
theorem State.frozenView_cases (s : State) (id : Nat) (v : View) :
    s.frozenView id v = v ∨ ∃ m, s.frozenView id v = { v with frozen := true, frames := m } := by
  unfold State.frozenView
  cases s.sourceOf v with
  | none => exact .inl rfl
  | some b =>
    dsimp only [Option.elim_some]
    split
    exacts [.inl rfl, .inr ⟨_, rfl⟩]

theorem State.frozenView_kept (s : State) (id : Nat) (v : View) : (s.frozenView id v).fence = v.fence ∧
    s.sourceOf (s.frozenView id v) = s.sourceOf v ∧ (v.frozen = true → (s.frozenView id v).frozen = true) := by
  obtain h | ⟨m, h⟩ := s.frozenView_cases id v
  · rw [h]
    exact ⟨rfl, rfl, fun hv => hv⟩
  · rw [h]
    exact ⟨rfl, rfl, fun _ => rfl⟩

theorem State.frozenView_frozen (hid : v.fence = some id) (hsome : (s.sourceOf v).isSome = true) : (s.frozenView id v).frozen = true := by
  obtain ⟨b, hb⟩ := Option.isSome_iff_exists.1 hsome
  cases hv : v.frozen with
  | true => exact (s.frozenView_kept id v).2.2 hv
  | false => rw [State.frozenView_freezes hb hid hv]

end

/-! ### What a fence does -/

/-- A state without what a fence may change beside its warp and its flight. -/
def State.sansOrder (s : State) : State :=
  { s.sansCaches with cores := [], pending := [], comms := [], views := [], nextId := 0, spent := [] }

theorem State.eq_of_sansOrder {s u : State} (h : u.sansOrder = s.sansOrder) : u = { s with
    cores := u.cores, pending := u.pending, comms := u.comms, views := u.views, nextId := u.nextId, spent := u.spent, tlb := u.tlb,
    l2 := u.l2, freeCtr := u.freeCtr } := by
  have hu : u = { u.sansOrder with
    cores := u.cores, pending := u.pending, comms := u.comms, views := u.views, nextId := u.nextId, spent := u.spent, tlb := u.tlb,
    l2 := u.l2, freeCtr := u.freeCtr } := rfl
  rw [h] at hu
  exact hu

/-- A state without views and what is cached. -/
def State.sansViews (s : State) : State := { s.sansCaches with views := [] }

theorem State.freezeViews_sansViews (s : State) (id : Nat) : (s.freezeViews id).sansViews = s.sansViews := by
  rw [State.freezeViews_eq]
  have hviews : (s.pagesFound id).sansViews = s.sansViews :=
    of_erased State.sansCaches State.sansViews (fun _ => rfl) (s.pagesFound_sansCaches id)
  exact hviews

/-- The state in which a fence has ordered what it orders and acquired, and is still to freeze views. -/
def State.fenceAcquires (s : State) (f : FenceMark) : State :=
  let t := s.orders f.warp f.lanes f.paths f.id
  if f.paths.getLsbD 0 && (f.ord != 2 || f.paths != 1) then t.dropL1 f.warp.core else t

theorem State.fenceActs_eq (s : State) (f : FenceMark) : s.fenceActs f =
    if f.freezes && !(s.fenceAcquires f).views.isEmpty then (s.fenceAcquires f).freezeViews f.id else s.fenceAcquires f := rfl

section
variable (s : State) (f : FenceMark)

theorem State.fenceAcquires_views : (s.fenceAcquires f).views = s.views := by
  unfold State.fenceAcquires
  dsimp only
  split <;> rfl

theorem State.fenceAcquires_spent : (s.fenceAcquires f).spent = (s.orders f.warp f.lanes f.paths f.id).spent := by
  unfold State.fenceAcquires
  dsimp only
  split <;> rfl

theorem State.fenceAcquires_cores : (s.fenceAcquires f).cores =
    if f.paths.getLsbD 0 && (f.ord != 2 || f.paths != 1) then (s.dropL1 f.warp.core).cores else s.cores := by
  unfold State.fenceAcquires
  dsimp only
  split <;> rfl

/-- A state without L1 copies, what is ordered, and views. -/
def State.sansFence (s : State) : State := { s.sansViews with cores := [], spent := [] }

theorem State.fenceAcquires_sansFence : (s.fenceAcquires f).sansFence = s.sansFence := by
  unfold State.fenceAcquires
  dsimp only
  split <;> rfl

theorem State.fenceActs_sansViews : (s.fenceActs f).sansViews = (s.fenceAcquires f).sansViews := by
  rw [State.fenceActs_eq]
  split
  exacts [State.freezeViews_sansViews .., rfl]

theorem State.fenceActs_views : (s.fenceActs f).views =
    if f.freezes then s.views.map ((s.fenceActs f).frozenView f.id) else s.views := by
  rw [State.fenceActs_eq, ← s.fenceAcquires_views f]
  cases hf : f.freezes with
  | false => rfl
  | true =>
    rw [Bool.true_and, if_pos rfl]
    split
    · exact State.freezeViews_views ..
    next hno =>
      have hnil : (s.fenceAcquires f).views = [] := by simpa using hno
      rw [hnil]
      rfl

theorem State.fenceActs_sansFence : (s.fenceActs f).sansFence = s.sansFence :=
  (of_erased State.sansViews State.sansFence (fun _ => rfl) (s.fenceActs_sansViews f)).trans (s.fenceAcquires_sansFence f)

end

theorem State.fenceActs_of_not_freezing {s : State} {f : FenceMark} (h : f.freezes = false) : s.fenceActs f = s.fenceAcquires f := by
  rw [State.fenceActs_eq, h]
  rfl

/-! ### FENCE as it issues (R271, R273) -/

theorem fencedBy_of_other {i : Iss} {paths : BitVec 5} (h : paths ≠ 1) (p : Pending) : fencedBy i paths p = p := by
  cases p with
  | access a => exact if_neg fun hp => h hp.1
  | fence m => rfl

theorem State.markFenced_eq (s : State) (i : Iss) :
    s.markFenced i.w.key i.fl.active = { s with pending := s.pending.map (fencedBy i 1) } := by
  have hpending : (s.markFenced i.w.key i.fl.active).pending = s.pending.map (fencedBy i 1) := by
    refine List.map_congr_left fun p _ => ?_
    cases p with
    | access a => simp [fencedBy, and_assoc]
    | fence m => rfl
  rw [← hpending]
  rfl

namespace Opnd

/-- The paths that a FENCE names. -/
def fencePaths (o : Opnd) : BitVec 5 := o.f.mod.setWidth 5

/-- A FENCE that acquires at once: it drops its core's L1 lines as it issues (R264). -/
def fenceAcquiring (o : Opnd) : Bool := o.fencePaths.getLsbD 0 && o.f.fld 12 11 != 2

/-- A FENCE at POD with gl: it swaps rank tables (R482). -/
def fenceSwapping (o : Opnd) : Bool := o.f.fld 10 8 = 6 && o.fencePaths.getLsbD 4

/-- The L1 copies that go as a FENCE issues, and the rank tables that become active. -/
def fenceSwaps (o : Opnd) (s : State) : State :=
  let t := if o.fenceAcquiring then s.dropL1 o.i.w.core else s
  if o.fenceSwapping then t.swapTables o.i.w.wg.ctx else t

/-- The fence that a FENCE is, where it has to wait. -/
def fenceMark (o : Opnd) (s : State) : FenceMark :=
  ⟨s.nextId, o.i.w.key, o.i.fl.active, o.f.fld 12 11, o.f.fld 10 8, o.fencePaths,
    s.fenceWaits o.i.w o.i.fl.active (o.f.fld 12 11) o.fencePaths⟩

/-- What a FENCE does as it issues, whether it has to wait or not. -/
def fenceIssues (o : Opnd) (s : State) : State :=
  { s with
    cores := if o.fenceAcquiring then (s.dropL1 o.i.w.core).cores else s.cores
    comms := if o.fenceSwapping then (s.swapTables o.i.w.wg.ctx).comms else s.comms
    views := if (o.fenceMark s).freezes then (s.claimViews o.i.w.wg.ctx s.nextId).views else s.views
    spent := (s.orders o.i.w.key o.i.fl.active o.fencePaths s.nextId).spent
    pending := s.pending.map (fencedBy o.i o.fencePaths) }

/-- The state in which a FENCE completes: it has acted, or it joins what is outstanding. -/
def fenceLeaves (o : Opnd) (s : State) : State :=
  let m := o.fenceMark s
  let t := o.fenceIssues s
  if m.waits.isEmpty && !t.fenceOpen m then t.fenceActs m else { t.fresh with pending := t.pending ++ [.fence m] }

/-- A releasing FENCE marks its threads for their later atomics. -/
def fenceUpd (o : Opnd) (w : Warp) : Warp := if 2 ≤ o.f.fld 12 11 then { w with relLanes := w.relLanes ||| o.i.fl.active } else w

theorem fenceSwapping_iff {o : Opnd} : o.fenceSwapping = true ↔ o.f.fld 10 8 = 6 ∧ o.fencePaths.getLsbD 4 = true := by
  simp only [fenceSwapping, Bool.and_eq_true, decide_eq_true_eq]

end Opnd

theorem State.fenceWaits_dropL1 (s : State) (core : Nat) : (s.dropL1 core).fenceWaits = s.fenceWaits := by
  funext w lanes ord paths
  have hmq (c : Core) : (if c.phys = core then { c with l1 := [] } else c : Core).phys = c.phys ∧
      (if c.phys = core then { c with l1 := [] } else c : Core).mq = c.mq := by
    split <;> exact ⟨rfl, rfl⟩
  simp only [State.fenceWaits, State.dropL1, State.updCore, List.flatMap_map, hmq]
  rfl

section
variable (s : State) (b : Bool)

theorem State.dropL1_if (core : Nat) :
    (if b then s.dropL1 core else s) = { s with cores := if b then (s.dropL1 core).cores else s.cores } := by cases b <;> rfl

theorem State.swapTables_if (ctx : Nat) :
    (if b then s.swapTables ctx else s) = { s with comms := if b then (s.swapTables ctx).comms else s.comms } := by cases b <;> rfl

theorem State.claimViews_if (ctx id : Nat) :
    (if b then s.claimViews ctx id else s) = { s with views := if b then (s.claimViews ctx id).views else s.views } := by cases b <;> rfl

theorem State.markFenced_if (i : Iss) (paths : BitVec 5) :
    (if paths = 1 then s.markFenced i.w.key i.fl.active else s) = { s with pending := s.pending.map (fencedBy i paths) } := by
  split
  next h => rw [State.markFenced_eq, h]
  next h => rw [List.map_congr_left fun p _ => fencedBy_of_other h p, List.map_id']

end

/-- The steps of the model's FENCE before it looks whether it has to wait. -/
theorem Opnd.fenceIssues_eq (o : Opnd) (s : State) :
    let s1 := o.fenceSwaps s
    let s2 := (if (o.fenceMark s).freezes then s1.claimViews o.i.w.wg.ctx s.nextId else s1).orders o.i.w.key o.i.fl.active o.fencePaths
      s.nextId
    s1.nextId = s.nextId ∧ s1.fenceWaits = s.fenceWaits ∧
      (if o.fencePaths = 1 then s2.markFenced o.i.w.key o.i.fl.active else s2) = o.fenceIssues s := by
  have hs : o.fenceSwaps s = { s with
    cores := if o.fenceAcquiring then (s.dropL1 o.i.w.core).cores else s.cores
    comms := if o.fenceSwapping then (s.swapTables o.i.w.wg.ctx).comms else s.comms } := by
    rw [Opnd.fenceSwaps, State.dropL1_if, State.swapTables_if]; rfl
  simp only [State.markFenced_if, State.claimViews_if]
  rw [hs]
  refine ⟨rfl, ?_, rfl⟩
  cases o.fenceAcquiring
  exacts [rfl, s.fenceWaits_dropL1 _]

/-- FENCE completes in the state that it leaves. -/
theorem exec_fence {s : State} {o : Opnd} (h : Ready s (shapeSys 0x00 o.f) o.f noExtra o) :
    exec (.fence o.f) s = .next (o.afterUpd (o.fenceLeaves s) o.f.len o.fenceUpd) := by
  obtain ⟨hid, hwaits, hissues⟩ := o.fenceIssues_eq s
  rw [show exec (.fence o.f) s = execFence o.f s from rfl, execFence, operate_ready h, Opnd.fenceLeaves, ← hissues, Opnd.fenceMark,
    ← hid, ← hwaits]
  rfl

/-! ### What a FENCE waits for (R271) -/

theorem mem_fenceAccesses {s : State} {k : WarpKey} {lanes : LaneMask} {ord : Nat} {paths : BitVec 5} {id : Nat} :
    id ∈ s.fenceAccesses k lanes ord paths ↔ ∃ a : Access, .access a ∈ s.pending ∧ a.id = id ∧ a.warp = k ∧ a.threads &&& lanes ≠ 0 ∧
      a.kind.onBar = false ∧
      (paths.getLsbD (if a.kind.near then 3 else 0) = true ∨ (ord ≠ 2 ∧ a.kind.atomic = true ∧ a.kind.near = false)) ∧
      ¬ (ord = 1 ∧ paths = 1 ∧ a.kind = .store) := by
  unfold State.fenceAccesses
  rw [List.mem_filterMap]
  constructor
  · rintro ⟨p, hp, h⟩
    cases p with
    | access a =>
      simp only [Option.ite_none_right_eq_some] at h
      obtain ⟨hc, hid⟩ := h
      refine ⟨a, hp, Option.some.inj hid, ?_⟩
      simpa only [Bool.and_eq_true, Bool.or_eq_true, decide_eq_true_eq, bne_iff_ne, Bool.not_eq_true', ← Bool.not_eq_true, beq_iff_eq,
        and_assoc] using hc
    | fence m => cases h
  · rintro ⟨a, ha, rfl, h⟩
    refine ⟨_, ha, if_pos ?_⟩
    simpa only [Bool.and_eq_true, Bool.or_eq_true, decide_eq_true_eq, bne_iff_ne, Bool.not_eq_true', ← Bool.not_eq_true, beq_iff_eq,
      and_assoc] using h

theorem mem_fenceWaits {s : State} {i : Iss} {ord : Nat} {paths : BitVec 5} {id : Nat} :
    id ∈ s.fenceWaits i.w i.fl.active ord paths ↔ FenceOrders s i ord paths id := by
  have hcopies : id ∈ s.fenceCopies i.w ↔ (∃ r ∈ s.records, r.id = id ∧ r.warp = i.w.key) ∨
      (∃ g ∈ s.storeGroups, g.id = id ∧ g.warp = i.w.key) ∨ ∃ q ∈ i.w.q, id ∈ q.2.open_ := by
    simp [State.fenceCopies, List.mem_filterMap, and_comm]
  have hmatrix : (id ∈ s.cores.flatMap fun c => if c.phys = i.w.core then c.mq.filterMap fun e =>
      if e.ofWarp i.w.idx then some e.id else none else []) ↔
      ∃ c ∈ s.cores, c.phys = i.w.core ∧ ∃ e ∈ c.mq, e.id = id ∧ e.ofWarp i.w.idx = true := by
    rw [List.mem_flatMap]
    refine exists_congr fun c => and_congr_right fun _ => ?_
    split <;> simp_all [List.mem_filterMap, and_comm]
  have hgallery : (id ∈ s.galOps.filterMap fun o => if o.warp = i.w.key && o.wg = i.w.wg && !o.doneHere then some o.id else none) ↔
      ∃ g ∈ s.galOps, g.id = id ∧ g.warp = i.w.key ∧ g.wg = i.w.wg ∧ g.doneHere = false := by
    simp only [List.mem_filterMap, Option.ite_none_right_eq_some, Bool.and_eq_true, decide_eq_true_eq, Bool.not_eq_true', and_assoc]
    refine exists_congr fun g => and_congr_right fun _ => ?_
    rw [Option.some.injEq]
    tauto
  have hif (b : Bool) (l : List Nat) : (id ∈ if b then l else []) ↔ b = true ∧ id ∈ l := by cases b <;> simp
  simp only [State.fenceWaits, FenceOrders, List.mem_append, hif, mem_fenceAccesses, hcopies, hmatrix, hgallery, or_assoc]

theorem Opnd.fenceMark_freezes {o : Opnd} {s : State} : (o.fenceMark s).freezes = true ↔ freezing o.f := by
  have hbit : (o.f.mod.setWidth 5).getLsbD 4 = o.f.mod.getLsbD 4 := by simp
  rw [show (o.fenceMark s).freezes = (decide (o.f.fld 10 8 = 6) && decide (2 ≤ o.f.fld 12 11) && (o.f.mod.setWidth 5).getLsbD 4) from rfl]
  simp only [freezing, XForm.bit, hbit, Bool.and_eq_true, decide_eq_true_eq, and_assoc]

/-- A fence of which nothing is open, nor a walker busy where it freezes views, waits no more. -/
theorem State.fenceOpen_eq_false {s : State} {f : FenceMark} (hwaits : ∀ id ∈ f.waits, s.idOpen id = false)
    (hserved : f.freezes = true → ∀ c va, s.walkersBusy newelSite c va = false) : s.fenceOpen f = false := by
  have hopen : f.waits.any s.idOpen = false := List.any_eq_false.2 fun id h => by rw [hwaits id h]; exact Bool.false_ne_true
  unfold State.fenceOpen
  cases hf : f.freezes with
  | false => rw [hopen]; rfl
  | true => simp [hopen, hserved hf]

theorem State.dropL1_twice (s : State) (core : Nat) : ((s.dropL1 core).dropL1 core).cores = (s.dropL1 core).cores := by
  refine (List.map_map ..).trans (List.map_congr_left fun c _ => ?_)
  dsimp only [Function.comp_apply]
  split <;> simp_all

/-- A fence claims the unclaimed views of a context and no other. -/
theorem State.claimViews_get (s : State) (ctx id : Nat) {j : Nat} {v : View} (hv : s.views[j]? = some v) :
    ∃ w, (s.claimViews ctx id).views[j]? = some w ∧
      (∀ b, v.fence = none → s.sourceOf v = some b → b.ctx = ctx → w = { v with fence := some id }) ∧
      (v.fence ≠ none → w = v) ∧ ((∀ b, s.sourceOf v = some b → b.ctx ≠ ctx) → w = v) := by
  refine ⟨_, (List.getElem?_map ..).trans (congrArg (Option.map _) hv), fun b hnone hb hctx => ?_, fun hheld => ?_, fun hforeign => ?_⟩
  · simp [hnone, hb, hctx]
  · simp [hheld]
  · cases hb : s.sourceOf v with
    | none => simp [hb]
    | some b => simp [hb, hforeign b hb]

/-! ### What a FENCE leaves (R264, R271, R482, R483) -/

namespace Opnd
variable {o : Opnd} {s : State}

theorem fenceLeaves_of_waits (h : (o.fenceMark s).waits ≠ []) :
    o.fenceLeaves s = { (o.fenceIssues s).fresh with pending := (o.fenceIssues s).pending ++ [.fence (o.fenceMark s)] } := by
  simp [fenceLeaves, h]

theorem fenceLeaves_of_acts (h : (o.fenceMark s).waits = []) (hserved : freezing o.f → ∀ c va, s.walkersBusy newelSite c va = false) :
    o.fenceLeaves s = (o.fenceIssues s).fenceActs (o.fenceMark s) := by
  have hopen : (o.fenceIssues s).fenceOpen (o.fenceMark s) = false :=
    State.fenceOpen_eq_false (by simp [h]) fun hf => hserved (fenceMark_freezes.1 hf)
  simp [fenceLeaves, h, hopen]

theorem fenceLeaves_sansOrder (o : Opnd) (s : State) : (o.fenceLeaves s).sansOrder = s.sansOrder := by
  unfold fenceLeaves
  dsimp only
  split
  · exact (of_erased State.sansFence State.sansOrder (fun _ => rfl) ((o.fenceIssues s).fenceActs_sansFence (o.fenceMark s))).trans rfl
  · rfl

/-- A FENCE that freezes nothing now leaves translations, lines in use and free values alone. -/
theorem fenceLeaves_caches (hserved : freezing o.f → ∀ c va, s.walkersBusy newelSite c va = false)
    (h : ¬ freezing o.f ∨ (o.fenceMark s).waits ≠ []) :
    (o.fenceLeaves s).tlb = s.tlb ∧ (o.fenceLeaves s).l2 = s.l2 ∧ (o.fenceLeaves s).freeCtr = s.freeCtr := by
  by_cases hw : (o.fenceMark s).waits = []
  · have hfreeze : (o.fenceMark s).freezes = false := Bool.eq_false_iff.2 fun hf => h.elim (absurd (fenceMark_freezes.1 hf)) (absurd hw)
    rw [fenceLeaves_of_acts hw hserved, State.fenceActs_of_not_freezing hfreeze]
    unfold State.fenceAcquires
    dsimp only
    split <;> exact ⟨rfl, rfl, rfl⟩
  · rw [fenceLeaves_of_waits hw]
    exact ⟨rfl, rfl, rfl⟩

section
variable (hserved : freezing o.f → ∀ c va, s.walkersBusy newelSite c va = false)
include hserved

theorem fenceLeaves_spent : (o.fenceLeaves s).spent = (s.orders o.i.w.key o.i.fl.active o.fencePaths s.nextId).spent := by
  by_cases hw : (o.fenceMark s).waits = []
  · rw [fenceLeaves_of_acts hw hserved, of_erased State.sansViews State.spent (fun _ => rfl) (State.fenceActs_sansViews ..),
      State.fenceAcquires_spent]
    refine (List.filter_filter ..).trans (List.filter_congr fun e _ => ?_)
    exact Bool.and_self _
  · rw [fenceLeaves_of_waits hw]
    rfl

theorem fenceLeaves_comms : (o.fenceLeaves s).comms = if o.fenceSwapping then (s.swapTables o.i.w.wg.ctx).comms else s.comms := by
  by_cases hw : (o.fenceMark s).waits = []
  · rw [fenceLeaves_of_acts hw hserved, of_erased State.sansFence State.comms (fun _ => rfl) (State.fenceActs_sansFence ..)]
    rfl
  · rw [fenceLeaves_of_waits hw]
    rfl

/-- At POD with gl every pending rank table of the context becomes active (R482). -/
theorem fenceLeaves_swaps (hscope : o.f.fld 10 8 = 6) (hgl : o.fencePaths.getLsbD 4 = true) : (o.fenceLeaves s).comms = s.comms.map
    fun (c : Comm) => if c.ctx = o.i.w.wg.ctx ∧ c.pend = true ∧ c.frozen = false then { c with act := !c.act, pend := false } else c := by
  rw [fenceLeaves_comms hserved, if_pos (fenceSwapping_iff.2 ⟨hscope, hgl⟩)]
  refine List.map_congr_left fun c _ => ?_
  simp only [Bool.and_eq_true, decide_eq_true_eq, Bool.not_eq_true', and_assoc]

theorem fenceLeaves_cores : (o.fenceLeaves s).cores =
    if o.fencePaths.getLsbD 0 = true ∧ (o.f.fld 12 11 ≠ 2 ∨ (o.fencePaths ≠ 1 ∧ (o.fenceMark s).waits = []))
    then (s.dropL1 o.i.w.core).cores else s.cores := by
  have hissues : (o.fenceIssues s).cores =
      if o.fencePaths.getLsbD 0 = true ∧ o.f.fld 12 11 ≠ 2 then (s.dropL1 o.i.w.core).cores else s.cores := by
    rw [show (o.fenceIssues s).cores = if o.fenceAcquiring then (s.dropL1 o.i.w.core).cores else s.cores from rfl]
    simp only [fenceAcquiring, Bool.and_eq_true, bne_iff_ne]
  by_cases hw : (o.fenceMark s).waits = []
  · have hacts : (o.fenceLeaves s).cores = if o.fencePaths.getLsbD 0 && (o.f.fld 12 11 != 2 || o.fencePaths != 1)
        then ((o.fenceIssues s).dropL1 o.i.w.core).cores else (o.fenceIssues s).cores := by
      rw [fenceLeaves_of_acts hw hserved, of_erased State.sansViews State.cores (fun _ => rfl) (State.fenceActs_sansViews ..),
        State.fenceAcquires_cores]
      rfl
    have htwice : ((o.fenceIssues s).dropL1 o.i.w.core).cores = (s.dropL1 o.i.w.core).cores := by
      unfold fenceIssues State.dropL1 State.updCore
      dsimp only
      cases o.fenceAcquiring
      exacts [rfl, s.dropL1_twice _]
    rw [hacts, htwice, hissues]
    simp only [Bool.and_eq_true, Bool.or_eq_true, bne_iff_ne, hw, and_true]
    split
    · rfl
    next h => rw [if_neg fun h' => h ⟨h'.1, .inl h'.2⟩]
  · rw [fenceLeaves_of_waits hw]
    simpa [hw] using hissues

theorem fenceLeaves_pending_of_acts (hw : (o.fenceMark s).waits = []) :
    (o.fenceLeaves s).pending = s.pending.map (fencedBy o.i o.fencePaths) ∧ (o.fenceLeaves s).nextId = s.nextId := by
  have hsame := (o.fenceIssues s).fenceActs_sansFence (o.fenceMark s)
  rw [fenceLeaves_of_acts hw hserved]
  exact ⟨of_erased State.sansFence State.pending (fun _ => rfl) hsame,
    (of_erased State.sansFence State.nextId (fun _ => rfl) hsame).trans rfl⟩

theorem fenceLeaves_views : (o.fenceLeaves s).views =
    if (o.fenceMark s).freezes then
      if (o.fenceMark s).waits = [] then (s.claimViews o.i.w.wg.ctx s.nextId).views.map ((o.fenceLeaves s).frozenView s.nextId)
      else (s.claimViews o.i.w.wg.ctx s.nextId).views
    else s.views := by
  have hissues : (o.fenceIssues s).views =
      if (o.fenceMark s).freezes then (s.claimViews o.i.w.wg.ctx s.nextId).views else s.views := rfl
  by_cases hw : (o.fenceMark s).waits = []
  · have hacts := State.fenceActs_views (o.fenceIssues s) (o.fenceMark s)
    rw [← fenceLeaves_of_acts hw hserved, hissues] at hacts
    rw [hacts, if_pos hw]
    cases (o.fenceMark s).freezes <;> rfl
  · rw [if_neg hw, fenceLeaves_of_waits hw]
    exact hissues

end

theorem fenceMark_waits : (o.fenceMark s).waits ≠ [] ↔ ∃ id, FenceOrders s o.i (o.f.fld 12 11) o.fencePaths id :=
  ⟨fun h => (List.exists_mem_of_ne_nil _ h).imp fun _ => mem_fenceWaits.1, fun ⟨_, h⟩ => List.ne_nil_of_mem (mem_fenceWaits.2 h)⟩

/-- What is still unordered of another path after a FENCE (R269). -/
theorem mem_spent_fenceLeaves (hserved : freezing o.f → ∀ c va, s.walkersBusy newelSite c va = false) (e : Spent) :
    e ∈ (o.fenceLeaves s).spent ↔ e ∈ s.spent ∧ ¬ (e.warp = o.i.w.key ∧ e.threads &&& o.i.fl.active ≠ 0 ∧ e.id < s.nextId ∧
      o.fencePaths.getLsbD e.kind.path = true) := by
  rw [fenceLeaves_spent hserved, State.orders, List.mem_filter]
  refine and_congr_right fun _ => ?_
  simp only [Bool.not_eq_true', ← Bool.not_eq_true, Bool.and_eq_true, decide_eq_true_eq, bne_iff_ne]
  tauto

theorem fenceLeaves_goes (hi : s.issuing = some o.i) :
    let t := o.afterUpd (o.fenceLeaves s) o.f.len o.fenceUpd
    ∃ w, Goes s t o.i o.f.len o.f.lnd w ∧ RegsKept o.i w ∧ SameMemory s t := by
  have hsame := o.fenceLeaves_sansOrder s
  have hwarp : (o.fenceLeaves s).warpAt o.i.w.key = some o.i.w :=
    (of_erased State.sansOrder (State.warpAt · o.i.w.key) (fun _ => rfl) hsame).trans (State.issuing_warpAt hi)
  have hupd : ∀ w, ∃ r, o.fenceUpd w = { w with relLanes := r } := fun w => by
    unfold fenceUpd
    split
    exacts [⟨_, rfl⟩, ⟨w.relLanes, rfl⟩]
  obtain ⟨w, hgoes, hregs, -⟩ := o.goes_afterUpd (s := s) hwarp rfl (RegsKept.refl _)
    (of_erased State.sansOrder State.flights (fun _ => rfl) hsame) hupd o.f.len
  refine ⟨w, hgoes, hregs, fun a => ?_⟩
  rw [o.afterUpd_mem, of_erased State.sansOrder State.mem (fun _ => rfl) hsame]

/-- A view that a fence leaves claimed or as it was, frozen where the fence has acted on its claim (R483). -/
theorem view_fenceLeaves (hserved : freezing o.f → ∀ c va, s.walkersBusy newelSite c va = false) (hf : freezing o.f) {j : Nat} {v : View}
    (hv : s.views[j]? = some v) : ∃ v', (o.fenceLeaves s).views[j]? = some v' ∧
      (∀ b, v.fence = none → v.frozen = false → s.sourceOf v = some b → b.ctx = o.i.w.wg.ctx →
        ((o.fenceMark s).waits ≠ [] → v' = { v with fence := some s.nextId }) ∧
        ((o.fenceMark s).waits = [] → v' = { v with
          fence := some s.nextId, frozen := true, frames := (o.fenceLeaves s).sourceFrames b.ctx b.d.base (b.d.length / 65536) })) ∧
      ((∃ n, v.fence = some n ∧ n ≠ s.nextId) → v' = v) ∧
      ((∀ b, s.sourceOf v = some b → b.ctx ≠ o.i.w.wg.ctx) → v.fence = none → v' = v) := by
  obtain ⟨w, hw, hclaimed, hheld, hforeign⟩ := s.claimViews_get o.i.w.wg.ctx s.nextId hv
  have hbuffers := of_erased State.sansOrder State.buffers (fun _ => rfl) (o.fenceLeaves_sansOrder s)
  have hviews := fenceLeaves_views hserved
  rw [if_pos (fenceMark_freezes.2 hf)] at hviews
  by_cases hwaits : (o.fenceMark s).waits = []
  · rw [if_pos hwaits] at hviews
    refine ⟨(o.fenceLeaves s).frozenView s.nextId w, ?_, fun b hnone hthawed hb hctx => ⟨absurd hwaits, fun _ => ?_⟩,
      fun ⟨n, hn, hne⟩ => ?_, fun hctx hnone => ?_⟩
    · rw [hviews, List.getElem?_map, hw]; rfl
    · obtain rfl := hclaimed b hnone hb hctx
      refine State.frozenView_freezes (id := s.nextId) (v := { v with fence := some s.nextId }) ?_ rfl hthawed
      rw [← hb, State.sourceOf, hbuffers]
      rfl
    · obtain rfl := hheld (by rw [hn]; exact Option.some_ne_none _)
      exact State.frozenView_other (by rw [hn]; exact fun h => hne (Option.some.inj h))
    · obtain rfl := hforeign hctx
      exact State.frozenView_other (by rw [hnone]; exact (Option.some_ne_none _).symm)
  · rw [if_neg hwaits] at hviews
    exact ⟨w, hviews ▸ hw, fun b hnone _ hb hctx => ⟨fun _ => hclaimed b hnone hb hctx, fun h => absurd h hwaits⟩,
      fun ⟨n, hn, _⟩ => hheld (by rw [hn]; exact Option.some_ne_none _), fun hctx _ => hforeign hctx⟩

end Opnd

/-! ### Fences that wait no more (R271, R483) -/

theorem State.fenceActs_sansOrder (s : State) (f : FenceMark) : (s.fenceActs f).sansOrder = s.sansOrder :=
  of_erased State.sansFence State.sansOrder (fun _ => rfl) (s.fenceActs_sansFence f)

/-- What one step of a fold brings about, and every step keeps, holds after the fold. -/
theorem foldl_establishes {α β : Type} {P : α → Prop} {f : α → β → α} {b : β} (hset : ∀ a, P (f a b)) (hkeep : ∀ a c, P a → P (f a c))
    {l : List β} (hb : b ∈ l) (a : α) : P (l.foldl f a) := by
  obtain ⟨l₁, l₂, rfl⟩ := List.append_of_mem hb
  rw [List.foldl_append, List.foldl_cons]
  exact List.foldlRecOn l₂ f (hset _) fun a ha c _ => hkeep a c ha

/-- A core's L1 holds no line. -/
def State.L1Empty (s : State) (core : Nat) : Prop := ∀ c ∈ s.cores, c.phys = core → c.l1 = []

theorem State.L1Empty.l1Copy {s : State} {core : Nat} (h : s.L1Empty core) (key : KeyNo) (line : Nat) : s.l1Copy core key line = none := by
  unfold State.l1Copy
  cases hc : s.coreAt core with
  | none => rfl
  | some c =>
    have hempty : c.l1 = [] := h c (List.mem_of_find?_eq_some hc) (by simpa using List.find?_some hc)
    rw [Option.bind_some, hempty]
    rfl

theorem mem_dropL1_cores {s : State} {core : Nat} {c : Core} (h : c ∈ (s.dropL1 core).cores) :
    (c.phys = core ∧ c.l1 = []) ∨ (c.phys ≠ core ∧ c ∈ s.cores) := by
  obtain ⟨x, hx, rfl⟩ := List.mem_map.1 h
  dsimp only
  split
  next hc => exact .inl ⟨hc, rfl⟩
  next hc => exact .inr ⟨hc, hx⟩

/-- The views of a registered buffer that a fence of a number has claimed are frozen. -/
def State.ViewsFrozen (s : State) (id : Nat) : Prop :=
  ∀ v ∈ s.views, v.fence = some id → (s.sourceOf v).isSome = true → v.frozen = true

section
variable (s : State) (f : FenceMark)

theorem State.fenceActs_cores : (s.fenceActs f).cores =
    if f.paths.getLsbD 0 && (f.ord != 2 || f.paths != 1) then (s.dropL1 f.warp.core).cores else s.cores :=
  (of_erased State.sansViews State.cores (fun _ => rfl) (s.fenceActs_sansViews f)).trans (s.fenceAcquires_cores f)

theorem State.fenceActs_sourceOf (v : View) : (s.fenceActs f).sourceOf v = s.sourceOf v :=
  of_erased State.sansFence (State.sourceOf · v) (fun _ => rfl) (s.fenceActs_sansFence f)

variable {f} in
theorem State.l1Empty_fenceActs (h : f.paths.getLsbD 0 = true ∧ (f.ord ≠ 2 ∨ f.paths ≠ 1)) : (s.fenceActs f).L1Empty f.warp.core := by
  unfold State.L1Empty
  rw [State.fenceActs_cores, if_pos (by simpa using h)]
  exact fun c hc hphys => (mem_dropL1_cores hc).elim And.right fun hother => absurd hphys hother.1

variable {f} in
theorem State.viewsFrozen_fenceActs (h : f.freezes = true) : (s.fenceActs f).ViewsFrozen f.id := by
  have hviews := s.fenceActs_views f
  rw [if_pos h] at hviews
  unfold State.ViewsFrozen
  rw [hviews]
  intro v hv hid hsome
  obtain ⟨u, -, rfl⟩ := List.mem_map.1 hv
  obtain ⟨hfence, hsource, -⟩ := (s.fenceActs f).frozenView_kept f.id u
  exact State.frozenView_frozen (hfence ▸ hid) (hsource ▸ hsome)

variable {s}

theorem State.L1Empty.fenceActs {core : Nat} (h : s.L1Empty core) : (s.fenceActs f).L1Empty core := by
  unfold State.L1Empty
  rw [State.fenceActs_cores]
  split
  · exact fun c hc hphys => (mem_dropL1_cores hc).elim And.right fun hother => h c hother.2 hphys
  · exact h

theorem State.ViewsFrozen.fenceActs {id : Nat} (h : s.ViewsFrozen id) : (s.fenceActs f).ViewsFrozen id := by
  intro v hv hid hsome
  rw [State.fenceActs_views] at hv
  split at hv
  · obtain ⟨u, hu, rfl⟩ := List.mem_map.1 hv
    obtain ⟨hfence, hsource, hfrozen⟩ := (s.fenceActs f).frozenView_kept f.id u
    rw [hsource, State.fenceActs_sourceOf] at hsome
    exact hfrozen (h u hu (hfence ▸ hid) hsome)
  · rw [State.fenceActs_sourceOf] at hsome
    exact h v hv hid hsome

end

/-- What is settled where a fence waits no more: it has acted, among others, and is gone. -/
theorem State.settle_of_done {s : State} {m : FenceMark} (hm : .fence m ∈ s.pending) (hopen : s.endPasses.fenceOpen m = false) :
    ∃ (done : List FenceMark) (t : State), s.settle = done.foldl State.fenceActs t ∧ m ∈ done ∧ .fence m ∉ t.pending ∧
      t.sansOrder = s.endPasses.sansOrder := by
  have hpending : s.endPasses.pending = s.pending := by
    unfold State.endPasses
    split <;> rfl
  rw [← hpending] at hm
  unfold State.settle
  dsimp only
  split
  next hnone =>
    rw [List.isEmpty_iff, List.filterMap_eq_nil_iff] at hnone
    exact absurd (hnone _ hm) (by simp [hopen])
  · refine ⟨_, _, rfl, List.mem_filterMap.2 ⟨_, hm, by simp [hopen]⟩, fun h => ?_, rfl⟩
    have hpass := (List.mem_filter.1 h).2
    dsimp only at hpass
    rw [hopen] at hpass
    cases hpass

theorem State.endPasses_sansPasses (s : State) : ({ s.endPasses with passes := [] } : State) = { s with passes := [] } := by
  unfold State.endPasses
  split <;> rfl

section
variable {s : State} {m : FenceMark} (hm : .fence m ∈ s.pending) (hwaits : ∀ id ∈ m.waits, s.idOpen id = false)
  (hserved : m.freezes = true → ∀ c va, s.walkersBusy newelSite c va = false)
include hm hwaits hserved

/-- A fence of which nothing is open, nor a walker busy where it freezes views, is gone once things settle, and has acted. -/
theorem State.settle_of_fence : .fence m ∉ s.settle.pending ∧ SameMemory s s.settle ∧ s.settle.warps = s.warps ∧ s.settle.wgs = s.wgs ∧
    s.settle.buffers = s.buffers ∧ (m.paths.getLsbD 0 = true ∧ (m.ord ≠ 2 ∨ m.paths ≠ 1) → s.settle.L1Empty m.warp.core) ∧
    (m.freezes = true → s.settle.ViewsFrozen m.id) := by
  have hpasses {α : Type} (g : State → α) (hg : ∀ t : State, g { t with passes := [] } = g t) : g s.endPasses = g s :=
    of_erased (fun t => { t with passes := [] }) g hg s.endPasses_sansPasses
  have hopen : s.endPasses.fenceOpen m = false := (hpasses (State.fenceOpen · m) fun _ => rfl).trans (State.fenceOpen_eq_false hwaits hserved)
  obtain ⟨done, t, hsettle, hdone, hgone, hsame⟩ := State.settle_of_done hm hopen
  have hfold := foldl_keeps (g := State.sansOrder) State.fenceActs_sansOrder done t
  have hkept {α : Type} (g : State → α) (hg : ∀ t, g t.sansOrder = g t) (hg' : ∀ t : State, g { t with passes := [] } = g t) :
      g s.settle = g s := by
    rw [hsettle, of_erased State.sansOrder g hg (hfold.trans hsame), hpasses g hg']
  refine ⟨?_, fun a => by rw [State.settle_mem], hkept State.warps (fun _ => rfl) fun _ => rfl, hkept State.wgs (fun _ => rfl) fun _ => rfl,
    hkept State.buffers (fun _ => rfl) fun _ => rfl, fun hdrop => ?_, fun hf => ?_⟩
  · have hpending (t : State) (f : FenceMark) : (t.fenceActs f).pending = t.pending :=
      of_erased State.sansFence State.pending (fun _ => rfl) (t.fenceActs_sansFence f)
    rw [hsettle, foldl_keeps (g := State.pending) hpending]
    exact hgone
  · rw [hsettle]
    exact foldl_establishes (P := (State.L1Empty · m.warp.core)) (fun t => t.l1Empty_fenceActs hdrop) (fun t f h => h.fenceActs f) hdone t
  · rw [hsettle]
    exact foldl_establishes (P := (State.ViewsFrozen · m.id)) (fun t => t.viewsFrozen_fenceActs hf) (fun t f h => h.fenceActs f) hdone t

end

end Sys2Proof.Machine


/-! ## Commit tokens (O45) -/
namespace Sys2Proof.Machine
open Sys2Proof

set_option Elab.async false  -- one theorem at a time: beside the text before it, more at once exhaust the threads

/-! ### TOKWAIT, TOKPASS and PHASE (R281, R283) -/

section
variable {s : State} {f : XForm} {o : Opnd}

theorem exec_tokwait (h : Ready s (shapeSys 0x07 f) f noExtra o) : exec (.tokwait f) s =
    if !o.i.gr.rec_.det then raise s o.i 0x0E9
    else if f.bit 0 then
      (if o.i.w.phase ≤ o.i.gr.phase then o.complete (s.dropL1 o.i.w.core) f.len none id else .next (s.block o.i .tokenPhase))
    else if s.turnEnded o.i o.i.w.phase then raise s o.i 0x0E8
    else if s.turnReady o.i.w.wg o.i.w.phase then o.complete (s.dropL1 o.i.w.core) f.len none id
    else .next (s.block o.i .token) := by
  rw [show exec (.tokwait f) s = execTokwait f s from rfl, execTokwait, operate_ready h]

/-- A workgroup that ends its turn of a phase, once. -/
def Workgroup.endTurn (g : Workgroup) (p id : Nat) (begun : Bool) : Workgroup :=
  if (g.ends.find p).isSome then g
  else { g with ends := g.ends.put p id, endedIn := if begun then g.endedIn ++ [p] else g.endedIn }

theorem exec_tokpass (h : Ready s (shapeSys 0x08 f) f noExtra o) : exec (.tokpass f) s =
    if !o.i.gr.rec_.det then raise s o.i 0x0E9
    else o.complete (s.updWg o.i.w.wg fun g => g.endTurn o.i.w.phase s.nextId (o.i.gr.turnBegun o.i.w.wg.wgid o.i.w.phase)) f.len none id := by
  rw [show exec (.tokpass f) s = execTokpass f s from rfl, execTokpass, operate_ready h]
  rfl

theorem exec_phase (h : Ready s (shapeSys 0x09 f) f noExtra o) : exec (.phase f) s =
    if !o.i.gr.rec_.det then raise s o.i 0x0E9
    else o.complete ((s.updWarp o.i.w.key fun w => { w with phase := w.phase + 1 }).notePhases o.i.w.wg) f.len none id := by
  rw [show exec (.phase f) s = execPhase f s from rfl, execPhase, operate_ready h]

/-- An acquire of the core's L1 and nothing else. -/
theorem Opnd.acquires_complete (hi : s.issuing = some o.i) (len : Nat) :
    ∃ t w, o.complete (s.dropL1 o.i.w.core) len none id = .next t ∧ Goes s t o.i len o.f.lnd w ∧ RegsKept o.i w ∧ SameMemory s t ∧
      t.wgs = s.wgs ∧ ∀ key l, t.l1Copy o.i.w.core key l = none := by
  obtain ⟨t, w, ht, hgoes, hregs, -, hmem, hwgs, hcores⟩ := o.goes_complete (s := s) (u := s.dropL1 o.i.w.core)
    (State.issuing_warpAt hi) rfl (RegsKept.refl _) rfl len
  exact ⟨t, w, ht, hgoes, hregs, fun a => by rw [hmem, State.dropL1_mem], hwgs, State.l1Copy_of_dropL1 hcores⟩

theorem State.turnReady_iff (hi : s.issuing = some o.i) (p : Nat) : s.turnReady o.i.w.wg p = true ↔
    (p < o.i.gr.phase ∨ (p = o.i.gr.phase ∧ o.i.w.wg.wgid ≤ o.i.gr.turn)) ∧
      ¬ ∃ a : Access, .access a ∈ s.pending ∧ a.wg = o.i.w.wg ∧ a.commit = some p ∧ a.buffered = true := by
  have hheld : s.commitBuffered o.i.w.wg p = true ↔
      ∃ a : Access, .access a ∈ s.pending ∧ a.wg = o.i.w.wg ∧ a.commit = some p ∧ a.buffered = true := by
    unfold State.commitBuffered
    rw [List.any_eq_true]
    constructor
    · rintro ⟨q, hq, hc⟩
      cases q with
      | access a =>
        simp only [Bool.and_eq_true, decide_eq_true_eq] at hc
        obtain ⟨⟨hwg, hbuf⟩, hcommit⟩ := hc
        exact ⟨a, hq, hwg, hcommit, hbuf⟩
      | fence m => cases hc
    · rintro ⟨a, ha, hwg, hcommit, hbuf⟩
      exact ⟨_, ha, by simp [hwg, hcommit, hbuf]⟩
  rw [← hheld]
  simp only [State.turnReady, State.issuing_gridAt hi, Grid.turnBegun, Bool.and_eq_true, Bool.or_eq_true, decide_eq_true_eq,
    Bool.not_eq_true', ← Bool.not_eq_true, eq_comm (a := p)]

section
variable {g : Workgroup} {p id : Nat} {begun : Bool}

theorem Workgroup.endTurn_of_ended (h : (g.ends.find p).isSome = true) : g.endTurn p id begun = g := if_pos h

theorem Workgroup.endTurn_of_open (h : g.ends.find p = none) :
    g.endTurn p id begun = { g with ends := g.ends.put p id, endedIn := if begun then g.endedIn ++ [p] else g.endedIn } :=
  if_neg (by rw [h]; exact Bool.false_ne_true)

theorem Workgroup.endTurn_key : (g.endTurn p id begun).key = g.key := by
  unfold Workgroup.endTurn
  split <;> rfl

theorem Workgroup.endTurn_ends : ((g.endTurn p id begun).ends.find p).isSome = true := by
  cases h : g.ends.find p with
  | none => rw [Workgroup.endTurn_of_open h, SMap.find_put, if_pos rfl]; rfl
  | some u => rw [Workgroup.endTurn_of_ended (h ▸ rfl), h]; rfl

end

/-- TOKPASS ends the turn of the warp's phase, where it has not ended, and sends its threads on. -/
theorem Opnd.tokpass_complete (hi : s.issuing = some o.i) (len : Nat) :
    let begun := o.i.gr.turnBegun o.i.w.wg.wgid o.i.w.phase
    ∃ t w g, o.complete (s.updWg o.i.w.wg fun g => g.endTurn o.i.w.phase s.nextId begun) len none id = .next t ∧
      Goes s t o.i len o.f.lnd w ∧ RegsKept o.i w ∧ SameMemory s t ∧ t.wgAt o.i.w.wg = some g ∧
      (g.ends.find o.i.w.phase).isSome = true ∧
      (∀ u, o.i.wg.ends.find o.i.w.phase = some u → g.ends = o.i.wg.ends ∧ g.endedIn = o.i.wg.endedIn) ∧
      (o.i.wg.ends.find o.i.w.phase = none → begun = true → o.i.w.phase ∈ g.endedIn) := by
  intro begun
  have hwarp : (s.updWg o.i.w.wg fun g => g.endTurn o.i.w.phase s.nextId begun).warpAt o.i.w.key = some o.i.w :=
    State.issuing_warpAt (s := s) hi
  obtain ⟨t, w, ht, hgoes, hregs, -, hmem, hwgs, -⟩ := o.goes_complete (s := s) hwarp rfl (RegsKept.refl _) rfl len
  have hat := State.wgAt_updWg_same (f := fun g => g.endTurn o.i.w.phase s.nextId begun) (fun _ => Workgroup.endTurn_key)
    (State.issuing_wgAt hi)
  refine ⟨t, w, _, ht, hgoes, hregs, fun a => by rw [hmem, State.updWg_mem], (State.wgAt_congr hwgs _).trans hat,
    Workgroup.endTurn_ends, fun u hu => ?_, fun hnone hbegun => ?_⟩
  · rw [Workgroup.endTurn_of_ended (hu ▸ rfl)]
    exact ⟨rfl, rfl⟩
  · rw [Workgroup.endTurn_of_open hnone, if_pos hbegun]
    exact List.mem_append_right _ List.mem_cons_self

/-- PHASE counts up, and sends its threads on. -/
theorem Opnd.phase_complete (hi : s.issuing = some o.i) (len : Nat) : ∃ t w,
    o.complete ((s.updWarp o.i.w.key fun w => { w with phase := w.phase + 1 }).notePhases o.i.w.wg) len none id = .next t ∧
      Goes s t o.i len o.f.lnd w ∧ RegsKept o.i w ∧ SameMemory s t ∧ w.phase = o.i.w.phase + 1 := by
  have hcounted := State.warpAt_updWarp_issuing (f := fun w : Warp => { w with phase := w.phase + 1 }) hi fun _ => rfl
  have hat := (State.warpAt_congr (State.notePhases_warps (s.updWarp o.i.w.key fun w => { w with phase := w.phase + 1 }) o.i.w.wg)
    o.i.w.key).trans hcounted
  obtain ⟨w, hgoes, hregs, hphase⟩ := o.goes_afterUpd (s := s) (upd := id) hat rfl (RegsKept.refl _) (State.notePhases_flights ..)
    (fun w => ⟨w.relLanes, rfl⟩) len
  exact ⟨_, w, o.complete_eq .., hgoes, hregs, fun a => by rw [o.afterUpd_mem, State.notePhases_mem, State.updWarp_mem], hphase⟩

end

/-! ### The token leaves (R275, R276, R278) -/

section
variable {s : State} {k : GridKey} {g : Grid} (hg : s.gridAt k = some g)
include hg

theorem exec_tokenLeaves_refused (h : s.turnOver g = false) : exec (.tokenLeaves k) s = .refused (.notEnabled "TOKEN_LEAVES") := by
  rw [show exec (.tokenLeaves k) s = execTokenLeaves k s from rfl, execTokenLeaves, hg]
  simp [h]

/-- Where the turn at the token is over, the token goes on. -/
theorem exec_tokenLeaves (hdet : g.rec_.det = true) (hleft : g.retired.length ≠ g.rec_.gx * g.rec_.gy * g.rec_.gz)
    (h : s.turnOver g = true) : ∃ t g', exec (.tokenLeaves k) s = .next t ∧ t.gridAt k = some g' ∧ SameMemory s t ∧ t.wgs = s.wgs ∧
      t.warps = s.warps ∧ (g'.phase, g'.turn) =
        if g.turn + 1 = g.rec_.gx * g.rec_.gy * g.rec_.gz then (g.phase + 1, 0) else (g.phase, g.turn + 1) := by
  have hexec : exec (.tokenLeaves k) s = .next ((s.ordersOf (· = ⟨k.ctx, k.grid, g.turn⟩)).updGrid k fun g =>
      if g.turn + 1 = g.count then { g with phase := g.phase + 1, turn := 0 } else { g with turn := g.turn + 1 }) := by
    rw [show exec (.tokenLeaves k) s = execTokenLeaves k s from rfl, execTokenLeaves, hg]
    simp [hdet, h, Grid.count, hleft]
  refine ⟨_, _, hexec, State.gridAt_updGrid (fun x => by split <;> rfl) hg, fun _ => rfl, rfl, rfl, ?_⟩
  rw [show g.count = g.rec_.gx * g.rec_.gy * g.rec_.gz from rfl]
  split <;> rfl

end

section
variable {s : State} {g : Grid}

theorem State.turnOver_retired (hgone : s.wgAt ⟨g.key.ctx, g.key.grid, g.turn⟩ = none)
    (hdue : s.commitDue ⟨g.key.ctx, g.key.grid, g.turn⟩ g.phase = false)
    (h : ∃ r ∈ g.retired, r.1 = g.turn ∧
      let left := (g.gone.find? fun x => x.1 = g.turn).bind fun x => x.2.find g.phase
      (s.workOpen ⟨g.key.ctx, g.key.grid, g.turn⟩ g.phase left = false ∨ (r.2 ≠ .exit ∧ left = none))) : s.turnOver g = true := by
  obtain ⟨r, hr, hturn, hheld⟩ := h
  simp only [State.turnOver, hgone, hdue, Bool.not_false, Bool.true_and, List.any_eq_true]
  refine ⟨r, hr, ?_⟩
  rcases hheld with hopen | ⟨hhow, hleft⟩
  · simp [State.turnHeld, hturn, hopen]
  · simp [State.turnHeld, hturn, hhow, hleft]

variable {wg : Workgroup} (hwg : s.wgAt ⟨g.key.ctx, g.key.grid, g.turn⟩ = some wg)
include hwg

theorem State.turnOver_eq_false {u : Nat} (hu : wg.ends.find g.phase = some u)
    (hopen : s.workOpen ⟨g.key.ctx, g.key.grid, g.turn⟩ g.phase (some u) = true) : s.turnOver g = false := by
  simp [State.turnOver, hwg, hu, State.turnHeld, hopen]

variable (hdue : s.commitDue ⟨g.key.ctx, g.key.grid, g.turn⟩ g.phase = false)
include hdue

theorem State.turnOver_passed {u : Nat} (hu : wg.ends.find g.phase = some u)
    (hopen : s.workOpen ⟨g.key.ctx, g.key.grid, g.turn⟩ g.phase (some u) = false) : s.turnOver g = true := by
  simp [State.turnOver, hwg, hdue, hu, State.turnHeld, hopen]

theorem State.turnOver_abrupt (hu : wg.ends.find g.phase = none) (h : wg.ended = some .kill ∨ wg.ended = some .fault) :
    s.turnOver g = true := by
  rcases h with h | h <;> simp [State.turnOver, hwg, hdue, hu, State.turnHeld, h]

theorem State.turnOver_ended (hu : wg.ends.find g.phase = none) (hended : wg.ended.isSome = true)
    (hopen : s.workOpen ⟨g.key.ctx, g.key.grid, g.turn⟩ g.phase none = false)
    (hlater : ∃ a p, Pending.access a ∈ s.pending ∧ a.wg = ⟨g.key.ctx, g.key.grid, g.turn⟩ ∧ a.commit = some p ∧ g.phase < p) :
    s.turnOver g = true := by
  obtain ⟨a, p, ha, hk, hp, hlt⟩ := hlater
  have hcommits : s.laterCommits ⟨g.key.ctx, g.key.grid, g.turn⟩ g.phase = true :=
    List.any_eq_true.2 ⟨_, ha, by simp [hk, hp, hlt]⟩
  simp [State.turnOver, hwg, hdue, hu, State.turnHeld, hopen, hended, hcommits]

end

/-! ### What O45 states -/

/-- Settles O45: FENCE by the state in which it completes, a fence that is done by what settling makes of it, the token's instructions by
where the grid's turn and phase stand, TOKEN_LEAVES by what ends a turn. -/
theorem fencesAndCommitTokens : Obligations.fences_and_commit_tokens := by
  refine ⟨fun s f o h => ?_, fun s m hm hwaits hserved => ?_, fun f x hx s o h hdet => ?_, fun s f o h hdet => ?_, fun s f o h hdet => ?_,
    fun s f o h hdet => ?_, fun s k g hg hdet hleft => ?_⟩
  · obtain rfl := h.fields
    intro paths ord ctx waits mark
    obtain ⟨w, hgoes, hregs, hmem⟩ := Opnd.fenceLeaves_goes h.issues
    refine ⟨⟨_, w, exec_fence h, hgoes, hregs, hmem⟩, fun hserved => ?_⟩
    have hwaits : (o.fenceMark s).waits ≠ [] ↔ waits := Opnd.fenceMark_waits
    have hacts : (o.fenceMark s).waits = [] ↔ ¬ waits := by rw [← hwaits, not_not]
    have hcores := Opnd.fenceLeaves_cores hserved
    have hviews := Opnd.fenceLeaves_views hserved
    refine ⟨o.fenceLeaves s, _, w, exec_fence h, rfl, hgoes, hregs, State.eq_of_sansOrder (o.fenceLeaves_sansOrder s),
      fun hno => Opnd.fenceLeaves_caches hserved (hno.imp_right hwaits.2), Opnd.mem_spent_fenceLeaves hserved,
      fun h0 hdrop => hcores.trans (if_pos ⟨h0, hdrop.imp_right (And.imp_right hacts.2)⟩),
      fun hno => hcores.trans (if_neg fun hc => hno ⟨hc.1, hc.2.imp_right (And.imp_right hacts.1)⟩),
      Opnd.fenceLeaves_swaps hserved, fun hno => ?_,
      fun hno => hviews.trans (if_neg fun hf => hno (Opnd.fenceMark_freezes.1 hf)), fun hf => ⟨?_, fun j v hv => ?_⟩,
      fun hno => Opnd.fenceLeaves_pending_of_acts hserved (hacts.2 hno), fun hyes => ?_⟩
    · exact (Opnd.fenceLeaves_comms hserved).trans (if_neg fun hc => hno (Opnd.fenceSwapping_iff.1 hc))
    · rw [hviews, if_pos (Opnd.fenceMark_freezes.2 hf)]
      split <;> simp [State.claimViews]
    · obtain ⟨v', hv', hclaimed, hkept⟩ := Opnd.view_fenceLeaves hserved hf hv
      exact ⟨v', hv', fun b hnone hthawed hb hctx => (hclaimed b hnone hthawed hb hctx).imp (· ∘ hwaits.2) (· ∘ hacts.2), hkept⟩
    · rw [Opnd.fenceLeaves_of_waits (hwaits.2 hyes)]
      exact ⟨rfl, o.fenceMark s, rfl, rfl, rfl, rfl, rfl, rfl, rfl, fun _ => mem_fenceWaits⟩
  · have hfreezes : m.freezes = true ↔ m.scope = 6 ∧ 2 ≤ m.ord ∧ m.paths.getLsbD 4 = true := by
      simp only [FenceMark.freezes, Bool.and_eq_true, decide_eq_true_eq, and_assoc]
    obtain ⟨hgone, hmem, hwarps, hwgs, hbuffers, hempty, hfrozen⟩ := State.settle_of_fence hm hwaits fun hf =>
      hserved (hfreezes.1 hf).1 (hfreezes.1 hf).2.1 (hfreezes.1 hf).2.2
    refine ⟨hgone, hmem, hwarps, hwgs, fun h0 hacq => (hempty ⟨h0, hacq⟩).l1Copy, fun hscope hord hgl v hv hid hsome => ?_⟩
    refine hfrozen (hfreezes.2 ⟨hscope, hord, hgl⟩) v hv hid ?_
    rwa [State.sourceOf, hbuffers]
  · simp only [List.mem_cons, List.not_mem_nil, or_false] at hx
    rcases hx with rfl | rfl | rfl
    · rw [exec_tokwait h, hdet]; rfl
    · rw [exec_tokpass h, hdet]; rfl
    · rw [exec_phase h, hdet]; rfl
  · intro p goes begun held
    have hgoes : goes ↔ ∃ t w, exec (.tokwait f) s = .next t ∧ Goes s t o.i f.len f.lnd w ∧ RegsKept o.i w ∧ SameMemory s t ∧
      t.wgs = s.wgs ∧ ∀ key l, t.l1Copy o.i.w.core key l = none := Iff.rfl
    have hready : s.turnReady o.i.w.wg p = true ↔ begun ∧ ¬ held := State.turnReady_iff h.issues p
    rw [hgoes, exec_tokwait h, ← h.fields]
    simp only [hdet, Bool.not_true, Bool.false_eq_true, if_false]
    have hacquires := Opnd.acquires_complete h.issues o.f.len
    refine ⟨fun hb hp => ?_, fun hb hp => ?_, fun hb hend => ?_, fun hb hend hbegun hheld => ?_, fun hb hend hwaits => ?_⟩
    · rw [if_pos hb, if_pos hp]
      exact hacquires
    · rw [if_pos hb, if_neg (Nat.not_le.2 hp)]
      exact blocks_of_sansCaches h.issues rfl _
    · rw [hb, if_neg Bool.false_ne_true, if_pos hend]
    · rw [hb, hend, if_neg Bool.false_ne_true, if_neg Bool.false_ne_true, if_pos (hready.2 ⟨hbegun, hheld⟩)]
      exact hacquires
    · rw [hb, hend, if_neg Bool.false_ne_true, if_neg Bool.false_ne_true, if_neg fun hr => ?_]
      · exact blocks_of_sansCaches h.issues rfl _
      · obtain ⟨hbegun, hheld⟩ := hready.1 hr
        exact hwaits.elim (absurd hbegun) hheld
  · rw [exec_tokpass h, hdet, ← h.fields]
    exact Opnd.tokpass_complete h.issues o.f.len
  · rw [exec_phase h, hdet, ← h.fields]
    exact Opnd.phase_complete h.issues o.f.len
  · intro at_ left over_
    refine ⟨fun wg u hwg hu hopen => exec_tokenLeaves_refused hg (State.turnOver_eq_false hwg hu hopen), fun hover => ?_⟩
    refine exec_tokenLeaves hg hdet hleft ?_
    obtain ⟨hdue, ⟨hnone, hretired⟩ | ⟨wg, u, hwg, hu, hopen⟩ | ⟨wg, hwg, hu, hended⟩ | ⟨wg, hwg, hu, hended, hopen, hlater⟩⟩ := hover
    · exact State.turnOver_retired hnone hdue hretired
    · exact State.turnOver_passed hwg hdue hu hopen
    · exact State.turnOver_abrupt hwg hdue hu hended
    · exact State.turnOver_ended hwg hdue hu hended hopen hlater

end Sys2Proof.Machine
